-- ==== Sys2Proof/Word.lean ====
section
/-!
DEFINITION. The word types of the K4 (R3, R7) and the plainest arithmetic on them: sign extension,
truncation, and the byte split of little-endian values.
-/
namespace Sys2Proof

/-- A byte is 8 bits (R3). -/
abbrev Byte := BitVec 8
/-- A word of an instruction or of memory is 32 bits (R3). -/
abbrev Word32 := BitVec 32
/-- A dword is 64 bits (R3): every integer register. -/
abbrev Word := BitVec 64
/-- The bytes of one vector register: 2 KiB, byte 0 in bits [7:0] (R14, R16). -/
abbrev VBits := BitVec 16384
/-- The bits of one mask register (R14). -/
abbrev MBits := BitVec 2048
/-- A tile register (R19). -/
abbrev TileWord := BitVec 128

/-- A one-bit value. -/
def bitOf (b : Bool) : BitVec 1 := if b then 1#1 else 0#1

/-- A truth value as a 64-bit word: 1 or 0. -/
def wordOf (b : Bool) : Word := if b then 1#64 else 0#64

end Sys2Proof
end

