-- ==== Sys2Proof/Config.lean ====
section
/-!
DEFINITION. What the package fixes for good (R1, R4, R13, R36, R292, R356) and the values the spec
leaves open: each open value is an opaque constant applied to a counter of State or to the operands,
so that no proof can rest on a number.
-/
namespace Sys2Proof.Config

/-- Cores in the package (R4). -/
abbrev numCores : Nat := 3072
/-- Dies, sections of a die and cores of a section (R26 `CORE`). -/
abbrev numDies : Nat := 4
abbrev numSects : Nat := 48
abbrev coresPerSect : Nat := 16
/-- Parcel ids run from 0 to 39 (R329). -/
abbrev numParcels : Nat := 40
/-- The monitor's owner id and FREE (R329). -/
abbrev monitorId : Nat := 62
abbrev freeId : Nat := 63
/-- Harts (R256). -/
abbrev numHarts : Nat := 64
/-- Scratchpad bytes of a core (R293). -/
abbrev scratchSize : Nat := 262144
/-- L2 slices of a die (R296). -/
abbrev numSlices : Nat := 160

/-- A free 64-bit value, one for each reading of the counter (log 3). -/
opaque freeWord : Nat → Word
/-- A free choice between two alternatives (log 3). -/
opaque freeBool : Nat → Bool
/-- A free byte (log 3). -/
opaque freeByte : Nat → Byte
/-- The random source of the security core and the cryptographic results that the spec names and does
not define as bits: signature verification, digests, signatures (log 17). -/
opaque signatureOk : List Byte → List Byte → Bool
opaque digest : List Byte → BitVec 256
opaque sign : Nat → List Byte → List Byte
/-- The scale code of a block whose amax lies below every E8M0 code: R204 states none (log 18). -/
opaque scaleBelow : Int → Byte
/-- Interchange elements of a block with a NaN scale: R301 states none (log 18). -/
opaque nanBlockElem : Nat → Nat
/-- What a test of R8 reports for a counter value and a threshold more than 2^62 apart (log 55). -/
opaque reachedFar : Word → Word → Bool
/-- A byte of the view range outside every enabled window: R300 states none (log 18). -/
opaque noWindowByte : Nat → Byte
/-- The 7-bit estimates of a reciprocal (true) or reciprocal square root of the harts' vector unit, by width and operand,
and the flags they raise: R256 names the extension and the spec prints no table of them (log 14). -/
opaque hartEstimate : Bool → Nat → Nat → Word
opaque hartEstimateFlags : Bool → Nat → Nat → BitVec 5
/-- Where the root page table of a parcel lies: no rule names a register for it (log 11). -/
opaque parcelRoot : Nat → Nat
/-- Whether quotas lie within the monitor's fixed bounds (R403), which no rule gives (log 3). -/
opaque quotaOk : Nat → Bool
/-- The monitor's ROM and the device identity chain of slot 0, written at manufacture (R406). -/
opaque romCode : List Byte
opaque identityChain : List Byte
/-- Dvorfen's PCI vendor ID (R408): no rule gives the number. -/
opaque vendorId : BitVec 16
/-- Sensor readings of the package (R425). -/
opaque sensorValue : Nat → Word

end Sys2Proof.Config
end

