-- ==== Sys2Proof/Machine/Map.lean ====
section
/-!
DEFINITION. Sparse data by key: a list of key and value pairs with strictly rising keys, and the
register banks. Every piece of state that the package has many of is held this way.
-/
namespace Sys2Proof.Machine

/-- A sparse map, sorted by key. -/
abbrev Map (α : Type) := List (Nat × α)

/-- The value at a key, if listed. -/
def mget {α : Type} : Map α → Nat → Option α
  | [], _ => none
  | (k, v) :: m, a => if k = a then some v else mget m a

/-- The map with a key set. -/
def mset {α : Type} : Map α → Nat → α → Map α
  | [], a, x => [(a, x)]
  | (k, v) :: m, a, x =>
    if a < k then (a, x) :: (k, v) :: m
    else if a = k then (a, x) :: m
    else (k, v) :: mset m a x

/-- The map with a key removed. -/
def merase {α : Type} : Map α → Nat → Map α
  | [], _ => []
  | (k, v) :: m, a => if k = a then m else (k, v) :: merase m a

/-- The value at a key, or what an unlisted key holds. -/
def mgetD {α : Type} (m : Map α) (a : Nat) (d : α) : α := (mget m a).getD d

/-- Keys rise strictly. -/
def Map.sorted {α : Type} : Map α → Bool
  | [] => true
  | (k, _) :: m => (m.all fun p => k < p.1) && Map.sorted m

/-- A bank of `2^w` registers. -/
abbrev Bank (α : Type) (w : Nat) := Vector α (2 ^ w)

/-- A register of a bank. -/
def bget {α : Type} {w : Nat} (b : Bank α w) (i : BitVec w) : α := b[i.toNat]'i.isLt

/-- A bank with one register set. -/
def bset {α : Type} {w : Nat} (b : Bank α w) (i : BitVec w) (x : α) : Bank α w :=
  b.set i.toNat x i.isLt

/-- A bank with every register at one value. -/
def bfill {α : Type} (w : Nat) (x : α) : Bank α w := Vector.replicate (2 ^ w) x

end Sys2Proof.Machine
end

