-- ==== Sys2Proof/Syntax.lean ====
section
/-!
DEFINITION. The syntax: the ONE inductive `Instr` with a constructor for each row of the opcode
table. Encoded rows carry the fields of their format (R41 to R67, R236, R261); an event row carries
the message or the place it happens at. Meaning is in Machine/.
-/
namespace Sys2Proof

/-- The header of a Cuvos word (R41): wait flag, token flag and guard register number. -/
structure Hdr where
  w : Bool
  t : Bool
  g : BitVec 3
  deriving DecidableEq, Repr

/-- The header of a P- or S-format word, whose guard field is must-be-zero (R45). -/
structure HdrP where
  w : Bool
  t : Bool
  deriving DecidableEq, Repr

/-- The header of a P- or S-format word as a full header with no guard. -/
def HdrP.toHdr (h : HdrP) : Hdr := { w := h.w, t := h.t, g := 0 }

/-- What the sampler root matches contributions by (R232): descriptor address, position and pass,
within the parcel whose address space the descriptor lies in. -/
structure RunKey where
  parcel : Nat
  desc : Word
  pos : BitVec 32
  pass : Nat
  deriving DecidableEq, Repr

/-- The kind of a hart access of R259. -/
inductive HartAccessKind where
  | fetch | load | store | amo | cboZero | cboClean | cboFlush | cboInval
  deriving DecidableEq, Repr

/-- A hart access checked against the capabilities (R259): the elements' addresses, the size of an
element and the data a store writes. A scalar access has one element. -/
structure HartAccess where
  kind : HartAccessKind
  elems : List Word
  size : Nat
  data : List Word
  rd : BitVec 5
  deriving DecidableEq, Repr

/-- Where a strand or an engine waits for a ticket (R307, R391). -/
inductive HoldSite where
  /-- A strand rolled back and held in a resident slot. -/
  | resident (slot : Nat)
  /-- A stream held at its instruction; true is the execute stream. -/
  | stream (xs : Bool)
  /-- The copy engine holding its head command. -/
  | copy
  deriving DecidableEq, Repr

/-- An SRAM or DRAM place found in error by a scrub (R396). -/
inductive ScrubPlace where
  | scratchpad (core off : Nat)
  | physical (pa : Nat)
  /-- An entry of a counter home's SRAM: the home, as its key, and the index. -/
  | counterSram (home idx : Nat)
  deriving DecidableEq, Repr

/-- One error found by a scrub: where, whether it was correctable, and whether the granule is a
clean L2 granule (R396). -/
structure ScrubHit where
  place : ScrubPlace
  correctable : Bool
  cleanL2 : Bool
  deriving DecidableEq, Repr

/-- The resources whose owner register a monitor service sets (R400). -/
inductive OwnedRes where
  | vaultPart (sect q : Nat)
  | frame (pfn : Nat)
  /-- A hart, with the scope policy its owner assignment names, if any (R414). -/
  | hart (h : Nat) (policy : Option (BitVec 2))
  | function (f : Nat)
  deriving DecidableEq, Repr

/-- The grantee of a grant (R359). -/
inductive Grantee where
  | parcel (p : Nat)
  | connection (c : Nat)
  deriving DecidableEq, Repr

/-- A grant table entry (R359): handle, grantee and rights; `asked` says that the counter's owner
parcel has asked for it. -/
structure Grant where
  handle : Word
  who : Grantee
  add : Bool
  read : Bool
  wait : Bool
  asked : Bool
  deriving DecidableEq, Repr

/-- The quotas and shares of a parcel (R403 service 0x07, R304, R311, R353, R356, R362). `none` is no
quota set; `pools` gives the share of each waiter pool by the key of its home, 0 where none is listed. -/
structure Quotas where
  section_ : Option Nat
  device : Option Nat
  system : Option Nat
  launches : Option Nat
  futures : Option Nat
  pools : List (Nat × Nat)
  tiers : List Nat
  deriving DecidableEq, Repr

/-- A check table entry of a function (R413, R414). -/
structure CheckEntry where
  parcel : BitVec 6
  opMask : BitVec 8
  bar2 : Bool
  policy : BitVec 2
  deriving DecidableEq, Repr

/-- The four registers of a format window (R300). -/
structure FormatWindow where
  src : Word
  scl : Word
  view : Word
  ctl : Word
  deriving DecidableEq, Repr

/-- A fault-area configuration (R386, R391). -/
structure FaultAreaCfg where
  base : Word
  entries : Nat
  handle : Word
  repair : Bool
  repairHandle : Word
  deriving DecidableEq, Repr

/-- The parts of a service firmware image (R404). -/
structure FwImage where
  magic : BitVec 32
  svn : BitVec 32
  code : List (BitVec 8)
  digest : BitVec 256
  sig : List (BitVec 8)
  deriving DecidableEq, Repr

/-- The device rings of a parcel (R403 service 0x0C). -/
inductive DeviceRing where
  | pager | shootdown | overflow | lateReply
  deriving DecidableEq, Repr

/-- Base, entry count and counter handle of a device ring (R403). -/
structure RingCfg where
  base : Word
  entries : Nat
  handle : Word
  deriving DecidableEq, Repr

/-- A tool route (R419): connection and remote tool number. -/
structure ToolRoute where
  conn : Nat
  tool : BitVec 16
  deriving DecidableEq, Repr

/-- An exposed CXL.mem range (R417): whole frames of a parcel with R or R/W access. -/
structure CxlRange where
  base : Nat
  frames : Nat
  write : Bool
  parcel : Nat
  deriving DecidableEq, Repr

/-- A submission ring entry as read from host memory (R411). -/
structure RingEntry where
  opc : BitVec 8
  efl : BitVec 8
  zero2 : BitVec 16
  etag : BitVec 32
  arg0 : Word
  arg1 : Word
  arg2 : Word
  doneh : Word
  zero28 : Word
  zero38 : Word := 0
  deriving DecidableEq, Repr

/-- What a peer counter message asks for (R361). -/
inductive PeerOp where
  | add | read | wait
  deriving DecidableEq, Repr

/-- A peer counter message (R361). -/
structure PeerMsg where
  op : PeerOp
  handle : Word
  amount : Word
  req : BitVec 32
  deriving DecidableEq, Repr

/-- The PLDM sensors (R425). -/
inductive Sensor where
  | dieTemp (i : Nat)
  | hbmTemp (i : Nat)
  | power
  | linkState
  | cadstat
  | violcnt (parcel : Nat)
  | poiscnt (parcel : Nat)
  deriving DecidableEq, Repr

/-- The image a PLDM firmware update writes (R425). -/
inductive UpdateTarget where
  | service (img : FwImage)
  | controller (img : List (BitVec 8))
  deriving DecidableEq, Repr

/-- One constructor for each row of the opcode table. -/
inductive Instr where
  /-- Access-stream 64-bit wrapping add of two a registers (R105). -/
  | aAdd (h : Hdr) (d a b : BitVec 5)
  /-- Access-stream 64-bit wrapping subtract (R105). -/
  | aSub (h : Hdr) (d a b : BitVec 5)
  /-- Access-stream bitwise and (R105). -/
  | aAnd (h : Hdr) (d a b : BitVec 5)
  /-- Access-stream bitwise or (R105). -/
  | aOr (h : Hdr) (d a b : BitVec 5)
  /-- Access-stream bitwise exclusive or (R105). -/
  | aXor (h : Hdr) (d a b : BitVec 5)
  /-- Access-stream left shift by b[5:0] (R105). -/
  | aShl (h : Hdr) (d a b : BitVec 5)
  /-- Access-stream logical right shift (R105). -/
  | aShr (h : Hdr) (d a b : BitVec 5)
  /-- Access-stream arithmetic right shift (R105). -/
  | aSra (h : Hdr) (d a b : BitVec 5)
  /-- Access-stream low 64 bits of the product (R105). -/
  | aMul (h : Hdr) (d a b : BitVec 5)
  /-- Access-stream high 64 bits of the signed product (R105). -/
  | aMulh (h : Hdr) (d a b : BitVec 5)
  /-- Access-stream high 64 bits of the unsigned product (R105). -/
  | aMulhu (h : Hdr) (d a b : BitVec 5)
  /-- Access-stream signed minimum (R105). -/
  | aMin (h : Hdr) (d a b : BitVec 5)
  /-- Access-stream signed maximum (R105). -/
  | aMax (h : Hdr) (d a b : BitVec 5)
  /-- Access-stream unsigned minimum (R105). -/
  | aMinu (h : Hdr) (d a b : BitVec 5)
  /-- Access-stream unsigned maximum (R105). -/
  | aMaxu (h : Hdr) (d a b : BitVec 5)
  /-- Access-stream signed set-less-than (R105). -/
  | aSlt (h : Hdr) (d a b : BitVec 5)
  /-- Access-stream unsigned set-less-than (R105). -/
  | aSltu (h : Hdr) (d a b : BitVec 5)
  /-- Access-stream a and not b (R105). -/
  | aAndn (h : Hdr) (d a b : BitVec 5)
  /-- Access-stream a or not b (R105). -/
  | aOrn (h : Hdr) (d a b : BitVec 5)
  /-- Access-stream rotate left by b[5:0] (R105). -/
  | aRotl (h : Hdr) (d a b : BitVec 5)
  /-- Access-stream add of a sign-extended 11-bit immediate (R106). -/
  | aAddi (h : Hdr) (d a : BitVec 5) (im : BitVec 11)
  /-- Access-stream and with immediate (R106). -/
  | aAndi (h : Hdr) (d a : BitVec 5) (im : BitVec 11)
  /-- Access-stream or with immediate (R106). -/
  | aOri (h : Hdr) (d a : BitVec 5) (im : BitVec 11)
  /-- Access-stream xor with immediate (R106). -/
  | aXori (h : Hdr) (d a : BitVec 5) (im : BitVec 11)
  /-- Access-stream left shift by immediate (R106). -/
  | aShli (h : Hdr) (d a : BitVec 5) (sc : BitVec 6)
  /-- Access-stream logical right shift by immediate (R106). -/
  | aShri (h : Hdr) (d a : BitVec 5) (sc : BitVec 6)
  /-- Access-stream arithmetic right shift by immediate (R106). -/
  | aSrai (h : Hdr) (d a : BitVec 5) (sc : BitVec 6)
  /-- Access-stream signed compare with immediate (R106). -/
  | aSlti (h : Hdr) (d a : BitVec 5) (im : BitVec 11)
  /-- Access-stream load of a sign-extended 16-bit immediate (R107). -/
  | aLi (h : Hdr) (d : BitVec 5) (im : BitVec 16)
  /-- Access-stream shift left 16 and insert a 16-bit immediate (R107). -/
  | aLih (h : Hdr) (d : BitVec 5) (im : BitVec 16)
  /-- Sets a condition predicate from an integer comparison (R108). -/
  | cset (h : Hdr) (p k : BitVec 3) (a b : BitVec 5)
  /-- Condition predicate and (R109). -/
  | cand (h : Hdr) (d a b : BitVec 3)
  /-- Condition predicate or (R109). -/
  | cor (h : Hdr) (d a b : BitVec 3)
  /-- Condition predicate xor (R109). -/
  | cxor (h : Hdr) (d a b : BitVec 3)
  /-- Condition predicate not (R109). -/
  | cnot (h : Hdr) (d a : BitVec 3)
  /-- Condition predicate move (R109). -/
  | cmov (h : Hdr) (d a : BitVec 3)
  /-- Maps a global index through DIST to a remote-local tile address (R111). -/
  | gaddrRl (h : Hdr) (d a : BitVec 5)
  /-- Maps a global index to its owner core id (R111). -/
  | gaddrOwn (h : Hdr) (d a : BitVec 5)
  /-- Maps a global index to its local byte offset (R111). -/
  | gaddrOff (h : Hdr) (d a : BitVec 5)
  /-- Computes (a << sh) + b (R110). -/
  | idx2 (h : Hdr) (d a b : BitVec 5) (sc : BitVec 6)
  /-- Local scalar load into an a register (R113). -/
  | ldl (h : Hdr) (d a : BitVec 5) (z : BitVec 2) (u : BitVec 1) (off : BitVec 8)
  /-- Local scalar store from an a register (R113). -/
  | stl (h : Hdr) (d a : BitVec 5) (z : BitVec 2) (u : BitVec 1) (off : BitVec 8)
  /-- Local queue load reserving an LQ entry (R114). -/
  | ldq (h : Hdr) (ex : BitVec 1) (a : BitVec 5) (z : BitVec 2) (u : BitVec 1) (off : BitVec 8)
  /-- Local queue store of the popped SQ head (R114). -/
  | stq (h : Hdr) (a : BitVec 5) (z : BitVec 2) (u : BitVec 1) (off : BitVec 8)
  /-- Global scalar load through translation (R115). -/
  | ldg (h : Hdr) (d a : BitVec 5) (z : BitVec 2) (u : BitVec 1) (off : BitVec 8)
  /-- Global scalar store through translation (R115). -/
  | stg (h : Hdr) (d a : BitVec 5) (z : BitVec 2) (u : BitVec 1) (off : BitVec 8)
  /-- Global queue load reserving an LQ entry (R114). -/
  | ldgq (h : Hdr) (ex : BitVec 1) (a : BitVec 5) (z : BitVec 2) (u : BitVec 1) (off : BitVec 8)
  /-- Global queue store of the popped SQ head (R114). -/
  | stgq (h : Hdr) (a : BitVec 5) (z : BitVec 2) (u : BitVec 1) (off : BitVec 8)
  /-- Loads a tile region into a reserved VLQ entry (R117). -/
  | vld (h : Hdr) (tt : BitVec 4) (ex : BitVec 1)
  /-- Stores the popped VSQ head into a tile region (R117). -/
  | vst (h : Hdr) (tt : BitVec 4)
  /-- Hands a region-to-region copy to the copy engine (R131). -/
  | cpy (h : Hdr) (d sc : BitVec 4) (c : BitVec 5) (m : BitVec 2)
  /-- Hands an indexed gather copy to the copy engine (R132). -/
  | cpyg (h : Hdr) (d sc : BitVec 4) (c : BitVec 5) (m : BitVec 2)
  /-- Hands an indexed scatter copy to the copy engine (R132). -/
  | cpys (h : Hdr) (d sc : BitVec 4) (c : BitVec 5) (m : BitVec 2)
  /-- Hands a pattern fill to the copy engine (R133). -/
  | cpyf (h : Hdr) (d n : BitVec 4) (c : BitVec 5) (m : BitVec 2)
  /-- Hands a copy into a neighbour core's window to the copy engine (R134). -/
  | cpyn (h : Hdr) (d sc : BitVec 4) (c : BitVec 5) (r m : BitVec 2)
  /-- Atomic 32-bit add at the scope's executor (R138). -/
  | amoWAdd (h : Hdr) (d a b : BitVec 5) (sc : BitVec 2)
  /-- Atomic 32-bit signed minimum (R138). -/
  | amoWMin (h : Hdr) (d a b : BitVec 5) (sc : BitVec 2)
  /-- Atomic 32-bit signed maximum (R138). -/
  | amoWMax (h : Hdr) (d a b : BitVec 5) (sc : BitVec 2)
  /-- Atomic 32-bit unsigned minimum (R138). -/
  | amoWMinu (h : Hdr) (d a b : BitVec 5) (sc : BitVec 2)
  /-- Atomic 32-bit unsigned maximum (R138). -/
  | amoWMaxu (h : Hdr) (d a b : BitVec 5) (sc : BitVec 2)
  /-- Atomic 32-bit and (R138). -/
  | amoWAnd (h : Hdr) (d a b : BitVec 5) (sc : BitVec 2)
  /-- Atomic 32-bit or (R138). -/
  | amoWOr (h : Hdr) (d a b : BitVec 5) (sc : BitVec 2)
  /-- Atomic 32-bit xor (R138). -/
  | amoWXor (h : Hdr) (d a b : BitVec 5) (sc : BitVec 2)
  /-- Atomic 32-bit swap (R138). -/
  | amoWSwap (h : Hdr) (d a b : BitVec 5) (sc : BitVec 2)
  /-- Atomic 32-bit compare and swap (R138). -/
  | amoWCas (h : Hdr) (d a b : BitVec 5) (sc : BitVec 2)
  /-- Atomic 64-bit add (R138). -/
  | amoDAdd (h : Hdr) (d a b : BitVec 5) (sc : BitVec 2)
  /-- Atomic 64-bit signed minimum (R138). -/
  | amoDMin (h : Hdr) (d a b : BitVec 5) (sc : BitVec 2)
  /-- Atomic 64-bit signed maximum (R138). -/
  | amoDMax (h : Hdr) (d a b : BitVec 5) (sc : BitVec 2)
  /-- Atomic 64-bit unsigned minimum (R138). -/
  | amoDMinu (h : Hdr) (d a b : BitVec 5) (sc : BitVec 2)
  /-- Atomic 64-bit unsigned maximum (R138). -/
  | amoDMaxu (h : Hdr) (d a b : BitVec 5) (sc : BitVec 2)
  /-- Atomic 64-bit and (R138). -/
  | amoDAnd (h : Hdr) (d a b : BitVec 5) (sc : BitVec 2)
  /-- Atomic 64-bit or (R138). -/
  | amoDOr (h : Hdr) (d a b : BitVec 5) (sc : BitVec 2)
  /-- Atomic 64-bit xor (R138). -/
  | amoDXor (h : Hdr) (d a b : BitVec 5) (sc : BitVec 2)
  /-- Atomic 64-bit swap (R138). -/
  | amoDSwap (h : Hdr) (d a b : BitVec 5) (sc : BitVec 2)
  /-- Atomic 64-bit compare and swap (R138). -/
  | amoDCas (h : Hdr) (d a b : BitVec 5) (sc : BitVec 2)
  /-- Reduction adding 32 bits at the executor (R139). -/
  | redIaddW (h : Hdr) (a b : BitVec 5) (sc : BitVec 2)
  /-- Reduction adding 64 bits (R139). -/
  | redIaddD (h : Hdr) (a b : BitVec 5) (sc : BitVec 2)
  /-- Reduction FP32 add (R139). -/
  | redFaddF32 (h : Hdr) (a b : BitVec 5) (sc : BitVec 2)
  /-- Reduction add of two BF16 halves (R139). -/
  | redFaddBf16x2 (h : Hdr) (a b : BitVec 5) (sc : BitVec 2)
  /-- Reduction FP32 maximumNumber (R139). -/
  | redFmaxF32 (h : Hdr) (a b : BitVec 5) (sc : BitVec 2)
  /-- Reduction signed 32-bit maximum (R139). -/
  | redImaxW (h : Hdr) (a b : BitVec 5) (sc : BitVec 2)
  /-- Reduction signed 32-bit minimum (R139). -/
  | redIminW (h : Hdr) (a b : BitVec 5) (sc : BitVec 2)
  /-- Adds a register amount to a counter at its home and returns the old value (R142). -/
  | cadd (h : Hdr) (d a b : BitVec 5) (off : BitVec 2)
  /-- Adds a constant 1-32 to a counter and returns the old value (R142). -/
  | caddk (h : Hdr) (d a k : BitVec 5) (off : BitVec 2)
  /-- Reads a counter value (R143). -/
  | cread (h : Hdr) (d a : BitVec 5) (off : BitVec 2)
  /-- Sets a condition predicate from reached(value, threshold) (R143). -/
  | ctest (h : Hdr) (d : BitVec 3) (a b : BitVec 5) (off : BitVec 2)
  /-- Stalls the stream until a counter reaches a threshold (R144). -/
  | cwait (h : Hdr) (a b : BitVec 5) (off : BitVec 2)
  /-- Commit point that spins then suspends waiting on a counter (R145). -/
  | cwaitS (h : Hdr) (a b : BitVec 5) (off : BitVec 2)
  /-- Allocates a counter at a chosen home and returns its handle (R146). -/
  | calloc (h : Hdr) (d a : BitVec 5)
  /-- Frees a counter, bumping its generation and terminating its waiters (R147). -/
  | cfree (h : Hdr) (a : BitVec 5)
  /-- Arms a local counter with a threshold (R148). -/
  | carm (h : Hdr) (a b : BitVec 5)
  /-- Stalls until any masked local counter is ready (R148). -/
  | cwany (h : Hdr) (a : BitVec 5) (off : BitVec 2)
  /-- Stalls until every masked local counter is ready (R148). -/
  | cwall (h : Hdr) (a : BitVec 5) (off : BitVec 2)
  /-- Returns the lowest ready local counter of a mask (R148). -/
  | cfirst (h : Hdr) (d a : BitVec 5)
  /-- Acquire fence at a scope (R149). -/
  | fenceAcq (h : Hdr) (sc : BitVec 2)
  /-- Release fence at a scope (R149). -/
  | fenceRel (h : Hdr) (sc : BitVec 2)
  /-- Acquire-release fence at a scope (R149). -/
  | fenceAr (h : Hdr) (sc : BitVec 2)
  /-- Branch when equal (R120). -/
  | beq (h : Hdr) (a b : BitVec 5) (off : BitVec 11)
  /-- Branch when not equal (R120). -/
  | bne (h : Hdr) (a b : BitVec 5) (off : BitVec 11)
  /-- Branch when signed less (R120). -/
  | blt (h : Hdr) (a b : BitVec 5) (off : BitVec 11)
  /-- Branch when signed greater or equal (R120). -/
  | bge (h : Hdr) (a b : BitVec 5) (off : BitVec 11)
  /-- Branch when unsigned less (R120). -/
  | bltu (h : Hdr) (a b : BitVec 5) (off : BitVec 11)
  /-- Branch when unsigned greater or equal (R120). -/
  | bgeu (h : Hdr) (a b : BitVec 5) (off : BitVec 11)
  /-- Branch on a condition predicate xor n (R120). -/
  | bc (h : HdrP) (p : BitVec 3) (n : BitVec 1) (off : BitVec 17)
  /-- Pops BQA and branches on the bit xor n (R120). -/
  | aBq (h : HdrP) (n : BitVec 1) (off : BitVec 17)
  /-- Access-stream unconditional jump (R120). -/
  | aJ (h : Hdr) (off : BitVec 21)
  /-- Access-stream jump with link in a3 (R120). -/
  | aJal (h : Hdr) (off : BitVec 21)
  /-- Access-stream jump to register (R120). -/
  | aJr (h : Hdr) (a : BitVec 5)
  /-- Pushes a condition bit to BQX (R121). -/
  | aSendb (h : HdrP) (p : BitVec 3) (n ex : BitVec 1)
  /-- Access-stream counted loop (R123). -/
  | aLoop (h : Hdr) (a : BitVec 5) (len : BitVec 12)
  /-- Access-stream loop ending on an EOS popped from a queue (R123). -/
  | aLoops (h : Hdr) (ex : BitVec 4) (len : BitVec 12)
  /-- Loop counted by an extent of a shape record (R125). -/
  | loopr (h : Hdr) (a : BitVec 5) (f : BitVec 3) (len : BitVec 12)
  /-- Takes the next sub-tile from a section work queue (R127). -/
  | ftile (h : Hdr) (d : BitVec 5) (c : BitVec 3) (q : BitVec 2)
  /-- Suspending commit point leaving the strand SUSPENDED (R151). -/
  | suspS (h : Hdr)
  /-- Suspending commit point leaving the strand READY (R151). -/
  | yieldS (h : Hdr)
  /-- Commit point ending the strand and adding to the completion counter (R151). -/
  | exitS (h : Hdr)
  /-- Non-suspending commit point writing the record (R150). -/
  | commitS (h : Hdr)
  /-- Enqueues a READY record for dispatch (R152). -/
  | spawn (h : Hdr) (a : BitVec 5)
  /-- Access half of gang fusion of an aligned core block (R153). -/
  | aFuse (h : Hdr) (b : BitVec 5)
  /-- Access half of gang dissolution (R153). -/
  | aSplit (h : Hdr)
  /-- Access-stream CSR read (R154). -/
  | aCsrr (h : Hdr) (d : BitVec 5) (c : BitVec 9)
  /-- Access-stream CSR write returning the old value (R154). -/
  | aCsrw (h : Hdr) (d a : BitVec 5) (c : BitVec 9)
  /-- Access-stream CSR bit set (R154). -/
  | aCsrs (h : Hdr) (d a : BitVec 5) (c : BitVec 9)
  /-- Access-stream CSR bit clear (R154). -/
  | aCsrc (h : Hdr) (d a : BitVec 5) (c : BitVec 9)
  /-- Faults the strand with TRAP (R155). -/
  | aTrap (h : Hdr) (n : BitVec 16)
  /-- Breakpoint: TRAP, or a suspending commit point under DEBUG (R155). -/
  | aBkpt (h : Hdr) (n : BitVec 16)
  /-- Blocking host or service call posted to the strand's slot; a commit point (R156). -/
  | fcall (h : Hdr) (a b : BitVec 5)
  /-- Non-blocking call post returning its sequence number (R156). -/
  | fcallNb (h : Hdr) (d a b : BitVec 5)
  /-- Discards wholly covered global lines without writeback (R158). -/
  | dsc (h : Hdr) (sc : BitVec 4)
  /-- Requests prefetch of a region into L2 (R159). -/
  | pref (h : Hdr) (sc : BitVec 4)
  /-- Writes tile register bits [63:0] from an a register (R119). -/
  | aTdefLo (h : Hdr) (d : BitVec 4) (a : BitVec 5)
  /-- Writes tile register bits [127:64] (R119). -/
  | aTdefHi (h : Hdr) (d : BitVec 4) (a : BitVec 5)
  /-- Advances a tile register address (R119). -/
  | aTadv (h : Hdr) (d : BitVec 4) (a : BitVec 5)
  /-- Sets a tile register row count (R119). -/
  | aTrows (h : Hdr) (d : BitVec 4) (a : BitVec 5)
  /-- Execute-stream add (R163). -/
  | xAdd (h : Hdr) (d a b : BitVec 5)
  /-- Execute-stream subtract (R163). -/
  | xSub (h : Hdr) (d a b : BitVec 5)
  /-- Execute-stream and (R163). -/
  | xAnd (h : Hdr) (d a b : BitVec 5)
  /-- Execute-stream or (R163). -/
  | xOr (h : Hdr) (d a b : BitVec 5)
  /-- Execute-stream xor (R163). -/
  | xXor (h : Hdr) (d a b : BitVec 5)
  /-- Execute-stream shift left (R163). -/
  | xShl (h : Hdr) (d a b : BitVec 5)
  /-- Execute-stream logical shift right (R163). -/
  | xShr (h : Hdr) (d a b : BitVec 5)
  /-- Execute-stream arithmetic shift right (R163). -/
  | xSra (h : Hdr) (d a b : BitVec 5)
  /-- Execute-stream low multiply (R163). -/
  | xMul (h : Hdr) (d a b : BitVec 5)
  /-- Execute-stream signed high multiply (R163). -/
  | xMulh (h : Hdr) (d a b : BitVec 5)
  /-- Execute-stream unsigned high multiply (R163). -/
  | xMulhu (h : Hdr) (d a b : BitVec 5)
  /-- Execute-stream signed minimum (R163). -/
  | xMin (h : Hdr) (d a b : BitVec 5)
  /-- Execute-stream signed maximum (R163). -/
  | xMax (h : Hdr) (d a b : BitVec 5)
  /-- Execute-stream unsigned minimum (R163). -/
  | xMinu (h : Hdr) (d a b : BitVec 5)
  /-- Execute-stream unsigned maximum (R163). -/
  | xMaxu (h : Hdr) (d a b : BitVec 5)
  /-- Execute-stream signed set-less-than (R163). -/
  | xSlt (h : Hdr) (d a b : BitVec 5)
  /-- Execute-stream unsigned set-less-than (R163). -/
  | xSltu (h : Hdr) (d a b : BitVec 5)
  /-- Execute-stream and-not (R163). -/
  | xAndn (h : Hdr) (d a b : BitVec 5)
  /-- Execute-stream or-not (R163). -/
  | xOrn (h : Hdr) (d a b : BitVec 5)
  /-- Execute-stream rotate left (R163). -/
  | xRotl (h : Hdr) (d a b : BitVec 5)
  /-- Signed division truncated toward zero (R163). -/
  | xDiv (h : Hdr) (d a b : BitVec 5)
  /-- Unsigned division (R163). -/
  | xDivu (h : Hdr) (d a b : BitVec 5)
  /-- Signed remainder (R163). -/
  | xRem (h : Hdr) (d a b : BitVec 5)
  /-- Unsigned remainder (R163). -/
  | xRemu (h : Hdr) (d a b : BitVec 5)
  /-- Count of leading zero bits (R163). -/
  | xClz (h : Hdr) (d a : BitVec 5)
  /-- Count of one bits (R163). -/
  | xPopc (h : Hdr) (d a : BitVec 5)
  /-- Sign-extends the low 32 bits (R163). -/
  | xSextW (h : Hdr) (d a : BitVec 5)
  /-- Zero-extends the low 32 bits (R163). -/
  | xZextW (h : Hdr) (d a : BitVec 5)
  /-- Windowed add popping and pushing queues and ports together (R165). -/
  | wAdd (h : Hdr) (d a b : BitVec 5)
  /-- Windowed subtract (R165). -/
  | wSub (h : Hdr) (d a b : BitVec 5)
  /-- Windowed and (R165). -/
  | wAnd (h : Hdr) (d a b : BitVec 5)
  /-- Windowed or (R165). -/
  | wOr (h : Hdr) (d a b : BitVec 5)
  /-- Windowed xor (R165). -/
  | wXor (h : Hdr) (d a b : BitVec 5)
  /-- Windowed shift left (R165). -/
  | wShl (h : Hdr) (d a b : BitVec 5)
  /-- Windowed logical shift right (R165). -/
  | wShr (h : Hdr) (d a b : BitVec 5)
  /-- Windowed arithmetic shift right (R165). -/
  | wSra (h : Hdr) (d a b : BitVec 5)
  /-- Windowed low multiply (R165). -/
  | wMul (h : Hdr) (d a b : BitVec 5)
  /-- Windowed signed high multiply (R165). -/
  | wMulh (h : Hdr) (d a b : BitVec 5)
  /-- Windowed unsigned high multiply (R165). -/
  | wMulhu (h : Hdr) (d a b : BitVec 5)
  /-- Windowed signed minimum (R165). -/
  | wMin (h : Hdr) (d a b : BitVec 5)
  /-- Windowed signed maximum (R165). -/
  | wMax (h : Hdr) (d a b : BitVec 5)
  /-- Windowed unsigned minimum (R165). -/
  | wMinu (h : Hdr) (d a b : BitVec 5)
  /-- Windowed unsigned maximum (R165). -/
  | wMaxu (h : Hdr) (d a b : BitVec 5)
  /-- Windowed signed set-less-than (R165). -/
  | wSlt (h : Hdr) (d a b : BitVec 5)
  /-- Windowed unsigned set-less-than (R165). -/
  | wSltu (h : Hdr) (d a b : BitVec 5)
  /-- Windowed and-not (R165). -/
  | wAndn (h : Hdr) (d a b : BitVec 5)
  /-- Windowed or-not (R165). -/
  | wOrn (h : Hdr) (d a b : BitVec 5)
  /-- Windowed rotate left (R165). -/
  | wRotl (h : Hdr) (d a b : BitVec 5)
  /-- Windowed signed division (R165). -/
  | wDiv (h : Hdr) (d a b : BitVec 5)
  /-- Windowed unsigned division (R165). -/
  | wDivu (h : Hdr) (d a b : BitVec 5)
  /-- Windowed signed remainder (R165). -/
  | wRem (h : Hdr) (d a b : BitVec 5)
  /-- Windowed unsigned remainder (R165). -/
  | wRemu (h : Hdr) (d a b : BitVec 5)
  /-- Windowed leading-zero count (R165). -/
  | wClz (h : Hdr) (d a : BitVec 5)
  /-- Windowed population count (R165). -/
  | wPopc (h : Hdr) (d a : BitVec 5)
  /-- Windowed sign extension of 32 bits (R165). -/
  | wSextW (h : Hdr) (d a : BitVec 5)
  /-- Windowed zero extension of 32 bits (R165). -/
  | wZextW (h : Hdr) (d a : BitVec 5)
  /-- Execute-stream add immediate (R164). -/
  | xAddi (h : Hdr) (d a : BitVec 5) (im : BitVec 11)
  /-- Execute-stream and immediate (R164). -/
  | xAndi (h : Hdr) (d a : BitVec 5) (im : BitVec 11)
  /-- Execute-stream or immediate (R164). -/
  | xOri (h : Hdr) (d a : BitVec 5) (im : BitVec 11)
  /-- Execute-stream xor immediate (R164). -/
  | xXori (h : Hdr) (d a : BitVec 5) (im : BitVec 11)
  /-- Execute-stream shift left immediate (R164). -/
  | xShli (h : Hdr) (d a : BitVec 5) (sc : BitVec 6)
  /-- Execute-stream logical shift right immediate (R164). -/
  | xShri (h : Hdr) (d a : BitVec 5) (sc : BitVec 6)
  /-- Execute-stream arithmetic shift right immediate (R164). -/
  | xSrai (h : Hdr) (d a : BitVec 5) (sc : BitVec 6)
  /-- Execute-stream signed compare immediate (R164). -/
  | xSlti (h : Hdr) (d a : BitVec 5) (im : BitVec 11)
  /-- Execute-stream load immediate (R164). -/
  | xLi (h : Hdr) (d : BitVec 5) (im : BitVec 16)
  /-- Execute-stream load immediate high (R164). -/
  | xLih (h : Hdr) (d : BitVec 5) (im : BitVec 16)
  /-- Scalar FP32 add (R168). -/
  | fadd (h : Hdr) (d a b : BitVec 5)
  /-- Scalar FP32 subtract (R168). -/
  | fsub (h : Hdr) (d a b : BitVec 5)
  /-- Scalar FP32 multiply (R168). -/
  | fmul (h : Hdr) (d a b : BitVec 5)
  /-- Scalar FP32 divide (R168). -/
  | fdiv (h : Hdr) (d a b : BitVec 5)
  /-- Scalar FP32 minimumNumber (R168). -/
  | fmin (h : Hdr) (d a b : BitVec 5)
  /-- Scalar FP32 maximumNumber (R168). -/
  | fmax (h : Hdr) (d a b : BitVec 5)
  /-- Scalar FP32 square root (R168). -/
  | fsqrt (h : Hdr) (d a : BitVec 5)
  /-- Scalar FP32 reciprocal (R168). -/
  | frcp (h : Hdr) (d a : BitVec 5)
  /-- Scalar FP32 reciprocal square root (R168). -/
  | frsq (h : Hdr) (d a : BitVec 5)
  /-- Clears the FP32 sign bit (R168). -/
  | fabs (h : Hdr) (d a : BitVec 5)
  /-- Inverts the FP32 sign bit (R168). -/
  | fneg (h : Hdr) (d a : BitVec 5)
  /-- Takes the sign of b onto a (R168). -/
  | fsgnj (h : Hdr) (d a b : BitVec 5)
  /-- Writes the one-hot class mask of an FP32 value (R169). -/
  | fclass (h : Hdr) (d a : BitVec 5)
  /-- Fused a*b+d (R170). -/
  | ffma (h : Hdr) (d a b : BitVec 5)
  /-- Fused a*b-d (R170). -/
  | ffms (h : Hdr) (d a b : BitVec 5)
  /-- Fused -(a*b)+d (R170). -/
  | fnfma (h : Hdr) (d a b : BitVec 5)
  /-- Fused -(a*b)-d (R170). -/
  | fnfms (h : Hdr) (d a b : BitVec 5)
  /-- Sets a p register from an FP32 comparison (R171). -/
  | fcmp (h : Hdr) (p k : BitVec 3) (a b : BitVec 5)
  /-- Converts s64 to FP32 (R172). -/
  | fcvtF32S64 (h : Hdr) (d a : BitVec 5) (r : BitVec 2)
  /-- Converts u64 to FP32 (R172). -/
  | fcvtF32U64 (h : Hdr) (d a : BitVec 5) (r : BitVec 2)
  /-- Converts FP32 to saturated s64 (R172). -/
  | fcvtS64F32 (h : Hdr) (d a : BitVec 5) (r : BitVec 2)
  /-- Converts FP32 to saturated u64 (R172). -/
  | fcvtU64F32 (h : Hdr) (d a : BitVec 5) (r : BitVec 2)
  /-- Narrows FP32 to BF16 (R172). -/
  | fcvtBf16F32 (h : Hdr) (d a : BitVec 5) (r : BitVec 2)
  /-- Widens BF16 to FP32 (R172). -/
  | fcvtF32Bf16 (h : Hdr) (d a : BitVec 5) (r : BitVec 2)
  /-- Narrows FP32 to FP16 (R172). -/
  | fcvtF16F32 (h : Hdr) (d a : BitVec 5) (r : BitVec 2)
  /-- Widens FP16 to FP32 (R172). -/
  | fcvtF32F16 (h : Hdr) (d a : BitVec 5) (r : BitVec 2)
  /-- Narrows FP32 to E4M3 (R172). -/
  | fcvtE4m3F32 (h : Hdr) (d a : BitVec 5) (r : BitVec 2)
  /-- Narrows FP32 to E5M2 (R172). -/
  | fcvtE5m2F32 (h : Hdr) (d a : BitVec 5) (r : BitVec 2)
  /-- Widens E4M3 to FP32 (R172). -/
  | fcvtF32E4m3 (h : Hdr) (d a : BitVec 5) (r : BitVec 2)
  /-- Widens E5M2 to FP32 (R172). -/
  | fcvtF32E5m2 (h : Hdr) (d a : BitVec 5) (r : BitVec 2)
  /-- Sets a p register from an integer comparison (R174). -/
  | pset (h : Hdr) (p k : BitVec 3) (a b : BitVec 5)
  /-- Predicate and (R175). -/
  | pand (h : Hdr) (d a b : BitVec 3)
  /-- Predicate or (R175). -/
  | por (h : Hdr) (d a b : BitVec 3)
  /-- Predicate xor (R175). -/
  | pxor (h : Hdr) (d a b : BitVec 3)
  /-- Predicate and-not (R175). -/
  | pandn (h : Hdr) (d a b : BitVec 3)
  /-- Predicate not (R175). -/
  | pnot (h : Hdr) (d a : BitVec 3)
  /-- Predicate move (R175). -/
  | pmov (h : Hdr) (d a : BitVec 3)
  /-- Packs p0-p7 into an s register byte (R175). -/
  | ppack (h : Hdr) (d : BitVec 5)
  /-- Unpacks bits 1-7 of an s register into p1-p7 (R175). -/
  | punpk (h : Hdr) (a : BitVec 5)
  /-- Reads the LQ head without popping (R167). -/
  | peek (h : Hdr) (d : BitVec 5)
  /-- Pushes a value to SQ with EOS (R167). -/
  | pushe (h : Hdr) (a : BitVec 5)
  /-- Reads a port inbox head without popping (R167). -/
  | ppeek (h : Hdr) (d n : BitVec 5)
  /-- Selects a or b by a p register (R176). -/
  | sel (h : Hdr) (d a b : BitVec 5) (p : BitVec 3)
  /-- Adds a packed (M, E) arrival to a running pair by aln_add (R173). -/
  | xaln (h : Hdr) (d a : BitVec 5)
  /-- Frame load between SLIM and LSIZE (R177). -/
  | ldf (h : Hdr) (d a : BitVec 5) (z : BitVec 2) (u : BitVec 1) (off : BitVec 8)
  /-- Frame store between SLIM and LSIZE (R177). -/
  | stf (h : Hdr) (d a : BitVec 5) (z : BitVec 2) (u : BitVec 1) (off : BitVec 8)
  /-- Branch on a p register xor n (R180). -/
  | bp (h : HdrP) (p : BitVec 3) (n : BitVec 1) (off : BitVec 17)
  /-- Pops BQX and branches on the bit xor n (R180). -/
  | xBq (h : HdrP) (n : BitVec 1) (off : BitVec 17)
  /-- Branches on a queue, port, edge or token status (R180). -/
  | bst (h : HdrP) (sc : BitVec 4) (n : BitVec 1) (off : BitVec 16)
  /-- Execute-stream jump (R180). -/
  | xJ (h : Hdr) (off : BitVec 21)
  /-- Execute-stream jump with link in s1 (R180). -/
  | xJal (h : Hdr) (off : BitVec 21)
  /-- Execute-stream jump to register (R180). -/
  | xJr (h : Hdr) (a : BitVec 5)
  /-- Pushes a predicate bit to BQA (R181). -/
  | xSendb (h : HdrP) (p : BitVec 3) (n ex : BitVec 1)
  /-- Execute-stream counted loop (R182). -/
  | xLoop (h : Hdr) (a : BitVec 5) (len : BitVec 12)
  /-- Execute-stream loop ending on a popped EOS (R182). -/
  | xLoops (h : Hdr) (ex : BitVec 4) (len : BitVec 12)
  /-- Software-pipelined loop driving stage predicates and rotation (R183). -/
  | loopv (h : Hdr) (a : BitVec 5) (sc : BitVec 4) (len : BitVec 12)
  /-- Allocates a frame by lowering s2, faulting STACK below SLIM (R179). -/
  | enter (h : Hdr) (n : BitVec 12)
  /-- Frees a frame by raising s2 (R179). -/
  | leave (h : Hdr) (n : BitVec 12)
  /-- Execute half of a commit point rendezvous (R185). -/
  | xcmt (h : Hdr)
  /-- Execute half of gang fusion (R185). -/
  | xFuse (h : Hdr) (b : BitVec 5)
  /-- Execute half of gang dissolution (R185). -/
  | xSplit (h : Hdr)
  /-- Reads the gang member index (R185). -/
  | gidx (h : Hdr) (d : BitVec 5)
  /-- Reads the gang size (R185). -/
  | gsize (h : Hdr) (d : BitVec 5)
  /-- Execute-stream CSR read (R187). -/
  | xCsrr (h : Hdr) (d : BitVec 5) (c : BitVec 9)
  /-- Execute-stream CSR write (R187). -/
  | xCsrw (h : Hdr) (d a : BitVec 5) (c : BitVec 9)
  /-- Execute-stream CSR set (R187). -/
  | xCsrs (h : Hdr) (d a : BitVec 5) (c : BitVec 9)
  /-- Execute-stream CSR clear (R187). -/
  | xCsrc (h : Hdr) (d a : BitVec 5) (c : BitVec 9)
  /-- Execute-stream trap (R187). -/
  | xTrap (h : Hdr) (n : BitVec 16)
  /-- Execute-stream breakpoint, always a TRAP fault (R185). -/
  | xBkpt (h : Hdr) (n : BitVec 16)
  /-- Writes tile bits [63:0] from an s register (R187). -/
  | xTdefLo (h : Hdr) (d : BitVec 4) (a : BitVec 5)
  /-- Writes tile bits [127:64] from an s register (R187). -/
  | xTdefHi (h : Hdr) (d : BitVec 4) (a : BitVec 5)
  /-- Advances a tile address from an s register (R187). -/
  | xTadv (h : Hdr) (d : BitVec 4) (a : BitVec 5)
  /-- Sets tile rows from an s register (R187). -/
  | xTrows (h : Hdr) (d : BitVec 4) (a : BitVec 5)
  /-- Writes VSHAPE at issue (R194). -/
  | vshape (h : Hdr) (a : BitVec 5)
  /-- Reads VSHAPE (R194). -/
  | vgetsh (h : Hdr) (d : BitVec 5)
  /-- Writes VCNT (R194). -/
  | setvc (h : Hdr) (a : BitVec 5)
  /-- Pops a whole VLQ entry into a vector register (R195). -/
  | vpop (h : Hdr) (d : BitVec 5)
  /-- Pushes a vector register to VSQ (R195). -/
  | vpush (h : Hdr) (a : BitVec 5)
  /-- Pushes a vector register to VSQ with EOS (R195). -/
  | vpushEos (h : Hdr) (a : BitVec 5)
  /-- Elementwise FP add (R196). -/
  | vfadd (h : Hdr) (d a b : BitVec 5) (x : BitVec 1)
  /-- Elementwise FP subtract (R196). -/
  | vfsub (h : Hdr) (d a b : BitVec 5) (x : BitVec 1)
  /-- Elementwise FP multiply (R196). -/
  | vfmul (h : Hdr) (d a b : BitVec 5) (x : BitVec 1)
  /-- Elementwise FP divide (R196). -/
  | vfdiv (h : Hdr) (d a b : BitVec 5) (x : BitVec 1)
  /-- Elementwise minimumNumber (R196). -/
  | vfmin (h : Hdr) (d a b : BitVec 5) (x : BitVec 1)
  /-- Elementwise maximumNumber (R196). -/
  | vfmax (h : Hdr) (d a b : BitVec 5) (x : BitVec 1)
  /-- Elementwise sign clear after input flush (R196). -/
  | vfabs (h : Hdr) (d a : BitVec 5)
  /-- Elementwise sign invert after input flush (R196). -/
  | vfneg (h : Hdr) (d a : BitVec 5)
  /-- Elementwise square root (R196). -/
  | vfsqrt (h : Hdr) (d a : BitVec 5)
  /-- Elementwise reciprocal (R196). -/
  | vfrcp (h : Hdr) (d a : BitVec 5)
  /-- Elementwise reciprocal square root (R196). -/
  | vfrsq (h : Hdr) (d a : BitVec 5)
  /-- Elementwise exp2t (R196). -/
  | vexp2 (h : Hdr) (d a : BitVec 5)
  /-- Elementwise log2t (R196). -/
  | vlog2 (h : Hdr) (d a : BitVec 5)
  /-- Elementwise tanht (R196). -/
  | vtanh (h : Hdr) (d a : BitVec 5)
  /-- Elementwise fused a*b+d (R197). -/
  | vffma (h : Hdr) (d a b : BitVec 5) (x : BitVec 1)
  /-- Elementwise fused a*b-d (R197). -/
  | vffms (h : Hdr) (d a b : BitVec 5) (x : BitVec 1)
  /-- Elementwise fused -(a*b)+d (R197). -/
  | vfnfma (h : Hdr) (d a b : BitVec 5) (x : BitVec 1)
  /-- Elementwise fused -(a*b)-d (R197). -/
  | vfnfms (h : Hdr) (d a b : BitVec 5) (x : BitVec 1)
  /-- Copies raw element bits at active positions (R198). -/
  | vmov (h : Hdr) (d a : BitVec 5)
  /-- Broadcasts an s register to active positions (R198). -/
  | vbcast (h : Hdr) (d a : BitVec 5)
  /-- Extracts one element into an s register (R198). -/
  | vext (h : Hdr) (d a b : BitVec 5)
  /-- Inserts an s register value at one element (R198). -/
  | vins (h : Hdr) (d a b : BitVec 5)
  /-- Elementwise integer add (R199). -/
  | viadd (h : Hdr) (d a b : BitVec 5) (x : BitVec 1)
  /-- Elementwise integer subtract (R199). -/
  | visub (h : Hdr) (d a b : BitVec 5) (x : BitVec 1)
  /-- Elementwise integer multiply (R199). -/
  | vimul (h : Hdr) (d a b : BitVec 5) (x : BitVec 1)
  /-- Elementwise signed minimum (R199). -/
  | vimin (h : Hdr) (d a b : BitVec 5) (x : BitVec 1)
  /-- Elementwise signed maximum (R199). -/
  | vimax (h : Hdr) (d a b : BitVec 5) (x : BitVec 1)
  /-- Elementwise and (R199). -/
  | viand (h : Hdr) (d a b : BitVec 5) (x : BitVec 1)
  /-- Elementwise or (R199). -/
  | vior (h : Hdr) (d a b : BitVec 5) (x : BitVec 1)
  /-- Elementwise xor (R199). -/
  | vixor (h : Hdr) (d a b : BitVec 5) (x : BitVec 1)
  /-- Elementwise shift left (R199). -/
  | vishl (h : Hdr) (d a b : BitVec 5) (x : BitVec 1)
  /-- Elementwise logical shift right (R199). -/
  | vishr (h : Hdr) (d a b : BitVec 5) (x : BitVec 1)
  /-- Elementwise arithmetic shift right (R199). -/
  | visra (h : Hdr) (d a b : BitVec 5) (x : BitVec 1)
  /-- Elementwise saturating add (R199). -/
  | viadds (h : Hdr) (d a b : BitVec 5) (x : BitVec 1)
  /-- Elementwise saturating subtract (R199). -/
  | visubs (h : Hdr) (d a b : BitVec 5) (x : BitVec 1)
  /-- Writes mask bits from elementwise FP comparison (R200). -/
  | vfcmp (h : Hdr) (d : BitVec 3) (a b : BitVec 5) (x : BitVec 1) (k : BitVec 3)
  /-- Writes mask bits from elementwise integer comparison (R200). -/
  | vicmp (h : Hdr) (d : BitVec 3) (a b : BitVec 5) (x : BitVec 1) (k : BitVec 3)
  /-- Converts every element to a target kind, optionally updating amax (R202). -/
  | vcvt (h : Hdr) (d a b : BitVec 5) (r : BitVec 2) (kt : BitVec 4)
  /-- Computes E8M0 block scales per 32 columns (R204). -/
  | vbscale (h : Hdr) (d a : BitVec 5)
  /-- Quantises elements to n-plane integers under scales (R205). -/
  | vquant (h : Hdr) (d a b : BitVec 5)
  /-- Dequantises I8 elements to FP32 under scales (R206). -/
  | vdeq (h : Hdr) (d a b : BitVec 5)
  /-- Packs I8 elements into bit-plane rows (R207). -/
  | vpackp (h : Hdr) (d a b : BitVec 5)
  /-- Unpacks k planes to midpoint-reconstructed I8 (R207). -/
  | vunpkp (h : Hdr) (d a b : BitVec 5)
  /-- Row sum by the pairwise tree (R208). -/
  | vrsum (h : Hdr) (d a : BitVec 5)
  /-- Row maximum (R208). -/
  | vrmax (h : Hdr) (d a : BitVec 5)
  /-- Row minimum (R208). -/
  | vrmin (h : Hdr) (d a : BitVec 5)
  /-- Row argmax (R208). -/
  | vrargmax (h : Hdr) (d a : BitVec 5)
  /-- Column sum (R208). -/
  | vcsum (h : Hdr) (d a : BitVec 5)
  /-- Column maximum (R208). -/
  | vcmax (h : Hdr) (d a : BitVec 5)
  /-- Column minimum (R208). -/
  | vcmin (h : Hdr) (d a : BitVec 5)
  /-- Column argmax (R208). -/
  | vcargmax (h : Hdr) (d a : BitVec 5)
  /-- Permutes rows by a u16 index register (R209). -/
  | vperm (h : Hdr) (d a b : BitVec 5)
  /-- Gathers elements by u16 indices (R209). -/
  | vgath (h : Hdr) (d a b : BitVec 5)
  /-- Rotates each row by a scalar amount (R209). -/
  | vrot (h : Hdr) (d a b : BitVec 5)
  /-- Transposes element layout (R209). -/
  | vtrn (h : Hdr) (d a : BitVec 5)
  /-- Mask and (R201). -/
  | mand (h : Hdr) (d a b : BitVec 3)
  /-- Mask or (R201). -/
  | mor (h : Hdr) (d a b : BitVec 3)
  /-- Mask xor (R201). -/
  | mxor (h : Hdr) (d a b : BitVec 3)
  /-- Mask and-not (R201). -/
  | mandn (h : Hdr) (d a b : BitVec 3)
  /-- Mask not (R201). -/
  | mnot (h : Hdr) (d a : BitVec 3)
  /-- Mask move (R201). -/
  | mmov (h : Hdr) (d a : BitVec 3)
  /-- Counts active set mask bits (R201). -/
  | mpopc (h : Hdr) (d : BitVec 5) (a : BitVec 3)
  /-- Finds the lowest active set mask bit (R201). -/
  | mfirst (h : Hdr) (d : BitVec 5) (a : BitVec 3)
  /-- A queued vector instruction finishes its results and flags and posts its token (R192). -/
  | vectorCommandComplete (core : Nat)
  /-- Queues an unscaled bit-plane matrix product (R215). -/
  | mmul (h : Hdr) (c : BitVec 2) (a b : BitVec 4) (p q : BitVec 3)
  /-- Queues a block-scaled bit-plane matrix product (R215). -/
  | mmulBs (h : Hdr) (c : BitVec 2) (a b : BitVec 4) (p q : BitVec 3)
  /-- Queues a transpose by an identity product (R218). -/
  | mtrans (h : Hdr) (c : BitVec 2) (a : BitVec 4) (p : BitVec 3)
  /-- Queues a row permutation product (R219). -/
  | mperm (h : Hdr) (c : BitVec 2) (a b : BitVec 4) (p : BitVec 3)
  /-- Queues row sums of an A operand (R218). -/
  | mrsum (h : Hdr) (c : BitVec 2) (a : BitVec 4) (p : BitVec 3)
  /-- Queues column sums of a B operand (R218). -/
  | mcsum (h : Hdr) (c : BitVec 2) (a : BitVec 4) (p : BitVec 3)
  /-- Queues clearing of an accumulator (R220). -/
  | mclr (h : Hdr) (c : BitVec 2)
  /-- Queues an accumulator store as FP32 (R221). -/
  | mstF32 (h : Hdr) (c : BitVec 2) (a : BitVec 4)
  /-- Queues an accumulator store as BF16 (R221). -/
  | mstBf16 (h : Hdr) (c : BitVec 2) (a : BitVec 4)
  /-- Queues an accumulator store as I32 (R221). -/
  | mstI32 (h : Hdr) (c : BitVec 2) (a : BitVec 4)
  /-- Queues an accumulator store as packed pairs (R221). -/
  | mstMe (h : Hdr) (c : BitVec 2) (a : BitVec 4)
  /-- Queues a load of packed pairs into an accumulator (R221). -/
  | mld (h : Hdr) (c : BitVec 2) (a : BitVec 4)
  /-- Queues aligned accumulation of packed pairs into an accumulator (R221). -/
  | mxaln (h : Hdr) (c : BitVec 2) (a : BitVec 4)
  /-- The matrix unit executes an accepted command on its array or port and puts the result in place (R212). -/
  | matrixCommandExecute (core : Nat)
  /-- Registers a sampler descriptor and slice record in a slot (R231). -/
  | sreg (h : Hdr) (d a b : BitVec 5)
  /-- Replaces a slot's draft set from a draft record (R234). -/
  | sqdraft (h : Hdr) (a b : BitVec 5)
  /-- Queues a logit program run on the slot's slice (R232). -/
  | srun (h : Hdr) (a b : BitVec 5)
  /-- Records a committed token in the count slice and optionally releases the slot (R233). -/
  | scommit (h : Hdr) (a b : BitVec 5)
  /-- The sequencer starts an accepted run at word 0 with its initial state (R235). -/
  | samplerRunStart (core : Nat)
  /-- Copies a g register (R237). -/
  | lmov (d a : BitVec 4)
  /-- Loads a constant pool entry (R237). -/
  | lkc (d im : BitVec 4)
  /-- Scalar FP32 add (R237). -/
  | ladd (d a b : BitVec 4)
  /-- Scalar FP32 subtract (R237). -/
  | lsub (d a b : BitVec 4)
  /-- Scalar FP32 multiply (R237). -/
  | lmul (d a b : BitVec 4)
  /-- Scalar minimumNumber (R237). -/
  | lmin (d a b : BitVec 4)
  /-- Scalar maximumNumber (R237). -/
  | lmax (d a b : BitVec 4)
  /-- Multiplies a slice vector by a scalar (R237). -/
  | lscale (d a : BitVec 2) (b : BitVec 4)
  /-- Adds a scalar to a slice vector (R237). -/
  | lshift (d a : BitVec 2) (b : BitVec 4)
  /-- Divides a slice vector by a temperature (R237). -/
  | ltemp (d a : BitVec 2) (b : BitVec 4)
  /-- Soft-caps a slice vector with tanht (R237). -/
  | lcap (d a : BitVec 2) (b : BitVec 4)
  /-- Adds the bias list entries to a slice vector (R237). -/
  | lbias (d a : BitVec 2)
  /-- Applies a repetition penalty by counts (R237). -/
  | lrep (d a : BitVec 2) (b : BitVec 4)
  /-- Applies frequency and presence penalties by counts (R237). -/
  | lfreq (d a : BitVec 2) (b c : BitVec 4)
  /-- Applies the grammar mask (R237). -/
  | lmask (d a : BitVec 2)
  /-- Bans one token (R237). -/
  | lban (d a : BitVec 2) (b : BitVec 4)
  /-- Cuts elements below the global maximum plus an offset (R237). -/
  | lminp (d a : BitVec 2) (b : BitVec 4)
  /-- Candidate-mode end action selecting k best tokens (R247). -/
  | ltopk (a : BitVec 2) (k : BitVec 7)
  /-- Unconditional Utgen branch (R236). -/
  | lbr (a b : BitVec 4) (off : BitVec 15)
  /-- Utgen branch when a g register's bits are nonzero (R236). -/
  | lbrNz (a b : BitVec 4) (off : BitVec 15)
  /-- Utgen branch when a g register's bits are zero (R236). -/
  | lbrZ (a b : BitVec 4) (off : BitVec 15)
  /-- Ends phase 1 and contributes the slice maximum to the tree (R238). -/
  | lsync (a : BitVec 2)
  /-- Sample end action (R241). -/
  | lendS (a : BitVec 2)
  /-- Greedy end action (R246). -/
  | lendG (a : BitVec 2)
  /-- Forced-token end action (R246). -/
  | lendF (a : BitVec 4)
  /-- The cycle budget would be exceeded, so the run faults and flags the tree (R239). -/
  | samplerRunOverrun (core run : Nat)
  /-- All slice maxima have combined and the global maximum returns to every core in g15 (R238). -/
  | lsyncGlobalMax (key : RunKey)
  /-- The root, with all contributions in, decides the sequence's end action, draw or fallback (R240). -/
  | rootEndAction (key : RunKey)
  /-- 2^20 cycles pass without all contributions, ending the run HALTED (R248). -/
  | samplerTreeTimeout (key : RunKey)
  /-- Hart adds to a counter at its home (R264). -/
  | dvCadd (q len : BitVec 1) (sc : BitVec 2) (rs2 a d : BitVec 5)
  /-- Hart reads a counter (R264). -/
  | dvCread (q : BitVec 1) (sc : BitVec 2) (a d : BitVec 5)
  /-- Hart tests a counter against a threshold (R264). -/
  | dvCtest (q : BitVec 1) (sc : BitVec 2) (rs2 a d : BitVec 5)
  /-- Hart waits for a counter to reach a threshold (R265). -/
  | dvCwait (q : BitVec 1) (sc : BitVec 2) (rs2 a d : BitVec 5)
  /-- The dvcwto timeout expires and dv.cwait returns 0 (R265). -/
  | dvCwaitTimeout (hart : Nat)
  /-- Creates a RUNNING future from a request block (R266). -/
  | dvFnew (a d : BitVec 5)
  /-- Completes a future with a token reply (R267). -/
  | dvFpost (rs2 a d : BitVec 5)
  /-- Completes a future with an error (R267). -/
  | dvFfail (rs2 a d : BitVec 5)
  /-- Submits a launch from a descriptor (R268). -/
  | dvLaunch (a d : BitVec 5)
  /-- A U-mode hart access checked against the memory capabilities (R259). -/
  | hartUModeAccess (hart : Nat) (acc : HartAccess)
  /-- Write of a device-extension CSR, refused when invalid (R258). -/
  | deviceCsrWrite (hart : Nat) (csr : BitVec 12) (v : Word)
  /-- Queue-load data arrive and fill the reserved LQ entry (R114). -/
  | lqEntryFill (core idx : Nat)
  /-- vld data arrive and fill the reserved VLQ entry (R117). -/
  | vlqEntryFill (core idx : Nat)
  /-- An outbox entry moves to the neighbour's inbox (R166). -/
  | portEntryMove (core : Nat) (dir : BitVec 2)
  /-- Both streams stalled for 2^20 cycles; the strand faults DEADLOCK (R25). -/
  | deadlockTimeout (core : Nat)
  /-- 65,536 cycles pass with the gang block incomplete; arrived members fault GANG (R153). -/
  | gangFuseTimeout (core : Nat)
  /-- WAITSPIN runs out; the strand registers a waiter and suspends WAITING (R145). -/
  | cwaitSSpinExpiry (core : Nat)
  /-- After an add, the home readies pool waiters whose thresholds are reached (R357). -/
  | waiterReadied (home sq : Nat)
  /-- Every 16,384 cycles a home scans a parcel's overflow list (R358). -/
  | overflowScan (parcel home : Nat)
  /-- The copy engine finishes a command's writes and makes its completion add (R135). -/
  | copyCompletion (core : Nat)
  /-- The pager counter reaches a ticket and the held strand or engine retries (R307). -/
  | pagerTicketReached (core : Nat) (site : HoldSite)
  /-- The repair counter reaches a poison ticket and the strand continues (R391). -/
  | repairTicketReached (core : Nat) (site : HoldSite)
  /-- An access waiting on an in-transit page re-walks every 1,024 cycles (R303). -/
  | transitRewalk (core : Nat) (xs : Bool)
  /-- The device applies a shootdown ring entry and adds to DONE (R304). -/
  | shootdownEntry (parcel : Nat)
  /-- Write-back and invalidation of a disabled window end and BUSY clears (R300). -/
  | formatWindowDisableDone (group win : Nat)
  /-- The start condition is met; placement, records and queue bindings are made (R313). -/
  | launchStart (entry : Nat)
  /-- Live count is zero and commands are done; windows, queues, counters, slots and entry are released (R318). -/
  | launchEnd (entry : Nat)
  /-- A queued EXCL replay starts when the earlier replay ends (R327). -/
  | graphReplayStart (graph : Nat)
  /-- All node launches of a replay end; INFLIGHT falls and REPLAYH receives 1 (R327). -/
  | graphReplayEnd (graph : Nat)
  /-- A free core picks the next strand and initialises it (R320). -/
  | dispatch (core : Nat)
  /-- A donating parcel gets a dispatchable strand and reclaims its core (R339). -/
  | coreReclaim (core : Nat)
  /-- At E minus D the edge notice is raised and changing way groups start draining (R341). -/
  | edgeNotice
  /-- At E minus 256 the outgoing owner stops injecting and homes stop serving it in changing phases (R341). -/
  | linkPhaseStop
  /-- At E strands of changing cores are stopped and owners are loaded from the new row (R343). -/
  | edge
  /-- Between E and E+512 state words are written and scratchpads and core state cleared (R345). -/
  | edgeScrub
  /-- Late write-back finishes; the group is invalidated, handed over and LATE counted (R346). -/
  | wayGroupLateHandover (die group : Nat)
  /-- At a memory wheel phase boundary to another parcel, open rows are precharged (R337). -/
  | memoryPhaseBoundary (ctl : Nat)
  /-- Each microsecond the timer times out entries past their deadline (R365). -/
  | futureTimerTick
  /-- 2^24 cycles after completion a sequence-less future is released (R367). -/
  | futureReleaseNoseq (id : Nat)
  /-- A remote reply arrives and completes or is refused (R369). -/
  | remoteToolReply (conn id : Nat) (nonce : BitVec 32) (toks : List (BitVec 32))
  /-- The service core registers a parcel's generation descriptor (R370). -/
  | genDescriptorRegister (parcel : Nat) (addr : Word)
  /-- The commit hardware applies one commit ring entry to sequence, futures and release rings (R379). -/
  | commitEntry (parcel : Nat)
  /-- A function reset revokes its sequences between two commit entries (R384). -/
  | revocationPoint (fn : Nat)
  /-- Register-file or queue parity error terminates the strand with POISON (R390). -/
  | parityError (core : Nat)
  /-- A tree node error poisons its blocks and rebuilds the node (R399). -/
  | integrityNodeFailure (base level : Nat)
  /-- Every 2^30 cycles every SRAM array is scrubbed (R396). -/
  | sramScrub (hits : List ScrubHit)
  /-- Every 24 hours DRAM is patrol-scrubbed (R396). -/
  | dramPatrolScrub (hits : List ScrubHit)
  /-- Monitor service 0x01 checks and accepts or refuses a table image (R332). -/
  | submitCadastreImage (img : List (BitVec 8))
  /-- Monitor service 0x02 creates a parcel and its keys (R401). -/
  | createParcel (parcel : Nat)
  /-- Monitor service 0x03 deletes a parcel after its owners are released (R403). -/
  | deleteParcel (parcel : Nat)
  /-- Monitor service 0x04 sets an owner register (R400). -/
  | setOwner (res : OwnedRes) (parcel : BitVec 6)
  /-- Monitor service 0x05 adds a grant (R359). -/
  | addGrant (grant : Grant)
  /-- Monitor service 0x06 removes a grant (R359). -/
  | removeGrant (grant : Grant)
  /-- Monitor service 0x07 sets quotas and pool shares (R403). -/
  | setQuotas (parcel : Nat) (q : Quotas)
  /-- Monitor service 0x08 writes a function's check table entry and scope policy (R413). -/
  | writeRingCheckTable (fn : Nat) (ent : CheckEntry)
  /-- Monitor service 0x09 writes a format window (R300). -/
  | writeFormatWindow (group win : Nat) (fw : FormatWindow)
  /-- Monitor service 0x0A configures fault area, repair counter and REPAIR (R386). -/
  | configureFaultArea (parcel : Nat) (cfg : FaultAreaCfg)
  /-- Monitor service 0x0B stages a firmware image (R404). -/
  | firmwareStage (img : FwImage)
  /-- Monitor service 0x0B marks a slot active (R404). -/
  | firmwareActivate (slot : Nat)
  /-- Monitor service 0x0B blows fuses up to the booted image's SVN (R405). -/
  | firmwareCommit
  /-- Monitor service 0x0C sets pager, shootdown, overflow and late-reply rings (R403). -/
  | configureDeviceRings (parcel : Nat) (which : DeviceRing) (cfg : RingCfg)
  /-- Monitor service 0x0D writes tool route table entries (R419). -/
  | writeToolRoute (parcel idx : Nat) (route : Option ToolRoute)
  /-- Monitor service 0x0E binds an Ultra Ethernet connection (R418). -/
  | bindConnection (conn parcel : Nat)
  /-- Monitor service 0x0E unbinds and ends a connection (R418). -/
  | unbindConnection (conn : Nat)
  /-- Monitor service 0x0F exposes a CXL.mem range (R417). -/
  | exposeCxlRange (range : CxlRange)
  /-- Monitor service 0x0F withdraws a CXL.mem range (R417). -/
  | withdrawCxlRange (range : CxlRange)
  /-- SPDM algorithm negotiation offering the SLH-DSA extended algorithm (R406). -/
  | negotiateAlgorithms (extAsym : Bool)
  /-- SPDM challenge answered with a signature or UnsupportedRequest (R406). -/
  | challenge (slot : Nat)
  /-- SPDM measurement request (R406). -/
  | getMeasurements (slot : Nat) (signed : Bool)
  /-- SPDM certificate chain read (R406). -/
  | getCertificate (slot : Nat)
  /-- SPDM certificate slot write, Busy while pending (R407). -/
  | setCertificate (slot : Nat) (chain : List (BitVec 8))
  /-- 2 s after receipt a pending slot stops being pending (R407). -/
  | slotPendingTimeout (slot : Nat)
  /-- Write of a BAR0 ring register without behaviour of its own (R409). -/
  | bar0RegisterWrite (fn reg : Nat) (v : Word)
  /-- Ring doorbell write, a system-scope release making entries available (R411). -/
  | rtail (fn ring : Nat) (v : BitVec 32)
  /-- Enabling a counter interrupt evaluates it (R410). -/
  | cien (fn vec : Nat) (v : Word)
  /-- Writing a counter interrupt threshold evaluates it (R410). -/
  | cithr (fn vec : Nat) (v : Word)
  /-- Host write to the system counter window adds the value (R360). -/
  | bar2Write (fn reg size : Nat) (v : Word)
  /-- Host read of a system counter value (R360). -/
  | bar2Read (fn reg size : Nat)
  /-- Host add through the CXL.io counter window (R360). -/
  | cxlCounterWindowWrite (reg size : Nat) (v : Word)
  /-- Host read through the CXL.io counter window (R360). -/
  | cxlCounterWindowRead (reg size : Nat)
  /-- Ring entry submitting a launch (R411). -/
  | ringLaunch (fn ring : Nat) (ent : RingEntry)
  /-- Ring entry copying between host and device (R411). -/
  | ringCopy (fn ring : Nat) (ent : RingEntry) (data : List (BitVec 8))
  /-- Ring entry adding to a counter as a release (R411). -/
  | ringAdd (fn ring : Nat) (ent : RingEntry)
  /-- Ring entry holding the ring until a counter is reached (R411). -/
  | ringWait (fn ring : Nat) (ent : RingEntry)
  /-- Ring entry doing nothing (R411). -/
  | ringNop (fn ring : Nat) (ent : RingEntry)
  /-- An entry completes: RESULT and STATUS written, DONEH added, RHEAD advanced (R412). -/
  | ringEntryComplete (fn ring : Nat)
  /-- A VF reset begins: writes discarded, sequences revoked, rings and strands stopped (R421). -/
  | functionLevelReset (fn : Nat)
  /-- The function's registers return to reset values and READY is set (R421). -/
  | flrComplete (fn : Nat)
  /-- A PF reset resets every function, restarts firmware and retrains CXL (R422). -/
  | pfReset
  /-- The PCIe link falls unexpectedly; host traffic is dropped and calls completed LINK (R423). -/
  | surpriseLinkLoss
  /-- The CXL link is lost and host-range accesses fault LINK (R423). -/
  | cxlLinkLoss
  /-- The link-loss grace period ends and the device quiesces (R424). -/
  | gracePeriodExpiry
  /-- The link trains again and functions present as after a PF reset (R424). -/
  | linkRetrain
  /-- Host CXL.mem read of an exposed device frame (R417). -/
  | hostMemRead (pa size : Nat)
  /-- Host CXL.mem write of an exposed device frame (R417). -/
  | hostMemWrite (pa : Nat) (data : List (BitVec 8))
  /-- Host SnpData snoop downgrades a device-held half (R438). -/
  | snpData (pa : Nat)
  /-- Host SnpInv snoop invalidates a device-held half (R438). -/
  | snpInv (pa : Nat)
  /-- A peer writes into the parcel's memory with an optional counter add (R420). -/
  | peerCopy (conn : Nat) (va : Word) (data : List (BitVec 8)) (ctr : Option Word)
  /-- A peer counter message is checked and applied or refused (R361). -/
  | peerCounterMessage (conn : Nat) (msg : PeerMsg)
  /-- A peer wait is answered once its threshold is reached (R361). -/
  | peerWaitAnswer (conn : Nat) (req : BitVec 32)
  /-- The transport gives up and the connection ends (R418). -/
  | connectionFailure (conn : Nat)
  /-- PLDM Type 0 discovery request (R425). -/
  | pldmDiscovery
  /-- PLDM Type 2 sensor read (R425). -/
  | pldmSensorRead (sensor : Sensor)
  /-- PLDM state effecter request for package reset (R425). -/
  | pldmResetEffecter
  /-- PLDM Type 5 update of an inactive firmware image (R425). -/
  | pldmFirmwareUpdate (target : UpdateTarget)
  /-- The management controller's rail comes up and it starts (R426). -/
  | managementPowerUp
  /-- Package reset is released; the monitor boots firmware and loads the default cadastre (R426). -/
  | packageReset
  /-- PERST# is released and the PCIe port begins answering configuration (R426). -/
  | perstRelease
  /-- A fetched Cuvos word with OP 0, a reserved major or code, or a nonzero must-be-zero field faults with ILLEGAL whatever its guard (R49). -/
  | illegalInstruction (core : Nat) (xs : Bool) (word : BitVec 32)
  /-- A stream's fetch from an unmapped page or a page without execute permission faults with XLATE or PERM, charged to the first instruction of the failed fetch (R42). -/
  | instructionFetchFault (core : Nat) (xs : Bool)
  /-- A logit program word with op 0 or 24-31, or a reserved field set, traps the run (R239). -/
  | utgenIllegalWord (core run : Nat)
  /-- A custom-space word with funct3 4-7, bad reserved bits, a forbidden scope or ordering, custom-2/3, or a disabled U-mode use raises an illegal-instruction exception (R261). -/
  | customIllegalInstruction (hart : Nat) (word : BitVec 32)
  /-- An enabled interrupt becomes pending at a hart while it waits in dv.cwait, and is taken with sepc at the dv.cwait, which restarts on return (R265). -/
  | hartInterrupt (hart : Nat) (cause : Nat)
  /-- A configuration write of a function's Bus Master Enable stops or resumes its rings taking entries and its DMA (R408). -/
  | busMasterEnable (fn : Nat) (on : Bool)
  deriving DecidableEq, Repr

end Sys2Proof
end

