-- ==== Sys2Proof/Machine/State.lean ====
section
/-!
DEFINITION. The whole package as plain data: the two streams and shared state of every core (R13 to
R29), the homes, launches, parcels, cadastre, harts, futures, sampler tree, commit hardware, functions
and management state (R36, R292 to R442), and `State.reset`. `turn` and `agenda` are the model's own
(log 1), `freeCtr` is the free-value counter (log 3).
-/
namespace Sys2Proof.Machine
open Sys2Proof

/-- Why the machine stops with a fault. No architectural fault stops it: those are next states. -/
inductive Fault where
  /-- Raised by a step whose agent does not exist in the package (a core of a section 48 to 63, a hart
  above 63). Safe: the hardware has no such agent. -/
  | noSuchAgent
  deriving DecidableEq, Repr

/-- Why an instruction has no meaning here. -/
inductive Refusal where
  /-- An instruction without a meaning yet, by its mnemonic. Safe. -/
  | notModelled (mnemonic : String)
  deriving DecidableEq, Repr

/-- The fault codes of R30. -/
inductive FaultCode where
  | illegal | align | bounds | xlate | perm | poison | stale | foreign | scope | stack | queue
  | deadlock | gang | fpinv | trap | overrun | overrunHard | waiters | tile | capability | logit
  | revoked | link | port | noentry
  deriving DecidableEq, Repr

/-- The 8-bit code of a fault (R30). -/
def FaultCode.code : FaultCode → BitVec 8
  | .illegal => 0x01 | .align => 0x02 | .bounds => 0x03 | .xlate => 0x04 | .perm => 0x05
  | .poison => 0x06 | .stale => 0x07 | .foreign => 0x08 | .scope => 0x09 | .stack => 0x0A
  | .queue => 0x0B | .deadlock => 0x0C | .gang => 0x0D | .fpinv => 0x0E | .trap => 0x0F
  | .overrun => 0x10 | .overrunHard => 0x11 | .waiters => 0x12 | .tile => 0x13
  | .capability => 0x14 | .logit => 0x15 | .revoked => 0x16 | .link => 0x17 | .port => 0x18
  | .noentry => 0x19

/-- Bytes at addresses, in canonical form: addresses strictly rising, no byte 0 (log 4: an unlisted byte
reads 0). -/
abbrev Memory := List Host.Cell

/-- The canonical form of a memory. -/
def Memory.wf (m : Memory) : Bool := Map.sorted m && m.all fun c => c.2 != 0#8

/-! ## The streams of a core -/

/-- What a stream waits on (R25). -/
inductive StallKind where
  | queue | token | port | rendezvous
  /-- A wait that R25 does not count: `cwait`, the spin of `cwait.s`, `cwany`, `cwall`, `fuse`, a full
  engine queue, a scoreboard conflict, the vector queue, a hold for a ticket. -/
  | other
  deriving DecidableEq, Repr

/-- The kind of a loop-stack entry (R122, R183). -/
inductive LoopKind where
  | counted (n : Word)
  | eos (q : BitVec 4) (seen : Bool)
  | pipe (i n s t : Nat)
  deriving DecidableEq, Repr

/-- A loop-stack entry (R122). -/
structure LoopEnt where
  s : Word
  e : Word
  kind : LoopKind
  deriving DecidableEq, Repr

/-- A ticket a stream, a strand or an engine waits for (R306, R391): counter handle and value. -/
structure Ticket where
  handle : Word
  value : Word
  deriving DecidableEq, Repr

/-- An access being retried after a restartable fault: its address, and for XLATE the page-table entry that
was invalid (R307, R391). -/
structure Retry where
  va : Word
  pte : Option Nat
  deriving DecidableEq, Repr

/-- Fetch, loop and issue state of one stream (R42, R47, R122). `ir` is the word last fetched, logged by
a fault (R32); `wDone` says that the word's token is consumed, `pendT` the address of an
instruction whose token post waits (R23). -/
structure Stream where
  pc : Word
  ir : BitVec 32
  loops : List LoopEnt
  wDone : Bool
  pendT : Option Word
  stall : Option StallKind
  since : Nat
  hold : Option Ticket
  retried : Option Retry
  deriving DecidableEq, Repr

/-- What commit instruction the access stream has reached (R150). -/
inductive CommitKind where
  | susp | yield | exit | commit
  | cwaitS (h t : Word) (acq : Bool)
  | fcall (a b : Word)
  | bkpt
  deriving DecidableEq, Repr

/-- A stream's arrival at `fuse #n` (R153): n, the cycle, the instruction's token flag. -/
structure FuseAt where
  n : Nat
  since : Nat
  tok : Bool
  deriving DecidableEq, Repr

/-- Registers of the access stream (R13) with its private CSRs (R26). `at_` is the commit instruction the
stream has reached, with its token flag; `spin` the cycle at which the spin of a `cwait.s` ends. -/
structure AState where
  regs : Bank Word 5
  preds : Bank Bool 3
  str : Stream
  at_ : Option (CommitKind × Bool)
  spin : Option Nat
  fuse : Option FuseAt
  splitAt : Option Bool
  waitspin : Word
  acnt : BitVec 13
  dists : Bank Word 3
  deriving DecidableEq, Repr

/-- Scalar registers of the execute stream (R14). -/
structure XState where
  regs : Bank Word 5
  preds : Bank Bool 3
  stages : Bank Bool 3
  str : Stream
  at_ : Option Bool
  fuse : Option FuseAt
  splitAt : Option Bool
  slim : Word
  deriving DecidableEq, Repr

/-- A vector command waiting in the vector unit's queue for its completion (R192). -/
structure VPend where
  tok : Bool
  /-- Its address: it is not complete while it waits here (R31). -/
  pc : Word := 0
  deriving DecidableEq, Repr

/-- Vector registers and CSRs (R14, R16, R17, R26). -/
structure VState where
  v : Bank VBits 5
  m : Bank MBits 3
  shape : Word
  rot : BitVec 4
  vcnt : BitVec 13
  fflags : BitVec 5
  nve : Bool
  prngkey : Word
  prngctr : Word
  vq : List VPend
  deriving DecidableEq, Repr

/-- An accumulator element (R18): mantissa and exponent. -/
structure AccElem where
  m : BitVec 48
  e : BitVec 16
  deriving DecidableEq, Repr

/-- The empty element (R18). -/
def AccElem.empty : AccElem := { m := 0, e := 0x8000#16 }

/-- One 32-by-32 accumulator, element (i, j) at key 32i + j; an unlisted element is empty (R18). -/
abbrev Acc := Map AccElem

/-! ## Shared state of a core -/

/-- Which instruction an entry waits for, or which waits to post a token: the cycle of its issue and its address. -/
structure Origin where
  at_ : Nat
  pc : Word
  deriving DecidableEq, Repr

/-- A scalar queue entry; an LQ entry is reserved until it is filled (R22, R114). -/
structure QEnt where
  data : Word
  eos : Bool
  filled : Bool
  tok : Bool
  org : Origin := { at_ := 0, pc := 0 }
  deriving DecidableEq, Repr

/-- A vector queue entry (R22, R117). -/
structure VEnt where
  data : VBits
  eos : Bool
  filled : Bool
  tok : Bool
  org : Origin := { at_ := 0, pc := 0 }
  deriving DecidableEq, Repr

/-- A branch-outcome queue entry (R22). -/
structure BEnt where
  bit : Bool
  eos : Bool
  deriving DecidableEq, Repr

/-- The six queues, the token counts and the tile registers (R19, R22, R23). -/
structure Shared where
  tiles : Bank TileWord 4
  lq : List QEnt
  sq : List QEnt
  vlq : List VEnt
  vsq : List VEnt
  bqx : List BEnt
  bqa : List BEnt
  tokA : BitVec 4
  tokX : BitVec 4
  /-- Queue loads and `vld`s whose data have arrived and whose token posts wait (R23). -/
  pendX : List Origin
  lastMove : Nat
  deriving DecidableEq, Repr

/-- A local counter (R21). -/
structure LCtr where
  value : Word
  thr : Word
  armed : Bool
  deriving DecidableEq, Repr

/-- Where a byte of a region lies once its row has been accepted (R19, R118). -/
inductive Loc where
  /-- Physical scratchpad offset of a core, with the address as issued: local and remote-local regions. -/
  | scratch (core off : Nat) (va : Word)
  | global (parcel : Nat) (va : Word)
  | vault (sect off : Nat)
  deriving DecidableEq, Repr

/-- What an engine command acts for: the strand's record, launch and parcel (R31, R135). -/
structure Owner where
  parcel : Nat
  launch : BitVec 28
  rcd : Word
  deriving DecidableEq, Repr

/-- Where a copy's completion add goes (R135). -/
inductive Done where
  | none
  | handle (h : Word)
  | local_ (i : BitVec 6)
  deriving DecidableEq, Repr

/-- One 16-byte part of a copy: its row, and from a place, or a fill pattern, to a place (R130, R133); `link` says that
it travels over the neighbour link (R134). -/
structure Part where
  row : Nat
  src : Option Loc
  fill : Word
  dst : Loc
  link : Bool := false
  deriving DecidableEq, Repr

/-- An accepted copy command (R130): parts still to move, completion, owner, the sequence number of its
scoreboard entries, the first destination row's tile low word (R344), blocks written whole so far. -/
structure CopyCmd where
  parts : List Part
  done : Done
  own : Owner
  seq : Nat
  dstLow : Word
  hold : Option Ticket
  /-- The access for which the engine last held, with the invalid entry its walk met (R307). -/
  asked : Option Retry := none
  failed : Bool
  covered : List (Nat × Nat)
  deriving DecidableEq, Repr

/-- The matrix operations (R210). -/
inductive MatOp where
  | mmul (scaled : Bool) (pa pb : Nat)
  | mtrans (pa : Nat) | mperm (pa : Nat) | mrsum (pa : Nat) | mcsum (pa : Nat)
  | mclr
  /-- `mst`: format 0 F32, 1 BF16, 2 I32, 3 ME. -/
  | mst (fmt : Nat)
  | mld
  | mxaln
  deriving DecidableEq, Repr

/-- An accepted matrix command (R211): the tile registers and `VCNT` as read at issue, the window base. -/
structure MatCmd where
  op : MatOp
  acc : BitVec 2
  ta : TileWord
  tb : TileWord
  sa : TileWord
  sb : TileWord
  vcnt : Nat
  base : Nat
  own : Owner
  seq : Nat
  deriving DecidableEq, Repr

/-- A range registered with a core's scoreboard (R223, R282): physical scratchpad bytes of one command,
which command by sequence number, and whether it is a write. -/
structure BoardEnt where
  seq : Nat
  lo : Nat
  len : Nat
  wr : Bool
  deriving DecidableEq, Repr

/-- A sampler descriptor as read (R227). -/
structure SmpDesc where
  seed : Word
  vocab : Nat
  slen : Nat
  prog : Nat
  budget : Nat
  fallback : Nat
  forcetok : BitVec 32
  biasaddr : Word
  biascnt : Nat
  tag : BitVec 32
  maskaddr : Word
  paramaddr : Word
  resaddr : Word
  resctr : Word
  candaddr : Word
  deriving DecidableEq, Repr

/-- One draft position of a draft set (R234). -/
structure Draft where
  tok : BitVec 32
  q : BitVec 32
  qoff : Nat
  qvalid : Bool
  deriving DecidableEq, Repr

/-- A bound sampler slot (R229, R231). -/
structure Slot where
  own : Owner
  addr : Word
  desc : SmpDesc
  slice : Nat
  w0 : Nat
  ws : Nat
  countAddr : Word
  logitAddr : Word
  drafts : List Draft
  /-- The number of the draft set, which the root keeps the progress of. -/
  draftSet : Nat
  deriving DecidableEq, Repr

/-- A command in the sampler sequencer's queue (R232, R233). -/
inductive SmpCmd where
  | run (slot : Nat) (bind : Slot) (pos : BitVec 32) (pass : Nat) (own : Owner) (seq : Nat)
  | commit (slot : Nat) (bind : Slot) (tok : BitVec 32) (rel : Bool) (own : Owner)
  deriving DecidableEq, Repr

/-- Where a run stands (R235, R238). -/
inductive RunPhase where
  /-- The parameters are still to be read (R235, R307). -/
  | loading
  | running | atSync
  deriving DecidableEq, Repr

/-- A run in progress on a core (R235). -/
structure Run where
  slot : Nat
  bind : Slot
  key : RunKey
  pc : Nat
  g : Bank (BitVec 32) 4
  phase : Nat
  charged : Nat
  st : RunPhase
  own : Owner
  seq : Nat
  /-- A page the run waits for, with the invalid entry its walk met (R237, R307). -/
  hold : Option (Ticket × Retry)
  deriving DecidableEq, Repr

/-- The engines of a core: queues, scoreboard, sampler (R130, R211, R232, R254, R282). -/
structure Engines where
  copyq : List CopyCmd
  matq : List MatCmd
  smpq : List SmpCmd
  runs : List Run
  slots : Map Slot
  board : List BoardEnt
  deriving DecidableEq, Repr

/-- The status of a resident strand (R40, R317, R319). -/
inductive ResStatus where
  | ready | running | parked
  /-- Rolled back and undispatchable until a ticket is reached (R307, R391). -/
  | held (t : Ticket)
  | faulted
  /-- Its window is released once the engine commands with a range in it have completed (R150); true when
  the strand exited and its launch's completion add follows (R151). -/
  | leaving (exited : Bool)
  deriving DecidableEq, Repr

/-- A resident slot (R319): the strand, its window and its dispatch class. -/
structure Resident where
  own : Owner
  base : Nat
  size : Nat
  any : Bool
  urgent : Bool
  once : Bool
  round : Option Nat
  status : ResStatus
  /-- Its window is released, and scrubbed once no engine command has a range in it; it runs again in a new one (R39,
  log 59). -/
  scrub : Bool := false
  /-- It was rolled back, so its record may read RUNNING (R31, R33). -/
  rolled : Bool := false
  retried : List Retry
  deriving DecidableEq, Repr

/-- The strand identity and window CSRs of the running strand (R26). -/
structure Running where
  slot : Nat
  own : Owner
  lbase : Nat
  lsize : Nat
  coord : Word
  levels : Bank Word 3
  irv : Bool
  logsz : BitVec 4
  member : BitVec 4
  deriving DecidableEq, Repr

/-- A strand that an edge acted on, whose state word is still to be written (R345): how often it was rolled
back, and whether it becomes READY. -/
structure Acted where
  own : Owner
  rolls : Nat
  ready : Bool
  once : Bool
  deriving DecidableEq, Repr

/-- One Cuvos core. -/
structure Core where
  a : AState
  x : XState
  vec : VState
  accs : Bank Acc 2
  sh : Shared
  eng : Engines
  run : Option Running
  lcs : Map LCtr
  inbox : Bank (List Word) 2
  outbox : Bank (List Word) 2
  scratch : Memory
  poison : List Nat
  res : Map Resident
  nextSlot : Nat
  urgentRun : Nat
  edge : Option Nat
  easement : Option Nat
  /-- A strand received under an easement has run here since the core was last wiped (R339). -/
  lent : Bool
  /-- The beneficiary whose strand ran here last since then (R348). -/
  borrower : Option Nat := none
  decision : Word
  /-- No dispatch before this cycle (R339, R341). -/
  dispatchAt : Nat
  /-- The core is to be wiped before its next dispatch (R341, R345). -/
  wipe : Bool
  acted : List Acted
  deriving DecidableEq, Repr

/-! ## Counters, launches, queues -/

/-- A counter entry (R352). -/
structure Ctr where
  value : Word
  gen : BitVec 14
  owner : Nat
  alloc : Bool
  keep : Bool
  launch : BitVec 28
  fut : Bool
  deriving DecidableEq, Repr

/-- A registered waiter (R356). -/
structure Waiter where
  handle : Word
  thr : Word
  rcd : Word
  parcel : Nat
  seq : Nat
  /-- The threshold was reached at an add; the readying follows (R357). -/
  hit : Bool
  deriving DecidableEq, Repr

/-- A counter home (R352, R356): its entries, pool and the parcels whose overflow list it appended to. -/
structure Home where
  entries : Map Ctr
  pool : List Waiter
  nextSeq : Nat
  spilled : List Nat
  deriving DecidableEq, Repr

/-- A launch descriptor as read (R308, R309). -/
structure LaunchDesc where
  addr : Word
  aentry : Word
  xentry : Word
  logitaddr : Word
  logitcnt : Nat
  winsize : Nat
  args : Word
  localaddr : Word
  locallen : Nat
  flags : BitVec 32
  starth : Word
  startt : Word
  doneh : Word
  faulth : Word
  recaddr : Word
  callarea : Word
  calldb : Word
  loops : List Word
  shapeaddr : Word
  deriving DecidableEq, Repr

/-- The state of a launch entry (R311, R312, R327). -/
inductive LaunchSt where
  /-- Waiting for its start; its start counter has been reached; held for a graph replay that waits; started. -/
  | waiting | met | reserved | live
  deriving DecidableEq, Repr

/-- The scope policy a launch acts under (R414). -/
inductive Policy where
  | system | trap | clamp
  deriving DecidableEq, Repr

/-- A stored work queue of a launch across an edge (R347), see `WorkQ`. -/
structure WorkQ where
  launch : BitVec 28
  ext_i : Nat
  ext_j : Nat
  ti : Nat
  tj : Nat
  /-- Index of this section among the `ns` sections of the level. -/
  pos : Nat
  ns : Nat
  next : Nat
  returned : List (Nat × Nat)
  /-- Kept takes by record address: how many were taken since the commit point, and the first 16. -/
  taken : List (Word × Nat × List (Nat × Nat))
  deriving DecidableEq, Repr

/-- A launch entry in use (R311, R318). -/
structure Launch where
  id : BitVec 28
  parcel : Nat
  fn : Option Nat
  policy : Policy
  order : Nat
  desc : LaunchDesc
  st : LaunchSt
  live : Nat
  count : Nat
  graph : Option Nat
  levels : List Word
  homes : List Nat
  stored : Map WorkQ
  /-- The records outside its array of strands spawned into it (R152, R421). -/
  spawned : List Word := []
  deriving DecidableEq, Repr

/-- A replay of a launch graph (R327); `started` false while an `EXCL` replay waits. -/
structure Replay where
  parcel : Nat
  fn : Option Nat
  policy : Policy
  hdr : Word
  ver : Word
  replayh : Word
  excl : Bool
  /-- `PRIO` of the graph descriptor, and the place of the replay in submission order (R308, R312). -/
  prio : Nat
  order : Nat
  nodes : Nat
  ids : List (BitVec 28)
  started : Bool
  deriving DecidableEq, Repr

/-- An entry of a dispatch list (R320). -/
structure ListEnt where
  own : Owner
  home : Nat
  any : Bool
  urgent : Bool
  once : Bool
  prio : Nat
  seq : Nat
  deriving DecidableEq, Repr

/-- Launches, dispatch lists, work queues and gang control (R36, R311, R316, R320, R326). -/
structure Sched where
  launches : Map Launch
  uses : Map (BitVec 16)
  nextOrder : Nat
  lists : List ListEnt
  nextSeq : Nat
  queues : Map WorkQ
  replays : Map Replay
  nextReplay : Nat
  deriving DecidableEq, Repr

/-! ## Parcels and the cadastre -/

/-- A ring of 16- or 32-byte entries that the device appends to (R304, R306, R369). -/
structure DevRing where
  cfg : RingCfg
  head : Nat
  tail : Nat
  deriving DecidableEq, Repr

/-- The fault area of a parcel with its repair state (R386, R391). -/
structure FaultArea where
  cfg : FaultAreaCfg
  seq : Nat
  repairBase : Word
  repairs : Nat
  deriving DecidableEq, Repr

/-- What the monitor and the device keep for a parcel (R303 to R306, R356, R386 to R393, R419). -/
structure Parcel where
  exists_ : Bool
  root : Nat
  quotas : Quotas
  fault : Option FaultArea
  pager : Option DevRing
  shootdown : Option DevRing
  overflow : Option DevRing
  lateRing : Option DevRing
  scopeclamp : Word
  violcnt : Word
  corrcnt : Word
  poiscnt : Word
  lateDrops : Word
  routes : Map ToolRoute
  deriving DecidableEq, Repr

/-- A parcel entry of a cadastre table (R330). -/
structure CadParcel where
  active : Bool
  dphase : Bool
  dcore : Bool
  group : BitVec 4
  benef : List Nat
  deriving DecidableEq, Repr

/-- A row of a cadastre table (R331). -/
structure CadRow where
  len : Nat
  drain : Nat
  ways : List Nat
  link : List Nat
  mem : List Nat
  sects : List Nat
  deriving DecidableEq, Repr

/-- A cadastre table (R329), with the bytes of its image as submitted (R406). -/
structure CadTable where
  serial : Nat
  parcels : List CadParcel
  rows : List CadRow
  image : List Byte := []
  deriving DecidableEq, Repr

/-- The cadastre in force (R333 to R336, R346): table, the accepted images with the cycle at which each was accepted, the
row and when it began, the owners the hardware has loaded and the late handovers in progress. -/
structure Cadastre where
  table : CadTable
  pending : List (CadTable × Nat)
  row : Nat
  rowStart : Nat
  frames : Nat
  late : Nat
  sectOwner : List Nat
  wayOwner : List Nat
  linkOwner : List Nat
  linkStopped : Bool
  memOwner : List Nat
  memPhase : Map Nat
  lateWays : List (Nat × Nat)
  /-- The way groups, as indexes of the way-group map, that drain before an edge (R346). -/
  drainWays : List Nat
  deriving DecidableEq, Repr

/-! ## Harts, futures, sampler tree, commit hardware -/

/-- The privilege modes of a hart that the device extension distinguishes (R256, R258). -/
inductive Mode where
  | u | s | m | vs | vu
  deriving DecidableEq, Repr

/-- A hart (R256 to R260): general, floating-point and vector registers, trap registers, device CSRs, owner and wait
state. `csr` holds the RISC-V CSRs that have no field of their own, by number: status bits, translation roots, delegation,
PMP entries, timers, vector and hypervisor state (log 14). -/
structure Hart where
  x : Bank Word 5
  f : Bank Word 5
  v : Bank (BitVec 256) 5
  fcsr : BitVec 8
  csr : Map Word
  pc : Word
  mode : Mode
  sepc : Word
  scause : Word
  stval : Word
  stvec : Word
  spp : Bool
  spv : Bool
  spie : Bool
  sie : Bool
  dvcwto : Word
  dvcap : Bank Word 3
  dvcaplen : Bank Word 3
  dvctl : Word
  dvcause : Word
  owner : Nat
  policy : Policy
  /-- The word last fetched: a hart that waits in `dv.cwait` fetches nothing (R265). -/
  ir : BitVec 32
  /-- The cycle at which a `dv.cwait` in progress began, and its rd. -/
  waitSince : Option (Nat × BitVec 5)
  deriving DecidableEq, Repr

/-- The states of a future entry (R362). -/
inductive FutSt where
  | free | armed | running | replied | timedout | error
  deriving DecidableEq, Repr

/-- A future table entry (R362). -/
structure Future where
  st : FutSt
  nonce : BitVec 32
  tag : BitVec 32
  tool : BitVec 16
  reason : BitVec 16
  handle : Word
  replyAddr : Word
  replyLen : Nat
  tmo : BitVec 32
  deadline : Word
  argAddr : Word
  argLen : Nat
  owner : Nat
  origin : BitVec 2
  late : BitVec 8
  conn : Nat
  doneAt : Nat
  deriving DecidableEq, Repr

/-- The end actions of a run (R240). -/
inductive EndAct where
  | sample | greedy
  | force (tok : BitVec 32)
  | topk (k : Nat)
  deriving DecidableEq, Repr

/-- A slice's contribution to its first phase (R238), with its `w0` for a fallback (R246). -/
structure SyncPart where
  slice : Nat
  max : BitVec 32
  fault : Bool
  w0 : List (BitVec 32)
  deriving DecidableEq, Repr

/-- A slice's contribution to the end action (R240): the named register's elements and `w0`'s, and for a
check pass the draft and its q slice. -/
structure EndPart where
  slice : Nat
  act : EndAct
  fault : Bool
  xs : List (BitVec 32)
  w0 : List (BitVec 32)
  draft : Option (BitVec 32 × BitVec 32)
  qs : List (BitVec 32)
  deriving DecidableEq, Repr

/-- A run at the tree and root (R238, R243, R248). -/
structure TreeRun where
  key : RunKey
  bind : Slot
  sync : List SyncPart
  syncAt : Option Nat
  released : Bool
  ends : List EndPart
  endAt : Option Nat
  dup : Bool
  cancelled : Bool
  deriving DecidableEq, Repr

/-- One draft set of a descriptor (R234, R253): its number, the slices whose `sqdraft` gave it its drafts and those that
have issued a run of it, and its progress at the root: the check passes decided, the pass refused, and whether the
ordinary run that follows them has been decided (R376). -/
structure DraftRoot where
  parcel : Nat
  desc : Word
  set : Nat
  joined : List Nat
  used : List Nat
  decided : List Nat
  refused : Option Nat
  closed : Bool
  deriving DecidableEq, Repr

/-- The sampler tree and root (R232, R248). -/
structure Tree where
  runs : List TreeRun
  drafts : List DraftRoot
  deriving DecidableEq, Repr

/-- An entry of a release table: ring base, records (0 when the function is not served), counter (R370). -/
structure RelEnt where
  base : Word
  n : Nat
  handle : Word
  deriving DecidableEq, Repr

/-- A generation descriptor with its release table as read at registration (R370), and the commit hardware's progress. -/
structure Gen where
  seqtab : Word
  nseq : Nat
  crsize : Nat
  cring : Word
  cdoor : Word
  cdone : Word
  reltab : Word
  rel : List RelEnt
  next : Nat
  written : Map Nat
  discards : List Nat
  deriving DecidableEq, Repr

/-- The commit hardware (R378, R384, R385): registered descriptors by parcel, revoked tags, functions whose rings receive
no further record, functions whose revocation point waits for a page, and the entries, by parcel and address, whose pages
wait to be zeroed. -/
structure Commit where
  gens : Map Gen
  revoked : List (BitVec 32)
  closed : List Nat
  awaited : List Nat
  toZero : List (Nat × Word)
  deriving DecidableEq, Repr

/-! ## Host, links, management -/

/-- A ring entry begun and not complete (R412): its index, the entry, what `RESULT` and `STATUS` will read, and
for a COPY the bytes that come from the host and the 16-byte parts still to move. -/
structure Begun where
  idx : BitVec 32
  ent : RingEntry
  result : BitVec 32
  status : BitVec 8
  data : List Byte
  left : List Nat
  /-- The physical ranges that its parts have written (R396). -/
  covered : List (Nat × Nat) := []
  deriving DecidableEq, Repr

/-- A submission ring in progress (R409, R412). -/
structure Ring where
  rbase : Word
  rsize : Word
  en : Bool
  rhead : BitVec 32
  rtail : BitVec 32
  begun : List Begun
  deriving DecidableEq, Repr

/-- A counter interrupt (R409). -/
structure CtrInt where
  cien : Bool
  cidx : BitVec 16
  cithr : Word
  deriving DecidableEq, Repr

/-- An entry of a function's MSI-X table (R408, R421; log 69): message address, data, and whether the vector is masked. -/
structure MsixEnt where
  addr : Word
  data : BitVec 32
  masked : Bool
  deriving DecidableEq, Repr

/-- An entry of the MSI-X table at reset: masked, as PCI Express has it (log 69). -/
def MsixEnt.init : MsixEnt := { addr := 0, data := 0, masked := true }

/-- A PCI Express function (R408, R409, R413, R421). -/
structure Fn where
  check : CheckEntry
  rings : Map Ring
  ints : Map CtrInt
  /-- The MSI-X table; an entry that is not listed is at its reset value. -/
  msix : Map MsixEnt
  /-- The vectors signalled while they were masked, which are sent when they are unmasked (R408, log 69). -/
  msixWaits : List Nat
  ready : Bool
  inreset : Bool
  resetAt : Option Nat
  bme : Bool
  lost : Bool
  deriving DecidableEq, Repr

/-- An Ultra Ethernet connection (R361, R418). -/
structure Conn where
  parcel : Nat
  applied : List (BitVec 32)
  waits : List (BitVec 32 × Word × Word)
  deriving DecidableEq, Repr

/-- The SPDM errors of R406 and R407; `refused` stands for the refusals to which the rules give no code. -/
inductive SpdmErr where
  | unsupportedRequest | busy | refused
  deriving DecidableEq, Repr

/-- A CHALLENGE, or a signed GET_MEASUREMENTS, whose response has not been sent (R407): its slot, whether it asks
for measurements, when it was received, and whether it still keeps the slot pending. -/
structure SpdmReq where
  slot : Nat
  meas : Bool
  since : Nat
  live : Bool
  deriving DecidableEq, Repr

/-- The requests that the L2 makes for a half of a host line (R438). -/
inductive LineReq where
  | rdShared | rdOwn | dirtyEvict | cleanEvict
  deriving DecidableEq, Repr

/-- What a function's capabilities give, as R408 lists them: SR-IOV's `TotalVFs` and VF stride, 0 where the function has
none, MSI-X vectors, payload and read request bytes, whether AER, ACS and Function Level Reset are there, the BAR sizes. -/
structure PciCaps where
  totalVfs : Nat
  vfStride : Nat
  msixVectors : Nat
  maxPayload : Nat
  maxRead : Nat
  aer : Bool
  acs : Bool
  flr : Bool
  bar0 : Nat
  bar2 : Nat
  deriving DecidableEq, Repr

/-- What a configuration request is answered with (R408, R426): Configuration Request Retry Status, or vendor and device
id, Bus Master Enable and the capabilities. -/
inductive ConfigAns where
  | retry
  | identity (vendor device : BitVec 16) (bme : Bool) (caps : PciCaps)
  deriving DecidableEq, Repr

/-- What the device sends outside, in order (R361, R410, R412, R419, R423, R425). -/
inductive Up where
  /-- The message of a vector: what its table entry says is written, and where (R408, R410). -/
  | msix (fn vec : Nat) (addr : Word) (data : BitVec 32)
  | hostWrite (fn : Nat) (addr : Word) (data : List Byte)
  | readData (data : List Byte)
  | configAns (fn : Nat) (ans : ConfigAns)
  | memData (data : List Byte) (poisoned : Bool)
  | snoopData (data : Option (List Byte)) (poisoned : Bool)
  /-- A request of the L2 for a half of a host line, or its eviction (R438). -/
  | lineReq (req : LineReq) (half : Nat) (data : Option (List Byte)) (poisoned : Bool)
  /-- A back-invalidate snoop of a half of device memory that the host caches (R416). -/
  | backInvalidate (half : Nat)
  | peerAck (conn : Nat) (req : BitVec 32) (value : Word)
  | peerNak (conn : Nat) (req : BitVec 32) (code : FaultCode)
  | toolRequest (conn id : Nat) (nonce tag : BitVec 32) (tool : BitVec 16) (args : List (BitVec 32))
  | replyAck (conn id : Nat)
  | mailbox (status : Nat)
  | spdm (data : List Byte)
  | spdmError (e : SpdmErr)
  | pldm (data : List Byte)
  /-- The PLDM completion code of not ready (R425). -/
  | pldmNotReady
  deriving DecidableEq, Repr

/-- What the management controller has logged (R361, R392, R396, R411, R417, R423). -/
inductive LogEv where
  | malformed | refusedPeer (conn : Nat) | violation (requester owner : Nat) | uncorrectable
  | cxlOutside | linkLoss | cxlLoss | windowRefused | linkStore
  deriving DecidableEq, Repr

/-- The three keys of a parcel (R401). They lie in the security core and the endpoint key registers, and no read path
exists for them: no meaning puts them anywhere that software reads. -/
structure Keys where
  mesh : BitVec 256
  memory : BitVec 256
  mac : BitVec 256
  deriving DecidableEq, Repr

/-- Firmware, attestation and management state (R404 to R407, R425). -/
structure Mgmt where
  slots : Map FwImage
  active : Nat
  running : Option FwImage
  fuse : Nat
  extAsym : Bool
  certs : Map (List Byte)
  asked : List SpdmReq
  keys : Map Keys
  log : List LogEv
  /-- The management controller's two images and which of them it runs (R425). -/
  controllerImages : Map (List Byte)
  controllerActive : Nat
  /-- The security core responds (R425). -/
  secUp : Bool
  /-- The controller has started (R426). -/
  up : Bool
  deriving DecidableEq, Repr

/-- An HDM decoder of the CXL port (R416): the host addresses it decodes and the device address of the first. -/
structure HdmDec where
  base : Nat
  size : Nat
  dpa : Nat
  deriving DecidableEq, Repr

/-- Functions, links, peers and exposed ranges (R408 to R424). -/
structure HostIf where
  fns : Map Fn
  conns : Map Conn
  cxl : List CxlRange
  pcieUp : Bool
  cxlUp : Bool
  /-- PERST# has been released, so the port answers (R426). -/
  answering : Bool
  /-- The port answers configuration requests with more than a retry status (R426). -/
  portReady : Bool
  /-- The two HDM decoders of the CXL port, where programmed (R416). -/
  hdm : Map HdmDec
  quiesced : Bool
  lossAt : Option Nat
  grace : Nat
  up : List Up
  deriving DecidableEq, Repr

/-- The coherence state of a 64-byte half of a line (R286, R438): a half of host memory is never `o`. -/
inductive LineSt where
  | i | s | e | m | o
  deriving DecidableEq, Repr

/-- A 128-byte line held in its home slice (R296): its way, the valid bits of its four sectors, and whether its way
group drains, so that a store writes its sector back at once (R346). A sector is dirty while it holds a byte of
`Phys.backing`, or of `Phys.views` for a view line. -/
structure L2Line where
  way : Nat
  valid : BitVec 4
  wt : Bool
  deriving DecidableEq, Repr

/-- A counter of the integrity tree (R398, R399): the epoch it was drawn from and the writes since. -/
structure TreeCtr where
  epoch : Nat
  n : Nat
  deriving DecidableEq, Repr

/-- Physical memory and what the L2 and the controllers keep about it (R292, R296, R300, R394, R397, R398, R438). -/
structure Phys where
  mem : Memory
  /-- The lines of the L2, by line number. -/
  l2 : Map L2Line
  /-- Bytes that the L2 holds dirty, with the value backing memory has for them (R158, R283). -/
  backing : Map Byte
  views : Map Byte
  poison : List Nat
  poison16 : List Nat
  lines : Map LineSt
  /-- The 64-byte halves of device memory of which the host's caches hold a copy (R286, R416). -/
  held : List Nat
  /-- The counters of the integrity trees, by level and index, and the next epoch (R398, R399). -/
  tree : Map TreeCtr
  epoch : Nat
  /-- The poisoned entries of the counter homes' SRAM, by home and index (R396). -/
  ctrPoison : List (Nat × Nat)
  windows : Map FormatWindow
  frames : Map Nat
  vaultOwner : Map Nat
  /-- The 64-byte block on which a hart's load-reserved holds a reservation, by hart (R256, R278). -/
  resv : Map Nat
  deriving DecidableEq, Repr

/-! ## Translations and code held (R305, R324) -/

/-- A walk's leaf: the entry's address, the entry and its level (R305). -/
structure Leaf where
  at_ : Nat
  pte : Nat
  level : Nat
  deriving DecidableEq, Repr

/-- Who makes an access that is translated: a core, a hart, or a unit of the package that keeps no translation. -/
inductive Who where
  | core (c : Nat)
  | hart (h : Nat)
  | device
  deriving DecidableEq, Repr

/-- A translation held in a TLB: parcel, page number at the leaf's level, leaf (R305). -/
structure TlbEnt where
  parcel : Nat
  vpn : Nat
  leaf : Leaf
  deriving DecidableEq, Repr

/-- A non-leaf entry held in a die's walk cache: the walk of the addresses with prefix `pre` goes on at `base` with
`level` levels left (R305). -/
structure WalkEnt where
  parcel : Nat
  level : Nat
  pre : Nat
  base : Nat
  deriving DecidableEq, Repr

/-- A 64-byte line in the fetch cache of a section: its physical line number, the parcel that tags it, the virtual page
through which it was filled, its bytes (R324). -/
structure CodeLine where
  parcel : Nat
  line : Nat
  vpn : Nat
  bytes : List Byte
  deriving DecidableEq, Repr

/-- The translations and code that the package holds (R305, R324): L1 TLBs by core, section TLBs and fetch caches by
section, walk caches by die, hart TLBs by hart. -/
structure Xlat where
  l1 : Map (List TlbEnt)
  sect : Map (List TlbEnt)
  harts : Map (List TlbEnt)
  walk : Map (List WalkEnt)
  code : Map (List CodeLine)
  deriving DecidableEq, Repr

/-- Why an access that a unit of the package makes by itself cannot be performed yet: its page is in transit (R303), or
missing (R306). -/
inductive Blocked where
  | transit
  | miss (parcel : Nat) (va : Word) (wr : Bool)
  deriving DecidableEq, Repr

/-- A page that a unit of the package waits for (R306, R307): its ticket, and the entry its walk met. The pager did
not supply a page that is `refused`: accesses to it are left out in the step that finds this. -/
structure DevMiss where
  parcel : Nat
  page : Word
  ticket : Ticket
  pte : Nat
  refused : Bool
  deriving DecidableEq, Repr

/-- What is wrong with the next message of the mesh (R395, R402): its body, a request, a counter add. -/
inductive MeshFail where
  | body | request | add
  deriving DecidableEq, Repr

/-- What identifies a message of the mesh (R402): its sender, the parcel under whose mesh key it travels, and the count
in its nonce. -/
structure MeshMsg where
  sender : Nat
  parcel : Nat
  count : Nat
  deriving DecidableEq, Repr

/-- The mesh (R402): how many messages each endpoint has sent, the message sent last, and a failure that the next
message meets. -/
structure Mesh where
  counts : Map Nat
  last : Option MeshMsg
  fail : Option MeshFail
  deriving DecidableEq, Repr

/-- The agents that fetch instructions (R13, R235, R256). -/
inductive Agent where
  | acc (core : Nat)
  | exe (core : Nat)
  | smp (core : Nat)
  | hart (h : Nat)
  deriving DecidableEq, Repr

/-- A page that system software of a parcel maps read-only: its status page, or an entry of the future table (R362,
R393). -/
inductive MappedPage where
  | status
  | future (id : Nat)
  deriving DecidableEq, Repr

/-- A move of the schedule and the environment (log 1). -/
inductive Move where
  | run (a : Agent)
  | event (i : Instr)
  | idle (n : Nat)
  | copyPart (core k : Nat)
  /-- The L2 writes a dirty line back at a time of its own (R296). -/
  | writeBack (line : Nat)
  /-- The L2 replaces a line (R296, R438). -/
  | evict (line : Nat)
  /-- A TLB, walk cache or fetch cache gives up an entry for another: which, and the entry's place in it (R305, R324). -/
  | forget (kind : Nat) (unit_ : Nat) (idx : Nat)
  /-- An error is found by the read of a granule (R396). -/
  | foundError (hit : ScrubHit)
  /-- The next message of the mesh fails its check (R395, R402). -/
  | meshFail (f : MeshFail)
  /-- The host stores to its own memory (R287). -/
  | hostStore (pa : Nat) (data : List Byte)
  /-- A half of host memory becomes poisoned at the host (R394). -/
  | hostPoison (pa : Nat)
  /-- A 16-byte part of a ring's COPY moves (R411). -/
  | ringPart (fn ring : Nat) (idx : BitVec 32) (part : Nat)
  /-- The monitor sends its next SPDM response (R407). -/
  | respond
  /-- A supervisor load of 8 bytes of a page that the monitor or the device maintains (R362, R393). -/
  | mappedRead (h : Nat) (rd : BitVec 5) (page : MappedPage) (off : Nat)
  /-- The service firmware sends a 64-byte block to the monitor's mailbox (R403). -/
  | request (block : List Byte)
  /-- The service firmware sets the grace period (R424). -/
  | setGrace (us : Nat)
  /-- A read of BAR0 (R409). A write of another size or alignment than 8 aligned bytes is discarded and is no move. -/
  | bar0Read (fn reg size : Nat)
  /-- An entry of a function's MSI-X table written by the host (R408). -/
  | msixWrite (fn vec : Nat) (ent : MsixEnt)
  /-- A configuration request, and the port ready to answer it (R408, R426). -/
  | configRead (fn : Nat)
  | portReady
  /-- An HDM decoder programmed, and host accesses of device memory through the decoders (R416). -/
  | hdmWrite (dec : Nat) (d : HdmDec)
  | hdmRead (hpa size : Nat)
  | hdmStore (hpa : Nat) (data : List Byte)
  /-- The host's caches drop their copy of a half of device memory (R286). -/
  | hostDrop (half : Nat)
  /-- The security core stops responding, or responds again (R425). -/
  | securityCore (up : Bool)
  /-- The interrupt lines of a hart from outside its core, as `mip` numbers them (R256, R265). -/
  | hartLines (h : Nat) (mip : Word)
  deriving DecidableEq, Repr

/-- The package. -/
structure State where
  turn : Agent
  agenda : List Move
  cycle : Nat
  freeCtr : Nat
  cores : Map Core
  phys : Phys
  homes : Map Home
  grants : List Grant
  sched : Sched
  parcels : Map Parcel
  cad : Cadastre
  harts : Map Hart
  futures : Map Future
  tree : Tree
  commit : Commit
  host : HostIf
  mgmt : Mgmt
  xl : Xlat
  mesh : Mesh
  /-- The model's own: the access of a unit of the package that the step could not perform (log 56). -/
  blocked : Option Blocked
  devMiss : List DevMiss
  deriving DecidableEq, Repr

/-! ## Reset -/

/-- A stream with no strand (log 5). -/
def Stream.init : Stream :=
  { pc := 0, ir := 0, loops := [], wDone := false, pendT := none, stall := none, since := 0,
    hold := none, retried := none }

/-- The access stream's registers at strand initialisation with a window of no bytes (R37). -/
def AState.init : AState :=
  { regs := bfill 5 0, preds := bfill 3 false, str := Stream.init, at_ := none, spin := none, fuse := none,
    splitAt := none, waitspin := 2048, acnt := 4096, dists := bfill 3 0 }

/-- The execute stream's scalar registers at strand initialisation with a window of no bytes (R37). -/
def XState.init : XState :=
  { regs := bfill 5 0, preds := bfill 3 false, stages := bfill 3 false, str := Stream.init, at_ := none,
    fuse := none, splitAt := none, slim := 0 }

/-- The vector state at strand initialisation (R26, R37). -/
def VState.init : VState :=
  { v := bfill 5 0, m := bfill 3 0, shape := 0x0100F01F, rot := 0, vcnt := 4096, fflags := 0,
    nve := false, prngkey := 0, prngctr := 0, vq := [] }

/-- Queues, tokens and tile registers at strand initialisation (R37). -/
def Shared.init : Shared :=
  { tiles := bfill 4 0, lq := [], sq := [], vlq := [], vsq := [], bqx := [], bqa := [], tokA := 0,
    tokX := 0, pendX := [], lastMove := 0 }

/-- Idle engines (R348). -/
def Engines.init : Engines :=
  { copyq := [], matq := [], smpq := [], runs := [], slots := [], board := [] }

/-- A core that has run no strand (R39's edge column, log 5). -/
def Core.init : Core :=
  { a := AState.init, x := XState.init, vec := VState.init, accs := bfill 2 [], sh := Shared.init,
    eng := Engines.init, run := none, lcs := [], inbox := bfill 2 [], outbox := bfill 2 [], scratch := [],
    poison := [], res := [], nextSlot := 0, urgentRun := 0, edge := none, easement := none, lent := false, decision := 0,
    dispatchAt := 0, wipe := false, acted := [] }

/-- A free counter entry at reset (R352). -/
def Ctr.init : Ctr :=
  { value := 0, gen := 0, owner := Config.freeId, alloc := false, keep := false, launch := 0,
    fut := false }

/-- A home at reset (R352). -/
def Home.init : Home := { entries := [], pool := [], nextSeq := 0, spilled := [] }

/-- No quota is set (R403). -/
def noQuotas : Quotas :=
  { section_ := none, device := none, system := none, launches := none, futures := none, pools := [],
    tiers := [] }

/-- A parcel of which the monitor holds nothing (log 5). -/
def Parcel.init : Parcel :=
  { exists_ := false, root := 0, quotas := noQuotas, fault := none, pager := none,
    shootdown := none, overflow := none, lateRing := none, scopeclamp := 0, violcnt := 0, corrcnt := 0,
    poiscnt := 0, lateDrops := 0, routes := [] }

/-- An inactive parcel entry. -/
def CadParcel.none : CadParcel :=
  { active := false, dphase := false, dcore := false, group := 0, benef := [] }

/-- The default table of R333. -/
def CadTable.default_ : CadTable :=
  { serial := 0, parcels := List.replicate 40 CadParcel.none,
    rows := [{ len := 256, drain := 1024, ways := List.replicate 16 63, link := List.replicate 16 63,
               mem := List.replicate 16 63, sects := List.replicate 192 63 }] }

/-- The cadastre at package reset (R333, R334). -/
def Cadastre.init : Cadastre :=
  { table := CadTable.default_, pending := [], row := 0, rowStart := 0, frames := 0, late := 0,
    sectOwner := List.replicate 192 63, wayOwner := List.replicate 16 63,
    linkOwner := List.replicate 16 63, linkStopped := false, memOwner := List.replicate 16 63,
    memPhase := [], lateWays := [], drainWays := [] }

/-- The RISC-V CSRs that a reset leaves nonzero (log 14): `senvcfg`, `henvcfg` and `menvcfg` allow the cache-block
operations and Sstc, the counter enables let every mode read, `mstatus` has FS and VS Initial and SUM set, `medeleg` and
`mideleg` delegate every exception and the supervisors' interrupts, `stimecmp` and `vstimecmp` are at their end, PMP
entry 0 covers all of memory. -/
def resetCsrs : Map Word :=
  [(0x106, 0xFFFFFFFF), (0x10A, 0xD0), (0x14D, 0xFFFFFFFFFFFFFFFF), (0x24D, 0xFFFFFFFFFFFFFFFF), (0x300, 0x42200),
   (0x302, 0xFFFFFFFFFFFFFFFF), (0x303, 0x1666), (0x306, 0xFFFFFFFF), (0x30A, 0x80000000000000D0), (0x3A0, 0x1F),
   (0x3B0, 0x3FFFFFFFFFFFFF), (0x606, 0xFFFFFFFF), (0x60A, 0x80000000000000D0)]

/-- A hart at reset (R258; general and trap registers log 13, other RISC-V registers log 14). -/
def Hart.init : Hart :=
  { x := bfill 5 0, f := bfill 5 0, v := bfill 5 0, fcsr := 0, csr := resetCsrs, pc := 0, mode := .m, sepc := 0, scause := 0, stval := 0, stvec := 0, spp := false,
    spv := false, spie := false, sie := false, dvcwto := 0, dvcap := bfill 3 0, dvcaplen := bfill 3 0,
    dvctl := 0, dvcause := 0, owner := Config.freeId, policy := .system, ir := 0,
    waitSince := none }

/-- A free future entry at reset (R362). -/
def Future.init : Future :=
  { st := .free, nonce := 0, tag := 0, tool := 0, reason := 0, handle := 0, replyAddr := 0, replyLen := 0,
    tmo := 0, deadline := 0, argAddr := 0, argLen := 0, owner := Config.freeId, origin := 0, late := 0,
    conn := 0, doneAt := 0 }

/-- A ring at reset (R409). -/
def Ring.init : Ring := { rbase := 0, rsize := 0, en := false, rhead := 0, rtail := 0, begun := [] }

/-- A counter interrupt at reset (R409). -/
def CtrInt.init : CtrInt := { cien := false, cidx := 0, cithr := 0 }

/-- An unbound function at reset (R409, R413, R414): the physical function under SYSTEM, a virtual one
under TRAP. -/
def Fn.init (f : Nat) : Fn :=
  { check := { parcel := 63, opMask := 0, bar2 := false, policy := if f = 0 then 0 else 1 }, rings := [],
    ints := [], msix := [], msixWaits := [], ready := true, inreset := false, resetAt := none, bme := false, lost := false }

/-- Physical memory at reset: nothing listed (log 4). -/
def Phys.init : Phys :=
  { mem := [], l2 := [], backing := [], views := [], poison := [], poison16 := [], lines := [], held := [], tree := [],
    epoch := 1, ctrPoison := [], windows := [], frames := [], vaultOwner := [], resv := [] }

/-- No translation and no code is held at reset. -/
def Xlat.init : Xlat := { l1 := [], sect := [], harts := [], walk := [], code := [] }

/-- The scheduler at reset (R311): every entry free with use count 0. -/
def Sched.init : Sched :=
  { launches := [], uses := [], nextOrder := 0, lists := [], nextSeq := 0, queues := [], replays := [],
    nextReplay := 0 }

/-- The host interface at reset (R417, R418, R424). -/
def HostIf.init : HostIf :=
  { fns := [], conns := [], cxl := [], pcieUp := true, cxlUp := true, answering := false,
    portReady := false, hdm := [], quiesced := false, lossAt := none,
    grace := 100000, up := [] }

/-- Firmware and management at reset with empty flash slots (R404, log 5). -/
def Mgmt.init : Mgmt :=
  { slots := [], active := 0, running := none, fuse := 0, extAsym := false, certs := [], asked := [],
    keys := [], log := [], controllerImages := [], controllerActive := 0, secUp := true, up := true }

/-- The package right after reset (R426): no table but the default one, so nothing runs (R333). -/
def State.reset : State :=
  { turn := .acc 0, agenda := [], cycle := 0, freeCtr := 0, cores := [], phys := Phys.init, homes := [],
    grants := [], sched := Sched.init, parcels := [], cad := Cadastre.init, harts := [], futures := [],
    tree := { runs := [], drafts := [] }, commit := { gens := [], revoked := [], closed := [], awaited := [], toZero := [] },
    host := HostIf.init, mgmt := Mgmt.init, xl := Xlat.init, mesh := { counts := [], last := none, fail := none },
    blocked := none, devMiss := [] }

end Sys2Proof.Machine
end

