-- ==== Sys2Proof/Machine/Fp.lean ====
section
/-!
DEFINITION. Exact arithmetic (R8, R9, R81 to R103): floating-point formats as exact dyadic values, one
rounding function for every mode, the FP operations, conversions, stochastic rounding, exponent-aligned
accumulation, the transcendentals with their tables, and the pairwise trees.
-/
namespace Sys2Proof.Machine
open Sys2Proof

/-! ## Integers -/

/-- The comparison of a counter value with a threshold (R8): further apart than 2^62, either result may come
(log 55). -/
def reached (v t : Word) : Bool :=
  if (v - t).toNat ≤ 2 ^ 62 then true
  else if (t - v).toNat ≤ 2 ^ 62 then false
  else Config.reachedFar v t

/-- Arithmetic right shift with the discarded bits rounded half to even (R9). -/
def shrRne (x : Int) (n : Nat) : Int :=
  if n = 0 then x
  else if 64 ≤ n then 0
  else
    let q := x / (2 : Int) ^ n
    let rem := x % (2 : Int) ^ n
    let half := (2 : Int) ^ (n - 1)
    if half < rem || (rem == half && q % 2 == 1) then q + 1 else q

/-- `shr_rne` on an unsigned value (R100). -/
def shruRne (x n : Nat) : Nat := (shrRne (x : Int) n).toNat

/-- The integer square root of `n`, given that it is below `2^k`. -/
def isqrtGo (n : Nat) : Nat → Nat → Nat
  | 0, r => r
  | k + 1, r => if (r + 2 ^ k) * (r + 2 ^ k) ≤ n then isqrtGo n k (r + 2 ^ k) else isqrtGo n k r

/-- The floor of the square root of a value below `2^(2k)`. -/
def isqrt (k n : Nat) : Nat := isqrtGo n k 0

/-! ## Formats and values -/

/-- The floating-point formats of R81. -/
inductive Fmt where
  | f32 | bf16 | f16 | e4m3 | e5m2
  deriving DecidableEq, Repr

/-- Width of a format in bits. -/
def Fmt.width : Fmt → Nat
  | .f32 => 32 | .bf16 => 16 | .f16 => 16 | .e4m3 => 8 | .e5m2 => 8
/-- Fraction bits. -/
def Fmt.fb : Fmt → Nat
  | .f32 => 23 | .bf16 => 7 | .f16 => 10 | .e4m3 => 3 | .e5m2 => 2
/-- Exponent bits. -/
def Fmt.eb : Fmt → Nat
  | .f32 => 8 | .bf16 => 8 | .f16 => 5 | .e4m3 => 4 | .e5m2 => 5
/-- Bias. -/
def Fmt.bias : Fmt → Nat
  | .f32 => 127 | .bf16 => 127 | .f16 => 15 | .e4m3 => 7 | .e5m2 => 15
/-- The bits of the largest finite value, sign 0. -/
def Fmt.maxFin : Fmt → Nat
  | .f32 => 0x7F7FFFFF | .bf16 => 0x7F7F | .f16 => 0x7BFF | .e4m3 => 0x7E | .e5m2 => 0x7B
/-- The bits of +∞; for E4M3, which has none, the saturated value. -/
def Fmt.inf : Fmt → Nat
  | .f32 => 0x7F800000 | .bf16 => 0x7F80 | .f16 => 0x7C00 | .e4m3 => 0x7E | .e5m2 => 0x7C
/-- The canonical NaN. -/
def Fmt.nan : Fmt → Nat
  | .f32 => 0x7FC00000 | .bf16 => 0x7FC0 | .f16 => 0x7E00 | .e4m3 => 0x7F | .e5m2 => 0x7E
/-- Whether out-of-range values saturate (R86). -/
def Fmt.fp8 : Fmt → Bool
  | .e4m3 => true | .e5m2 => true | _ => false
/-- Exponent of the smallest normal value. -/
def Fmt.emin (f : Fmt) : Int := 1 - (f.bias : Int)

/-- A floating-point value: a NaN, an infinity or `±mag × 2^ex`. -/
inductive Fp where
  | nan (sig : Bool)
  | inf (neg : Bool)
  | fin (neg : Bool) (mag : Nat) (ex : Int)
  deriving DecidableEq, Repr

/-- The value of a bit pattern (R81). -/
def unpack (f : Fmt) (x : Nat) : Fp :=
  let neg := x / 2 ^ (f.width - 1) % 2 == 1
  let ec := x / 2 ^ f.fb % 2 ^ f.eb
  let fr := x % 2 ^ f.fb
  if f = .e4m3 then
    if ec = 15 ∧ fr = 7 then .nan false
    else if ec = 0 then .fin neg fr (f.emin - f.fb)
    else .fin neg (2 ^ f.fb + fr) ((ec : Int) - f.bias - f.fb)
  else if ec = 2 ^ f.eb - 1 then
    if fr = 0 then .inf neg else .nan (fr < 2 ^ (f.fb - 1))
  else if ec = 0 then .fin neg fr (f.emin - f.fb)
  else .fin neg (2 ^ f.fb + fr) ((ec : Int) - f.bias - f.fb)

/-- The input flush of R83: a subnormal of FP32, BF16 or FP16 becomes the zero of its sign. -/
def flushIn (f : Fmt) (x : Nat) : Nat :=
  if !f.fp8 && x / 2 ^ f.fb % 2 ^ f.eb == 0 then x / 2 ^ (f.width - 1) % 2 * 2 ^ (f.width - 1) else x

/-- The value of an operand, flushed where the unit flushes (R83). -/
def operand (f : Fmt) (fl : Bool) (x : Nat) : Fp := unpack f (if fl then flushIn f x else x)

/-- Rounding modes; stochastic rounding carries the element's random word (R91). -/
inductive RMode where
  | rne | rz | rd | ru
  | sr (rnd : Nat)
  deriving DecidableEq, Repr

/-- The exception flags, in the order of `FFLAGS` (R26). -/
abbrev Flags := BitVec 5
/-- NV. -/
abbrev fNV : Flags := 0b10000#5
/-- DZ. -/
abbrev fDZ : Flags := 0b01000#5
/-- OF. -/
abbrev fOF : Flags := 0b00100#5
/-- UF. -/
abbrev fUF : Flags := 0b00010#5
/-- NX. -/
abbrev fNX : Flags := 0b00001#5
/-- A set flag, or none. -/
def flagIf (b : Bool) (f : Flags) : Flags := if b then f else 0

/-- A magnitude shifted right by `sh` bits and rounded by the mode (R85, R86, R91), and whether bits were
lost. -/
def roundShift (mode : RMode) (neg : Bool) (mag sh : Nat) : Nat × Bool :=
  let q := mag / 2 ^ sh
  let rem := mag % 2 ^ sh
  if rem = 0 then (q, false)
  else
    let up : Bool :=
      match mode with
      | .rne => 2 ^ sh < 2 * rem || (2 * rem == 2 ^ sh && q % 2 == 1)
      | .rz => false
      | .rd => neg
      | .ru => !neg
      | .sr rnd => rnd < (if 16 ≤ sh then rem / 2 ^ (sh - 16) else rem * 2 ^ (16 - sh))
    (if up then q + 1 else q, true)

/-- A magnitude rounded at the quantum `2^q`: the integer multiple and whether it is inexact. -/
def roundQuantum (mode : RMode) (neg : Bool) (mag : Nat) (ex q : Int) : Nat × Bool :=
  if q ≤ ex then (mag * 2 ^ (ex - q).toNat, false) else roundShift mode neg mag (q - ex).toNat

/-- The bits of a sign and a magnitude pattern. -/
def withSign (f : Fmt) (neg : Bool) (m : Nat) : Nat := if neg then 2 ^ (f.width - 1) + m else m

/-- An overflowed result by mode (R86). -/
def overflowed (f : Fmt) (mode : RMode) (neg : Bool) : Nat :=
  let big : Bool :=
    match mode with
    | .rne => true | .rz => false | .rd => neg | .ru => !neg | .sr _ => true
  withSign f neg (if f.fp8 then f.maxFin else if big then f.inf else f.maxFin)

/-- The bits of `m × 2^q`, in range, a multiple of the format's quantum. -/
def packFin (f : Fmt) (m : Nat) (q : Int) : Nat :=
  if m = 0 then 0
  else
    let e := (Nat.log2 m : Int) + q
    if e < f.emin then m * 2 ^ (q - (f.emin - f.fb)).toNat
    else
      let sig := if Nat.log2 m ≤ f.fb then m * 2 ^ (f.fb - Nat.log2 m) else m / 2 ^ (Nat.log2 m - f.fb)
      (e + f.bias).toNat * 2 ^ f.fb + (sig - 2 ^ f.fb)

/-- A bit pattern and the flags raised. -/
abbrev FpRes := Nat × Flags

/-- The exact nonzero value `±mag × 2^ex` rounded to a format with its overflow, and either the
gradual underflow of IEEE 754 or the result flush of R83. -/
def finish (f : Fmt) (mode : RMode) (fl neg : Bool) (mag : Nat) (ex : Int) : FpRes :=
  if mag = 0 then (withSign f neg 0, 0)
  else
    let qn : Int := (Nat.log2 mag : Int) + ex - f.fb
    let (mu, ixu) := roundQuantum mode neg mag ex qn
    let tiny : Bool := (Nat.log2 mu : Int) + qn < f.emin
    let big (m : Nat) (q : Int) : Bool :=
      f.emin ≤ (Nat.log2 m : Int) + q && f.maxFin < packFin f m q
    if fl && !f.fp8 then
      if tiny then (withSign f neg 0, fUF ||| fNX)
      else if big mu qn then (overflowed f mode neg, fOF ||| fNX)
      else (withSign f neg (packFin f mu qn), flagIf ixu fNX)
    else
      let q := max qn (f.emin - f.fb)
      let (m, ix) := roundQuantum mode neg mag ex q
      if m ≠ 0 && big m q then (overflowed f mode neg, fOF ||| fNX)
      else (withSign f neg (packFin f m q), flagIf (tiny && ix) fUF ||| flagIf ix fNX)

/-- `round_to(F, neg, mag, sc)` (R88); with `fl`, the flush of R83 applied to its result. -/
def roundTo (f : Fmt) (fl neg : Bool) (mag : Nat) (sc : Int) : Nat :=
  if mag = 0 then 0 else (finish f .rne fl neg mag sc).1

/-! ## Arithmetic (R82 to R85, R99, R170) -/

/-- An invalid operation's result. -/
def invalid (f : Fmt) : FpRes := (f.nan, fNV)
/-- The NaN result of an operation with a NaN operand. -/
def nanRes (f : Fmt) (sig : Bool) : FpRes := (f.nan, flagIf sig fNV)
/-- Whether a value is a signaling NaN. -/
def Fp.isSig : Fp → Bool
  | .nan s => s | _ => false
/-- Whether a value is a NaN. -/
def Fp.isNan : Fp → Bool
  | .nan _ => true | _ => false

/-- A sign and magnitude as an integer. -/
def signed (neg : Bool) (m : Nat) : Int := if neg then -(m : Int) else m

/-- The sum of two finite values, exactly, then rounded; an exact zero sum takes the sign of RNE. -/
def addFin (f : Fmt) (fl na : Bool) (ma : Nat) (ea : Int) (nb : Bool) (mb : Nat) (eb : Int) : FpRes :=
  let e := min ea eb
  let x := signed na (ma * 2 ^ (ea - e).toNat) + signed nb (mb * 2 ^ (eb - e).toNat)
  if x = 0 then (withSign f (na && nb && ma == 0 && mb == 0) 0, 0)
  else finish f .rne fl (x < 0) x.natAbs e

/-- a + b. -/
def fpAdd (f : Fmt) (fl : Bool) (a b : Nat) : FpRes :=
  match operand f fl a, operand f fl b with
  | .nan s, y => nanRes f (s || y.isSig)
  | _, .nan s => nanRes f s
  | .inf n, .inf k => if n = k then (withSign f n f.inf, 0) else invalid f
  | .inf n, _ => (withSign f n f.inf, 0)
  | _, .inf n => (withSign f n f.inf, 0)
  | .fin na ma ea, .fin nb mb eb => addFin f fl na ma ea nb mb eb

/-- A pattern with its sign inverted. -/
def fpNeg (f : Fmt) (a : Nat) : Nat :=
  if a / 2 ^ (f.width - 1) % 2 = 1 then a - 2 ^ (f.width - 1) else a + 2 ^ (f.width - 1)

/-- a − b. -/
def fpSub (f : Fmt) (fl : Bool) (a b : Nat) : FpRes := fpAdd f fl a (fpNeg f b)

/-- a × b. -/
def fpMul (f : Fmt) (fl : Bool) (a b : Nat) : FpRes :=
  match operand f fl a, operand f fl b with
  | .nan s, y => nanRes f (s || y.isSig)
  | _, .nan s => nanRes f s
  | .inf n, .inf k => (withSign f (n != k) f.inf, 0)
  | .inf n, .fin k m _ => if m = 0 then invalid f else (withSign f (n != k) f.inf, 0)
  | .fin k m _, .inf n => if m = 0 then invalid f else (withSign f (n != k) f.inf, 0)
  | .fin na ma ea, .fin nb mb eb => finish f .rne fl (na != nb) (ma * mb) (ea + eb)

/-- a / b. -/
def fpDiv (f : Fmt) (fl : Bool) (a b : Nat) : FpRes :=
  match operand f fl a, operand f fl b with
  | .nan s, y => nanRes f (s || y.isSig)
  | _, .nan s => nanRes f s
  | .inf _, .inf _ => invalid f
  | .inf n, .fin k _ _ => (withSign f (n != k) f.inf, 0)
  | .fin k _ _, .inf n => (withSign f (n != k) 0, 0)
  | .fin na ma ea, .fin nb mb eb =>
    if mb = 0 then
      if ma = 0 then invalid f else (withSign f (na != nb) f.inf, fDZ)
    else if ma = 0 then (withSign f (na != nb) 0, 0)
    else
      let k : Nat := 64
      let q := ma * 2 ^ k / mb
      let st := if ma * 2 ^ k % mb = 0 then 0 else 1
      finish f .rne fl (na != nb) (2 * q + st) (ea - eb - (k : Int) - 1)

/-- √a. -/
def fpSqrt (f : Fmt) (fl : Bool) (a : Nat) : FpRes :=
  match operand f fl a with
  | .nan s => nanRes f s
  | .inf true => invalid f
  | .inf false => (f.inf, 0)
  | .fin neg m e =>
    if m = 0 then (withSign f neg 0, 0)
    else if neg then invalid f
    else
      let m' := (if e % 2 = 0 then m else 2 * m) * 2 ^ 64
      let e' := (if e % 2 = 0 then e else e - 1) - 64
      let r := isqrt 48 m'
      let st := if r * r = m' then 0 else 1
      finish f .rne fl false (2 * r + st) (e' / 2 - 1)

/-- 1 / a, with the flags of the division (R84, R99). A signaling NaN raises NV, which R168's column for `frcp` does not
name: the model's choice (log 65). -/
def fpRcp (f : Fmt) (fl : Bool) (a : Nat) : FpRes := fpDiv f fl (f.bias * 2 ^ f.fb) a

/-- 1 / √a. -/
def fpRsq (f : Fmt) (fl : Bool) (a : Nat) : FpRes :=
  match operand f fl a with
  | .nan s => nanRes f s
  | .inf true => invalid f
  | .inf false => (0, 0)
  | .fin neg m e =>
    if m = 0 then (withSign f neg f.inf, fDZ)
    else if neg then invalid f
    else
      let m' := if e % 2 = 0 then m else 2 * m
      let e' := if e % 2 = 0 then e else e - 1
      let n := 2 ^ 128 / m'
      let r := isqrt 66 n
      let st := if r * r * m' = 2 ^ 128 then 0 else 1
      finish f .rne fl false (2 * r + st) (-(e' / 2) - 64 - 1)

/-- a × b + c with one rounding; `np` negates the product and `nc` the addend (R170). -/
def fpFma (f : Fmt) (fl np nc : Bool) (a b c : Nat) : FpRes :=
  let x := operand f fl a
  let y := operand f fl b
  let z := operand f fl c
  let sig := x.isSig || y.isSig || z.isSig
  let addInf (n : Bool) : FpRes :=
    match z with
    | .nan _ => nanRes f sig
    | .inf k => if n = (k != nc) then (withSign f n f.inf, 0) else invalid f
    | .fin _ _ _ => (withSign f n f.inf, 0)
  match x, y with
  | .nan _, _ => nanRes f sig
  | _, .nan _ => nanRes f sig
  | .inf n, .inf k => addInf ((n != k) != np)
  | .inf n, .fin k m _ => if m = 0 then invalid f else addInf ((n != k) != np)
  | .fin k m _, .inf n => if m = 0 then invalid f else addInf ((n != k) != np)
  | .fin na ma ea, .fin nb mb eb =>
    match z with
    | .nan _ => nanRes f sig
    | .inf k => (withSign f (k != nc) f.inf, 0)
    | .fin n mc ec => addFin f fl ((na != nb) != np) (ma * mb) (ea + eb) (n != nc) mc ec

/-- The order of two numbers as IEEE compares them (zeros equal): a < b. -/
def ltVal : Fp → Fp → Bool
  | .inf n, .inf k => n && !k
  | .inf n, .fin _ _ _ => n
  | .fin _ _ _, .inf k => !k
  | .fin na ma ea, .fin nb mb eb =>
    let e := min ea eb
    decide (signed na (ma * 2 ^ (ea - e).toNat) < signed nb (mb * 2 ^ (eb - e).toNat))
  | _, _ => false

/-- Whether two numbers are equal as IEEE compares them. -/
def eqVal (a b : Fp) : Bool := !a.isNan && !b.isNan && !ltVal a b && !ltVal b a

/-- The sign of a value. -/
def Fp.neg : Fp → Bool
  | .inf n => n | .fin n _ _ => n | .nan _ => false

/-- The total order of numbers in which −0 lies below +0 (R85): a < b. -/
def ltTot (a b : Fp) : Bool := ltVal a b || (eqVal a b && a.neg && !b.neg)

/-- minimumNumber and maximumNumber (R85). -/
def fpMinMax (f : Fmt) (fl mx : Bool) (a b : Nat) : FpRes :=
  let a' := if fl then flushIn f a else a
  let b' := if fl then flushIn f b else b
  let x := unpack f a'
  let y := unpack f b'
  let nv := flagIf (x.isSig || y.isSig) fNV
  match x.isNan, y.isNan with
  | true, true => (f.nan, nv)
  | true, false => (b', nv)
  | false, true => (a', nv)
  | false, false => (if (if mx then ltTot x y else ltTot y x) then b' else a', 0)

/-- The class mask of R169. -/
def fpClass (f : Fmt) (a : Nat) : Nat :=
  match unpack f a with
  | .nan true => 256
  | .nan false => 512
  | .inf n => if n then 1 else 128
  | .fin n m e =>
    if m = 0 then (if n then 8 else 16)
    else if (Nat.log2 m : Int) + e < f.emin then (if n then 4 else 32)
    else (if n then 2 else 64)

/-- The `fcmp` conditions of R171: truth and whether NV is raised; 6 and 7 are reserved. -/
def fpCmp (f : Fmt) (fl : Bool) (cond : BitVec 3) (a b : Nat) : Bool × Flags :=
  let x := operand f fl a
  let y := operand f fl b
  let un := x.isNan || y.isNan
  let sig := flagIf (x.isSig || y.isSig) fNV
  match cond.toNat with
  | 0 => (eqVal x y, sig)
  | 1 => (!un && ltVal x y, flagIf un fNV)
  | 2 => (!un && !ltVal y x, flagIf un fNV)
  | 3 => (!eqVal x y, sig)
  | 4 => (un, sig)
  | _ => (!un, sig)

/-! ## Conversions (R86 to R88, R91) -/

/-- A conversion between floating-point formats: input flushed when `fl`, result rounded by the mode and
flushed when `fl` (R83, R86). -/
def fpConv (src dst : Fmt) (fl : Bool) (mode : RMode) (a : Nat) : FpRes :=
  match operand src fl a with
  | .nan s => nanRes dst s
  | .inf n => (withSign dst n (if dst.fp8 then dst.maxFin else dst.inf), flagIf dst.fp8 fOF)
  | .fin n m e => finish dst mode fl n m e

/-- A signed integer as a floating-point value (R88), with NX when inexact. -/
def intToFp (f : Fmt) (fl : Bool) (mode : RMode) (x : Int) : FpRes :=
  if x = 0 then (0, 0) else finish f mode fl (x < 0) x.natAbs 0

/-- An FP32 value as an integer in [lo, hi], saturating (R87). -/
def fpToInt (src : Fmt) (fl : Bool) (mode : RMode) (lo hi : Int) (a : Nat) : Int × Flags :=
  match operand src fl a with
  | .nan _ => (0, fNV)
  | .inf n => (if n then lo else hi, fNV)
  | .fin n m e =>
    let (r, ix) := roundQuantum mode n m e 0
    let v := signed n r
    if v < lo then (lo, fNV) else if hi < v then (hi, fNV) else (v, flagIf ix fNX)

/-- The integer conversion of a pair M × 2^E, ties to even, saturated (R98). -/
def dyadicToInt (lo hi : Int) (m : Int) (e : Int) : Int :=
  let (r, _) := roundQuantum .rne (m < 0) m.natAbs e 0
  let v := signed (m < 0) r
  if v < lo then lo else if hi < v then hi else v

/-! ## Philox (R89, R90) -/

/-- One round of Philox-4x32. -/
def philoxRound (c : BitVec 32 × BitVec 32 × BitVec 32 × BitVec 32) (k : BitVec 32 × BitVec 32) :
    BitVec 32 × BitVec 32 × BitVec 32 × BitVec 32 :=
  let p0 : BitVec 64 := 0xD2511F53#64 * c.1.setWidth 64
  let p1 : BitVec 64 := 0xCD9E8D57#64 * c.2.2.1.setWidth 64
  (p1.extractLsb' 32 32 ^^^ c.2.1 ^^^ k.1, p1.extractLsb' 0 32,
   p0.extractLsb' 32 32 ^^^ c.2.2.2 ^^^ k.2, p0.extractLsb' 0 32)

/-- The rounds left. -/
def philoxGo : Nat → BitVec 32 × BitVec 32 × BitVec 32 × BitVec 32 → BitVec 32 × BitVec 32 →
    BitVec 32 × BitVec 32 × BitVec 32 × BitVec 32
  | 0, c, _ => c
  | n + 1, c, k => philoxGo n (philoxRound c k) (k.1 + 0x9E3779B9#32, k.2 + 0xBB67AE85#32)

/-- The Philox-4x32-10 block as a 128-bit value (R89). -/
def philox (c0 c1 c2 c3 k0 k1 : BitVec 32) : BitVec 128 :=
  let r := philoxGo 10 (c0, c1, c2, c3) (k0, k1)
  r.2.2.2 ++ r.2.2.1 ++ r.2.1 ++ r.1

/-- Block `b` of a core's stochastic-rounding stream (R90). -/
def srBlock (core : Nat) (key b : Word) : BitVec 128 :=
  philox (b.extractLsb' 0 32) (b.extractLsb' 32 32) (BitVec.ofNat 32 core) 0
    (key.extractLsb' 0 32) (key.extractLsb' 32 32)

/-- Word `w` of a block (R89). -/
def srWord (blk : BitVec 128) (w : Nat) : Nat := (blk.extractLsb' (16 * w) 16).toNat

/-! ## Exponent-aligned accumulation (R97, R98) -/

/-- The empty exponent. -/
abbrev eEmpty : Int := -32768
/-- The exponent of the special values. -/
abbrev eSpecial : Int := 32767
/-- Whether a mantissa fits 48 bits. -/
def fits48 (m : Int) : Bool := -0x800000000000 ≤ m && m ≤ 0x7FFFFFFFFFFF

/-- The smallest shift that fits, searched from `s`. -/
def normShift (m : Int) : Nat → Nat → Nat
  | 0, s => s
  | k + 1, s => if fits48 (shrRne m s) then s else normShift m k (s + 1)

/-- `norm` of R97. -/
def alnNorm (m e : Int) : Int × Int :=
  let s := normShift m 17 0
  if 32766 < e + s then (if m < 0 then -1 else 1, eSpecial) else (shrRne m s, e + s)

/-- `special` of R97. It gives an infinity with the mantissa it already had, the running value's where two of one sign
meet: R97 and R173 say which infinity and not its mantissa; the model's choice (log 64). -/
def alnSpecial (M E m e : Int) : Int × Int :=
  if (E = eSpecial ∧ M = 0) ∨ (e = eSpecial ∧ m = 0) then (0, eSpecial)
  else if E = eSpecial ∧ e = eSpecial then
    if (M < 0) = (m < 0) then (M, eSpecial) else (0, eSpecial)
  else if E = eSpecial then (M, eSpecial)
  else (m, eSpecial)

/-- `aln_add` of R97. -/
def alnAdd (M E m e : Int) : Int × Int :=
  if e = eEmpty then (M, E)
  else if E = eSpecial ∨ e = eSpecial then alnSpecial M E m e
  else
    let (m, e) := alnNorm m e
    if E = eEmpty then (m, e)
    else if e = eSpecial then alnSpecial M E m e
    else
      let E1 := max E e
      let M1 := shrRne M (E1 - E).toNat + shrRne m (E1 - e).toNat
      if fits48 M1 then (M1, E1)
      else if E1 + 1 = eSpecial then (if shrRne M1 1 < 0 then -1 else 1, eSpecial)
      else (shrRne M1 1, E1 + 1)

/-- The packed pair of a scalar register or ME element (R97). -/
def packPair (p : Int × Int) : Word := BitVec.ofInt 48 p.1 ++ BitVec.ofInt 16 p.2
/-- The pair in a packed word. -/
def unpackPair (w : Word) : Int × Int := ((w.extractLsb' 16 48).toInt, (w.extractLsb' 0 16).toInt)

/-- A pair converted to F32 or BF16 (R98). -/
def pairToFp (f : Fmt) (p : Int × Int) : Nat :=
  if p.2 = eEmpty then 0
  else if p.2 = eSpecial then
    if p.1 = 0 then f.nan else withSign f (p.1 < 0) f.inf
  else roundTo f true (p.1 < 0) p.1.natAbs p.2

/-- A pair converted to I32 (R98). -/
def pairToI32 (p : Int × Int) : Int :=
  if p.2 = eEmpty then 0
  else if p.2 = eSpecial then
    if p.1 = 0 then 0 else if p.1 < 0 then -0x80000000 else 0x7FFFFFFF
  else dyadicToInt (-0x80000000) 0x7FFFFFFF p.1 p.2

/-! ## Transcendentals (R100, R101) -/

/-- Entries 0 to 15 of T. -/
def tabT0 : List Nat :=
  [1073741824, 1085434106, 1097253708, 1109202018,
   1121280436, 1133490379, 1145833280, 1158310587,
   1170923762, 1183674286, 1196563654, 1209593378,
   1222764986, 1236080024, 1249540052, 1263146652]

/-- Entries 16 to 31 of T. -/
def tabT1 : List Nat :=
  [1276901417, 1290805962, 1304861917, 1319070932,
   1333434672, 1347954824, 1362633090, 1377471191,
   1392470869, 1407633882, 1422962010, 1438457051,
   1454120821, 1469955159, 1485961921, 1502142985]

/-- Entries 32 to 47 of T. -/
def tabT2 : List Nat :=
  [1518500250, 1535035634, 1551751076, 1568648537,
   1585730000, 1602997467, 1620452965, 1638098541,
   1655936265, 1673968228, 1692196547, 1710623359,
   1729250827, 1748081133, 1767116489, 1786359126]

/-- Entries 48 to 63 of T. -/
def tabT3 : List Nat :=
  [1805811301, 1825475297, 1845353420, 1865448001,
   1885761398, 1906295993, 1927054196, 1948038440,
   1969251188, 1990694927, 2012372174, 2034285470,
   2056437387, 2078830522, 2101467502, 2124350982]

/-- The table T of R100. -/
def tabT : List Nat := tabT0 ++ tabT1 ++ tabT2 ++ tabT3

/-- Entries 0 to 15 of RC. -/
def tabRC0 : List Nat :=
  [1073741824, 1057222720, 1041204193, 1025663832,
   1010580541, 995934446, 981706811, 967879955,
   954437177, 941362696, 928641578, 916259690,
   904203642, 892460737, 881018933, 869866795]

/-- Entries 16 to 31 of RC. -/
def tabRC1 : List Nat :=
  [858993460, 848388602, 838042400, 827945503,
   818089009, 808464433, 799063683, 789879043,
   780903145, 772128953, 763549742, 755159086,
   746950835, 738919105, 731058264, 723362914]

/-- Entries 32 to 47 of RC. -/
def tabRC2 : List Nat :=
  [715827883, 708448214, 701219151, 694136129,
   687194768, 680390859, 673720361, 667179386,
   660764200, 654471208, 648296951, 642238101,
   636291452, 630453916, 624722516, 619094386]

/-- Entries 48 to 63 of RC. -/
def tabRC3 : List Nat :=
  [613566757, 608136963, 602802428, 597560668,
   592409283, 587345956, 582368447, 577474595,
   572662307, 567929560, 563274400, 558694933,
   554189329, 549755814, 545392673, 541098243]

/-- The table RC of R100. -/
def tabRC : List Nat := tabRC0 ++ tabRC1 ++ tabRC2 ++ tabRC3

/-- Entries 0 to 15 of LT. -/
def tabLT0 : List Nat :=
  [0, 103153324409793609, 204731739352141108, 304782594828752867,
   403351157091607934, 500480716302239833, 596212678373413616, 690586690639101314,
   783640752558224646, 875411257170252902, 965933154298152810, 1055239954359270915,
   1143363841909464460, 1230335758368656834, 1316185418676114242, 1400941422355340620]

/-- Entries 16 to 31 of LT. -/
def tabLT1 : List Nat :=
  [1484631287934686382, 1567281504148273038, 1648917574361573384, 1729564100642941994,
   1809244771477922747, 1887982449576722704, 1965799209214409969, 2042716326274841920,
   2118754369769464480, 2193933204243999824, 2268272043203804535, 2341789433723107337,
   2414503344395940201, 2486431148091130271, 2557589645512050661, 2627995132361409101]

/-- Entries 32 to 47 of LT. -/
def tabLT2 : List Nat :=
  [2697663382781912767, 2766609664459424997, 2834848787493092092, 2902395122037236250,
   2969262582065700781, 3035464689948006198, 3101014539679885453, 3165924880723891397,
   3230208048706167115, 3293876057476256628, 3356940576059180583, 3419412927437608148,
   3481304131467432405, 3542624899692531421, 3603385663900478878, 3663596533013725322]

/-- Entries 48 to 63 of LT. -/
def tabLT3 : List Nat :=
  [3723267401314340368, 3782407845542540339, 3841027227789541236, 3899134638526954600,
   3956738950399019654, 4013848797004416254, 4070472609035941866, 4126618561407294686,
   4182294669942058151, 4237508741862551966, 4292268360270766701, 4346580964211172794,
   4400453777637095017, 4453893881037596441, 4506908153291659263, 4559503334518255543]

/-- The table LT of R100. -/
def tabLT : List Nat := tabLT0 ++ tabLT1 ++ tabLT2 ++ tabLT3

/-- The constant LOG2E of R100. -/
def cLOG2E : Nat := 0x3FB8AA3B
/-- The constant NEG2LOG2E of R100. -/
def cNEG2LOG2E : Nat := 0xC038AA3B

/-- `exp2t` (R100) with its flags (R101). -/
def exp2t (x : Nat) : FpRes :=
  match operand .f32 true x with
  | .nan s => nanRes .f32 s
  | .inf n => (if n then 0 else Fmt.inf .f32, 0)
  | .fin neg m e =>
    if !ltVal (.fin neg m e) (.fin false 1 7) then (Fmt.inf .f32, fOF)
    else if ltVal (.fin neg m e) (.fin true 63 1) then (0, fUF)
    else
      let X := signed neg (roundQuantum .rne neg m e (-23)).1
      let i := X / 2 ^ 23
      let f := (X % 2 ^ 23).toNat
      let j := f / 2 ^ 17
      let q := f % 2 ^ 17 * 2 ^ 9
      let q2 := q * q / 2 ^ 32
      let q3 := q2 * q / 2 ^ 32
      let P := 2 ^ 32 + 2977044472 * q / 2 ^ 32 + 1031764991 * q2 / 2 ^ 32 + 238388332 * q3 / 2 ^ 32
      let S := shruRne (tabT.getD j 0 * P) 39
      let i' := if S = 0x1000000 then i + 1 else i
      let S' := if S = 0x1000000 then 0x800000 else S
      if i' = 128 then (Fmt.inf .f32, fOF)
      else ((i' + 127).toNat * 2 ^ 23 + (S' - 0x800000), 0)

/-- `log2t` (R100) with its flags (R101). -/
def log2t (x : Nat) : FpRes :=
  let x := flushIn .f32 x
  match unpack .f32 x with
  | .nan s => nanRes .f32 s
  | .inf n => if n then invalid .f32 else (Fmt.inf .f32, 0)
  | .fin neg m _ =>
    if m = 0 then (withSign .f32 true (Fmt.inf .f32), fDZ)
    else if neg then invalid .f32
    else
      let e : Int := (x / 2 ^ 23 % 256 : Nat) - 127
      let fr := x % 2 ^ 23
      let j := fr / 2 ^ 17
      let y := ((0x800000 + fr) * tabRC.getD j 0 - 2 ^ 53) * 2 ^ 7
      let y2 := y * y / 2 ^ 60
      let y3 := y2 * y / 2 ^ 60
      let y4 := y3 * y / 2 ^ 60
      let L := 3098164009 * y + 1032721336 * y3 - (1549082005 * y2 + 774541002 * y4)
      let F := tabLT.getD j 0 + L / 2 ^ 29
      if 0 ≤ e then (roundTo .f32 false false (e.toNat * 2 ^ 62 + F) (-62), 0)
      else (roundTo .f32 false true ((-e).toNat * 2 ^ 62 - F) (-62), 0)

/-- `tanht` (R100) with its flags (R101). -/
def tanht (x : Nat) : FpRes :=
  let x := flushIn .f32 x
  match unpack .f32 x with
  | .nan s => nanRes .f32 s
  | v =>
    let neg := v.neg
    let a := x % 2 ^ 31
    if a < 0x39800000 then (x, 0)
    else if 0x41100000 ≤ a then (withSign .f32 neg 0x3F800000, 0)
    else
      let t := (exp2t (fpMul .f32 true a cNEG2LOG2E).1).1
      let q := (fpDiv .f32 true (fpSub .f32 true 0x3F800000 t).1 (fpAdd .f32 true 0x3F800000 t).1).1
      (withSign .f32 neg (q % 2 ^ 31), 0)

/-! ## Trees (R102, R103) -/

/-- One level of a pairwise tree. -/
def treeLevel (g : Nat → Nat → FpRes) : List Nat → List Nat × Flags
  | a :: b :: xs =>
    let r := g a b
    let t := treeLevel g xs
    (r.1 :: t.1, r.2 ||| t.2)
  | xs => (xs, 0)

/-- The levels of a pairwise tree of `2^k` leaves. -/
def treeGo (g : Nat → Nat → FpRes) : Nat → List Nat → List Nat × Flags
  | 0, xs => (xs, 0)
  | k + 1, xs =>
    let l := treeLevel g xs
    let t := treeGo g k l.1
    (t.1, l.2 ||| t.2)

/-- The exponent of the smallest power of two at or above `n`. -/
def log2Up (n : Nat) : Nat := if n ≤ 1 then 0 else Nat.log2 (n - 1) + 1

/-- Leaves padded to a power of two. -/
def padTo (k : Nat) (pad : Nat) (xs : List Nat) : List Nat := xs ++ List.replicate (2 ^ k - xs.length) pad

/-- `tree_sum` (R102) in a format, with its flags; a lone NaN becomes canonical. -/
def treeSum (f : Fmt) (xs : List Nat) : FpRes :=
  let ys := xs.map (flushIn f)
  if ys.length ≤ 1 then
    match unpack f (ys.headD 0) with
    | .nan s => nanRes f s
    | _ => (ys.headD 0, 0)
  else
    let k := log2Up ys.length
    let r := treeGo (fpAdd f true) k (padTo k 0 ys)
    (r.1.headD 0, r.2)

/-- The max or min tree (R103); inactive elements stand as the canonical NaN. -/
def treeMinMax (f : Fmt) (mx : Bool) (xs : List Nat) : FpRes :=
  let ys := xs.map (flushIn f)
  let k := max 1 (log2Up ys.length)
  let r := treeGo (fpMinMax f true mx) k (padTo k f.nan ys)
  (r.1.headD 0, r.2)

/-- The lowest index, from `i`, of an element equal to the maximum in the order of R85. -/
def argmaxGo (f : Fmt) (m : Nat) : Nat → List (Option Nat) → Nat
  | _, [] => 0xFFFFFFFF
  | i, x :: xs => if x.map (flushIn f) = some m then i else argmaxGo f m (i + 1) xs

/-- Argmax over elements, `none` for an inactive one (R103). -/
def argmax (f : Fmt) (xs : List (Option Nat)) : FpRes :=
  let m := treeMinMax f true (xs.map fun x => x.getD f.nan)
  if (unpack f m.1).isNan then (0xFFFFFFFF, m.2) else (argmaxGo f m.1 0 xs, m.2)

end Sys2Proof.Machine
end

