-- ==== Sys2Proof/Machine/Quant.lean ====
section
/-!
DEFINITION. Block scales, quantisation and the bit-plane layout (R93 to R96, R204 to R206), and the
format windows of the memory controllers (R300, R301).
-/
namespace Sys2Proof.Machine
open Sys2Proof

/-- The floor of the base-2 logarithm of `m × 2^e`, `m` nonzero. -/
def floorLog2 (m : Nat) (e : Int) : Int := (Nat.log2 m : Int) + e

/-- Whether |x| < |y| for finite magnitudes. -/
def ltMag (mx : Nat) (ex : Int) (my : Nat) (ey : Int) : Bool :=
  let e := min ex ey
  mx * 2 ^ (ex - e).toNat < my * 2 ^ (ey - e).toNat

/-- The largest magnitude of a list of finite values. -/
def maxMag : List (Nat × Int) → Nat × Int
  | [] => (0, 0)
  | x :: xs => let m := maxMag xs; if ltMag m.1 m.2 x.1 x.2 then x else m

/-- The magnitudes of the finite values of a list. -/
def finMags : List Fp → List (Nat × Int)
  | [] => []
  | .fin _ m e :: xs => (m, e) :: finMags xs
  | _ :: xs => finMags xs

/-- The block scale code of R204 from exact values. -/
def blockScale (xs : List Fp) : Byte :=
  if xs.any fun x => match x with | .fin _ _ _ => false | _ => true then 255#8
  else
    let m := maxMag (finMags xs)
    if m.1 = 0 then 0#8
    else
      let c := min (floorLog2 m.1 m.2 + 128) 254
      if c < 0 then Config.scaleBelow c else BitVec.ofInt 8 c

/-- `round(mode, x × 2^(127 + (n − 1) − S))` saturated to n bits, with its flags (R205). -/
def quantise (mode : RMode) (n : Nat) (S : Nat) (x : Fp) : Int × Flags :=
  let lo : Int := -(2 ^ (n - 1))
  let hi : Int := 2 ^ (n - 1) - 1
  if S = 255 then (0, 0)
  else
    match x with
    | .nan _ => (0, fNV)
    | .inf neg => (if neg then lo else hi, fOF ||| fNX)
    | .fin neg m e =>
      let (r, ix) := roundQuantum mode neg m (e + (127 + (n - 1) - S : Int)) 0
      let v := signed neg r
      if v < lo then (lo, fOF ||| fNX) else if hi < v then (hi, fOF ||| fNX)
      else (v, flagIf ix fNX)

/-- The read of the first k planes of an n-plane element (R95). -/
def planeRead (n k : Nat) (x : Int) : Int :=
  x / 2 ^ (n - k) * 2 ^ (n - k) + (if k < n then 2 ^ (n - k - 1) else 0)

/-- A plane count's bits as a two's-complement integer, the sign in bit n − 1 (R94). -/
def signExt (n : Nat) (u : Nat) : Int := if 2 ^ (n - 1) ≤ u then (u : Int) - 2 ^ n else u

/-- The offset in a BPN row of plane j of element k (R94): byte and bit. -/
def planeAt (n j k : Nat) : Nat × Nat :=
  ((k / 128 * n + j) * 16 + k % 128 / 8, k % 8)

/-- The n-plane element k of a BPN row read through its bytes; the planes from `kp` on read 0. -/
def rowElem (n kp k : Nat) (row : Nat → Byte) : Int :=
  signExt n ((List.range kp).foldl (fun acc j =>
    let a := planeAt n j k
    acc + (if (row a.1).getLsbD a.2 then 2 ^ (n - 1 - j) else 0)) 0)

end Sys2Proof.Machine

namespace Sys2Proof

/-! ## Format windows -/

/-- The enable bit of a window. -/
def FormatWindow.en (w : FormatWindow) : Bool := w.ctl.getLsbD 63
/-- Row length K in elements. -/
def FormatWindow.k (w : FormatWindow) : Nat := 128 * ((w.ctl.extractLsb' 16 16).toNat + 1)
/-- Rows R. -/
def FormatWindow.rows (w : FormatWindow) : Nat := (w.ctl.extractLsb' 32 20).toNat + 1
/-- Stored plane count. -/
def FormatWindow.npl (w : FormatWindow) : Nat := (w.ctl.extractLsb' 8 4).toNat
/-- Interchange format number. -/
def FormatWindow.fmt (w : FormatWindow) : Nat := (w.ctl.extractLsb' 0 4).toNat
/-- Physical bases (R300). -/
def FormatWindow.srcPa (w : FormatWindow) : Nat := (w.src.extractLsb' 0 52).toNat
def FormatWindow.sclPa (w : FormatWindow) : Nat := (w.scl.extractLsb' 0 52).toNat
def FormatWindow.viewPa (w : FormatWindow) : Nat := (w.view.extractLsb' 0 52).toNat
/-- Bytes of a plane row. -/
def FormatWindow.p (w : FormatWindow) : Nat := w.k / 128 * w.npl * 16
/-- The base of the scale rows, V_S. -/
def FormatWindow.vs (w : FormatWindow) : Nat := (w.viewPa + w.rows * w.p + 4095) / 4096 * 4096
/-- The end of the view. -/
def FormatWindow.viewEnd (w : FormatWindow) : Nat := w.vs + w.rows * (w.k / 32)
/-- Bits of an interchange element. -/
def FormatWindow.ebits (w : FormatWindow) : Nat :=
  match w.fmt with
  | 0 => 16 | 1 => 8 | 2 => 8 | 3 => 6 | 4 => 6 | 5 => 4 | _ => 8
/-- Blocks of 32 elements. -/
def FormatWindow.blocks (w : FormatWindow) : Nat := w.rows * (w.k / 32)

/-- A window's controller group validity of its fields (R300). -/
def FormatWindow.valid (w : FormatWindow) : Bool := w.fmt ≤ 6 && 2 ≤ w.npl && w.npl ≤ 8

end Sys2Proof

namespace Sys2Proof.Machine
open Sys2Proof

/-- Exponent bits, fraction bits and bias of the small OCP element formats (MXFP6, MXFP4). -/
def smallFmt : Nat → Nat × Nat × Int
  | 3 => (3, 2, 3)
  | 4 => (2, 3, 1)
  | _ => (2, 1, 1)

/-- An interchange element's exact value before its scale (R301). -/
def elemVal (fmt u : Nat) : Fp :=
  match fmt with
  | 0 => unpack .bf16 u
  | 1 => unpack .e4m3 u
  | 2 => unpack .e5m2 u
  | 6 => let v := signExt 8 u; .fin (v < 0) v.natAbs (-6)
  | f =>
    let (eb, fb, bias) := smallFmt f
    let neg := u / 2 ^ (eb + fb) % 2 == 1
    let ec := u / 2 ^ fb % 2 ^ eb
    let fr := u % 2 ^ fb
    if ec = 0 then .fin neg fr (1 - bias - fb) else .fin neg (2 ^ fb + fr) ((ec : Int) - bias - fb)

/-- A value times a power of two. -/
def Fp.scale (x : Fp) (k : Int) : Fp :=
  match x with
  | .fin n m e => .fin n m (e + k) | y => y

/-- A little-endian number of bytes read one by one. -/
def leRead (rd : Nat → Byte) (a : Nat) : Nat → Nat
  | 0 => 0
  | n + 1 => (rd a).toNat + 256 * leRead rd (a + 1) n

/-- The values of a block of 32 elements from the backing range (R301 step 1). -/
def blockVals (w : FormatWindow) (rd : Nat → Byte) (b : Nat) : List Fp :=
  let X : Int := if w.fmt = 0 then 127 else ((rd (w.sclPa + b)).toNat : Int)
  let raw := leRead rd (w.srcPa + b * 4 * w.ebits) (4 * w.ebits)
  (List.range 32).map fun k =>
    if X = 255 then .nan false
    else (elemVal w.fmt (raw / 2 ^ (k * w.ebits) % 2 ^ w.ebits)).scale (X - 127)

/-- The scale code of a block in the view (R301 step 2). -/
def viewScale (w : FormatWindow) (rd : Nat → Byte) (b : Nat) : Byte :=
  blockScale (blockVals w rd b)

/-- Element k of a block quantised into the view (R301 step 3). -/
def viewElem (w : FormatWindow) (rd : Nat → Byte) (b k : Nat) : Int :=
  (quantise .rne w.npl (viewScale w rd b).toNat ((blockVals w rd b).getD k (.nan false))).1

/-- A byte of eight bits. -/
def byteOfBits (f : Nat → Bool) : Byte :=
  BitVec.ofNat 8 ((List.range 8).foldl (fun a i => a + if f i then 2 ^ i else 0) 0)

/-- A view byte decoded from the backing range (R300, R301). -/
def viewClean (w : FormatWindow) (rd : Nat → Byte) (pa : Nat) : Byte :=
  if pa < w.viewPa + w.rows * w.p then
    let o := pa - w.viewPa
    let r := o / w.p
    let c := o % w.p
    let g := c / 16 / w.npl
    let j := c / 16 % w.npl
    let k0 := g * 128 + c % 16 * 8
    let b := r * (w.k / 32) + k0 / 32
    byteOfBits fun i =>
      ((viewElem w rd b (k0 % 32 + i)) / 2 ^ (w.npl - 1 - j)) % 2 = 1
  else if w.vs ≤ pa ∧ pa < w.viewEnd then viewScale w rd (pa - w.vs)
  else 0

/-- An exact value rounded to a small OCP format with saturation. -/
def roundSmall (fmt : Nat) (neg : Bool) (mag : Nat) (ex : Int) : Nat :=
  let (eb, fb, bias) := smallFmt fmt
  let sgn := if neg then 2 ^ (eb + fb) else 0
  if mag = 0 then sgn
  else
    let q := max ((Nat.log2 mag : Int) + ex - fb) (1 - bias - fb)
    let m := (roundQuantum .rne neg mag ex q).1
    let top := 2 ^ (eb + fb) - 1
    let bits :=
      if m = 0 then 0
      else if m < 2 ^ fb then m
      else
        let e := (Nat.log2 m : Int) + q + bias
        e.toNat * 2 ^ fb + (m / 2 ^ (Nat.log2 m - fb) - 2 ^ fb)
    sgn + min bits top

/-- The largest exponent of an MX element format (R301). -/
def emaxOf : Nat → Int
  | 1 => 8 | 2 => 15 | 3 => 4 | _ => 2

/-- A block encoded back from its plane values and scale code (R301): its scale byte and elements. The elements of a
NaN block that is not MXINT8, and an MXINT8 scale below code 0, are stated nowhere and free (log 18). -/
def encodeBlock (w : FormatWindow) (S : Nat) (vs : List Int) : Byte × List Nat :=
  if S = 255 ∧ w.fmt ≠ 6 then (255#8, (List.range 32).map fun k => Config.nanBlockElem k % 2 ^ w.ebits)
  else
    let sc : Int := S - 127 - (w.npl - 1 : Nat)
    match w.fmt with
    | 0 => (0#8, vs.map fun (v : Int) =>
        if v = 0 then 0 else (finish .bf16 .rne false (v < 0) v.natAbs sc).1)
    | 6 =>
      let X : Int := S + 7 - w.npl
      (if 254 < X then 255#8 else if X < 0 then Config.scaleBelow X else BitVec.ofInt 8 X, vs.map fun (v : Int) => (v % 256).toNat)
    | f =>
      let am := vs.foldl (fun (a : Nat) (v : Int) => max a v.natAbs) 0
      let X : Int :=
        if am = 0 then 0 else max 0 (min 254 (floorLog2 am sc + 127 - emaxOf f))
      (BitVec.ofInt 8 X, vs.map fun (v : Int) =>
        let ex := sc - (X - 127)
        match f with
        | 1 => if v = 0 then 0 else (finish .e4m3 .rne false (v < 0) v.natAbs ex).1
        | 2 => if v = 0 then 0 else (finish .e5m2 .rne false (v < 0) v.natAbs ex).1
        | _ => roundSmall f (v < 0) v.natAbs ex)

/-- The physical addresses of a block's view bytes: its planes and its scale. -/
def blockViewAddrs (w : FormatWindow) (b : Nat) : List Nat :=
  let r := b / (w.k / 32)
  let k0 := b % (w.k / 32) * 32
  let base := w.viewPa + r * w.p + k0 / 128 * w.npl * 16 + k0 % 128 / 8
  (w.vs + b) :: ((List.range w.npl).flatMap fun j => (List.range 4).map fun i => base + j * 16 + i)

/-- The backing bytes of a block read through its view bytes: scale address and byte first unless BF16. -/
def blockBack (w : FormatWindow) (rdView : Nat → Byte) (b : Nat) : List (Nat × Byte) :=
  let r := b / (w.k / 32)
  let k0 := b % (w.k / 32) * 32
  let row : Nat → Byte := fun c => rdView (w.viewPa + r * w.p + c)
  let vs := (List.range 32).map fun k => rowElem w.npl w.npl (k0 + k) row
  let enc := encodeBlock w (rdView (w.vs + b)).toNat vs
  let packed := (enc.2.zipIdx).foldl (fun acc p => acc + p.1 * 2 ^ (p.2 * w.ebits)) 0
  let elems := (List.range (4 * w.ebits)).map fun i =>
    (w.srcPa + b * 4 * w.ebits + i, BitVec.ofNat 8 (packed / 2 ^ (8 * i)))
  if w.fmt = 0 then elems else (w.sclPa + b, enc.1) :: elems

/-- The block whose backing bytes cover an address, if any. -/
def backBlock? (w : FormatWindow) (pa : Nat) : Option Nat :=
  if w.srcPa ≤ pa ∧ pa < w.srcPa + w.blocks * 4 * w.ebits then some ((pa - w.srcPa) / (4 * w.ebits))
  else if w.fmt ≠ 0 ∧ w.sclPa ≤ pa ∧ pa < w.sclPa + w.blocks then some (pa - w.sclPa)
  else none

end Sys2Proof.Machine
end

