-- ==== Sys2Proof/Machine/Phys.lean ====
section
/-!
DEFINITION. Physical memory (R292, R394, R396, R438, R300) and the translation of global virtual
addresses (R303, R305): one place where bytes are read and written, poison is kept and cleared, host
lines change state, and page tables are walked.
-/
namespace Sys2Proof.Machine
open Sys2Proof

/-! ## Bytes in canonical memory -/

/-- The byte at an address; an unlisted byte reads 0 (log 4). -/
def memGet (m : Memory) (a : Nat) : Byte := (mget m a).getD 0

/-- A byte written; writing 0 removes the entry. -/
def memSet (m : Memory) (a : Nat) (b : Byte) : Memory := if b = 0#8 then merase m a else mset m a b

/-- Successive bytes written. -/
def memSetList (m : Memory) (a : Nat) : List Byte → Memory
  | [] => m
  | b :: bs => memSetList (memSet m a b) (a + 1) bs

/-- Successive bytes read. -/
def memGetList (m : Memory) (a : Nat) : Nat → List Byte
  | 0 => []
  | n + 1 => memGet m a :: memGetList m (a + 1) n

/-- The little-endian value of bytes (R3). -/
def leNat : List Byte → Nat
  | [] => 0
  | b :: bs => b.toNat + 256 * leNat bs

/-- The little-endian bytes of a value. -/
def leBytes : Nat → Nat → List Byte
  | 0, _ => []
  | n + 1, x => BitVec.ofNat 8 x :: leBytes n (x / 256)

/-- A sorted list with a member added. -/
def insertNat (x : Nat) : List Nat → List Nat
  | [] => [x]
  | y :: ys => if x < y then x :: y :: ys else if x = y then y :: ys else y :: insertNat x ys

/-! ## The physical map -/

/-- What lies at a physical address (R292). -/
inductive Region where
  | hbm (stack : Nat)
  | lpddr
  | host
  | vault (sect off : Nat)
  | view
  | hole
  deriving DecidableEq, Repr

/-- Whether a section id (R34) exists. -/
def sectExists (sc : Nat) : Bool := sc < 256 && sc % 64 < 48
/-- Whether a core id (R26 `CORE`) exists. -/
def coreExists (c : Nat) : Bool := c < 4096 && c / 16 % 64 < 48
/-- The section id of a core (R34). -/
def sectOf (c : Nat) : Nat := c / 16
/-- The die of a core. -/
def dieOf (c : Nat) : Nat := c / 1024

/-- The region of a physical address (R292). -/
def region (pa : Nat) : Region :=
  if pa < 0x6000000000 then .hbm (pa / 0xC00000000)
  else if 0x8000000000 ≤ pa ∧ pa < 0x10000000000 then .lpddr
  else if 0x10000000000 ≤ pa ∧ pa < 0x18000000000 then .host
  else if 0x18000000000 ≤ pa ∧ pa < 0x18000000000 + 256 * 0x400000 then
    let sc := (pa - 0x18000000000) / 0x400000
    if sectExists sc then .vault sc ((pa - 0x18000000000) % 0x400000) else .hole
  else if 0x20000000000 ≤ pa ∧ pa < 0x30000000000 then .view
  else .hole

/-- The physical address of a vault byte (R292, R294). -/
def vaultPa (sect off : Nat) : Nat := 0x18000000000 + sect * 0x400000 + off

/-- The die an LPDDR6, host or view line is homed on, or an HBM line's (R292). -/
def homeDie (pa : Nat) : Nat :=
  match region pa with
  | .hbm k => k / 2
  | _ => pa / 2 ^ 15 % 4

/-- The home slice of a line (R296). -/
def homeSlice (pa : Nat) : Nat :=
  let h := (pa / 2 ^ 7 % 2 ^ 16) ^^^ (pa / 2 ^ 23 % 2 ^ 16) ^^^ (pa / 2 ^ 39 % 2 ^ 13)
  h * 160 / 2 ^ 16

/-- The set of a line and its colour (R296, R297). -/
def cacheSet (pa : Nat) : Nat := pa / 2 ^ 7 % 256
def colour (pa : Nat) : Nat := pa / 2 ^ 12 % 8

/-! ## Format windows over memory (R301) -/

/-- The windows that are enabled, or still being disabled (R300 `BUSY`). -/
def enabledWindows (p : Phys) : List FormatWindow :=
  (p.windows.filter fun kw => kw.2.en || kw.2.ctl.getLsbD 62).map (·.2)

/-- Bytes as the controllers hold them. -/
def rawByte (p : Phys) (pa : Nat) : Byte := memGet p.mem pa

/-- The enabled window whose view covers an address. -/
def viewWindow? (p : Phys) (pa : Nat) : Option FormatWindow :=
  (enabledWindows p).find? fun w => w.viewPa ≤ pa && pa < w.viewEnd

/-- A view byte: held in L2 when written there, else decoded from the backing range. -/
def viewByte (p : Phys) (pa : Nat) : Byte :=
  match mget p.views pa with
  | some b => b
  | none =>
    match viewWindow? p pa with
    | some w => viewClean w (rawByte p) pa
    | none => Config.noWindowByte pa

/-- Whether a block of a window has bytes held in L2. -/
def blockDirty (p : Phys) (w : FormatWindow) (b : Nat) : Bool :=
  (blockViewAddrs w b).any fun a => (mget p.views a).isSome

/-- The windows and blocks, held in L2, whose backing bytes cover an address. -/
def dirtyBacks (p : Phys) (pa : Nat) : List (FormatWindow × Nat) :=
  (enabledWindows p).filterMap fun w =>
    match backBlock? w pa with
    | some b => if blockDirty p w b then some (w, b) else none
    | none => none

/-- A byte as every agent reads it: a view through its window, a backing byte after the writeback of the
view lines over it, any other byte as it is. -/
def physByte (p : Phys) (pa : Nat) : Byte :=
  match region pa with
  | .view => viewByte p pa
  | _ =>
    match dirtyBacks p pa with
    | [] => rawByte p pa
    | (w, b) :: _ => (mget (blockBack w (viewByte p) b) pa).getD (rawByte p pa)

/-- Several bytes read. -/
def physBytes (p : Phys) (pa : Nat) : Nat → List Byte
  | 0 => []
  | n + 1 => physByte p pa :: physBytes p (pa + 1) n

/-- A little-endian number read. -/
def physNat (p : Phys) (pa n : Nat) : Nat := leNat (physBytes p pa n)

/-- Bytes of one backing list written raw. -/
def rawPutList (m : Memory) : List (Nat × Byte) → Memory
  | [] => m
  | (a, b) :: r => rawPutList (memSet m a b) r

/-! ## The integrity trees' counters (R398) -/

/-- The base of the controller group's memory that holds a byte, its size, and the level of its root (R292, R398): a
stack of HBM4E, or LPDDR6. -/
def treeOfPa (pa : Nat) : Option (Nat × Nat × Nat) :=
  match region pa with
  | .hbm k => some (k * 0xC00000000, 0xC00000000, 9)
  | .lpddr => some (0x8000000000, 0x8000000000, 10)
  | _ => none

/-- The key of the counter that a level's node holds for the child with an index (R398): at level 0 the child is a
64-byte block, above it a node of the level below. Indexes are those of the whole address space. -/
def treeKey (level child : Nat) : Nat := level * 2 ^ 52 + child

/-- The child of a level whose path a byte lies on, within its group. -/
def treeChild (base level pa : Nat) : Nat := base / 64 + (pa - base) / (64 * 8 ^ level)

/-- A counter of a tree; one that is not listed has counted nothing in its first epoch. -/
def treeCtr (p : Phys) (key : Nat) : TreeCtr := mgetD p.tree key { epoch := 0, n := 0 }

/-- A WRITE OF ONE BLOCK AT ITS CONTROLLER: the block's counter and those along its path (R398). -/
def treeWrite (p : Phys) (pa : Nat) : Phys :=
  match treeOfPa pa with
  | none => p
  | some (base, _, top) =>
    { p with tree := (List.range (top + 1)).foldl (fun t level =>
        let k := treeKey level (treeChild base level pa)
        let c := mgetD t k { epoch := 0, n := 0 }
        mset t k { c with n := c.n + 1 }) p.tree }

/-- The 64-byte blocks that hold some bytes, in rising order. -/
def blocksUnder (as : List Nat) : List Nat := as.foldl (fun l a => insertNat (a / 64) l) []

/-- A block encoded back into its backing range and its view lines invalidated (R301): the controllers hold the bytes
and count the blocks written (R398). -/
def flushBlock (p : Phys) (w : FormatWindow) (b : Nat) : Phys :=
  let ws := blockBack w (viewByte p) b
  (blocksUnder (ws.map (·.1))).foldl (fun p h => treeWrite p (64 * h))
    { p with mem := rawPutList p.mem ws, backing := ws.foldl (fun m x => merase m x.1) p.backing,
             views := (blockViewAddrs w b).foldl merase p.views }

/-- Every block of a list encoded back. -/
def flushBlocks (p : Phys) : List (FormatWindow × Nat) → Phys
  | [] => p
  | (w, b) :: r => flushBlocks (flushBlock p w b) r

/-! ## Lines of the L2 (R296) -/

/-- The line that holds a byte's sector in the L2, if any (R296). -/
def heldLine (p : Phys) (pa : Nat) : Option L2Line :=
  (mget p.l2 (pa / 128)).filter fun L => L.valid.getLsbD (pa / 32 % 4)

/-- What backing memory holds under a byte about to be written (R283): a sector held in the L2 becomes dirty; one of
a group that drains is written back at once (R346); a byte that the L2 does not hold goes to memory. -/
def noteBacking (p : Phys) (pa : Nat) : Map Byte :=
  match heldLine p pa with
  | none => p.backing
  | some L =>
    if L.wt then p.backing.filter fun kb => kb.1 / 32 != pa / 32
    else if (mget p.backing pa).isSome then p.backing
    else mset p.backing pa (rawByte p pa)

/-- The blocks of every window with dirty view bytes in a range. -/
def dirtyViews (p : Phys) (lo n : Nat) : List (FormatWindow × Nat) :=
  (enabledWindows p).flatMap fun w =>
    ((List.range w.blocks).filter fun b =>
      (blockViewAddrs w b).any fun a => decide (lo ≤ a ∧ a < lo + n) && (mget p.views a).isSome).map fun b => (w, b)

/-- A byte written. A write to a backing range first encodes back and invalidates the view lines over it. -/
def physPut (p : Phys) (pa : Nat) (b : Byte) : Phys :=
  match region pa with
  | .view => if (viewWindow? p pa).isSome then { p with views := mset p.views pa b } else p
  | _ =>
    let p := flushBlocks p (dirtyBacks p pa)
    { p with mem := memSet p.mem pa b, backing := noteBacking p pa }

/-- Successive bytes written. -/
def physPuts (p : Phys) (pa : Nat) : List Byte → Phys
  | [] => p
  | b :: bs => physPuts (physPut p pa b) (pa + 1) bs

/-- The 64-byte blocks that a range meets. -/
def blocksOf (pa n : Nat) : List Nat := (List.range ((pa % 64 + n + 63) / 64)).map fun i => (pa / 64 + i) * 64

/-- The controllers count the blocks of a write that the L2 does not keep. -/
def countWrites (p : Phys) (pa n : Nat) : Phys :=
  (blocksOf pa n).foldl (fun p b =>
    match heldLine p b with
    | some L => if L.wt then treeWrite p b else p
    | none => treeWrite p b) p

/-- View bytes that the L2 does not keep are encoded back at once. -/
def settleView (p : Phys) (pa n : Nat) : Phys :=
  match region pa with
  | .view =>
    if ((heldLine p pa).map fun L => !L.wt).getD false then p else flushBlocks p (dirtyViews p pa n)
  | _ => p

/-- A store to a block ends the reservations that harts hold on it (R278). -/
def breakReservations (p : Phys) (pa n : Nat) : Phys :=
  { p with resv := p.resv.filter fun hb => !(blocksOf pa n).contains (64 * hb.2) }

/-- Successive bytes written by one access. -/
def physPutList (p : Phys) (pa : Nat) (bs : List Byte) : Phys :=
  breakReservations (settleView (countWrites (physPuts p pa bs) pa bs.length) pa bs.length) pa bs.length

/-- The blocks of a line that are dirty. -/
def dirtyBlocks (p : Phys) (line : Nat) : List Nat :=
  [2 * line, 2 * line + 1].filter fun h => p.backing.any fun kb => kb.1 / 64 == h

/-- Whether a line of the L2 holds dirty bytes. -/
def lineDirty (p : Phys) (line : Nat) : Bool :=
  p.backing.any (fun kb => kb.1 / 128 == line) || p.views.any fun kb => kb.1 / 128 == line

/-- A 128-byte line written back: backing memory holds what the L2 holds; a view line is encoded back (R296, R301). -/
def writeBackLine (p : Phys) (line : Nat) : Phys :=
  let p := flushBlocks p (dirtyViews p (128 * line) 128)
  let bs := dirtyBlocks p line
  bs.foldl (fun p h => treeWrite p (64 * h))
    { p with backing := p.backing.filter fun kb => kb.1 / 128 != line }

/-! ## Poison (R394, R396) -/

/-- Whether an address is marked per 16-byte granule. -/
def granule16 (pa : Nat) : Bool :=
  match region pa with
  | .vault _ _ => true | _ => false

/-- Whether a byte of stored memory is poisoned. -/
def poisonedRaw (p : Phys) (pa : Nat) : Bool :=
  if granule16 pa then p.poison16.contains (pa / 16) else p.poison.contains (pa / 64)

/-- The backing addresses of a block of a window (R300). -/
def blockBackAddrs (w : FormatWindow) (b : Nat) : List Nat :=
  let elems := (List.range (4 * w.ebits)).map fun i => w.srcPa + b * 4 * w.ebits + i
  if w.fmt = 0 then elems else (w.sclPa + b) :: elems

/-- The block whose view bytes hold an address. -/
def viewBlocks (w : FormatWindow) (pa : Nat) : List Nat :=
  (List.range w.blocks).filter fun b => (blockViewAddrs w b).contains pa

/-- The backing addresses of the blocks that a view byte belongs to. -/
def viewBacks (p : Phys) (pa : Nat) : List Nat :=
  match viewWindow? p pa with
  | some w => (viewBlocks w pa).flatMap (blockBackAddrs w)
  | none => []

/-- The view addresses of the blocks that a backing byte belongs to. -/
def backViews (p : Phys) (pa : Nat) : List Nat :=
  (enabledWindows p).flatMap fun w => ((backBlock? w pa).map (blockViewAddrs w)).getD []

/-- Whether a byte is poisoned. A location's granule is that of its backing memory, wherever the location is held: a view
byte is poisoned when a backing byte of its block is, before the writeback of its line and after it (R301, R394). -/
def poisoned (p : Phys) (pa : Nat) : Bool :=
  match region pa with
  | .view => (viewBacks p pa).any (poisonedRaw p)
  | _ => poisonedRaw p pa

/-- Whether any of `n` bytes is poisoned. -/
def anyPoison (p : Phys) (pa n : Nat) : Bool := (List.range n).any fun i => poisoned p (pa + i)

/-- The granule of a byte of stored memory poisoned. -/
def poisonRaw (p : Phys) (pa : Nat) : Phys :=
  if granule16 pa then { p with poison16 := insertNat (pa / 16) p.poison16 }
  else { p with poison := insertNat (pa / 64) p.poison }

/-- The granule of a byte poisoned: of a view byte, the granules of its block's backing bytes (R394). -/
def poisonAt (p : Phys) (pa : Nat) : Phys :=
  match region pa with
  | .view => (viewBacks p pa).foldl poisonRaw p
  | _ => poisonRaw p pa

/-- Whether an address lies in some range. -/
def inRanges (ranges : List (Nat × Nat)) (a : Nat) : Bool := ranges.any fun r => r.1 ≤ a && a < r.1 + r.2

/-- Whether every byte of [lo, lo + n) lies in some range. -/
def coveredBy (ranges : List (Nat × Nat)) (lo n : Nat) : Bool :=
  (List.range n).all fun i => inRanges ranges (lo + i)

/-- Whether ranges write a byte of stored memory: the byte itself, or through every view byte of its block (R301). -/
def writesByte (p : Phys) (ranges : List (Nat × Nat)) (a : Nat) : Bool :=
  inRanges ranges a || (enabledWindows p).any fun w =>
    ((backBlock? w a).map fun b => (blockViewAddrs w b).all (inRanges ranges)).getD false

/-- Whether ranges write every byte of [lo, lo + n). -/
def writesAll (p : Phys) (ranges : List (Nat × Nat)) (lo n : Nat) : Bool :=
  (List.range n).all fun i => writesByte p ranges (lo + i)

/-- The granules of a command's written ranges that it covers whole become clean (R396). -/
def clearCovered (p : Phys) (ranges : List (Nat × Nat)) : Phys :=
  { p with poison := p.poison.filter fun g => !writesAll p ranges (g * 64) 64,
           poison16 := p.poison16.filter fun g => !writesAll p ranges (g * 16) 16 }

/-! ## Host lines (R438) -/

/-- The state of the half-line of a host address. -/
def lineSt (p : Phys) (pa : Nat) : LineSt := mgetD p.lines (pa / 64) .i

/-- The state of a half-line set; I is unlisted. -/
def setLine (p : Phys) (pa : Nat) (st : LineSt) : Phys :=
  { p with lines := if st = .i then merase p.lines (pa / 64) else mset p.lines (pa / 64) st }

/-! ## Translation (R303, R305) -/

/-- What an access needs of its page. -/
inductive AccKind where
  | read | write | fetch
  deriving DecidableEq, Repr

/-- What a walk finds: a leaf, or an invalid entry. -/
inductive Walk where
  | leaf (l : Leaf)
  | miss (pte : Nat)
  deriving DecidableEq, Repr

/-- Bit `i` of a page-table entry. -/
def pteBit (pte i : Nat) : Bool := pte / 2 ^ i % 2 == 1
/-- The physical page number of a page-table entry. -/
def ptePpn (pte : Nat) : Nat := pte / 2 ^ 10 % 2 ^ 44

/-- A walk from a table base with `k` levels left (R305; the entry layout log 11). -/
def walkGo (p : Phys) (va : Nat) : Nat → Nat → Walk
  | 0, base => .miss base
  | k + 1, base =>
    let a := base + 8 * (va / 2 ^ (12 + 9 * k) % 512)
    let pte := physNat p a 8
    if !pteBit pte 0 || (pteBit pte 2 && !pteBit pte 1) || pte / 2 ^ 54 ≠ 0 then .miss pte
    else if pteBit pte 1 || pteBit pte 3 then
      if ptePpn pte % 2 ^ (9 * k) ≠ 0 then .miss pte else .leaf { at_ := a, pte := pte, level := k }
    else walkGo p va k (ptePpn pte * 4096)

/-- The physical address a leaf gives. -/
def Leaf.pa (l : Leaf) (va : Nat) : Nat := ptePpn l.pte * 4096 + va % 2 ^ (12 + 9 * l.level)

/-- The outcome of a translation. -/
inductive XRes where
  | ok (pa : Nat) (leaf : Leaf)
  | fault (f : FaultCode)
  | transit
  deriving DecidableEq, Repr

/-- Whether bits [63:48] all equal bit 47 (R115). -/
def canonical (va : Word) : Bool := (va.extractLsb' 0 48).signExtend 64 == va

/-- What a valid leaf gives an access (R115, R294, R303, R305). `vaultOk` says that the parcel owns a vault byte's
partition. -/
def leafRes (vaultOk : Nat → Nat → Bool) (l : Leaf) (v : Nat) (k : AccKind) : XRes :=
  if l.pte / 2 ^ 8 % 4 = 1 then .transit
  else if !pteBit l.pte 4 then .fault .perm
  else
    let perm :=
      match k with
      | .read => pteBit l.pte 1 | .write => pteBit l.pte 2 | .fetch => pteBit l.pte 3
    if !perm then .fault .perm
    else
      match region (l.pa v) with
      | .hole => .fault .perm
      | .vault sc off => if vaultOk sc off then .ok (l.pa v) l else .fault .foreign
      | _ => .ok (l.pa v) l

/-- The walker's A and D update (R305). -/
def markAD (p : Phys) (l : Leaf) (wr : Bool) : Phys :=
  let b := rawByte p l.at_
  let b' := b ||| 0x40#8 ||| (if wr then 0x80#8 else 0#8)
  if b' = b then p else physPutList p l.at_ [b']

end Sys2Proof.Machine
end

