-- ==== Sys2Proof/Machine/Cache.lean ====
section
/-!
DEFINITION. What the package holds copies in: the lines of the L2 with their coherence states towards the host (R286,
R296, R335, R346, R416, R438), the TLBs and walk caches (R305, R349), and the sections' fetch caches (R324).
-/
namespace Sys2Proof.Machine
open Sys2Proof

/-- Something sent outside. -/
def sendUp (s : State) (u : Up) : State := { s with host := { s.host with up := s.host.up ++ [u] } }

/-! ## Lines of the L2 -/

/-- The die, slice and set of a line, as one number (R296). -/
def linePlace (line : Nat) : Nat :=
  (homeDie (128 * line) * 256 + homeSlice (128 * line)) * 256 + cacheSet (128 * line)

/-- Whether the L2 holds lines at an address: not of the vaults (R294). -/
def cacheable (pa : Nat) : Bool :=
  match region pa with
  | .vault _ _ => false
  | .hole => false
  | _ => true

/-- The ways in which a parcel allocates a line: those of its own and of FREE groups on the line's home die, but for
groups that drain (R335, R346). -/
def waysFor (s : State) (p line : Nat) : List Nat :=
  (List.range 16).filter fun w =>
    let g := 4 * homeDie (128 * line) + w / 4
    let o := s.cad.wayOwner.getD g 63
    !s.cad.drainWays.contains g && (o == 63 || (o == p && decide (p < Config.numParcels)))

/-- The bytes of a half. -/
def halfBytes (p : Phys) (half : Nat) : List Byte := physBytes p (64 * half) 64

/-- The message with which a half of a host line leaves the L2 (R438). -/
def evictMsg (p : Phys) (half : Nat) : Option Up :=
  match lineSt p (64 * half) with
  | .i => none
  | .m => some (.lineReq .dirtyEvict half (some (halfBytes p half)) (anyPoison p (64 * half) 64))
  | _ => some (.lineReq .cleanEvict half none false)

/-- A LINE LEAVES THE L2: what is dirty is written back, and its halves become I (R296, R438). -/
def evictLine (s : State) (line : Nat) : State :=
  if (mget s.phys.l2 line).isNone then s
  else
    let s1 := [2 * line, 2 * line + 1].foldl (fun t h => match evictMsg s.phys h with
      | some u => sendUp t u
      | none => t) s
    let p := setLine (setLine (writeBackLine s1.phys line) (128 * line) .i) (128 * line + 64) .i
    { s1 with phys := { p with l2 := merase p.l2 line } }

/-- A line put in a way, with its sectors. -/
def putLine (s : State) (line way : Nat) (sectors : BitVec 4) : State :=
  { s with phys := { s.phys with l2 := mset s.phys.l2 line { way := way, valid := sectors, wt := false } } }

/-- Sectors of a line fetched into the L2 for a parcel; where every way it may use holds another line of the set, one
of them, which no rule names, is replaced (R296, R335, log 57). -/
def fillLine (s : State) (p line : Nat) (sectors : BitVec 4) : State :=
  match mget s.phys.l2 line with
  | some L => { s with phys := { s.phys with l2 := mset s.phys.l2 line { L with valid := L.valid ||| sectors } } }
  | none =>
    let ways := waysFor s p line
    if !cacheable (128 * line) || ways.isEmpty then s
    else
      let mates := s.phys.l2.filter fun kl => linePlace kl.1 == linePlace line
      match ways.find? fun w => !(mates.any fun kl => kl.2.way == w) with
      | some w => putLine s line w sectors
      | none =>
        let w := ways.getD ((Config.freeWord s.freeCtr).toNat % ways.length) 0
        let s := { s with freeCtr := s.freeCtr + 1 }
        let old := ((mates.find? fun kl => kl.2.way == w).map (·.1)).getD line
        putLine (evictLine s old) line w sectors

/-- The sectors of a line that a range meets. -/
def sectorsIn (line pa n : Nat) : BitVec 4 :=
  (List.range 4).foldl (fun b i =>
    if 128 * line + 32 * i < pa + n ∧ pa < 128 * line + 32 * i + 32 then b ||| (1#4 <<< i) else b) 0#4

/-- The lines that a range meets. -/
def linesOf (pa n : Nat) : List Nat := (List.range ((pa % 128 + n + 127) / 128)).map fun i => pa / 128 + i

/-- What an access needs of a line: a copy, ownership without a write, or ownership and a write (R438). -/
inductive LineUse where
  | read | own | write
  deriving DecidableEq, Repr

/-- A half of host memory that the L2 holds, used: a read of a half in I makes it S; a use that needs ownership makes I
or S E, and a write makes it M (R438). -/
def useHost (s : State) (half : Nat) (u : LineUse) : State :=
  let pa := 64 * half
  let st := lineSt s.phys pa
  match u with
  | .read =>
    if st = .i then sendUp { s with phys := setLine s.phys pa .s } (.lineReq .rdShared half none false) else s
  | _ =>
    let s := if st = .i ∨ st = .s then sendUp s (.lineReq .rdOwn half none false) else s
    let st' : LineSt := match u, st with
      | .write, _ => .m
      | _, .m => .m
      | _, _ => .e
    { s with phys := setLine s.phys pa st' }

/-- The halves that hold the same data through a format window: of a view half the backing halves of its blocks, of a
backing half the view halves (R301). -/
def aliasHalves (p : Phys) (half : Nat) : List Nat :=
  if (enabledWindows p).isEmpty then []
  else blocksUnder ((List.range 64).flatMap fun i => match region (64 * half + i) with
    | .view => viewBacks p (64 * half + i)
    | _ => backViews p (64 * half + i))

/-- A half recalled from the host's caches, where they hold a copy (R416). -/
def recallHalf (s : State) (half : Nat) : State :=
  if s.phys.held.contains half then
    sendUp { s with phys := { s.phys with held := s.phys.held.filter fun h => h != half } } (.backInvalidate half)
  else s

/-- A half of device memory written: the copies of it in the host's caches, and of what a format window shows of it, are
recalled first (R301, R416). -/
def useDevice (s : State) (half : Nat) (u : LineUse) : State :=
  if u = .read then s else (half :: aliasHalves s.phys half).foldl recallHalf s

/-- One half used by an access. -/
def useHalf (u : LineUse) (s : State) (half : Nat) : State :=
  match region (64 * half) with
  | .host => if (mget s.phys.l2 (half / 2)).isSome then useHost s half u else s
  | _ => useDevice s half u

/-- The halves that a range meets. -/
def halvesOf (pa n : Nat) : List Nat := (List.range ((pa % 64 + n + 63) / 64)).map fun i => pa / 64 + i

/-- The dirty view lines over the backing bytes of a range are written back first (R301). -/
def flushOver (p : Phys) (pa n : Nat) : Phys :=
  if p.views.isEmpty then p
  else (List.range n).foldl (fun p i => match region (pa + i) with
    | .view => p
    | _ => flushBlocks p (dirtyBacks p (pa + i))) p

/-- AN ACCESS REACHES THE HOME SLICES OF ITS LINES for a parcel (R286, R296, R301, R438). -/
def useLines (s : State) (p pa n : Nat) (u : LineUse) : State :=
  let s := { s with phys := flushOver s.phys pa n }
  let s := (linesOf pa n).foldl (fun s line => fillLine s p line (sectorsIn line pa n)) s
  (halvesOf pa n).foldl (useHalf u) s

/-- The MOESI state of a half as the device keeps it (R286): of host memory as R438 gives it; of device memory by
whether the L2 holds it, holds it dirty, and whether the host's caches hold a copy. -/
def moesi (p : Phys) (pa : Nat) : LineSt :=
  match region pa with
  | .host => lineSt p pa
  | _ =>
    if (heldLine p pa).isNone then .i
    else
      match (dirtyBlocks p (pa / 128)).contains (pa / 64), p.held.contains (pa / 64) with
      | true, true => .o
      | true, false => .m
      | false, true => .s
      | false, false => .e

/-! ## Way groups that change owner (R346) -/

/-- The way group of a line, as an index of the way-group map. -/
def groupOf (line : Nat) (L : L2Line) : Nat := 4 * homeDie (128 * line) + L.way / 4

/-- The lines of a way group. -/
def groupLines (p : Phys) (g : Nat) : List Nat := (p.l2.filter fun kl => groupOf kl.1 kl.2 == g).map (·.1)

/-- Groups begin to drain: they allocate no line, and a store to one of their lines writes its sector back. -/
def beginDrain (s : State) (gs : List Nat) : State :=
  let l2 := s.phys.l2.map fun kl =>
    if gs.contains (groupOf kl.1 kl.2) then (kl.1, { kl.2 with wt := true }) else kl
  { s with cad := { s.cad with drainWays := gs }, phys := { s.phys with l2 := l2 } }

/-- Whether a group has nothing dirty. -/
def groupClean (p : Phys) (g : Nat) : Bool := (groupLines p g).all fun l => !lineDirty p l

/-- The lines of a group invalidated. -/
def dropGroup (s : State) (g : Nat) : State := (groupLines s.phys g).foldl evictLine s

/-! ## Translations held (R305) -/

/-- An entry put in a structure: where its fellows fill their places, one of them, which no rule names, gives way
(log 57). -/
def addEnt {α : Type} [DecidableEq α] (same : α → Bool) (cap pick : Nat) (e : α) (es : List α) : List α :=
  if es.contains e || cap == 0 then es
  else
    let mine := es.filter same
    if mine.length < cap then e :: es else e :: es.erase (mine.getD (pick % mine.length) e)

/-- A leaf held for a parcel's address. -/
def tlbFind (es : List TlbEnt) (p v : Nat) : Option Leaf :=
  (es.find? fun e => e.parcel == p && e.vpn == v / 2 ^ (12 + 9 * e.leaf.level)).map (·.leaf)

/-- The leaf that a requester holds: a core in its L1 TLB or its section's, a hart in its own (R305). -/
def heldLeaf (x : Xlat) (u : Who) (p v : Nat) : Option Leaf :=
  match u with
  | .core c => (tlbFind (mgetD x.l1 c []) p v).or (tlbFind (mgetD x.sect (sectOf c) []) p v)
  | .hart h => tlbFind (mgetD x.harts h []) p v
  | .device => none

/-- The walk-cache entry of a die that leaves the fewest levels to walk. -/
def deepest (p v : Nat) : List WalkEnt → Option WalkEnt
  | [] => none
  | e :: es =>
    let r := deepest p v es
    if e.parcel = p ∧ e.pre = v / 2 ^ (12 + 9 * e.level) then
      match r with
      | some d => if d.level < e.level then some d else some e
      | none => some e
    else r

/-- Where a requester's walk begins: levels left and table base. -/
def walkStart (x : Xlat) (u : Who) (p v root : Nat) : Nat × Nat :=
  match u with
  | .core c =>
    match deepest p v (mgetD x.walk (dieOf c) []) with
    | some e => (e.level, e.base)
    | none => (4, root)
  | _ => (4, root)

/-- What a requester's walk finds. -/
def walkOf (s : State) (u : Who) (p root v : Nat) : Walk :=
  let st := walkStart s.xl u p v root
  walkGo s.phys v st.1 st.2

/-- The table entries that a walk reads, and the non-leaf entries among them as a walk cache holds them. -/
def walkPath (ph : Phys) (p v : Nat) : Nat → Nat → List (Nat × Option WalkEnt)
  | 0, _ => []
  | k + 1, base =>
    let a := base + 8 * (v / 2 ^ (12 + 9 * k) % 512)
    let pte := physNat ph a 8
    if pteBit pte 0 && !pteBit pte 1 && !pteBit pte 2 && !pteBit pte 3 then
      (a, some { parcel := p, level := k, pre := v / 2 ^ (12 + 9 * k), base := ptePpn pte * 4096 }) ::
        walkPath ph p v k (ptePpn pte * 4096)
    else [(a, none)]

/-- The walk-cache entries that a parcel has on a die: its share by the sections it owns there (R349). -/
def walkShare (s : State) (die p : Nat) : Nat :=
  512 * ((List.range 48).filter fun i => s.cad.sectOwner.getD (48 * die + i) 63 == p).length / 48

/-- The entries of a page in a TLB but for one leaf's page. -/
def otherPages (p v : Nat) (l : Leaf) (es : List TlbEnt) : List TlbEnt :=
  es.filter fun e => !(e.parcel == p && e.leaf.level == l.level && e.vpn == v / 2 ^ (12 + 9 * l.level))

/-- A leaf held by a requester, in place of what it held for the page (R305). -/
def holdLeaf (s : State) (u : Who) (p v : Nat) (l : Leaf) (ents : List WalkEnt) : State :=
  let e : TlbEnt := { parcel := p, vpn := v / 2 ^ (12 + 9 * l.level), leaf := l }
  let pick := (Config.freeWord s.freeCtr).toNat
  match u with
  | .core c =>
    let x := s.xl
    let es := otherPages p v l (mgetD x.sect (sectOf c) [])
    let ws := ents.foldl (fun ws w => addEnt (fun o => o.parcel == p) (walkShare s (dieOf c) p) pick w ws)
      (mgetD x.walk (dieOf c) [])
    let l1 := mset x.l1 c (addEnt (fun _ => true) 32 pick e (otherPages p v l (mgetD x.l1 c [])))
    let sect := mset x.sect (sectOf c) (addEnt (fun o => o.vpn % 128 == e.vpn % 128) 8 pick e es)
    { s with freeCtr := s.freeCtr + 1, xl := { x with l1 := l1, sect := sect, walk := mset x.walk (dieOf c) ws } }
  | .hart h =>
    { s with xl := { s.xl with harts := mset s.xl.harts h (e :: otherPages p v l (mgetD s.xl.harts h [])) } }
  | .device => s

/-- A leaf with its A and D bits as an access leaves them (R305). -/
def Leaf.marked (l : Leaf) (wr : Bool) : Leaf :=
  let pte := if pteBit l.pte 6 then l.pte else l.pte + 2 ^ 6
  { l with pte := if wr && !pteBit pte 7 then pte + 2 ^ 7 else pte }

/-- What a requester's walk of an address reads, where it holds no leaf: the table entries, and the non-leaf entries as
a walk cache holds them. -/
def walkReads (s : State) (u : Who) (p root v : Nat) : List (Nat × Option WalkEnt) :=
  let st := walkStart s.xl u p v root
  if (heldLeaf s.xl u p v).isSome then [] else walkPath s.phys p v st.1 st.2

/-- A walk reads the tables through the L2, whatever it finds (R305, R438). -/
def walkLines (s : State) (u : Who) (p root v : Nat) : State :=
  (walkReads s u p root v).foldl (fun s e => useLines s p e.1 8 .read) s

/-- The A and D bits that a leaf lacks are set in memory at the entry's home slice (R305, R438). -/
def markLeaf (s : State) (p : Nat) (l : Leaf) (wr : Bool) : State :=
  if (l.marked wr).pte = l.pte then s
  else
    let t := useLines s p l.at_ 1 .write
    { t with phys := markAD t.phys l wr }

/-- A TRANSLATION USED by an access (R305, R438). Where the requester held no leaf, its walk reads the tables through
the L2, and it holds the leaf; an A or D bit that the leaf lacks is set in memory at the entry's home slice. -/
def walked (s : State) (u : Who) (p root v : Nat) (l : Leaf) (wr : Bool) : State :=
  let held := (heldLeaf s.xl u p v).isSome
  let ents := (walkReads s u p root v).filterMap (·.2)
  let s := markLeaf (walkLines s u p root v) p l wr
  if held && (l.marked wr).pte == l.pte then s
  else holdLeaf s u p v (l.marked wr) ents

/-! ## Shootdowns and losses (R304, R324, R348) -/

/-- Whether a table with `k` levels below a base maps a physical frame (R305). -/
def tableMaps (p : Phys) (frame : Nat) : Nat → Nat → Bool
  | 0, _ => false
  | k + 1, base => (List.range 512).any fun i =>
    let pte := physNat p (base + 8 * i) 8
    pteBit pte 0 && (if pteBit pte 1 || pteBit pte 3 then ptePpn pte ≤ frame && frame < ptePpn pte + 512 ^ k
      else tableMaps p frame k (ptePpn pte * 4096))

/-- Whether a page of level `lvl` maps a physical frame, from a table base with `k` levels left: its leaf, a larger one
that it lies in, or the leaves under it (R304, R324). -/
def pageMaps (p : Phys) (vpn lvl frame : Nat) : Nat → Nat → Bool
  | 0, _ => false
  | k + 1, base =>
    let i := vpn / 512 ^ k % 512
    let pte := physNat p (base + 8 * i) 8
    if !pteBit pte 0 then false
    else if pteBit pte 1 || pteBit pte 3 then
      let lo := ptePpn pte + if lvl < k then vpn % 512 ^ k / 512 ^ lvl * 512 ^ lvl else 0
      lo ≤ frame && frame < lo + 512 ^ (min lvl k)
    else if k ≤ lvl then tableMaps p frame k (ptePpn pte * 4096)
    else pageMaps p vpn lvl frame k (ptePpn pte * 4096)

/-- Whether a page of a shootdown entry meets a page of another level: `lvl` 3 is the whole parcel (R304). -/
def pageMeets (vpn lvl vpn' lvl' : Nat) : Bool :=
  lvl == 3 || vpn / 512 ^ (max lvl lvl') == vpn' * 512 ^ lvl' / 512 ^ (max lvl lvl')

/-- Entries of a parcel that cover a page dropped. -/
def dropEnts (p vpn lvl : Nat) (m : Map (List TlbEnt)) : Map (List TlbEnt) :=
  m.map fun ke => (ke.1, ke.2.filter fun e => !(e.parcel == p && pageMeets vpn lvl e.vpn e.leaf.level))

/-- A SHOOTDOWN: every TLB, walk cache and fetch port drops a page of a parcel (R304, R324). The walk caches drop what
lies on the way to it. `mapped` says of a physical frame whether the page maps it now. -/
def shootdown (x : Xlat) (p vpn lvl : Nat) (mapped : Nat → Bool) : Xlat :=
  { x with
    l1 := dropEnts p vpn lvl x.l1
    sect := dropEnts p vpn lvl x.sect
    harts := dropEnts p vpn lvl x.harts
    walk := x.walk.map fun ke => (ke.1, ke.2.filter fun e => !(e.parcel == p && pageMeets vpn lvl e.pre e.level))
    code := x.code.map fun ke => (ke.1, ke.2.filter fun e =>
      !(e.parcel == p && (pageMeets vpn lvl e.vpn 0 || mapped (e.line / 64)))) }

/-- An entry of a structure lost: 0 an L1 TLB, 1 a section TLB, 2 a hart TLB, 3 a walk cache, 4 a fetch cache. -/
def forget (x : Xlat) (kind unit_ idx : Nat) : Xlat :=
  match kind with
  | 0 => { x with l1 := mset x.l1 unit_ ((mgetD x.l1 unit_ []).eraseIdx idx) }
  | 1 => { x with sect := mset x.sect unit_ ((mgetD x.sect unit_ []).eraseIdx idx) }
  | 2 => { x with harts := mset x.harts unit_ ((mgetD x.harts unit_ []).eraseIdx idx) }
  | 3 => { x with walk := mset x.walk unit_ ((mgetD x.walk unit_ []).eraseIdx idx) }
  | _ => { x with code := mset x.code unit_ ((mgetD x.code unit_ []).eraseIdx idx) }

/-- What a core and a section hold is cleared where their owner changes (R348). -/
def clearXlat (x : Xlat) (cores sects : List Nat) : Xlat :=
  { x with l1 := x.l1.filter fun ke => !cores.contains ke.1, sect := x.sect.filter fun ke => !sects.contains ke.1,
           code := x.code.filter fun ke => !sects.contains ke.1 }

/-- Walk-cache entries beyond a parcel's share are invalidated (R349). -/
def trimWalks (s : State) : State :=
  { s with xl := { s.xl with walk := s.xl.walk.map fun ke =>
      (ke.1, (ke.2.foldl (fun (acc : List WalkEnt) e =>
        if (acc.filter fun o => o.parcel == e.parcel).length < walkShare s ke.1 e.parcel then acc ++ [e] else acc) [])) } }

/-! ## The fetch cache (R324) -/

/-- The set of the fetch cache that a physical line lies in: 256 sets of 4 ways. -/
def codeSet (line : Nat) : Nat := line % 256

/-- The line that a section's fetch cache holds for a parcel. -/
def codeFind (x : Xlat) (sect p line : Nat) : Option (List Byte) :=
  ((mgetD x.code sect []).find? fun e => e.parcel == p && e.line == line).map (·.bytes)

/-- A line put in a section's fetch cache. -/
def holdCode (s : State) (sect : Nat) (e : CodeLine) : State :=
  let es := addEnt (fun o => codeSet o.line == codeSet e.line) 4 (Config.freeWord s.freeCtr).toNat e
    (mgetD s.xl.code sect [])
  { s with freeCtr := s.freeCtr + 1, xl := { s.xl with code := mset s.xl.code sect es } }

end Sys2Proof.Machine
end

