-- ==== Sys2Proof/Machine/Ops.lean ====
section
/-!
DEFINITION. The named operations every meaning is built from: cores and their registers, global memory
accesses of a parcel, local counters and counter homes, the fault area, strand records, dispatch lists,
and TAKING A FAULT: the terminating fault of R31 and R387, rollback, and the holds of R307 and R391.
-/
namespace Sys2Proof.Machine
open Sys2Proof

/-! ## Cores and registers -/

/-- A core; one that is not listed is as at reset. -/
def coreOf (s : State) (c : Nat) : Core := mgetD s.cores c Core.init
/-- A core set. -/
def setCore (s : State) (c : Nat) (k : Core) : State := { s with cores := mset s.cores c k }
/-- A core changed. -/
def modCore (s : State) (c : Nat) (f : Core → Core) : State := setCore s c (f (coreOf s c))

/-- The core of the agent whose turn it is; a hart has none. -/
def State.me (s : State) : Nat :=
  match s.turn with
  | .acc c => c | .exe c => c | .smp c => c | .hart _ => 0

/-- `a`n (R13). -/
def aGet (k : Core) (r : BitVec 5) : Word := if r = 0#5 then 0 else bget k.a.regs r
/-- `a`n written; `a0` discards (R13). -/
def aSet (k : Core) (r : BitVec 5) (v : Word) : Core :=
  if r = 0#5 then k else { k with a := { k.a with regs := bset k.a.regs r v } }
/-- `c`n (R13). -/
def cGet (k : Core) (r : BitVec 3) : Bool := if r = 0#3 then true else bget k.a.preds r
/-- `c`n written; `c0` discards (R13). -/
def cSet (k : Core) (r : BitVec 3) (b : Bool) : Core :=
  if r = 0#3 then k else { k with a := { k.a with preds := bset k.a.preds r b } }
/-- `s`n (R14). -/
def sGet (k : Core) (r : BitVec 5) : Word := if r = 0#5 then 0 else bget k.x.regs r
/-- `s`n written; `s0` discards (R14). -/
def sSet (k : Core) (r : BitVec 5) (v : Word) : Core :=
  if r = 0#5 then k else { k with x := { k.x with regs := bset k.x.regs r v } }
/-- `p`n (R14). -/
def pGet (k : Core) (r : BitVec 3) : Bool := if r = 0#3 then true else bget k.x.preds r
/-- `p`n written; `p0` discards (R14). -/
def pSet (k : Core) (r : BitVec 3) (b : Bool) : Core :=
  if r = 0#3 then k else { k with x := { k.x with preds := bset k.x.preds r b } }
/-- `m`n (R14). -/
def mGet (k : Core) (r : BitVec 3) : MBits := if r = 0#3 then BitVec.allOnes 2048 else bget k.vec.m r
/-- `m`n written; `m0` discards (R14). -/
def mSet (k : Core) (r : BitVec 3) (b : MBits) : Core :=
  if r = 0#3 then k else { k with vec := { k.vec with m := bset k.vec.m r b } }
/-- The physical register that a vector name selects through the rotation base (R17). -/
def vName (k : Core) (r : BitVec 5) : BitVec 5 :=
  if r.toNat < 16 then r else BitVec.ofNat 5 (16 + (r.toNat - 16 + k.vec.rot.toNat) % 16)
/-- `v`n through the rotation (R17). -/
def vGet (k : Core) (r : BitVec 5) : VBits := bget k.vec.v (vName k r)
/-- `v`n written through the rotation (R17). -/
def vSet (k : Core) (r : BitVec 5) (x : VBits) : Core :=
  { k with vec := { k.vec with v := bset k.vec.v (vName k r) x } }
/-- `t`n (R19). -/
def tGet (k : Core) (r : BitVec 4) : TileWord := bget k.sh.tiles r
/-- `t`n written (R19). -/
def tSet (k : Core) (r : BitVec 4) (x : TileWord) : Core :=
  { k with sh := { k.sh with tiles := bset k.sh.tiles r x } }

/-- The stream state of one side: true is the execute stream. -/
def strOf (k : Core) (xs : Bool) : Stream := if xs then k.x.str else k.a.str
/-- The stream state of one side changed. -/
def modStr (k : Core) (xs : Bool) (f : Stream → Stream) : Core :=
  if xs then { k with x := { k.x with str := f k.x.str } }
  else { k with a := { k.a with str := f k.a.str } }

/-- The register file of a stream by number (R13, R14). -/
def rGet (k : Core) (xs : Bool) (r : BitVec 5) : Word := if xs then sGet k r else aGet k r
/-- A register of a stream written. -/
def rSet (k : Core) (xs : Bool) (r : BitVec 5) (v : Word) : Core := if xs then sSet k r v else aSet k r v
/-- The predicate file of a stream by number. -/
def qGet (k : Core) (xs : Bool) (r : BitVec 3) : Bool := if xs then pGet k r else cGet k r
/-- A predicate of a stream written. -/
def qSet (k : Core) (xs : Bool) (r : BitVec 3) (b : Bool) : Core := if xs then pSet k r b else cSet k r b

/-- An entry moved or a token was posted or consumed (R25). -/
def moved (s : State) (k : Core) : Core := { k with sh := { k.sh with lastMove := s.cycle } }

/-! ## Owners (R24, R335, R339) -/

/-- The member of a list at an index. -/
def listAt (l : List Nat) (i d : Nat) : Nat := l.getD i d

/-- The owner of a section in the row in force: index 48 × die + section (R331). -/
def sectionOwner (s : State) (sc : Nat) : Nat := listAt s.cad.sectOwner (48 * (sc / 64) + sc % 64) 63

/-- The owner register of a core (R335). -/
def coreOwner (s : State) (c : Nat) : Nat := sectionOwner s (sectOf c)

/-- The effective owner of a core: the beneficiary while a strand received under an easement runs
(R339). -/
def effOwner (s : State) (c : Nat) : Nat := ((coreOf s c).easement).getD (coreOwner s c)

/-- What the monitor and the device keep for a parcel. -/
def parcelOf (s : State) (p : Nat) : Parcel := mgetD s.parcels p Parcel.init
/-- A parcel changed. -/
def modParcel (s : State) (p : Nat) (f : Parcel → Parcel) : State :=
  { s with parcels := mset s.parcels p (f (parcelOf s p)) }

/-- The cadastre's entry for a parcel (R330). -/
def cadParcel (s : State) (p : Nat) : CadParcel := s.cad.table.parcels.getD p CadParcel.none

/-- The ordinal of a core (R111). -/
def ordOf (c : Nat) : Nat := c / 1024 * 768 + c / 16 % 64 * 16 + c % 16
/-- The core id of an ordinal (R111). -/
def idOf (o : Nat) : Nat := o / 768 * 1024 + o % 768 / 16 * 16 + o % 16

/-- The owner of a vault partition (R294). -/
def partOwner (s : State) (sect off : Nat) : Nat := mgetD s.phys.vaultOwner (sect * 16 + off / 262144) 63
/-- The owner of a frame of HBM4E or LPDDR6 (R397). -/
def frameOwner (s : State) (pa : Nat) : Nat := mgetD s.phys.frames (pa / 4096) 63

/-! ## Messages of the mesh (R402) -/

/-- Something logged to the management controller. -/
def logEv (s : State) (e : LogEv) : State := { s with mgmt := { s.mgmt with log := s.mgmt.log ++ [e] } }

/-- The endpoint id of a requester, of a home slice or a section unit, and of a counter home (log 58). -/
def endpointOf : Who → Nat
  | .core c => c
  | .hart h => 0x1000 + h
  | .device => 0x1100
/-- The endpoint id of the home of a physical address. -/
def endpointAt (pa : Nat) : Nat :=
  match region pa with
  | .vault sc _ => 0x2000 + sc
  | _ => 0x4000 + homeDie pa * 256 + homeSlice (128 * (pa / 128))

/-- The 96-bit nonce of an endpoint's next message (R402). -/
def meshNonce (s : State) (e : Nat) : BitVec 96 :=
  BitVec.ofNat 16 e ++ 0#16 ++ BitVec.ofNat 64 (mgetD s.mesh.counts e 0)

/-- A message that an endpoint sends under the mesh key of parcel `p`, which the receiver verifies: the count never
gives a nonce twice (R402). -/
def sent (s : State) (e p : Nat) : State :=
  let n := mgetD s.mesh.counts e 0
  { s with mesh := { s.mesh with counts := mset s.mesh.counts e (n + 1),
                                 last := some { sender := e, parcel := p, count := n } } }

/-- A request and its answer, for a parcel. -/
def exchanged (s : State) (u : Who) (p home : Nat) : State := sent (sent s (endpointOf u) p) home p

/-- The failure that the next message meets is used up. -/
def meshSpent (s : State) : State := { s with mesh := { s.mesh with fail := none } }

/-! ## Global memory -/

/-- The number by which a core is named in what is logged; `0xFFFF` elsewhere (R386). -/
def coreNo : Who → Nat
  | .core c => c
  | _ => 0xFFFF

/-- The address of a canonical virtual address without its sign bits. -/
def vaOf (va : Word) : Nat := (va.extractLsb' 0 48).toNat

/-- The leaf that a requester finds for an address: one that it holds, or its walk's. -/
def findLeaf (s : State) (u : Who) (p : Nat) (va : Word) : Walk :=
  match heldLeaf s.xl u p (vaOf va) with
  | some l => .leaf l
  | none => walkOf s u p (parcelOf s p).root (vaOf va)

/-- A requester's translation for a parcel (R115, R303, R305). -/
def translate (s : State) (u : Who) (p : Nat) (va : Word) (k : AccKind) : XRes :=
  if !canonical va then .fault .perm
  else
    match findLeaf s u p va with
    | .miss _ => .fault .xlate
    | .leaf l => leafRes (fun sc off => partOwner s sc off == p) l (vaOf va) k

/-- Whether the memory controller of a physical byte serves the parcel: a frame's owner (R392, R397). -/
def controllerOk (s : State) (p pa : Nat) : Bool :=
  match region pa with
  | .hbm _ => frameOwner s pa == p
  | .lpddr => frameOwner s pa == p
  | _ => true

/-- The owner that the endpoint of a physical byte has: a frame's or a partition's; of a view byte, the owner of the
backing frame that refuses, or of the first (R301, R392). -/
def endpointOwner (s : State) (p pa : Nat) : Nat :=
  match region pa with
  | .vault sc off => partOwner s sc off
  | .view =>
    let bs := viewBacks s.phys pa
    frameOwner s ((bs.find? fun a => !controllerOk s p a).getD (bs.headD pa))
  | _ => frameOwner s pa

/-- Whether the endpoint of a physical byte serves the parcel (R392); a view byte is served by the controllers of its
block's backing bytes (R301). A line of the L2 has one copy, whichever way group holds it (R335), and is served for its
frame's owner. -/
def endpointOk (s : State) (p pa : Nat) : Bool :=
  match region pa with
  | .vault sc off => partOwner s sc off == p
  | .view => (viewBacks s.phys pa).all (controllerOk s p)
  | _ => controllerOk s p pa

/-- A request that its endpoint refuses is logged to the monitor with both parcel ids (R392). -/
def refused (s : State) (p pa : Nat) : State := logEv s (.violation p (endpointOwner s p pa))

/-- The physical address that a parcel's page gives an address, whatever its rights; 0 where there is no page. -/
def mappedPa (s : State) (u : Who) (p : Nat) (va : Word) : Nat :=
  match findLeaf s u p va with
  | .leaf l => l.pa (vaOf va)
  | .miss _ => 0

/-- Whether a physical byte lies behind a lost host link (R423). -/
def linkLost (s : State) (pa : Nat) : Bool :=
  match region pa with
  | .host => !s.host.cxlUp || !s.host.pcieUp
  | _ => false

/-- A core's access to an address is no longer a retry once it has been performed (R307, R391). -/
def settleRetry (s : State) (u : Who) (va : Word) : State :=
  match u with
  | .core c =>
    modCore s c fun k =>
      match k.run with
      | none => k
      | some r =>
        match mget k.res r.slot with
        | none => k
        | some x => { k with res := mset k.res r.slot { x with retried := x.retried.filter fun rt => rt.va != va } }
  | _ => s

/-- The walk of an access that finds no page to use: it has read the tables through the L2 all the same (R305, R438). -/
def missWalk (s : State) (u : Who) (p : Nat) (va : Word) : State :=
  if canonical va then walkLines s u p (parcelOf s p).root (vaOf va) else s

/-- The state after an access's translation and messages, before its lines are used. -/
def reach (s : State) (u : Who) (p : Nat) (va : Word) (l : Leaf) (pa : Nat) (wr : Bool) : State :=
  exchanged (walked s u p (parcelOf s p).root (vaOf va) l wr) u p (endpointAt pa)

/-- The state after an access of `n` bytes reached its lines. -/
def touch (s : State) (u : Who) (p : Nat) (va : Word) (l : Leaf) (pa n : Nat) (use : LineUse) : State :=
  useLines (reach s u p va l pa (use != .read)) p pa n use

/-- The outcome of a global read. A fault carries what the endpoint has logged, and a wait for a page in transit what
the walk has read. -/
inductive GRes where
  | ok (s : State) (bs : List Byte)
  | fault (s : State) (f : FaultCode)
  | transit (s : State)

/-- What the messages of a read meet (R402): a request that fails its check is answered as a refused one, a body that
fails it arrives poisoned. -/
def readFail (s : State) (p pa : Nat) : Option (State × FaultCode) :=
  match s.mesh.fail with
  | some .request => some (refused (meshSpent s) p pa, .foreign)
  | some .body => some (meshSpent s, .poison)
  | _ => none

/-- A read of `n` bytes at a physical address for a parcel, once translated: `t` is the state once its lines are used, which
they are for poisoned bytes too (R392, R394, R402, R423, R438). -/
def readAt (s : State) (p pa n : Nat) (t : State) : GRes :=
  if !endpointOk s p pa then .fault (refused s p pa) .foreign
  else if linkLost s pa then .fault s .link
  else
    match readFail s p pa with
    | some (s, f) => .fault s f
    | none => if anyPoison s.phys pa n then .fault t .poison else .ok t (physBytes s.phys pa n)

/-- A read of `n` bytes within one page through a translation (R115). One that succeeds is no retry any more. -/
def readX (s : State) (u : Who) (p : Nat) (va : Word) (n : Nat) : XRes → GRes
  | .transit => .transit (missWalk s u p va)
  | .fault f => .fault s f
  | .ok pa l =>
    match readAt s p pa n (touch s u p va l pa n .read) with
    | .ok t bs => .ok (settleRetry t u va) bs
    | r => r

/-- A read of `n` bytes within one page for a parcel (R115, R392, R394, R402, R423). -/
def readG (s : State) (u : Who) (p : Nat) (va : Word) (n : Nat) (k : AccKind) : GRes :=
  readX s u p va n (translate s u p va k)

/-! ## Counters -/

/-- Scope of a handle (R34). -/
def hScope (h : Word) : Nat := (h.extractLsb' 62 2).toNat
/-- Generation of a handle. -/
def hGen (h : Word) : BitVec 14 := h.extractLsb' 48 14
/-- Home field of a handle. -/
def hHome (h : Word) : Nat := (h.extractLsb' 32 16).toNat
/-- Index of a handle. -/
def hIndex (h : Word) : Nat := (h.extractLsb' 16 16).toNat
/-- Low bits of a handle, zero. -/
def hLow (h : Word) : Nat := (h.extractLsb' 0 16).toNat
/-- Whether a value is the local shorthand (R34). -/
def isLocalShort (h : Word) : Bool := h.toNat < 64
/-- A handle from its fields (R34). -/
def mkHandle (scope : Nat) (gen : BitVec 14) (home index : Nat) : Word :=
  BitVec.ofNat 2 scope ++ gen ++ BitVec.ofNat 16 home ++ BitVec.ofNat 16 index ++ 0#16

/-- The key of a counter home. -/
def homeKey (scope home : Nat) : Nat := scope * 65536 + home
/-- The key of a handle's home. -/
def hKey (h : Word) : Nat := homeKey (hScope h) (hHome h)

/-- Whether the home and index of a handle exist (R34, R35 step 2). -/
def homeExists (h : Word) : Bool :=
  match hScope h with
  | 0 => coreExists (hHome h) && hIndex h < 64 && hGen h == 0#14
  | 1 => sectExists (hHome h) && hIndex h < 1024
  | 2 => hHome h < 1024 && hHome h % 256 < 160 && hIndex h < 4096
  | _ => hHome h == 0

/-- A home. -/
def homeOf (s : State) (key : Nat) : Home := mgetD s.homes key Home.init
/-- A home changed. -/
def modHome (s : State) (key : Nat) (f : Home → Home) : State :=
  { s with homes := mset s.homes key (f (homeOf s key)) }
/-- A counter entry. -/
def ctrOf (s : State) (h : Word) : Ctr := mgetD (homeOf s (hKey h)).entries (hIndex h) Ctr.init
/-- A counter entry set. -/
def setCtr (s : State) (h : Word) (c : Ctr) : State :=
  modHome s (hKey h) fun H => { H with entries := mset H.entries (hIndex h) c }

/-- A counter right (R359). -/
inductive Right where
  | add | read | wait
  deriving DecidableEq, Repr

/-- Whether a grant gives an agent a right on a handle (R359). -/
def granted (s : State) (h : Word) (who : Grantee) (r : Right) : Bool :=
  s.grants.any fun g => g.handle == h && g.who == who &&
    (match r with | .add => g.add | .read => g.read | .wait => g.wait)

/-- Whether a waiter is registered in the pool on a counter: `WAITQ` of its entry (R352, R356). -/
def waitq (s : State) (h : Word) : Bool := (homeOf s (hKey h)).pool.any fun w => w.handle == h

/-- Steps 4 and 5 of R35 at the home, for an agent: `owner` is the parcel it acts for. -/
def homeCheck (s : State) (h : Word) (owner : Nat) (who : Grantee) (r : Right) : Option FaultCode :=
  let C := ctrOf s h
  if !C.alloc || C.gen != hGen h then some .stale
  else if C.owner != owner && !granted s h who r then some .foreign
  else none

/-- The checks of R35 for a handle that must not be local (steps 1, 2, 4, 5). -/
def checkRemote (s : State) (h : Word) (p : Nat) (r : Right) : Option FaultCode :=
  if hLow h ≠ 0 then some .illegal
  else if !homeExists h then some .stale
  else homeCheck s h p (.parcel p) r

/-- The counter that a checked handle names: a local one or one at a home. -/
inductive CtrRef where
  | lc (i : BitVec 6)
  | home (h : Word)
  deriving DecidableEq, Repr

/-- The whole check of R35 by a stream of core `c`. -/
def checkHandle (s : State) (c p : Nat) (h : Word) (r : Right) : Except FaultCode CtrRef :=
  if isLocalShort h then .ok (.lc (h.extractLsb' 0 6))
  else if hLow h ≠ 0 then .error .illegal
  else if !homeExists h then .error .stale
  else if hScope h = 0 then
    if hHome h = c then .ok (.lc (BitVec.ofNat 6 (hIndex h))) else .error .foreign
  else
    match homeCheck s h p (.parcel p) r with
    | some f => .error f
    | none => .ok (.home h)

/-- A local counter of a core (R21). -/
def lcOf (k : Core) (i : BitVec 6) : LCtr :=
  mgetD k.lcs i.toNat { value := 0, thr := 0, armed := false }
/-- A local counter set. -/
def lcSet (k : Core) (i : BitVec 6) (l : LCtr) : Core := { k with lcs := mset k.lcs i.toNat l }
/-- Whether a local counter is ready (R148). -/
def lcReady (k : Core) (i : BitVec 6) : Bool := (lcOf k i).armed && reached (lcOf k i).value (lcOf k i).thr

/-- A counter interrupt fires when its counter is readable by the function's parcel and its threshold is
reached (R410). -/
def intFires (s : State) (f : Fn) (ci : CtrInt) : Bool :=
  let C := mgetD (homeOf s (homeKey 3 0)).entries ci.cidx.toNat Ctr.init
  let p := f.check.parcel.toNat
  ci.cien && f.check.bar2 && C.alloc &&
    (C.owner == p || granted s (mkHandle 3 C.gen 0 ci.cidx.toNat) (.parcel p) .read) &&
    reached C.value ci.cithr

/-- A function by number. -/
def fnOf (s : State) (f : Nat) : Fn := mgetD s.host.fns f (Fn.init f)
/-- A function changed. -/
def modFn (s : State) (f : Nat) (g : Fn → Fn) : State :=
  { s with host := { s.host with fns := mset s.host.fns f (g (fnOf s f)) } }
/-- A vector signalled: its table entry's message, or, while it is masked, noted to be sent then (R408, R410, log 69). -/
def signal (s : State) (f v : Nat) : State :=
  let m := mgetD (fnOf s f).msix v MsixEnt.init
  if m.masked then modFn s f fun g => { g with msixWaits := insertNat v g.msixWaits }
  else sendUp s (.msix f v m.addr m.data)

/-- One counter interrupt evaluated: signalled once and disabled when it fires (R410). -/
def evalInt (s : State) (f v : Nat) : State :=
  match mget (fnOf s f).ints v with
  | none => s
  | some ci =>
    if intFires s (fnOf s f) ci && !(fnOf s f).inreset && !(fnOf s f).lost then
      signal (modFn s f fun g => { g with ints := mset g.ints v { ci with cien := false } }) f v
    else s

/-- Every counter interrupt on a system counter evaluated after an add to it (R410). -/
def evalInts (s : State) (idx : Nat) : State :=
  s.host.fns.foldl (fun s kf =>
    kf.2.ints.foldl (fun s kv => if kv.2.cidx.toNat = idx then evalInt s kf.1 kv.1 else s) s) s

/-- The waiters of a counter whose threshold an add has reached are marked (R357). -/
def markHits (h : Word) (v : Word) (H : Home) : Home :=
  { H with pool := H.pool.map fun w =>
      if w.handle == h && reached v w.thr then { w with hit := true } else w }

/-- The request and answer of a counter operation at a home, for a parcel (R402). -/
def homeMsg (s : State) (u : Who) (p : Nat) (h : Word) : State := exchanged s u p (0x8000 + hKey h)

/-- A write that covers a counter entry clears the poison of its granule (R396). -/
def cleanCtr (s : State) (h : Word) : State :=
  if s.phys.ctrPoison.isEmpty then s
  else
    { s with phys := { s.phys with ctrPoison := s.phys.ctrPoison.filter fun x => x != (hKey h, hIndex h) } }

/-- An add at a home, all checks made: the value before it, and the home after it (R354). -/
def homeAdd (s : State) (h amount : Word) : Word × State :=
  let C := ctrOf s h
  let s := setCtr s h { C with value := C.value + amount }
  let s := modHome s (hKey h) (markHits h (C.value + amount))
  (C.value, if hScope h = 3 then evalInts s (hIndex h) else s)

/-- The value of a counter reference. -/
def refValue (s : State) (c : Nat) (r : CtrRef) : Word :=
  match r with
  | .lc i => (lcOf (coreOf s c) i).value
  | .home h => (ctrOf s h).value

/-- An add by handle that a unit of the package makes for a parcel with no fault: nothing on a failed check, true when it
was made. -/
def plainAdd (s : State) (p : Nat) (h amount : Word) : State × Bool :=
  if h = 0 ∨ (checkRemote s h p .add).isSome then (s, false)
  else ((homeAdd (homeMsg s .device p h) h amount).2, true)

/-! ## Accesses of the package's own units (log 56) -/

/-- A read that a unit of the package makes for a parcel, without its effect on the tables: nothing where it cannot. -/
def devRead (s : State) (p : Nat) (va : Word) (n : Nat) : Option (List Byte) :=
  match readG s .device p va n .read with
  | .ok _ bs => some bs
  | _ => none

/-- A number the device reads for a parcel; 0 where it cannot. -/
def devNat (s : State) (p : Nat) (va : Word) (n : Nat) : Nat := leNat ((devRead s p va n).getD [])

/-- Whether a ticket has been reached (R307, R391). -/
def ticketReached (s : State) (t : Ticket) : Bool := reached (ctrOf s t.handle).value t.value

/-- The invalid entry that a requester's walk of an address meets. -/
def missPte (s : State) (u : Who) (p : Nat) (va : Word) : Nat :=
  match findLeaf s u p va with
  | .miss pte => pte
  | .leaf _ => 0

/-- Whether a unit waits, or has waited, for the page of an address. -/
def DevMiss.covers (m : DevMiss) (p : Nat) (va : Word) : Bool := m.parcel == p && m.page == va &&& ~~~0xFFF#64

/-- Whether the pager has answered a unit's miss without supplying the page (R307). -/
def notSupplied (s : State) (m : DevMiss) (p : Nat) (va : Word) : Bool :=
  m.covers p va && ticketReached s m.ticket && m.pte == missPte s .device p va

/-- What keeps a unit of the package from an access noted: a page in transit, or one that is missing; where no pager is
configured, or it has not supplied the page, the access is left out (R303, R306, R307, log 56). -/
def blockedBy (s : State) (p : Nat) (va : Word) (wr : Bool) (b : Blocked) : State :=
  if s.blocked.isSome then s
  else
    match b with
    | .transit => { s with blocked := some .transit }
    | .miss _ _ _ =>
      if (parcelOf s p).pager.isNone then s
      else if s.devMiss.any fun m => notSupplied s m p va then
        { s with devMiss := s.devMiss.map fun m => { m with refused := m.refused || m.covers p va } }
      else { s with blocked := some (.miss p va wr) }

/-- A unit's wait for a page is over. -/
def devDone (s : State) (p : Nat) (va : Word) : State :=
  if s.devMiss.isEmpty then s else { s with devMiss := s.devMiss.filter fun m => !m.covers p va }

/-- A read that a unit of the package makes: its walk sets A, its lines are used, and a page that is in transit or
missing is noted (R303, R305, R306, log 56). -/
def needAs (s : State) (p : Nat) (va : Word) (n : Nat) (k : AccKind) : State :=
  match readG s .device p va n k with
  | .ok s _ => devDone s p va
  | .transit s => blockedBy s p va false .transit
  | .fault s .xlate => blockedBy s p va false (.miss p va false)
  | .fault s _ => s

/-- A read of data that a unit of the package makes. -/
def needRead (s : State) (p : Nat) (va : Word) (n : Nat) : State := needAs s p va n .read

/-- Bytes stored at a physical address, poison cleared where the store covers a granule. -/
def physStore (p : Phys) (pa : Nat) (bs : List Byte) : Phys :=
  clearCovered (physPutList p pa bs) [(pa, bs.length)]

/-- The granules of `n` bytes poisoned. -/
def poisonRange (p : Phys) (pa n : Nat) : Phys := (List.range n).foldl (fun p i => poisonAt p (pa + i)) p

/-- The frames' 64-byte blocks that hold a byte's location: its own, or of a view byte its block's (R301). -/
def poisonBlocks (p : Phys) (pa n : Nat) : List Nat :=
  match region pa with
  | .view => (blocksUnder ((List.range n).flatMap fun i => viewBacks p (pa + i))).map (64 * ·)
  | _ => blocksOf pa n

/-- A parcel's 64-byte blocks of frames that a range poisons anew are counted (R393). -/
def countPoison (s : State) (pa n : Nat) : State :=
  (poisonBlocks s.phys pa n).foldl (fun s b =>
    match treeOfPa b with
    | some _ =>
      if poisonedRaw s.phys b then s
      else modParcel s (frameOwner s b) fun P => { P with poiscnt := P.poiscnt + 1 }
    | none => s) s

/-- Bytes that arrive poisoned at a place (R394, R395, R402). -/
def storePoisoned (s : State) (pa : Nat) (bs : List Byte) : State :=
  let s := countPoison s pa bs.length
  { s with phys := poisonRange (physPutList s.phys pa bs) pa bs.length }

/-- A refused write counted and logged to the monitor with both parcel ids (R392). -/
def violation (s : State) (p owner : Nat) : State :=
  logEv (modParcel s p fun P => { P with violcnt := P.violcnt + 1 }) (.violation p owner)

/-- What becomes of a unit's write, and of what its page keeps it from: a dropped one is settled by `drop` (R303, R392,
R402, R423, log 56). -/
def unitWrite (drop : State → Nat → Nat → State) (s : State) (p : Nat) (va : Word) (bs : List Byte) : State :=
  match translate s .device p va .write with
  | .ok pa l =>
    if !endpointOk s p pa then drop s pa (endpointOwner s p pa)
    else if s.mesh.fail = some .request then drop (meshSpent s) pa (endpointOwner s p pa)
    else if linkLost s pa then logEv s .linkStore
    else
      let t := touch (devDone s p va) .device p va l pa bs.length .write
      if s.mesh.fail = some .body then storePoisoned (meshSpent t) pa bs
      else { t with phys := physStore t.phys pa bs }
  | .transit => blockedBy (missWalk s .device p va) p va true .transit
  | .fault .xlate => blockedBy (missWalk s .device p va) p va true (.miss p va true)
  | .fault _ => missWalk s .device p va

/-- The write of a fault-area entry: one that is refused makes no entry of its own (R386, log 72). -/
def entryWrite (s : State) (p : Nat) (va : Word) (bs : List Byte) : State :=
  unitWrite (fun s _ owner => violation s p owner) s p va bs

/-! ## The fault area (R386) -/

/-- A fault-area entry before its cycle and sequence number. -/
structure FaultEntry where
  kind : Nat
  code : BitVec 8
  core : Nat
  launch : BitVec 28
  rcd : Word
  addr : Word
  detail : Word
  cform : Nat
  dform : Nat

/-- A fault-area entry of a kind other than 4. -/
def fent (kind : Nat) (code : BitVec 8) (core : Nat) (launch : BitVec 28) (rcd addr detail : Word) :
    FaultEntry :=
  { kind := kind, code := code, core := core, launch := launch, rcd := rcd, addr := addr,
    detail := detail, cform := 0, dform := 0 }

/-- The 64 bytes of a fault-area entry with its sequence number. -/
def FaultEntry.bytes (e : FaultEntry) (cycle seq : Nat) : List Byte :=
  leBytes 1 e.kind ++ leBytes 1 e.code.toNat ++ leBytes 2 e.core ++ leBytes 4 e.launch.toNat ++
    leBytes 8 e.rcd.toNat ++ leBytes 8 e.addr.toNat ++ leBytes 8 e.detail.toNat ++
    leBytes 8 (cycle % 2 ^ 64) ++ leBytes 8 (seq % 2 ^ 64) ++ leBytes 1 e.cform ++ leBytes 1 e.dform ++ leBytes 14 0

/-- The next entry of a parcel's fault area written, and its sequence number used (R386). -/
def putEntry (s : State) (p : Nat) (fa : FaultArea) (e : FaultEntry) : State :=
  let va := fa.cfg.base + BitVec.ofNat 64 (64 * (fa.seq % fa.cfg.entries))
  modParcel (entryWrite s p va (e.bytes s.cycle fa.seq)) p fun P => { P with fault := some { fa with seq := fa.seq + 1 } }

/-- An entry written to a parcel's fault area with the counter add that covers it (R386), whose message does not fail. -/
def entryAdd (s : State) (p : Nat) (e : FaultEntry) : State :=
  match (parcelOf s p).fault with
  | none => s
  | some fa => (plainAdd (putEntry s p fa e) p fa.cfg.handle 1).1

/-- A stale completion (R135): an add that could not be made is reported as kind 2. -/
def staleEntry (s : State) (p : Nat) (own : Owner) (core : Nat) (h : Word) : State :=
  entryAdd s p (fent 2 FaultCode.stale.code core own.launch own.rcd 0 h)

/-- The owner of what no strand does. -/
def noOwner (p : Nat) : Owner := { parcel := p, launch := 0, rcd := 0 }

/-- An entry written to a parcel's fault area with the counter add that covers it (R386); an add whose message fails is
dropped and logged in an entry of its own (R402). -/
def faultEntry (s : State) (p : Nat) (e : FaultEntry) : State :=
  match (parcelOf s p).fault with
  | none => s
  | some fa =>
    if fa.cfg.handle ≠ 0 ∧ s.mesh.fail = some .add then
      staleEntry (meshSpent (putEntry s p fa e)) p (noOwner p) 0xFFFF fa.cfg.handle
    else entryAdd s p e

/-- An add by handle the device makes for a parcel: nothing on a failed check; one whose message fails is dropped and
logged as kind 2 (R402). True when it was made. -/
def devAdd (s : State) (p : Nat) (h amount : Word) : State × Bool :=
  if h ≠ 0 ∧ s.mesh.fail = some .add then (staleEntry (meshSpent s) p (noOwner p) 0xFFFF h, true)
  else plainAdd s p h amount

/-- AN ADD THAT TRAVELS TO ITS HOME as a message, its checks made: the value before it; one whose message fails is dropped
and logged as kind 2, and its answer is free (R402). `core` is the number under which the log names the requester. -/
def meshAdd (s : State) (u : Who) (own : Owner) (core : Nat) (h amount : Word) : Word × State :=
  if s.mesh.fail = some .add then
    (Config.freeWord s.freeCtr, staleEntry { meshSpent s with freeCtr := s.freeCtr + 1 } own.parcel own core h)
  else homeAdd (homeMsg s u own.parcel h) h amount

/-- An add to a counter reference by core `c`: the value before it. -/
def refAdd (s : State) (c : Nat) (own : Owner) (r : CtrRef) (amount : Word) : Word × State :=
  match r with
  | .lc i =>
    let l := lcOf (coreOf s c) i
    (l.value, modCore s c fun k => lcSet k i { l with value := l.value + amount })
  | .home h => meshAdd s (.core c) own c h amount

/-- A read, test, wait, allocation or release of a counter by a core reaches its home (R402); one whose request fails its
check is answered as a refused one, and logged (R392). -/
def refAsk (s : State) (c p : Nat) : CtrRef → Except State State
  | .lc _ => .ok s
  | .home h =>
    if s.mesh.fail = some .request then .error (logEv (meshSpent s) (.violation p (ctrOf s h).owner))
    else .ok (homeMsg s (.core c) p h)

/-- The completion add of an engine or the sampler root: made, or reported stale (R135, R249, R402). -/
def completionAdd (s : State) (own : Owner) (core : Nat) (h : Word) : State :=
  if s.mesh.fail = some .add then staleEntry (meshSpent s) own.parcel own core h
  else
    match plainAdd s own.parcel h 1 with
    | (s', true) => s'
    | (_, false) => staleEntry s own.parcel own core h

/-- The outcome of a global write. A wait for a page in transit carries what the walk has read. -/
inductive WRes where
  | ok (s : State)
  | fault (f : FaultCode)
  | transit (s : State)

/-- A dropped write: a kind 8 entry with the address as issued and the physical address, `VIOLCNT`, and the monitor's
log with both parcel ids (R392). -/
def droppedWrite (s : State) (p : Nat) (core : Nat) (own : Owner) (va : Word) (pa owner : Nat) : State :=
  violation (faultEntry s p (fent 8 0 core own.launch own.rcd va (BitVec.ofNat 64 pa))) p owner

/-- A write that a unit of the package makes for a parcel within one page. One that its endpoint refuses is dropped,
counted and logged (R392); one that its page keeps from being made is noted (log 56). -/
def devWrite (s : State) (p : Nat) (va : Word) (bs : List Byte) : State :=
  unitWrite (fun s pa owner => droppedWrite s p 0xFFFF (noOwner p) va pa owner) s p va bs

/-- A 64-bit value the device writes. -/
def devPut64 (s : State) (p : Nat) (va : Word) (v : Word) : State := devWrite s p va (leBytes 8 v.toNat)
/-- A 32-bit value the device writes. -/
def devPut32 (s : State) (p : Nat) (va : Word) (v : BitVec 32) : State :=
  devWrite s p va (leBytes 4 v.toNat)

/-- A write of bytes at a physical address for a parcel, once translated; `t` is the state once its lines are used (R392,
R402, R423). -/
def writeAt (s : State) (u : Who) (p : Nat) (own : Owner) (va : Word) (pa : Nat) (bs : List Byte) (t : State) : State :=
  if !endpointOk s p pa then droppedWrite s p (coreNo u) own va pa (endpointOwner s p pa)
  else if s.mesh.fail = some .request then droppedWrite (meshSpent s) p (coreNo u) own va pa (endpointOwner s p pa)
  else if linkLost s pa then logEv s .linkStore
  else if s.mesh.fail = some .body then storePoisoned (meshSpent t) pa bs
  else { t with phys := physStore t.phys pa bs }

/-- A write of bytes within one page through a translation. -/
def writeX (s : State) (u : Who) (p : Nat) (own : Owner) (va : Word) (bs : List Byte) : XRes → WRes
  | .transit => .transit (missWalk s u p va)
  | .fault f => .fault f
  | .ok pa l => .ok (settleRetry (writeAt s u p own va pa bs (touch s u p va l pa bs.length .write)) u va)

/-- A write of bytes within one page for a parcel (R115, R392, R402, R423). -/
def writeG (s : State) (u : Who) (p : Nat) (own : Owner) (va : Word) (bs : List Byte) : WRes :=
  writeX s u p own va bs (translate s u p va .write)

/-! ## Strand records (R32) -/

/-- The states of a record (R32). -/
inductive RecState where
  | ready | running | waiting | suspended | exited | faulted
  deriving DecidableEq, Repr

/-- The code of a record state. -/
def RecState.code : RecState → Nat
  | .ready => 0 | .running => 1 | .waiting => 2 | .suspended => 3 | .exited => 4 | .faulted => 5

/-- The state word of a record in memory. -/
def recWord (s : State) (p : Nat) (rcd : Word) : Word := BitVec.ofNat 64 (devNat s p (rcd + 0x10) 8)
/-- `LAUNCH` of a state word. -/
def swLaunch (w : Word) : BitVec 28 := w.extractLsb' 36 28
/-- `OVERRUNS` of a state word. -/
def swOverruns (w : Word) : BitVec 8 := w.extractLsb' 28 8
/-- `HOMECORE` of a state word. -/
def swHome (w : Word) : Nat := (w.extractLsb' 16 12).toNat
/-- `URGENT` of a state word. -/
def swUrgent (w : Word) : Bool := w.getLsbD 13
/-- `AFF` of a state word. -/
def swAny (w : Word) : Bool := w.getLsbD 12
/-- `STATE` of a state word. -/
def swState (w : Word) : Nat := (w.extractLsb' 8 4).toNat
/-- A state word with `STATE` replaced (R317). -/
def swWithState (w : Word) (st : RecState) : Word :=
  w.extractLsb' 12 52 ++ BitVec.ofNat 4 st.code ++ w.extractLsb' 0 8
/-- A state word with the fields a record write sets: `GANGF`, `IRVF`, `STATE`, `FCODE`. -/
def swWrite (w : Word) (gang irv : Bool) (st : RecState) (code : BitVec 8) : Word :=
  w.extractLsb' 16 48 ++ bitOf gang ++ bitOf irv ++ w.extractLsb' 12 2 ++ BitVec.ofNat 4 st.code ++ code
/-- A state word after an edge rolled its strand back `k` times (R345). -/
def swOverrun (w : Word) (k : Nat) (st : Option RecState) : Word :=
  let o := min 255 ((swOverruns w).toNat + k)
  let w' := w.extractLsb' 36 28 ++ BitVec.ofNat 8 o ++ w.extractLsb' 8 20 ++ 0x10#8
  match st with
  | none => w'
  | some st => swWithState w' st

/-! ## Launches and dispatch lists -/

/-- The launch entry of a launch id, if that launch is live (R311). -/
def launchOf (s : State) (id : BitVec 28) : Option Launch :=
  match mget s.sched.launches (id.toNat % 4096) with
  | some L => if L.id = id then some L else none
  | none => none

/-- A launch entry changed. -/
def modLaunch (s : State) (id : BitVec 28) (f : Launch → Launch) : State :=
  match launchOf s id with
  | some L => { s with sched := { s.sched with
      launches := mset s.sched.launches (id.toNat % 4096) (f L) } }
  | none => s

/-- 1 added to a launch's fault counter (R317, R387). -/
def launchFault (s : State) (id : BitVec 28) : State :=
  match launchOf s id with
  | some L => (devAdd s L.parcel L.desc.faulth 1).1
  | none => s

/-- A live strand of a launch ended (R318). -/
def launchMinus (s : State) (id : BitVec 28) : State :=
  modLaunch s id fun L => { L with live := L.live - 1 }

/-- The slot of a core in which a strand is resident. -/
def residentSlot (k : Core) (p : Nat) (rcd : Word) : Option Nat :=
  (k.res.find? fun r => r.2.own.parcel == p && r.2.own.rcd == rcd).map (·.1)

/-- Whether a strand is on a dispatch list. -/
def listed (s : State) (p : Nat) (rcd : Word) : Bool :=
  s.sched.lists.any fun e => e.own.parcel == p && e.own.rcd == rcd

/-- A READY strand joins its dispatch list, or becomes ready in its resident slot (R320); a slot whose strand has faulted
stays as it is (R319). `once` gives it the urgent class one time. -/
def joinList (s : State) (p : Nat) (rcd : Word) (once : Bool) : State :=
  let s := needRead s p (rcd + 0x10) 8
  let w := recWord s p rcd
  match if swAny w then none else residentSlot (coreOf s (swHome w)) p rcd with
  | some sl =>
    modCore s (swHome w) fun k =>
      match mget k.res sl with
      | some r =>
        if r.status = .faulted then k else { k with res := mset k.res sl { r with status := .ready, once := once } }
      | none => k
  | none =>
    if listed s p rcd then s
    else
      let prio := ((launchOf s (swLaunch w)).map fun L => L.desc.flags.toNat % 4).getD 0
      let e : ListEnt :=
        { own := { parcel := p, launch := swLaunch w, rcd := rcd }, home := swHome w,
          any := swAny w, urgent := swUrgent w, once := once, prio := prio, seq := s.sched.nextSeq }
      { s with sched := { s.sched with lists := s.sched.lists ++ [e], nextSeq := s.sched.nextSeq + 1 } }

/-- A waiter's strand becomes READY: its record is written and it joins its list (R357). -/
def readyStrand (s : State) (p : Nat) (rcd : Word) (fut : Bool) : State :=
  let w := recWord s p rcd
  let s := devPut64 s p (rcd + 0x18) 0
  let s := devPut64 s p (rcd + 0x20) 0
  let s := devPut64 s p (rcd + 0x10) (swWithState w .ready)
  joinList s p rcd fut

/-- The instruction word at an address of a parcel. -/
def codeWord (s : State) (p : Nat) (va : Word) : Word :=
  match readG s .device p va 4 .fetch with
  | .ok _ bs => BitVec.ofNat 64 (leNat bs)
  | _ => 0

/-- A waiter terminated with STALE because its counter was freed (R147, R358): its record FAULTED with the word of
the instruction at which it waits, the kind 1 entry with core `0xFFFF`, the fault counter, the live count. -/
def staleWaiter (s : State) (p : Nat) (rcd h : Word) : State :=
  let w := recWord s p rcd
  let apc := devNat s p rcd 8
  let xpc := devNat s p (rcd + 8) 8
  let word := codeWord s p (BitVec.ofNat 64 (apc / 4 * 4 - 4))
  let s := needAs s p (BitVec.ofNat 64 (apc / 4 * 4 - 4)) 4 .fetch
  let s := devPut64 (needRead s p (rcd + 0x10) 8) p rcd (BitVec.ofNat 64 (apc - 4))
  let s := devPut64 s p (rcd + 8) (BitVec.ofNat 64 (xpc - 4))
  let s := devPut64 s p (rcd + 0x18) h
  let s := devPut64 s p (rcd + 0x20) word
  let s := devPut64 s p (rcd + 0x10) (swWrite w false false .faulted FaultCode.stale.code)
  let s := faultEntry s p (fent 1 FaultCode.stale.code 0xFFFF (swLaunch w) rcd h word)
  launchMinus (launchFault s (swLaunch w)) (swLaunch w)

/-- One pool waiter acted on when its counter is freed: readied if an add had reached it, else terminated
(R147, R357). -/
def freeWaiter (s : State) (fut : Bool) (w : Waiter) : State :=
  if w.hit then readyStrand s w.parcel w.rcd fut else staleWaiter s w.parcel w.rcd w.handle

/-- The waiting launches whose start counter, about to be freed, has been reached are noted (R312). -/
def noteStarts (s : State) (h : Word) : State :=
  { s with sched := { s.sched with launches := s.sched.launches.map fun kl =>
      if kl.2.st == .waiting && kl.2.desc.starth == h && reached (ctrOf s h).value kl.2.desc.startt then
        (kl.1, { kl.2 with st := .met })
      else kl } }

/-- A counter freed at its home (R354 FREE). -/
def homeFree (s : State) (h : Word) : State :=
  let C := ctrOf s h
  let s := noteStarts s h
  let ws := (homeOf s (hKey h)).pool.filter fun w => w.handle == h
  let s := setCtr (cleanCtr s h) h { Ctr.init with gen := C.gen + 1 }
  let s := modHome s (hKey h) fun H => { H with pool := H.pool.filter fun w => w.handle != h }
  ws.foldl (fun s w => freeWaiter s C.fut w) s

/-- The entries of a parcel in use at every home of a scope. -/
def countOwned (s : State) (scope p : Nat) : Nat :=
  s.homes.foldl (fun n kh =>
    if kh.1 / 65536 = scope then n + (kh.2.entries.filter fun e => e.2.alloc && e.2.owner == p).length
    else n) 0

/-- The quota of a parcel for a scope (R353). -/
def ctrQuota (s : State) (scope p : Nat) : Option Nat :=
  let q := (parcelOf s p).quotas
  if scope = 1 then q.section_ else if scope = 2 then q.device else q.system

/-- Entries of a home of a scope. -/
def scopeSize (scope : Nat) : Nat := if scope = 1 then 1024 else if scope = 2 then 4096 else 65536

/-- The lowest index below a bound with a property, searched from `i`. -/
def lowestFrom (f : Nat → Bool) : Nat → Nat → Option Nat
  | 0, _ => none
  | n + 1, i => if f i then some i else lowestFrom f n (i + 1)

/-- The lowest free index of a home (R353). -/
def freeIndex (s : State) (scope home : Nat) : Option Nat :=
  lowestFrom (fun i => !(mgetD (homeOf s (homeKey scope home)).entries i Ctr.init).alloc)
    (scopeSize scope) 0

/-- A counter allocated at a home for a parcel (R353): its handle, or nothing when the home is full or the
quota used up. -/
def homeAlloc (s : State) (scope home p : Nat) (keep : Bool) (launch : BitVec 28) (fut : Bool) :
    Option (Word × State) :=
  let spent : Bool := match ctrQuota s scope p with | some q => q ≤ countOwned s scope p | none => false
  if spent then none
  else
    match freeIndex s scope home with
    | none => none
    | some i =>
      let C := mgetD (homeOf s (homeKey scope home)).entries i Ctr.init
      let h := mkHandle scope C.gen home i
      some (h, setCtr (cleanCtr s h) h { C with value := 0, owner := p, alloc := true, keep := keep,
                                                launch := if keep then 0 else launch, fut := fut })

/-- Pool entries of a home (R356). -/
def poolSize (scope : Nat) : Nat :=
  if scope = 0 then 0 else if scope = 1 then 256 else if scope = 2 then 512 else 4096

/-- The first invalid entry of a parcel's overflow list (R358). -/
def overflowSlot (s : State) (p : Nat) (r : DevRing) : Option Nat :=
  lowestFrom (fun i => devNat s p (r.cfg.base + BitVec.ofNat 64 (32 * i + 24)) 8 % 2 == 0) r.cfg.entries 0

/-- The share of a parcel in the pool of a home (R356). -/
def poolShare (s : State) (key p : Nat) : Nat :=
  (((parcelOf s p).quotas.pools.find? fun e => e.1 == key).map (·.2)).getD 0

/-- What a home answers to a WAIT (R354, R356): its threshold is reached, the waiter is registered, or it cannot be. -/
inductive WaitRes where
  | ready
  | ok (s : State)
  | full

/-- A WAIT at a home: READY when the threshold is reached, else the waiter is registered in the pool within the
parcel's share, or on its overflow list, or not at all (R145, R354, R356). A local counter has no pool (log 66). -/
def registerWaiter (s : State) (h thr rcd : Word) (p : Nat) : WaitRes :=
  let H := homeOf s (hKey h)
  let mine := (H.pool.filter fun w => w.parcel == p).length
  if hScope h = 0 then .full
  else if reached (ctrOf s h).value thr then .ready
  else if mine < min (poolShare s (hKey h) p) (poolSize (hScope h)) && H.pool.length < poolSize (hScope h) then
    let w : Waiter :=
      { handle := h, thr := thr, rcd := rcd, parcel := p, seq := H.nextSeq, hit := false }
    .ok (modHome s (hKey h) fun H => { H with pool := H.pool ++ [w], nextSeq := H.nextSeq + 1 })
  else
    match (parcelOf s p).overflow with
    | none => .full
    | some r =>
      match overflowSlot s p r with
      | none => .full
      | some i =>
        let va := r.cfg.base + BitVec.ofNat 64 (32 * i)
        let s := devPut64 s p va h
        let s := devPut64 s p (va + 8) thr
        let s := devPut64 s p (va + 16) rcd
        let s := devPut64 s p (va + 24) 1
        .ok (modHome s (hKey h) fun H =>
          { H with spilled := if H.spilled.contains p then H.spilled else H.spilled ++ [p] })

/-! ## Windows and the scoreboard -/

/-- Whether any registered range of a core meets [lo, lo + n). -/
def boardMeets (k : Core) (lo n : Nat) : Bool :=
  k.eng.board.any fun b => b.lo < lo + n && lo < b.lo + b.len

/-- Whether a read must wait: an earlier command writes the range (R223, R282). -/
def readBlocked (k : Core) (lo n : Nat) : Bool :=
  k.eng.board.any fun b => b.wr && b.lo < lo + n && lo < b.lo + b.len

/-- Scratchpad bytes zeroed and their poison dropped. -/
def scrub (k : Core) (base size : Nat) : Core :=
  { k with scratch := k.scratch.filter fun c => c.1 < base || base + size ≤ c.1,
           poison := k.poison.filter fun g => g * 16 < base || base + size ≤ g * 16 }

/-- The windows being left whose engine ranges are clear are released and scrubbed; the completion adds of
exited strands follow (R150, R151). A held ANY strand keeps its slot without a window (R39, log 59). -/
def sweepLeaving (s : State) (c : Nat) : State :=
  (coreOf s c).res.foldl (fun s ir =>
    match ir.2.status with
    | .leaving exited =>
      if boardMeets (coreOf s c) ir.2.base ir.2.size then s
      else
        let s := modCore s c fun k => scrub { k with res := merase k.res ir.1 } ir.2.base ir.2.size
        if exited then
          match launchOf s ir.2.own.launch with
          | some L => (devAdd s L.parcel L.desc.doneh 1).1
          | none => s
        else s
    | _ =>
      if ir.2.scrub && !boardMeets (coreOf s c) ir.2.base ir.2.size then
        modCore s c fun k =>
          scrub { k with res := mset k.res ir.1 { ir.2 with scrub := false, base := 0, size := 0 } } ir.2.base ir.2.size
      else s) s

/-! ## Taking a fault -/

/-- The instruction of a list that was issued first. -/
def earliest : List Origin → Option Origin
  | [] => none
  | o :: os =>
    match earliest os with
    | some r => if o.at_ ≤ r.at_ then some o else some r
    | none => some o

/-- The queue loads and `vld`s of a core that are not complete: their entry is unfilled, or their token waits (R23,
R48, R114, R117). -/
def openLoads (k : Core) : List Origin :=
  (k.sh.lq.filter fun e => !e.filled).map (·.org) ++ (k.sh.vlq.filter fun e => !e.filled).map (·.org) ++ k.sh.pendX

/-- The address of the first instruction a stream has not completed (R31): a queue load or `vld` without its data, a
vector instruction in the vector unit's queue, an instruction whose token post waits, or the one at the PC. -/
def firstIncomplete (k : Core) (xs : Bool) : Word :=
  let st := strOf k xs
  let rest := st.pendT.getD st.pc
  if xs then (k.vec.vq.head?.map (·.pc)).getD rest
  else ((earliest (openLoads k)).map (·.pc)).getD rest

/-- The PC that the record of a terminating fault gives a stream (R31): the faulting instruction, or the first one not
completed; both streams' is that in DEADLOCK (R389). -/
def faultPc (k : Core) (xs side : Bool) (f : FaultCode) : Word :=
  if side = xs ∧ f ≠ .deadlock then (strOf k side).pc else firstIncomplete k side

/-- The streams of a core stop: its strand no longer runs, its registers, queues and tokens are discarded
(R39). The accumulators stay for the accepted matrix commands, which run on, until the core initialises a
strand with the matrix queue empty (R226). -/
def stopStrand (k : Core) : Core :=
  { k with a := AState.init, x := XState.init, vec := VState.init, sh := Shared.init, run := none,
           easement := none, decision := 0 }

/-- A resident slot's status set. -/
def setStatus (k : Core) (sl : Nat) (st : ResStatus) : Core :=
  match mget k.res sl with
  | some r => { k with res := mset k.res sl { r with status := st } }
  | none => k

/-- A resident slot's strand was rolled back. -/
def setRolled (k : Core) (sl : Nat) : Core :=
  match mget k.res sl with
  | some r => { k with res := mset k.res sl { r with rolled := true } }
  | none => k

/-- A resident slot's window is to be scrubbed. -/
def setScrub (k : Core) (sl : Nat) : Core :=
  match mget k.res sl with
  | some r => { k with res := mset k.res sl { r with scrub := true } }
  | none => k

/-- The record write of a terminating fault (R31, R32). -/
def writeFaulted (s : State) (k : Core) (r : Running) (xs : Bool) (f : FaultCode) (addr : Word) : State :=
  let p := r.own.parcel
  let w := recWord s p r.own.rcd
  let ir := (strOf k xs).ir
  let s := devPut64 (needRead s p (r.own.rcd + 0x10) 8) p r.own.rcd (faultPc k xs false f ||| 1)
  let s := devPut64 s p (r.own.rcd + 0x08) (faultPc k xs true f)
  let s := devPut64 s p (r.own.rcd + 0x18) addr
  let s := devPut64 s p (r.own.rcd + 0x20) (0#31 ++ bitOf xs ++ ir)
  devPut64 s p (r.own.rcd + 0x10) (swWrite w (r.logsz != 0#4) r.irv .faulted f.code)

/-- The kind 1 entry, the fault counter and the live count of a terminating fault (R387). -/
def reportFault (s : State) (c : Nat) (r : Running) (f : FaultCode) (addr detail : Word) : State :=
  let s := faultEntry s r.own.parcel (fent 1 f.code c r.own.launch r.own.rcd addr detail)
  launchMinus (launchFault s r.own.launch) r.own.launch

/-- The strand's kept sub-tiles are forgotten: at a commit point, and at a terminating fault, after which they are never
returned (R128). -/
def clearTiles (s : State) (rcd : Word) (launch : BitVec 28) : State :=
  { s with sched := { s.sched with queues := s.sched.queues.map fun kq =>
      if kq.2.launch = launch then
        (kq.1, { kq.2 with taken := kq.2.taken.filter fun t => t.1 != rcd })
      else kq } }

/-- The core freed by a terminating fault: a HOME strand keeps its slot and window, an ANY window is
released (R39, R319). -/
def freeCore (s : State) (c : Nat) (r : Running) : State :=
  let s := modCore s c fun k =>
    let any := ((mget k.res r.slot).map fun x => x.any).getD false
    setStatus (stopStrand k) r.slot (if any then .leaving false else .faulted)
  sweepLeaving s c

/-- The terminating fault of one strand (R31, R387), in its order: record, entry, fault-area counter, fault
counter; then the core is free. -/
def faultOne (s : State) (c : Nat) (xs : Bool) (f : FaultCode) (addr detail : Word) : State :=
  let k := coreOf s c
  match k.run with
  | none => s
  | some r =>
    let s := reportFault (writeFaulted s k r xs f addr) c r f addr detail
    freeCore (clearTiles s r.own.rcd r.own.launch) c r

/-- The cores of the gang that a core's running strand is fused in, itself alone when not fused (R153). -/
def gangOf (s : State) (c : Nat) : List Nat :=
  match (coreOf s c).run with
  | none => [c]
  | some r =>
    if r.logsz = 0#4 then [c]
    else
      let b := c - r.member.toNat
      (List.range (2 ^ r.logsz.toNat)).map fun i => b + i

/-- The logged detail of a fault: faulting word and stream (R386). -/
def faultDetail (k : Core) (xs : Bool) : Word := 0#31 ++ bitOf xs ++ (strOf k xs).ir

/-- A TERMINATING FAULT raised by a stream of a core (R31, R153, R387): the strand takes it, and every
other member of its gang is terminated with GANG. -/
def strandFault (s : State) (c : Nat) (xs : Bool) (f : FaultCode) (addr : Word) : State :=
  let others := (gangOf s c).filter fun m => m != c
  let s := faultOne s c xs f addr (faultDetail (coreOf s c) xs)
  others.foldl (fun s m => faultOne s m xs .gang 0 (faultDetail (coreOf s m) xs)) s

/-- The sub-tiles kept for a strand return to their queues, lowest (i0, j0) first (R128). -/
def insertTile (t : Nat × Nat) : List (Nat × Nat) → List (Nat × Nat)
  | [] => [t]
  | u :: us => if t.1 < u.1 || (t.1 == u.1 && t.2 < u.2) then t :: u :: us else u :: insertTile t us

/-- A rollback returns the strand's kept sub-tiles (R128). -/
def returnTiles (s : State) (rcd : Word) (launch : BitVec 28) : State :=
  { s with sched := { s.sched with queues := s.sched.queues.map fun kq =>
      if kq.2.launch = launch then
        let mine := kq.2.taken.filter fun t => t.1 == rcd
        let back := mine.flatMap fun t => t.2.2
        (kq.1, { kq.2 with returned := back.foldl (fun l t => insertTile t l) kq.2.returned,
                           taken := kq.2.taken.filter fun t => t.1 != rcd })
      else kq } }

/-- A ROLLBACK (R31, R39): nothing of the record is written, kept sub-tiles return, the strand leaves the
core for its slot with the given status. An ANY strand's window is released and scrubbed, and the strand rejoins its list;
one that waits for a ticket keeps its slot (R307, R391, log 59). -/
def rollback (s : State) (c : Nat) (st : ResStatus) : State :=
  let k := coreOf s c
  match k.run with
  | none => s
  | some r =>
    let s := returnTiles s r.own.rcd r.own.launch
    let any := ((mget k.res r.slot).map fun x => x.any).getD false
    let s := modCore s c fun k =>
      match any, st with
      | true, .ready => setStatus (stopStrand k) r.slot (.leaving false)
      | true, st => setRolled (setScrub (setStatus (stopStrand k) r.slot st) r.slot) r.slot
      | false, st => setRolled (setStatus (stopStrand k) r.slot st) r.slot
    let s := if any && st == .ready then joinList s r.own.parcel r.own.rcd false else s
    sweepLeaving s c

/-- A stream holds at its instruction until a ticket is reached (R307, R391). -/
def holdStream (s : State) (c : Nat) (xs : Bool) (t : Ticket) (rt : Retry) : State :=
  modCore s c fun k => modStr k xs fun st =>
    { st with hold := some t, retried := some rt, stall := some .other, since := s.cycle }

/-- The slot of the running strand remembers the access its next run retries. -/
def noteRetry (s : State) (c : Nat) (rt : Retry) : State :=
  modCore s c fun k =>
    match k.run with
    | none => k
    | some r =>
      match mget k.res r.slot with
      | some x => { k with res := mset k.res r.slot { x with retried := rt :: x.retried } }
      | none => k

/-- Whether any member of the gang of a core has `IRV` set (R153). -/
def gangIrv (s : State) (c : Nat) : Bool :=
  (gangOf s c).any fun m => ((coreOf s m).run.map fun r => r.irv).getD false

/-- A restartable fault's handling once its ticket is known: the stream holds when `IRV` is set, else the
strand, with its gang, rolls back to wait for the ticket (R153, R307, R391). -/
def restartable (s : State) (c : Nat) (xs : Bool) (t : Ticket) (rt : Retry) : State :=
  if gangIrv s c then (gangOf s c).foldl (fun s m => holdStream s m xs t rt) s
  else (gangOf s c).foldl (fun s m => rollback (noteRetry s m rt) m (.held t)) s

/-- The kind of a pager entry (R306). -/
inductive PagerKind where
  | read | write | fetch | copy | sampler
  deriving DecidableEq, Repr

/-- The code of a pager entry kind. -/
def PagerKind.code : PagerKind → Nat
  | .read => 0 | .write => 1 | .fetch => 2 | .copy => 3 | .sampler => 4

/-- An entry appended to a parcel's pager ring (R306), whose `tail` is the pager counter's value when the ring
was configured: the ticket, or nothing when no ring is configured or
it is full. -/
def pagerEntry (s : State) (p c : Nat) (va rcd : Word) (k : PagerKind) (inPlace : Bool) :
    Option (Ticket × State) :=
  match (parcelOf s p).pager with
  | none => none
  | some r =>
    let done := (ctrOf s r.cfg.handle).value
    let tk := BitVec.ofNat 64 (r.tail + r.head + 1)
    if r.cfg.entries ≤ (tk - 1 - done).toNat then none
    else
      let va' := r.cfg.base + BitVec.ofNat 64 (32 * (r.head % r.cfg.entries))
      let bs := leBytes 8 va.toNat ++ leBytes 8 rcd.toNat ++ leBytes 2 c ++ leBytes 1 k.code ++
        leBytes 1 (if inPlace then 1 else 0) ++ leBytes 4 tk.toNat ++ leBytes 8 0
      let s := devWrite s p va' bs
      some ({ handle := r.cfg.handle, value := tk },
        modParcel s p fun P => { P with pager := some { r with head := r.head + 1 } })

/-- A repair entry of kind 9 with its ticket (R391). -/
def repairEntry (s : State) (p c : Nat) (own : Owner) (va : Word) : Option (Ticket × State) :=
  match (parcelOf s p).fault with
  | none => none
  | some fa =>
    if !fa.cfg.repair then none
    else
      let tk := fa.repairBase + BitVec.ofNat 64 (fa.repairs + 1)
      let s := faultEntry s p (fent 9 FaultCode.poison.code c own.launch own.rcd va (tk &&& 0xFFFFFFFF))
      some ({ handle := fa.cfg.repairHandle, value := tk },
        modParcel s p fun P => { P with fault := P.fault.map fun f => { f with repairs := f.repairs + 1 } })

/-- Whether an access of a stream is the retry of a restartable fault (R307, R391). -/
def isRetry (k : Core) (xs : Bool) (rt : Retry) : Bool :=
  (strOf k xs).retried == some rt ||
    ((k.run.bind fun r => mget k.res r.slot).map fun x => x.retried.contains rt).getD false

/-- XLATE of a stream (R306, R307): a pager entry and the restartable handling; PERM when the access
retried meets the entry the pager left unchanged (log 12); while the ring is full or absent the stream
waits. -/
def takeXlate (s : State) (c : Nat) (xs : Bool) (va : Word) (k : PagerKind) : State :=
  let r := (coreOf s c).run
  let p := (r.map fun r => r.own.parcel).getD 63
  let rcd := (r.map fun r => r.own.rcd).getD 0
  let rt : Retry := { va := va, pte := some (missPte s (.core c) p va) }
  if isRetry (coreOf s c) xs rt then strandFault s c xs .perm va
  else
    match pagerEntry s p c va rcd k (gangIrv s c) with
    | some (t, s) => restartable s c xs t rt
    | none => modCore s c fun k => modStr k xs fun st => { st with stall := some .other, since := s.cycle }

/-- POISON of a stream (R391): terminating with `REPAIR` clear or on a retried access, else a repair entry
and the restartable handling. -/
def takePoison (s : State) (c : Nat) (xs : Bool) (va : Word) : State :=
  let k := coreOf s c
  let rt : Retry := { va := va, pte := none }
  match k.run with
  | none => s
  | some r =>
    if isRetry k xs rt then strandFault s c xs .poison va
    else
      match repairEntry s r.own.parcel c r.own va with
      | some (t, s) => restartable s c xs t rt
      | none => strandFault s c xs .poison va

/-- A FAULT raised by a stream, by its code: restartable or terminating (R30). The walk that found no page to use has read
the tables all the same (R305, R438). -/
def takeFault (s : State) (c : Nat) (xs : Bool) (f : FaultCode) (addr : Word) (k : PagerKind) : State :=
  let p := ((coreOf s c).run.map fun r => r.own.parcel).getD 63
  match f with
  | .xlate => takeXlate (missWalk s (.core c) p addr) c xs addr k
  | .perm => strandFault (missWalk s (.core c) p addr) c xs .perm addr
  | .poison => takePoison s c xs addr
  | f => strandFault s c xs f addr

/-! ## Accesses of the package's own units that their page keeps from being made (R303, R306, R307, log 56) -/

/-- A unit's miss (R306): an entry of the pager ring, of no stream that holds, and a wait for its ticket; nothing while
the ring is full, its page is not there, or the ticket is not reached. -/
def deviceMiss (s : State) (p : Nat) (va : Word) (wr : Bool) : State :=
  if s.devMiss.any fun m => m.covers p va && !ticketReached s m.ticket then s
  else
    match pagerEntry (missWalk s .device p va) p 0xFFFF va 0 (if wr then .write else .read) false with
    | none => s
    | some (tk, s1) =>
      if s1.blocked.isSome then s
      else
        { s1 with devMiss := { parcel := p, page := va &&& ~~~0xFFF#64, ticket := tk,
                               pte := missPte s .device p va, refused := false } ::
                               s.devMiss.filter fun m => !m.covers p va }

/-- What a step from `s` to `t` comes to where a unit's access could not be made: nothing has happened yet while its page
is in transit or awaited (R303, R306, log 56). -/
def settled (s t : State) : State :=
  match t.blocked with
  | none => { t with devMiss := t.devMiss.filter fun m => !m.refused }
  | some .transit => s
  | some (.miss p va wr) => deviceMiss s p va wr

end Sys2Proof.Machine
end

