-- ==== Sys2Proof/Machine/Issue.lean ====
section
/-!
DEFINITION. How a Cuvos instruction issues (R42, R46 to R48), what a body may answer, the loop stacks
(R122 to R126, R183), token posts (R23), and the lockstep of a fused gang (R186).
-/
namespace Sys2Proof.Machine
open Sys2Proof

/-- Where a stream continues: the next instruction, a taken transfer, or past a skipped loop body. -/
inductive Next where
  | seq
  | jump (t : Word)
  | skip (t : Word)
  deriving DecidableEq, Repr

/-- What the body of an instruction answers on a core. -/
inductive Eff where
  /-- It is carried out; `post` is false when its token is posted later, at its completion. -/
  | done (s : State) (n : Next) (post : Bool)
  /-- It waits and is tried again. -/
  | wait (s : State) (k : StallKind)
  /-- It faults on a core. -/
  | trap (s : State) (c : Nat) (f : FaultCode) (addr : Word) (k : PagerKind)
  /-- The stream's state is already settled (a commit point, a gang event). -/
  | settled (s : State)

/-- An instruction carried out that goes on to the next one. -/
def Eff.ok (s : State) : Eff := .done s .seq true

/-! ## Loops -/

/-- Whether an address lies in a loop body (R126). -/
def LoopEnt.holds (l : LoopEnt) (t : Word) : Bool := l.s.toNat ≤ t.toNat && t.toNat < l.e.toNat

/-- The stage predicates of run `i` and their mirror (R183). -/
def setStage (k : Core) (i n st : Nat) : Core :=
  let act (j : Nat) : Bool := j < st && j ≤ i && i - j < n
  let stages : Bank Bool 3 := Vector.ofFn fun j : Fin (2 ^ 3) => act j.val
  let preds : Bank Bool 3 := Vector.ofFn fun j : Fin (2 ^ 3) =>
    if 1 ≤ j.val ∧ j.val - 1 < st ∧ j.val - 1 < 7 then act (j.val - 1) else k.x.preds[j.val]
  { k with x := { k.x with stages := stages, preds := preds } }

/-- The stage predicates and their mirrors set false (R183). -/
def clearStage (k : Core) (st : Nat) : Core :=
  let preds : Bank Bool 3 := Vector.ofFn fun j : Fin (2 ^ 3) =>
    if 1 ≤ j.val ∧ j.val ≤ min st 7 then false else k.x.preds[j.val]
  { k with x := { k.x with stages := bfill 3 false, preds := preds } }

/-- The loop stack of a stream, innermost first. -/
def setLoops (k : Core) (xs : Bool) (ls : List LoopEnt) : Core :=
  modStr k xs fun st => { st with loops := ls }

/-- A PC set. -/
def setPc (k : Core) (xs : Bool) (pc : Word) : Core := modStr k xs fun st => { st with pc := pc }

/-- The end test of R123 and R183 after the instruction at `addr`, over the stack, with the PC already at
the fall-through address. -/
def endTest (xs : Bool) (addr : Word) : List LoopEnt → Core → Core
  | [], k => setLoops k xs []
  | l :: ls, k =>
    if addr + 4 ≠ l.e then setLoops k xs (l :: ls)
    else
      match l.kind with
      | .counted n =>
        if 1 < n.toNat then setPc (setLoops k xs ({ l with kind := .counted (n - 1) } :: ls)) xs l.s
        else endTest xs addr ls k
      | .eos _ seen =>
        if !seen then setPc (setLoops k xs (l :: ls)) xs l.s else endTest xs addr ls k
      | .pipe i n st t =>
        let k := { k with vec := { k.vec with rot := k.vec.rot - 1 } }
        if i + 1 < t then
          setPc (setLoops (setStage k (i + 1) n st) xs ({ l with kind := .pipe (i + 1) n st t } :: ls)) xs l.s
        else endTest xs addr ls (clearStage k st)

/-- The entries that a taken transfer to `t` leaves are popped (R126, R183). -/
def leaveLoops (xs : Bool) (t : Word) : List LoopEnt → Core → Core
  | [], k => setLoops k xs []
  | l :: ls, k =>
    if l.holds t then setLoops k xs (l :: ls)
    else
      match l.kind with
      | .pipe _ _ st _ => leaveLoops xs t ls (clearStage k st)
      | _ => leaveLoops xs t ls k

/-- The PC after an instruction at the current PC (R42, R123). -/
def advance (k : Core) (xs : Bool) (n : Next) : Core :=
  let pc := (strOf k xs).pc
  match n with
  | .jump t => setPc k xs t
  | .seq => endTest xs pc (strOf k xs).loops (setPc k xs (pc + 4))
  | .skip t => endTest xs pc (strOf k xs).loops (setPc k xs t)

/-! ## Tokens -/

/-- The token count available to a stream (R23). -/
def tokens (k : Core) (xs : Bool) : BitVec 4 := if xs then k.sh.tokX else k.sh.tokA
/-- A token count set. -/
def setTokens (k : Core) (xs : Bool) (n : BitVec 4) : Core :=
  if xs then { k with sh := { k.sh with tokX := n } } else { k with sh := { k.sh with tokA := n } }

/-- A token posted to the partner of a stream, or left pending while the count is 15 (R23). `pc` is the
posting instruction's. -/
def postToken (s : State) (k : Core) (xs : Bool) (pc : Word) : Core :=
  let n := tokens k (!xs)
  if n = 15#4 then modStr k xs fun st => { st with pendT := some pc }
  else moved s (setTokens k (!xs) (n + 1))

/-- An instruction carried out: the PC moves, the issue state clears and a token is posted (R47). -/
def complete (xs : Bool) (h : Hdr) (n : Next) (post : Bool) (s : State) (c : Nat) : State :=
  modCore s c fun k =>
    let pc := (strOf k xs).pc
    let k := advance k xs n
    let k := modStr k xs fun st => { st with wDone := false, stall := none, hold := none, retried := none }
    if h.t && post then postToken s k xs pc else k

/-! ## Issue -/

/-- How the guard field of an instruction is read (R45). -/
inductive GuardKind where
  /-- An instruction guard: `c` in the access stream, `p` in the execute stream. -/
  | inst
  /-- The guard of a jump or a loop, whose outcome a gang takes from its leader (R186). -/
  | lead
  /-- A guard outcome already decided. -/
  | fixed (b : Bool)
  /-- An element guard or none: the instruction is not suppressed. -/
  | none
  deriving DecidableEq, Repr

/-- Whether an instruction's guard is true (R46). -/
def guardOk (k : Core) (xs : Bool) (gk : GuardKind) (h : Hdr) : Bool :=
  match gk with
  | .inst => qGet k xs h.g
  | .lead => qGet k xs h.g
  | .fixed b => b
  | .none => true

/-- The guard of an instruction as a gang led by a core reads it (R186). -/
def gangGuard (k : Core) (xs : Bool) (gk : GuardKind) (h : Hdr) : GuardKind :=
  match gk with
  | .lead => .fixed (qGet k xs h.g)
  | gk => gk

/-- A token consumed; a queue load or `vld` whose post waited for room posts it now (R23). -/
def consumeToken (k : Core) (xs : Bool) : Core :=
  match xs, k.sh.pendX with
  | true, _ :: os => { k with sh := { k.sh with pendX := os } }
  | _, _ => setTokens k xs (tokens k xs - 1)

/-- The token of the current word taken, if it asks for one and has not taken it (R47). -/
def takeToken (s : State) (k : Core) (xs : Bool) (h : Hdr) : Option Core :=
  if h.w && !(strOf k xs).wDone then
    if tokens k xs = 0#4 then none
    else
      some (modStr (moved s (consumeToken k xs)) xs fun st => { st with wDone := true })
  else some k

/-- What comes before the guard on one core (R47): the pending post, the hold, the token. The state after it, and what
the instruction waits for, if it does. -/
def issuePre (xs : Bool) (h : Hdr) (c : Nat) (s : State) : State × Option StallKind :=
  let k := coreOf s c
  let st := strOf k xs
  if st.pendT.isSome && tokens k (!xs) == 15#4 then (s, some .token)
  else
    let k := match st.pendT with
      | some _ => moved s (modStr (setTokens k (!xs) (tokens k (!xs) + 1)) xs fun st => { st with pendT := none })
      | none => k
    if (st.hold.map fun t => !ticketReached s t).getD false then (setCore s c k, some .other)
    else
      match takeToken s k xs h with
      | none => (setCore s c k, some .token)
      | some k => (setCore s c k, none)

/-- The guard of one core read, and the instruction carried out or not (R47). -/
def issueBody (xs : Bool) (h : Hdr) (gk : GuardKind) (body onFalse : Nat → State → Eff) (c : Nat) (s : State) : Eff :=
  if guardOk (coreOf s c) xs gk h then body c s else onFalse c s

/-- Issue on one core (R47): pending post, hold, token, guard, body. -/
def issueOn (xs : Bool) (h : Hdr) (gk : GuardKind) (body onFalse : Nat → State → Eff) (c : Nat)
    (s : State) : Eff :=
  match issuePre xs h c s with
  | (s, some w) => .wait s w
  | (s, none) => issueBody xs h gk body onFalse c s

/-- Whether a wait counts as a stall (R25). -/
def StallKind.counted : StallKind → Bool
  | .other => false
  | _ => true

/-- A stream marked as waiting: `since` is when it began to stall in the sense of R25. -/
def markWait (s : State) (c : Nat) (xs : Bool) (w : StallKind) : State :=
  modCore s c fun k => modStr k xs fun st =>
    { st with stall := some w,
              since := if w.counted && (st.stall.map StallKind.counted).getD false then st.since else s.cycle }

/-- The bodies of the other members of a gang, in core order; the leader's continuation stands (R186). -/
def gangBodies (f : Nat → State → Eff) : List Nat → State → Next → Bool → Eff
  | [], s, n, p => .done s n p
  | m :: ms, s, n, p =>
    match f m s with
    | .done s' _ _ => gangBodies f ms s' n p
    | .settled s' => gangBodies f ms s' n p
    | e => e

/-- A member's loop stack made the leader's (R186). -/
def followLoops (xs : Bool) (leader : Nat) (s : State) (m : Nat) : State :=
  modCore s m fun k => setLoops k xs (strOf (coreOf s leader) xs).loops

/-- A member's PC made the leader's. -/
def followPc (xs : Bool) (leader : Nat) (s : State) (m : Nat) : State :=
  modCore s m fun k => setPc k xs (strOf (coreOf s leader) xs).pc

/-- What comes before the guard on every core of a gang: each member makes its own pending post and takes its own
token, and what one of them waits for the gang waits for (R23, R47, R186). -/
def gangPre (xs : Bool) (h : Hdr) : List Nat → State → State × Option StallKind
  | [], s => (s, none)
  | m :: ms, s =>
    let (s, w) := issuePre xs h m s
    let (s, w') := gangPre xs h ms s
    (s, w.or w')

/-- Issue by a fused gang's leader for every member in lockstep (R186): `f` is what one member does once its guard is
read. -/
def issueGang (xs : Bool) (h : Hdr) (f : Nat → State → Eff) (c : Nat) (others : List Nat) (s : State) :
    State :=
  match gangPre xs h (c :: others) s with
  | (s, some w) => markWait s c xs w
  | (s, none) =>
    match (match f c s with
      | .done s1 n p => gangBodies f others s1 n p
      | e => e) with
    | .done s1 n p =>
      let s1 := others.foldl (followLoops xs c) s1
      let s1 := (c :: others).foldl (complete xs h n p) s1
      others.foldl (followPc xs c) s1
    | .wait _ w => markWait s c xs w
    | .trap s1 m f a k => takeFault (if f = .xlate ∨ f = .poison then s else s1) m xs f a k
    | .settled s1 => s1

/-- What a body's answer makes of the state: completion, a wait, a fault, or what it settled itself. -/
def settleEff (xs : Bool) (h : Hdr) (c : Nat) : Eff → State
  | .done s1 n p => complete xs h n p s1 c
  | .wait s1 w => markWait s1 c xs w
  | .trap s1 m f a k => takeFault s1 m xs f a k
  | .settled s1 => s1

/-- Issue by a core that is not fused. -/
def issueSolo (xs : Bool) (h : Hdr) (f : Nat → State → Eff) (c : Nat) (s : State) : State :=
  settleEff xs h c (f c s)

/-- A CUVOS INSTRUCTION issued by the stream whose turn it is (R41, R47, R186): nothing happens when its
core runs no strand, or is a member of a gang that another core leads. -/
def cuvos (xs : Bool) (h : Hdr) (gk : GuardKind) (body onFalse : Nat → State → Eff) (s : State) :
    Host.Outcome State Fault Refusal :=
  let c := s.me
  let f := issueOn xs h gk body onFalse
  match (coreOf s c).run with
  | none => .next s
  | some r =>
    if r.logsz = 0#4 then .next (issueSolo xs h f c s)
    else if r.member = 0#4 then
      let f := issueBody xs h (gangGuard (coreOf s c) xs gk h) body onFalse
      .next (issueGang xs h f c ((gangOf s c).filter fun m => m != c) s)
    else .next s

/-- What a suppressed instruction does: nothing (R46). -/
def suppressed (_ : Nat) (s : State) : Eff := .ok s

/-- An access-stream instruction with an instruction guard. -/
def aInst (h : Hdr) (body : Nat → State → Eff) (s : State) : Host.Outcome State Fault Refusal :=
  cuvos false h .inst body suppressed s
/-- An execute-stream instruction with an instruction guard. -/
def xInst (h : Hdr) (body : Nat → State → Eff) (s : State) : Host.Outcome State Fault Refusal :=
  cuvos true h .inst body suppressed s
/-- A jump with an instruction guard, whose outcome a gang takes from its leader (R186). -/
def jInst (xs : Bool) (h : Hdr) (body : Nat → State → Eff) (s : State) : Host.Outcome State Fault Refusal :=
  cuvos xs h .lead body suppressed s
/-- An instruction of a P- or S-format word, which takes no guard (R45). -/
def pInst (xs : Bool) (h : HdrP) (body : Nat → State → Eff) (s : State) :
    Host.Outcome State Fault Refusal :=
  cuvos xs h.toHdr .none body suppressed s
/-- An execute-stream vector instruction with an element guard (R45). -/
def vInst (h : Hdr) (body : Nat → State → Eff) (s : State) : Host.Outcome State Fault Refusal :=
  cuvos true h .none body suppressed s

/-- An instruction whose whole effect is on its core. -/
def onCore (f : Core → Core) (c : Nat) (s : State) : Eff := .ok (modCore s c f)

/-! ## Decisions of a gang's leader (R186) -/

/-- A value that a gang takes from its leader: the leader notes it, a member reads it; a core that is not
fused uses its own. -/
def leaderValue (s : State) (c : Nat) (own : Word) : Word × State :=
  match (coreOf s c).run with
  | none => (own, s)
  | some r =>
    if r.logsz = 0#4 then (own, s)
    else if r.member = 0#4 then (own, modCore s c fun k => { k with decision := own })
    else ((coreOf s (c - r.member.toNat)).decision, s)

/-- A taken or untaken transfer to `t` that pops the loops it leaves (R126). -/
def transfer (xs : Bool) (c : Nat) (taken : Bool) (t : Word) (s : State) : Eff :=
  let (d, s) := leaderValue s c (wordOf taken)
  if d = 0 then .ok s
  else .done (modCore s c fun k => leaveLoops xs t (strOf k xs).loops k) (.jump t) true

/-- A word offset from a stream's PC (R42). -/
def target (k : Core) (xs : Bool) {w : Nat} (off : BitVec w) : Word :=
  (strOf k xs).pc + 4 * off.signExtend 64

/-- An entry pushed on a loop stack; a fifth is ILLEGAL (R122). -/
def pushLoop (xs : Bool) (c : Nat) (l : LoopEnt) (s : State) : Eff :=
  let k := coreOf s c
  if 4 ≤ (strOf k xs).loops.length then .trap s c .illegal 0 .read
  else .done (modCore s c fun k => setLoops k xs (l :: (strOf k xs).loops)) (.jump ((strOf k xs).pc + 4)) true

/-- Past the body of a loop that runs no iteration (R123). -/
def skipBody (xs : Bool) (len : BitVec 12) (c : Nat) (s : State) : Eff :=
  .done s (.skip ((strOf (coreOf s c) xs).pc + 4 + 4 * len.setWidth 64)) true

/-- The body's first address and end address of a loop at the current PC. -/
def bodyEnt (k : Core) (xs : Bool) (len : BitVec 12) (kind : LoopKind) : LoopEnt :=
  let pc := (strOf k xs).pc
  { s := pc + 4, e := pc + 4 + 4 * len.setWidth 64, kind := kind }

/-- A pop of an entry with EOS from a queue sets the EOS-seen bits of the loops that name it (R124). -/
def noteEos (k : Core) (xs : Bool) (q : BitVec 4) (eos : Bool) : Core :=
  if !eos then k
  else modStr k xs fun st =>
    { st with loops := st.loops.map fun l =>
        match l.kind with
        | .eos q' seen => { l with kind := .eos q' (seen || q' == q) }
        | _ => l }

end Sys2Proof.Machine
end

