-- ==== Sys2Proof/Machine/Flags.lean ====
section
/-!
DEFINITION. Flags and conditions: the integer comparisons of R55, the accumulation of `FFLAGS` and FPINV
(R84), the boolean operations of R56.
-/
namespace Sys2Proof.Machine
open Sys2Proof

/-- The integer comparisons of R55: eq, ne, lt, ge, ltu, geu, tst, ntst. -/
def intCond (cond : BitVec 3) (a b : Word) : Bool :=
  match cond.toNat with
  | 0 => a == b
  | 1 => a != b
  | 2 => a.slt b
  | 3 => !(a.slt b)
  | 4 => a.ult b
  | 5 => !(a.ult b)
  | 6 => (a &&& b) != 0
  | _ => (a &&& b) == 0

/-- Flags raised by a completed instruction (R84). -/
def orFlags (k : Core) (f : Flags) : Core :=
  { k with vec := { k.vec with fflags := k.vec.fflags ||| f } }

/-- Whether an operation that raises these flags faults with FPINV (R84). -/
def fpInv (k : Core) (f : Flags) : Bool := k.vec.nve && (f &&& fNV) != 0

/-- A scalar FP result with its flags, or FPINV (R84, R168). -/
def fpDone (c : Nat) (d : BitVec 5) (r : FpRes) (s : State) : Eff :=
  if fpInv (coreOf s c) r.2 then .trap s c .fpinv 0 .read
  else .ok (modCore s c fun k => orFlags (sSet k d (BitVec.ofNat 64 r.1)) r.2)

end Sys2Proof.Machine
end

