-- ==== Sys2Proof/Machine/Operands.lean ====
section
/-!
DEFINITION. Operand forms: the effective address and post-update of R112, local accesses with the window
and scoreboard checks (R40, R113, R282), tile register fields and row checks (R19, R20, R118), the window
codes of R64, and the queues (R22).
-/
namespace Sys2Proof.Machine
open Sys2Proof

/-! ## Effective addresses (R112) -/

/-- Size in bytes of a size code. -/
def sizeOf_ (z : BitVec 2) : Nat := 2 ^ z.toNat
/-- The scaled offset. -/
def scaled (z : BitVec 2) (off : BitVec 8) : Word := off.signExtend 64 * BitVec.ofNat 64 (sizeOf_ z)
/-- The effective address of an M-format access. -/
def effAddr (k : Core) (xs : Bool) (a : BitVec 5) (z : BitVec 2) (u : BitVec 1) (off : BitVec 8) : Word :=
  if u = 0#1 then rGet k xs a + scaled z off else rGet k xs a
/-- The post-update of an M-format access. -/
def postUpdate (k : Core) (xs : Bool) (a : BitVec 5) (z : BitVec 2) (u : BitVec 1) (off : BitVec 8) : Core :=
  if u = 1#1 then rSet k xs a (rGet k xs a + scaled z off) else k
/-- Whether an address is a multiple of a size. -/
def aligned (ea : Word) (n : Nat) : Bool := ea.toNat % n == 0
/-- Zero-extended value of loaded bytes. -/
def zextBytes (bs : List Byte) : Word := BitVec.ofNat 64 (leNat bs)
/-- The low bytes of a register for a store. -/
def lowBytes (n : Nat) (v : Word) : List Byte := leBytes n v.toNat

/-! ## Strand identity -/

/-- The running strand's parcel. -/
def runParcel (k : Core) : Nat := (k.run.map fun r => r.own.parcel).getD 63
/-- The running strand's identity. -/
def runOwner (k : Core) : Owner := (k.run.map fun r => r.own).getD { parcel := 63, launch := 0, rcd := 0 }
/-- `LBASE` of the running strand. -/
def lbase (k : Core) : Nat := (k.run.map fun r => r.lbase).getD 0
/-- `LSIZE` of the running strand. -/
def lsize (k : Core) : Nat := (k.run.map fun r => r.lsize).getD 0
/-- `IRV` set (R160). -/
def setIrv (k : Core) : Core := { k with run := k.run.map fun r => { r with irv := true } }

/-! ## Local memory -/

/-- Whether [x, x + n) lies in the window (R40). -/
def inWindow (k : Core) (x : Word) (n : Nat) : Bool := x.toNat + n ≤ lsize k
/-- Whether any of `n` scratchpad bytes is poisoned (R394). -/
def scratchPoison (k : Core) (p n : Nat) : Bool := (List.range n).any fun i => k.poison.contains ((p + i) / 16)
/-- Scratchpad bytes stored; granules written whole become clean (R396). -/
def scratchStore (k : Core) (p : Nat) (bs : List Byte) : Core :=
  { k with scratch := memSetList k.scratch p bs,
           poison := k.poison.filter fun g => !coveredBy [(p, bs.length)] (g * 16) 16 }
/-- A scratchpad granule poisoned. -/
def scratchPoisonAt (k : Core) (p : Nat) : Core := { k with poison := insertNat (p / 16) k.poison }

/-- The answer of a local load: bytes, a wait at the scoreboard, or POISON. -/
inductive LRes where
  | ok (bs : List Byte)
  | blocked
  | poison

/-- Local bytes at a window offset (R113, R282). -/
def localLoad (k : Core) (x : Word) (n : Nat) : LRes :=
  let p := lbase k + x.toNat
  if readBlocked k p n then .blocked
  else if scratchPoison k p n then .poison
  else .ok (memGetList k.scratch p n)

/-! ## Tile registers (R19, R20) -/

/-- Element kind. -/
def tKind (t : TileWord) : Nat := (t.extractLsb' 124 4).toNat
/-- Stored planes. -/
def tPlanes (t : TileWord) : Nat := (t.extractLsb' 120 4).toNat
/-- Rows − 1. -/
def tRows (t : TileWord) : Nat := (t.extractLsb' 108 12).toNat
/-- Row width in 16-byte units − 1. -/
def tWidth (t : TileWord) : Nat := (t.extractLsb' 96 12).toNat
/-- Bytes between rows. -/
def tPitch (t : TileWord) : Nat := (t.extractLsb' 64 32).toNat
/-- Space. -/
def tSpace (t : TileWord) : Nat := (t.extractLsb' 62 2).toNat
/-- Address field. -/
def tAddr (t : TileWord) : Nat := (t.extractLsb' 0 62).toNat
/-- Row width in bytes. -/
def tW (t : TileWord) : Nat := (tWidth t + 1) * 16

/-- The must-be-zero address bits of a space (R19). -/
def addrOk (space a : Nat) : Bool :=
  a % 16 == 0 &&
    (match space with
     | 0 => a < 2 ^ 18
     | 1 => a < 2 ^ 48
     | 2 => a < 2 ^ 47 && a / 2 ^ 18 % 2 ^ 14 == 0
     | _ => a < 2 ^ 40 && a / 2 ^ 22 % 2 ^ 10 == 0)

/-- The checks of R20 on a tile register, for the kinds a command accepts. -/
def tileOk (t : TileWord) (kinds : Nat → Bool) : Bool :=
  tKind t ≤ 11 && kinds (tKind t) && addrOk (tSpace t) (tAddr t) && tPitch t % 16 == 0 &&
    (tRows t == 0 || tW t ≤ tPitch t) &&
    (if tKind t = 9 then 2 ≤ tPlanes t && tPlanes t ≤ 8 else tPlanes t == 0)

/-- The address of a region's first row in its space; a global one is the virtual address of 64 bits whose bits [47:0]
the register gives, bit 47 extended (R19, R115). -/
def tBase (t : TileWord) : Nat :=
  if tSpace t = 1 then ((BitVec.ofNat 48 (tAddr t)).signExtend 64).toNat else tAddr t

/-- The address of row `i` in its space. -/
def rowAddr (t : TileWord) (i : Nat) : Nat := tBase t + i * tPitch t

/-- The slot of the strand of a launch with a round that is resident on a core (R314, R319): a HOME strand on its home
core, an ANY strand wherever it is resident. Where two strands of the launch with that round are resident there (ANY
strands of different home cores), no rule says which window the address names: the lowest slot, the model's choice
(log 73). -/
def roundSlot (s : State) (core : Nat) (launch : BitVec 28) (round : Nat) : Option Resident :=
  ((coreOf s core).res.find? fun r =>
    r.2.own.launch == launch && r.2.round == some round).map (·.2)

/-- The outcome of a row check: a fault, or a wait for a page in transit, carries the address of its part. -/
inductive RowRes where
  | ok (l : List Loc)
  | fault (f : FaultCode) (addr : Word)
  | transit (addr : Word)

/-- The global parts of a row translate (R115, R118): the first failure, or every part's place. -/
def globalParts (s : State) (c p : Nat) (k : AccKind) (a : Nat) : Nat → RowRes
  | 0 => .ok []
  | n + 1 =>
    let va := BitVec.ofNat 64 a
    match translate s (.core c) p va k with
    | .fault f => .fault f va
    | .transit => .transit va
    | .ok _ _ =>
      match globalParts s c p k (a + 16) n with
      | .ok ls => .ok (.global p va :: ls)
      | e => e

/-- `n` consecutive 16-byte places. -/
def parts16 (f : Nat → Loc) (n : Nat) : List Loc := (List.range n).map fun i => f (16 * i)

/-- `check_row` of R118 for a row of `w` bytes at `a` in a space: the places of its 16-byte parts. A vault row that both
passes 4 MiB and lies in another parcel's partition takes BOUNDS: R118 states no order, and this is the model's
choice (log 61). -/
def checkRow (s : State) (c : Nat) (space a w : Nat) (k : AccKind) : RowRes :=
  let K := coreOf s c
  let va := BitVec.ofNat 64 a
  match space with
  | 0 =>
    if a + w ≤ lsize K then .ok (parts16 (fun o => .scratch c (lbase K + a + o) (BitVec.ofNat 64 (a + o))) (w / 16))
    else .fault .bounds va
  | 1 => globalParts s c (runParcel K) k a (w / 16)
  | 2 =>
    let core := a / 2 ^ 32 % 2 ^ 12
    let round := a / 2 ^ 44 % 8
    let off := a % 2 ^ 32
    if !coreExists core || effOwner s core ≠ runParcel K then .fault .foreign va
    else
      match roundSlot s core (runOwner K).launch round with
      | none => .fault .bounds va
      | some r =>
        if off + w ≤ r.size then
          .ok (parts16 (fun o => .scratch core (r.base + off + o) (BitVec.ofNat 64 (a + o))) (w / 16))
        else .fault .bounds va
  | _ =>
    let sc := a / 2 ^ 32 % 2 ^ 8
    let off := a % 2 ^ 32
    if !sectExists sc then .fault .foreign va
    else if 0x400000 < off + w then .fault .bounds va
    else if (List.range (w / 16)).any fun i => partOwner s sc (off + 16 * i) != runParcel K then
      .fault .foreign va
    else .ok (parts16 (fun o => .vault sc (off + o)) (w / 16))

/-- Rows `i` to `i + n − 1` of a region checked in order (R118): their places, row by row; or the fault of the first part
that fails with its address, no fault where that part's page is in transit. -/
def checkRows (s : State) (c : Nat) (t : TileWord) (k : AccKind) (i : Nat) :
    Nat → Except (Option FaultCode × Word) (List (List Loc))
  | 0 => .ok []
  | n + 1 =>
    match checkRow s c (tSpace t) (rowAddr t i) (tW t) k with
    | .fault f a => .error (some f, a)
    | .transit a => .error (none, a)
    | .ok ls =>
      match checkRows s c t k (i + 1) n with
      | .ok rs => .ok (ls :: rs)
      | .error e => .error e

/-- What a failed row check answers. -/
def rowFail (s : State) (c : Nat) (e : Option FaultCode × Word) (k : PagerKind) : Eff :=
  match e with
  | (none, va) => .wait (missWalk s (.core c) (runParcel (coreOf s c)) va) .other
  | (some f, a) => .trap s c f a k

/-- The scratchpad ranges of places, one per part: core and offset. -/
def scratchRanges : List Loc → List (Nat × Nat)
  | [] => []
  | .scratch c o _ :: ls => (c, o) :: scratchRanges ls
  | _ :: ls => scratchRanges ls

/-- Scoreboard entries of 16 bytes added at a core for one command (R130, R223). -/
def registerAt (wr : Bool) (seq : Nat) (s : State) (co : Nat × Nat) : State :=
  modCore s co.1 fun k =>
    { k with eng := { k.eng with board := k.eng.board ++ [{ seq := seq, lo := co.2, len := 16, wr := wr }] } }

/-- Every scratchpad part of a command registered with its owning core (R118, R130). -/
def registerParts (s : State) (wr : Bool) (seq : Nat) (ls : List Loc) : State :=
  (scratchRanges ls).foldl (registerAt wr seq) s

/-- Whether a part may be read now at its core's scoreboard. -/
def partReadable (s : State) : Loc → Bool
  | .scratch c o _ => !readBlocked (coreOf s c) o 16
  | _ => true
/-- Whether a part may be written now at its core's scoreboard. -/
def partWritable (s : State) : Loc → Bool
  | .scratch c o _ => !boardMeets (coreOf s c) o 16
  | _ => true

/-- The outcome of a part's read: bytes and whether they are poisoned. A fault carries what the endpoint has logged, and
a wait for a page in transit what the walk has read. -/
inductive PartRes where
  | ok (s : State) (bs : List Byte) (poison : Bool)
  | fault (s : State) (f : FaultCode) (va : Word)
  | transit (s : State)

/-- The address of a place as it was issued (R118, R386). -/
def Loc.issued : Loc → Word
  | .scratch _ _ va => va
  | .global _ va => va
  | .vault sc o => BitVec.ofNat 64 (sc * 2 ^ 32 + o)

/-- A part's message between a core and a scratchpad or vault refused or failed (R392, R402): logged with both
parcels. -/
def partRefused (s : State) (p owner : Nat) : State := logEv s (.violation p owner)

/-- The bytes of a part as its answer brings them, from a place other than the reader's own scratchpad (R402). -/
def partBody (s : State) (p owner : Nat) (va : Word) (bs : List Byte) (poison : Bool) : PartRes :=
  match s.mesh.fail with
  | some .request => .fault (partRefused (meshSpent s) p owner) .foreign va
  | some .body => .ok (meshSpent s) bs true
  | _ => .ok s bs poison

/-- 16 bytes read by a core at a place for a parcel, with the endpoint's own check (R117, R130, R392). -/
def readPart (s : State) (c p : Nat) (l : Loc) : PartRes :=
  match l with
  | .scratch co o va =>
    let k := coreOf s co
    if effOwner s co ≠ p then .fault (partRefused s p (effOwner s co)) .foreign va
    else if co = c then .ok s (memGetList k.scratch o 16) (scratchPoison k o 16)
    else
      partBody (exchanged s (.core c) p co) p p va (memGetList k.scratch o 16) (scratchPoison k o 16)
  | .vault sc o =>
    if partOwner s sc o ≠ p then .fault (partRefused s p (partOwner s sc o)) .foreign l.issued
    else
      partBody (exchanged s (.core c) p (endpointAt (vaultPa sc o))) p p l.issued
        (physBytes s.phys (vaultPa sc o) 16) (anyPoison s.phys (vaultPa sc o) 16)
  | .global q va =>
    match translate s (.core c) q va .read with
    | .transit => .transit (missWalk s (.core c) q va)
    | .fault .foreign => .fault (refused s q (mappedPa s (.core c) q va)) .foreign va
    | .fault f => .fault s f va
    | .ok pa lf =>
      if !endpointOk s q pa then .fault (refused s q pa) .foreign va
      else if linkLost s pa then .fault s .link va
      else
        partBody (touch s (.core c) q va lf pa 16 .read) q (endpointOwner s q pa) va
          (physBytes s.phys pa 16) (anyPoison s.phys pa 16)

/-- The outcome of a part's write: the physical address written, when the part lies in memory, and whether the bytes
arrived poisoned; or a write that its endpoint dropped. A wait for a page in transit carries what the walk has read. -/
inductive PutRes where
  | ok (s : State) (pa : Option Nat) (bad : Bool)
  | dropped (s : State)
  | fault (f : FaultCode) (va : Word)
  | transit (s : State)

/-- A write as its message brings it (R402): dropped when its request fails, poisoned when its body does. -/
def putBody (s : State) (c : Nat) (own : Owner) (va : Word) (pa owner : Nat) (put : State → State) (at_ : Option Nat) :
    PutRes :=
  match s.mesh.fail with
  | some .request => .dropped (droppedWrite (meshSpent s) own.parcel c own va pa owner)
  | some .body => .ok (put (meshSpent s)) at_ true
  | _ => .ok (put s) at_ false

/-- The number by which the log of a dropped write names a scratchpad byte: its core above its offset (log 62). -/
def scratchPa (co o : Nat) : Nat := co * 2 ^ 32 + o

/-- 16 bytes written at a place, with the endpoint's own check (R392); poison is left for the command to
settle. -/
def writePart (s : State) (c : Nat) (own : Owner) (l : Loc) (bs : List Byte) : PutRes :=
  match l with
  | .scratch co o va =>
    let put (s : State) : State := modCore s co fun k => { k with scratch := memSetList k.scratch o bs }
    if effOwner s co ≠ own.parcel then
      .dropped (droppedWrite s own.parcel c own va (scratchPa co o) (effOwner s co))
    else if co = c then .ok (put s) none false
    else putBody (exchanged s (.core c) own.parcel co) c own va (scratchPa co o) (effOwner s co) put none
  | .vault sc o =>
    let pa := vaultPa sc o
    if partOwner s sc o ≠ own.parcel then .dropped (droppedWrite s own.parcel c own l.issued pa (partOwner s sc o))
    else
      putBody (exchanged s (.core c) own.parcel (endpointAt pa)) c own l.issued pa (partOwner s sc o)
        (fun s => { s with phys := physPutList s.phys pa bs }) (some pa)
  | .global p va =>
    match translate s (.core c) p va .write with
    | .transit => .transit (missWalk s (.core c) p va)
    | .fault .foreign =>
      let pa := mappedPa s (.core c) p va
      .dropped (droppedWrite s p c own va pa (endpointOwner s p pa))
    | .fault f => .fault f va
    | .ok pa lf =>
      if !endpointOk s p pa then .dropped (droppedWrite s p c own va pa (endpointOwner s p pa))
      else if linkLost s pa then .dropped (logEv s .linkStore)
      else
        putBody (touch s (.core c) p va lf pa 16 .write) c own va pa (endpointOwner s p pa)
          (fun s => { s with phys := physPutList s.phys pa bs }) (some pa)

/-- A place poisoned at its own granule, and the blocks of frames so poisoned counted (R135, R393, R394). -/
def poisonPart (s : State) (l : Loc) (pa : Option Nat) : State :=
  match l, pa with
  | .scratch c o _, _ => modCore s c fun k => scratchPoisonAt k o
  | _, some a =>
    let s := countPoison s a 16
    { s with phys := poisonRange s.phys a 16 }
  | _, none => s

/-- A package-wide sequence number for an accepted command. -/
def newSeq (s : State) : Nat × State :=
  (s.sched.nextSeq, { s with sched := { s.sched with nextSeq := s.sched.nextSeq + 1 } })

/-- Whether an earlier accepted command keeps a part from being read or written (R282). -/
def earlierBlocks (s : State) (seq : Nat) (wr : Bool) : Loc → Bool
  | .scratch c o _ => (coreOf s c).eng.board.any fun b =>
      b.seq < seq && (wr || b.wr) && b.lo < o + 16 && o < b.lo + b.len
  | _ => false

/-- A command's ranges leave every scoreboard, and the windows that waited for it are released (R150). -/
def unregister (s : State) (seq : Nat) : State :=
  s.cores.foldl (fun s kc =>
    if kc.2.eng.board.any fun b => b.seq == seq then
      sweepLeaving (modCore s kc.1 fun k =>
        { k with eng := { k.eng with board := k.eng.board.filter fun b => b.seq != seq } }) kc.1
    else s) s

/-! ## Ports (R24) -/

/-- The neighbour of a core in a direction, north 0, east 1, south 2, west 3, inside a die and across a
die crossing (R439); none at the package edge. -/
def neighbour (c : Nat) (dir : Nat) : Option Nat :=
  let die := c / 1024
  let sc := c / 16 % 64
  let ix := c % 16
  let col := sc % 8 * 4 + ix % 4
  let row := sc / 8 * 4 + ix / 4
  let x := die % 2 * 32 + col
  let y := die / 2 * 24 + row
  let at_ (x y : Nat) : Nat :=
    let d := y / 24 * 2 + x / 32
    let cc := x % 32
    let rr := y % 24
    d * 1024 + (rr / 4 * 8 + cc / 4) * 16 + (rr % 4 * 4 + cc % 4)
  match dir with
  | 0 => if y = 0 then none else some (at_ x (y - 1))
  | 1 => if x = 63 then none else some (at_ (x + 1) y)
  | 2 => if y = 47 then none else some (at_ x (y + 1))
  | _ => if x = 0 then none else some (at_ (x - 1) y)

/-- Whether a port of a core is closed (R24, R339). -/
def portClosed (s : State) (c dir : Nat) : Bool :=
  match neighbour c dir with
  | none => true
  | some n =>
    coreOwner s n != coreOwner s c || (coreOf s c).easement.isSome || (coreOf s n).easement.isSome

/-! ## Window codes (R64) -/

/-- The queue or port a window code names as a source. -/
inductive WinSrc where
  | reg (r : BitVec 5)
  | lq
  | inbox (d : BitVec 2)
  deriving DecidableEq, Repr

/-- A window code as a or b. -/
def winSrc (x : BitVec 5) : WinSrc :=
  if x.toNat < 24 then .reg x else if x = 24#5 then .lq else .inbox (x.extractLsb' 0 2)

/-- The queue or port a window code names as a destination. -/
inductive WinDst where
  | reg (r : BitVec 5)
  | sq (eos : Bool)
  | outbox (d : BitVec 2)
  deriving DecidableEq, Repr

/-- A window code as d. -/
def winDst (x : BitVec 5) : WinDst :=
  if x.toNat < 24 then .reg x else if x = 24#5 then .sq false else if x = 25#5 then .sq true
  else .outbox (x.extractLsb' 0 2)

/-! ## Queues (R22) -/

/-- The queue codes of `loops` on the access side (R123): 0 SQ, 1 VSQ, 2 BQA. -/
abbrev qSQ : BitVec 4 := 0#4
abbrev qVSQ : BitVec 4 := 1#4
abbrev qBQA : BitVec 4 := 2#4
/-- The queue codes of `loops` on the execute side (R182): 0 LQ, 1 VLQ, 2 BQX. -/
abbrev qLQ : BitVec 4 := 0#4
abbrev qVLQ : BitVec 4 := 1#4
abbrev qBQX : BitVec 4 := 2#4

/-- The head of LQ when it is filled (R114). -/
def lqHead (k : Core) : Option QEnt :=
  match k.sh.lq with
  | e :: _ => if e.filled then some e else none
  | [] => none
/-- The head of VLQ when it is filled (R117). -/
def vlqHead (k : Core) : Option VEnt :=
  match k.sh.vlq with
  | e :: _ => if e.filled then some e else none
  | [] => none

/-- The head of LQ popped, with the EOS note of R182. -/
def lqPop (s : State) (k : Core) : Core :=
  match k.sh.lq with
  | e :: q => noteEos (moved s { k with sh := { k.sh with lq := q } }) true qLQ e.eos
  | [] => k
/-- The head of SQ popped, with the EOS note of R124. -/
def sqPop (s : State) (k : Core) : Core :=
  match k.sh.sq with
  | e :: q => noteEos (moved s { k with sh := { k.sh with sq := q } }) false qSQ e.eos
  | [] => k
/-- The head of VLQ popped, with the EOS note of R182. -/
def vlqPop (s : State) (k : Core) : Core :=
  match k.sh.vlq with
  | e :: q => noteEos (moved s { k with sh := { k.sh with vlq := q } }) true qVLQ e.eos
  | [] => k
/-- The head of VSQ popped, with the EOS note of R124. -/
def vsqPop (s : State) (k : Core) : Core :=
  match k.sh.vsq with
  | e :: q => noteEos (moved s { k with sh := { k.sh with vsq := q } }) false qVSQ e.eos
  | [] => k
/-- An entry pushed to SQ. -/
def sqPush (s : State) (k : Core) (v : Word) (eos : Bool) : Core :=
  moved s { k with sh := { k.sh with sq := k.sh.sq ++ [{ data := v, eos := eos, filled := true, tok := false }] } }
/-- An entry pushed to VSQ. -/
def vsqPush (s : State) (k : Core) (v : VBits) (eos : Bool) : Core :=
  moved s { k with sh := { k.sh with vsq := k.sh.vsq ++ [{ data := v, eos := eos, filled := true, tok := false }] } }

end Sys2Proof.Machine
end

