-- ==== Sys2Proof/Machine/Alu.lean ====
section
/-!
DEFINITION. The 64-bit integer operations of R105, R106, R107 and R163, shared by the access stream,
the execute stream and the windowed forms, and the instruction shapes over them.
-/
namespace Sys2Proof.Machine
open Sys2Proof

/-- `shl`: left by b[5:0] (R105). -/
def aluShl (a b : Word) : Word := a <<< (b.extractLsb' 0 6)
/-- `shr`: logical right by b[5:0]. -/
def aluShr (a b : Word) : Word := a >>> (b.extractLsb' 0 6)
/-- `sra`: arithmetic right by b[5:0]. -/
def aluSra (a b : Word) : Word := a.sshiftRight (b.extractLsb' 0 6).toNat
/-- `mulh`: bits [127:64] of the signed product. -/
def aluMulh (a b : Word) : Word := (a.signExtend 128 * b.signExtend 128).extractLsb' 64 64
/-- `mulhu`: bits [127:64] of the unsigned product. -/
def aluMulhu (a b : Word) : Word := (a.setWidth 128 * b.setWidth 128).extractLsb' 64 64
/-- `min`: the smaller as s64. -/
def aluMin (a b : Word) : Word := if a.slt b then a else b
/-- `max`: the larger as s64. -/
def aluMax (a b : Word) : Word := if a.slt b then b else a
/-- `minu`: the smaller as u64. -/
def aluMinu (a b : Word) : Word := if a.ult b then a else b
/-- `maxu`: the larger as u64. -/
def aluMaxu (a b : Word) : Word := if a.ult b then b else a
/-- `slt` and `slti`. -/
def aluSlt (a b : Word) : Word := wordOf (a.slt b)
/-- `sltu`. -/
def aluSltu (a b : Word) : Word := wordOf (a.ult b)
/-- `andn`: a & ~b. -/
def aluAndn (a b : Word) : Word := a &&& ~~~b
/-- `orn`: a | ~b. -/
def aluOrn (a b : Word) : Word := a ||| ~~~b
/-- `rotl`: left by b[5:0], the bits shifted out entering at the right. -/
def aluRotl (a b : Word) : Word := a.rotateLeft (b.extractLsb' 0 6).toNat
/-- `div`: truncated toward zero; all ones for a zero divisor; −2^63 / −1 is −2^63 (R163). -/
def aluDiv (a b : Word) : Word := if b = 0 then BitVec.allOnes 64 else BitVec.ofInt 64 (a.toInt.tdiv b.toInt)
/-- `divu`: all ones for a zero divisor. -/
def aluDivu (a b : Word) : Word := if b = 0 then BitVec.allOnes 64 else a / b
/-- `rem`: with the sign of a; a for a zero divisor. -/
def aluRem (a b : Word) : Word := if b = 0 then a else BitVec.ofInt 64 (a.toInt.tmod b.toInt)
/-- `remu`: a for a zero divisor. -/
def aluRemu (a b : Word) : Word := if b = 0 then a else a % b
/-- Leading zero bits among the `n` low bits of a word. -/
def clzGo (a : Word) : Nat → Nat
  | 0 => 0
  | n + 1 => if a.getLsbD n then 0 else clzGo a n + 1
/-- `clz`: 0 to 64. -/
def aluClz (a : Word) : Word := BitVec.ofNat 64 (clzGo a 64)
/-- One bits among the `n` low bits of a word. -/
def popcGo (a : Word) : Nat → Nat
  | 0 => 0
  | n + 1 => popcGo a n + (if a.getLsbD n then 1 else 0)
/-- `popc`. -/
def aluPopc (a : Word) : Word := BitVec.ofNat 64 (popcGo a 64)
/-- `sext.w`. -/
def aluSextW (a : Word) : Word := (a.extractLsb' 0 32).signExtend 64
/-- `zext.w`. -/
def aluZextW (a : Word) : Word := (a.extractLsb' 0 32).setWidth 64

/-- The operand of an immediate form (R106). -/
def immW (im : BitVec 11) : Word := im.signExtend 64

/-- A register operation of two sources on a stream's core. -/
def rOp2 (xs : Bool) (f : Word → Word → Word) (d a b : BitVec 5) (k : Core) : Core :=
  rSet k xs d (f (rGet k xs a) (rGet k xs b))
/-- A register operation of one source. -/
def rOp1 (xs : Bool) (f : Word → Word) (d a : BitVec 5) (k : Core) : Core :=
  rSet k xs d (f (rGet k xs a))
/-- `li` on a core (R107). -/
def rLi (xs : Bool) (d : BitVec 5) (im : BitVec 16) (k : Core) : Core := rSet k xs d (im.signExtend 64)
/-- `lih` on a core (R107). -/
def rLih (xs : Bool) (d : BitVec 5) (im : BitVec 16) (k : Core) : Core :=
  rSet k xs d ((rGet k xs d) <<< 16 ||| im.setWidth 64)

/-- An access-stream instruction of two sources. -/
def aOp2 (f : Word → Word → Word) (h : Hdr) (d a b : BitVec 5) (s : State) :
    Host.Outcome State Fault Refusal := aInst h (onCore (rOp2 false f d a b)) s
/-- An access-stream instruction of one source. -/
def aOp1 (f : Word → Word) (h : Hdr) (d a : BitVec 5) (s : State) : Host.Outcome State Fault Refusal :=
  aInst h (onCore (rOp1 false f d a)) s
/-- An execute-stream instruction of two sources. -/
def xOp2 (f : Word → Word → Word) (h : Hdr) (d a b : BitVec 5) (s : State) :
    Host.Outcome State Fault Refusal := xInst h (onCore (rOp2 true f d a b)) s
/-- An execute-stream instruction of one source. -/
def xOp1 (f : Word → Word) (h : Hdr) (d a : BitVec 5) (s : State) : Host.Outcome State Fault Refusal :=
  xInst h (onCore (rOp1 true f d a)) s

/-- A predicate operation on a stream's core (R109, R175). -/
def qOp2 (xs : Bool) (f : Bool → Bool → Bool) (d a b : BitVec 3) (k : Core) : Core :=
  qSet k xs d (f (qGet k xs a) (qGet k xs b))
/-- A predicate operation of one source. -/
def qOp1 (xs : Bool) (f : Bool → Bool) (d a : BitVec 3) (k : Core) : Core :=
  qSet k xs d (f (qGet k xs a))
/-- An integer comparison into a predicate (R108, R174). -/
def qCmp (xs : Bool) (p k : BitVec 3) (a b : BitVec 5) (c : Core) : Core :=
  qSet c xs p (intCond k (rGet c xs a) (rGet c xs b))

end Sys2Proof.Machine
end

