-- ==== Sys2Proof/Machine/AccessInt.lean ====
section
/-!
DEFINITION. Access-stream arithmetic, condition predicates and index arithmetic (R105 to R111).
-/
namespace Sys2Proof.Machine
open Sys2Proof

/-- `add`: a + b. -/
def execAAdd (h : Hdr) (d a b : BitVec 5) (s : State) : Host.Outcome State Fault Refusal :=
  aOp2 (fun x y => x + y) h d a b s
/-- `sub`: a − b. -/
def execASub (h : Hdr) (d a b : BitVec 5) (s : State) : Host.Outcome State Fault Refusal :=
  aOp2 (fun x y => x - y) h d a b s
/-- `and`: a & b. -/
def execAAnd (h : Hdr) (d a b : BitVec 5) (s : State) : Host.Outcome State Fault Refusal :=
  aOp2 (fun x y => x &&& y) h d a b s
/-- `or`: a | b. -/
def execAOr (h : Hdr) (d a b : BitVec 5) (s : State) : Host.Outcome State Fault Refusal :=
  aOp2 (fun x y => x ||| y) h d a b s
/-- `xor`: a xor b. -/
def execAXor (h : Hdr) (d a b : BitVec 5) (s : State) : Host.Outcome State Fault Refusal :=
  aOp2 (fun x y => x ^^^ y) h d a b s
/-- `shl`: a << b[5:0]. -/
def execAShl (h : Hdr) (d a b : BitVec 5) (s : State) : Host.Outcome State Fault Refusal :=
  aOp2 aluShl h d a b s
/-- `shr`: u64(a) >> b[5:0]. -/
def execAShr (h : Hdr) (d a b : BitVec 5) (s : State) : Host.Outcome State Fault Refusal :=
  aOp2 aluShr h d a b s
/-- `sra`: s64(a) >> b[5:0]. -/
def execASra (h : Hdr) (d a b : BitVec 5) (s : State) : Host.Outcome State Fault Refusal :=
  aOp2 aluSra h d a b s
/-- `mul`: low 64 bits of a × b. -/
def execAMul (h : Hdr) (d a b : BitVec 5) (s : State) : Host.Outcome State Fault Refusal :=
  aOp2 (fun x y => x * y) h d a b s
/-- `mulh`: signed high product. -/
def execAMulh (h : Hdr) (d a b : BitVec 5) (s : State) : Host.Outcome State Fault Refusal :=
  aOp2 aluMulh h d a b s
/-- `mulhu`: unsigned high product. -/
def execAMulhu (h : Hdr) (d a b : BitVec 5) (s : State) : Host.Outcome State Fault Refusal :=
  aOp2 aluMulhu h d a b s
/-- `min`: signed minimum. -/
def execAMin (h : Hdr) (d a b : BitVec 5) (s : State) : Host.Outcome State Fault Refusal :=
  aOp2 aluMin h d a b s
/-- `max`: signed maximum. -/
def execAMax (h : Hdr) (d a b : BitVec 5) (s : State) : Host.Outcome State Fault Refusal :=
  aOp2 aluMax h d a b s
/-- `minu`: unsigned minimum. -/
def execAMinu (h : Hdr) (d a b : BitVec 5) (s : State) : Host.Outcome State Fault Refusal :=
  aOp2 aluMinu h d a b s
/-- `maxu`: unsigned maximum. -/
def execAMaxu (h : Hdr) (d a b : BitVec 5) (s : State) : Host.Outcome State Fault Refusal :=
  aOp2 aluMaxu h d a b s
/-- `slt`: signed set-less-than. -/
def execASlt (h : Hdr) (d a b : BitVec 5) (s : State) : Host.Outcome State Fault Refusal :=
  aOp2 aluSlt h d a b s
/-- `sltu`: unsigned set-less-than. -/
def execASltu (h : Hdr) (d a b : BitVec 5) (s : State) : Host.Outcome State Fault Refusal :=
  aOp2 aluSltu h d a b s
/-- `andn`: a & ~b. -/
def execAAndn (h : Hdr) (d a b : BitVec 5) (s : State) : Host.Outcome State Fault Refusal :=
  aOp2 aluAndn h d a b s
/-- `orn`: a | ~b. -/
def execAOrn (h : Hdr) (d a b : BitVec 5) (s : State) : Host.Outcome State Fault Refusal :=
  aOp2 aluOrn h d a b s
/-- `rotl`: rotate left. -/
def execARotl (h : Hdr) (d a b : BitVec 5) (s : State) : Host.Outcome State Fault Refusal :=
  aOp2 aluRotl h d a b s
/-- `addi`: a + i. -/
def execAAddi (h : Hdr) (d a : BitVec 5) (im : BitVec 11) (s : State) : Host.Outcome State Fault Refusal :=
  aOp1 (fun x => x + immW im) h d a s
/-- `andi`: a & i. -/
def execAAndi (h : Hdr) (d a : BitVec 5) (im : BitVec 11) (s : State) : Host.Outcome State Fault Refusal :=
  aOp1 (fun x => x &&& immW im) h d a s
/-- `ori`: a | i. -/
def execAOri (h : Hdr) (d a : BitVec 5) (im : BitVec 11) (s : State) : Host.Outcome State Fault Refusal :=
  aOp1 (fun x => x ||| immW im) h d a s
/-- `xori`: a xor i. -/
def execAXori (h : Hdr) (d a : BitVec 5) (im : BitVec 11) (s : State) : Host.Outcome State Fault Refusal :=
  aOp1 (fun x => x ^^^ immW im) h d a s
/-- `slti`: signed a < i. -/
def execASlti (h : Hdr) (d a : BitVec 5) (im : BitVec 11) (s : State) : Host.Outcome State Fault Refusal :=
  aOp1 (fun x => aluSlt x (immW im)) h d a s
/-- `shli`: a << imm11[5:0]. -/
def execAShli (h : Hdr) (d a : BitVec 5) (sc : BitVec 6) (s : State) : Host.Outcome State Fault Refusal :=
  aOp1 (fun x => x <<< sc) h d a s
/-- `shri`: u64(a) >> imm11[5:0]. -/
def execAShri (h : Hdr) (d a : BitVec 5) (sc : BitVec 6) (s : State) : Host.Outcome State Fault Refusal :=
  aOp1 (fun x => x >>> sc) h d a s
/-- `srai`: s64(a) >> imm11[5:0]. -/
def execASrai (h : Hdr) (d a : BitVec 5) (sc : BitVec 6) (s : State) : Host.Outcome State Fault Refusal :=
  aOp1 (fun x => x.sshiftRight sc.toNat) h d a s
/-- `li` (R107). -/
def execALi (h : Hdr) (d : BitVec 5) (im : BitVec 16) (s : State) : Host.Outcome State Fault Refusal :=
  aInst h (onCore (rLi false d im)) s
/-- `lih` (R107). -/
def execALih (h : Hdr) (d : BitVec 5) (im : BitVec 16) (s : State) : Host.Outcome State Fault Refusal :=
  aInst h (onCore (rLih false d im)) s
/-- `cset` (R108). -/
def execCset (h : Hdr) (p k : BitVec 3) (a b : BitVec 5) (s : State) : Host.Outcome State Fault Refusal :=
  aInst h (onCore (qCmp false p k a b)) s
/-- `cand` (R109). -/
def execCand (h : Hdr) (d a b : BitVec 3) (s : State) : Host.Outcome State Fault Refusal :=
  aInst h (onCore (qOp2 false (fun x y => x && y) d a b)) s
/-- `cor` (R109). -/
def execCor (h : Hdr) (d a b : BitVec 3) (s : State) : Host.Outcome State Fault Refusal :=
  aInst h (onCore (qOp2 false (fun x y => x || y) d a b)) s
/-- `cxor` (R109). -/
def execCxor (h : Hdr) (d a b : BitVec 3) (s : State) : Host.Outcome State Fault Refusal :=
  aInst h (onCore (qOp2 false (fun x y => x != y) d a b)) s
/-- `cnot` (R109). -/
def execCnot (h : Hdr) (d a : BitVec 3) (s : State) : Host.Outcome State Fault Refusal :=
  aInst h (onCore (qOp1 false (fun x => !x) d a)) s
/-- `cmov` (R109). -/
def execCmov (h : Hdr) (d a : BitVec 3) (s : State) : Host.Outcome State Fault Refusal :=
  aInst h (onCore (qOp1 false (fun x => x) d a)) s

/-- `idx2`: (a << sh) + b (R110). -/
def execIdx2 (h : Hdr) (d a b : BitVec 5) (sc : BitVec 6) (s : State) : Host.Outcome State Fault Refusal :=
  aOp2 (fun x y => (x <<< sc) + y) h d a b s

/-! ## Block-cyclic addresses (R111) -/

/-- Fields of the DIST CSRs (R26). -/
def distBlk (w : Word) : Nat := (w.extractLsb' 0 32).toNat
def distGrid (w : Word) : Nat := (w.extractLsb' 32 16).toNat
/-- Number of dimensions and element size code of DIST0. -/
def distNdim (w : Word) : Nat := (w.extractLsb' 12 2).toNat
def distEsz (w : Word) : Nat := (w.extractLsb' 16 4).toNat
/-- The core id of owner 0. -/
def distBaseCore (w : Word) : Nat := (w.extractLsb' 0 12).toNat
/-- The byte offset of DIST0. -/
def distBaseOff (w : Word) : Word := (w.extractLsb' 32 32).setWidth 64
/-- Local extent of DIST4 to DIST6. -/
def distLext (w : Word) : Word := (w.extractLsb' 0 32).setWidth 64
/-- `DIST` register n of a core. -/
def dist (k : Core) (n : Nat) : Word := bget k.a.dists (BitVec.ofNat 3 n)

/-- Owner and local index over dimensions i to i + n − 1: nothing where a block, grid or extent is 0. -/
def gaddrGo (k : Core) (a : Nat) : Nat → Nat → Word × Word → Option (Word × Word)
  | 0, _, r => some r
  | n + 1, i, (own, loc) =>
    let x := aGet k (BitVec.ofNat 5 (a + i))
    let b := BitVec.ofNat 64 (distBlk (dist k (1 + i)))
    let g := BitVec.ofNat 64 (distGrid (dist k (1 + i)))
    let le := distLext (dist k (4 + i))
    if b = 0 ∨ g = 0 ∨ (0 < i ∧ le = 0) then none
    else
      let loc := if 0 < i then loc * le else loc
      gaddrGo k a n (i + 1) (own * g + (x / b) % g, loc + x / (b * g) * b + x % b)

/-- Owner ordinal count and local byte offset of the index at `a` onwards, where the table is valid. -/
def gaddrOwnOff (k : Core) (a : BitVec 5) : Option (Word × Word) :=
  let d0 := dist k 0
  let nd := distNdim d0
  if nd < 1 ∨ 3 < distEsz d0 ∨ 31 < a.toNat + nd - 1 then none
  else
    match gaddrGo k a.toNat nd 0 (0, 0) with
    | none => none
    | some (own, loc) => some (own, distBaseOff d0 + (loc <<< distEsz d0))

/-- The ordinal of the owner core, where it exists. -/
def gaddrOrd (k : Core) (own : Word) : Option Nat :=
  let bc := distBaseCore (dist k 0)
  if 47 < bc / 16 % 64 then none
  else
    let o := (BitVec.ofNat 64 (ordOf bc) + own).toNat
    if 3072 ≤ o then none else some o

/-- `gaddr` in one of its three forms. -/
def gaddrBody (form : Nat) (d a : BitVec 5) (c : Nat) (s : State) : Eff :=
  let k := coreOf s c
  match gaddrOwnOff k a with
  | none => .trap s c .illegal 0 .read
  | some (own, off) =>
    if form = 2 then .ok (setCore s c (aSet k d off))
    else
      match gaddrOrd k own with
      | none => .trap s c .illegal 0 .read
      | some o =>
        let id := BitVec.ofNat 64 (idOf o)
        if form = 1 then .ok (setCore s c (aSet k d id))
        else if 2 ^ 18 ≤ off.toNat then .trap s c .bounds off .read
        else .ok (setCore s c (aSet k d ((2#64 <<< 62) ||| (id <<< 32) ||| off)))

/-- `gaddr.rl` (R111). -/
def execGaddrRl (h : Hdr) (d a : BitVec 5) (s : State) : Host.Outcome State Fault Refusal :=
  aInst h (gaddrBody 0 d a) s
/-- `gaddr.own` (R111). -/
def execGaddrOwn (h : Hdr) (d a : BitVec 5) (s : State) : Host.Outcome State Fault Refusal :=
  aInst h (gaddrBody 1 d a) s
/-- `gaddr.off` (R111). -/
def execGaddrOff (h : Hdr) (d a : BitVec 5) (s : State) : Host.Outcome State Fault Refusal :=
  aInst h (gaddrBody 2 d a) s

end Sys2Proof.Machine
end

