-- ==== Sys2Proof/Machine/AccessMem.lean ====
section
/-!
DEFINITION. Access-stream scalar loads and stores, queue loads and stores, `vld` and `vst`, and the tile
register instructions of both streams (R112 to R119, R187).
-/
namespace Sys2Proof.Machine
open Sys2Proof

/-! ## Scalar loads and stores (R112 to R115) -/

/-- The answer of a scalar read: bytes and the state after it, a wait with what its walk has read, or a fault. -/
inductive ScalarRes where
  | ok (s : State) (v : Word)
  | wait (s : State) (k : StallKind)
  | fault (s : State) (f : FaultCode)

/-- A checked local read of `n` bytes (R113). -/
def localRead (s : State) (c : Nat) (ea : Word) (n : Nat) : ScalarRes :=
  let k := coreOf s c
  if !aligned ea n then .fault s .align
  else if !inWindow k ea n then .fault s .bounds
  else
    match localLoad k ea n with
    | .ok bs => .ok (settleRetry s (.core c) ea) (zextBytes bs)
    | .blocked => .wait s .other
    | .poison => .fault s .poison

/-- A checked global read of `n` bytes (R115). -/
def globalRead (s : State) (c : Nat) (ea : Word) (n : Nat) : ScalarRes :=
  if !aligned ea n then .fault s .align
  else
    match readG s (.core c) (runParcel (coreOf s c)) ea n .read with
    | .ok s' bs => .ok s' (zextBytes bs)
    | .fault s f => .fault s f
    | .transit s => .wait s .other

/-- The answer of a scalar store. -/
inductive ScalarSt where
  | ok (s : State)
  | wait (s : State) (k : StallKind)
  | fault (f : FaultCode)

/-- A checked local store (R113, R282). -/
def localWrite (s : State) (c : Nat) (ea : Word) (bs : List Byte) : ScalarSt :=
  let k := coreOf s c
  if !aligned ea bs.length then .fault .align
  else if !inWindow k ea bs.length then .fault .bounds
  else if boardMeets k (lbase k + ea.toNat) bs.length then .wait s .other
  else .ok (setCore s c (scratchStore k (lbase k + ea.toNat) bs))

/-- A checked global store (R115). -/
def globalWrite (s : State) (c : Nat) (ea : Word) (bs : List Byte) : ScalarSt :=
  let k := coreOf s c
  if !aligned ea bs.length then .fault .align
  else
    match writeG s (.core c) (runParcel k) (runOwner k) ea bs with
    | .ok s' => .ok s'
    | .fault f => .fault f
    | .transit s => .wait s .other

/-- A scalar load into a register of a stream (R112): post-update first, then the result. -/
def loadBody (xs : Bool) (rd : State → Nat → Word → Nat → ScalarRes) (d a : BitVec 5) (z : BitVec 2)
    (u : BitVec 1) (off : BitVec 8) (c : Nat) (s : State) : Eff :=
  let ea := effAddr (coreOf s c) xs a z u off
  match rd s c ea (sizeOf_ z) with
  | .ok s' v => .ok (modCore s' c fun k => rSet (postUpdate k xs a z u off) xs d v)
  | .wait s w => .wait s w
  | .fault s f => .trap s c f ea .read

/-- A scalar store of a register (R112): its data are read before the post-update. -/
def storeBody (xs : Bool) (wr : State → Nat → Word → List Byte → ScalarSt) (d a : BitVec 5) (z : BitVec 2)
    (u : BitVec 1) (off : BitVec 8) (c : Nat) (s : State) : Eff :=
  let k := coreOf s c
  let ea := effAddr k xs a z u off
  match wr s c ea (lowBytes (sizeOf_ z) (rGet k xs d)) with
  | .ok s' => .ok (modCore s' c fun k => postUpdate k xs a z u off)
  | .wait s w => .wait s w
  | .fault f => .trap s c f ea .write

/-- What an address itself gives before a queue access waits for its queue: its alignment, and for a local one the window
(R113). -/
def addrFault (loc : Bool) (k : Core) (ea : Word) (n : Nat) : Option FaultCode :=
  if !aligned ea n then some .align
  else if loc && !inWindow k ea n then some .bounds
  else none

/-- A queue load: it waits for a free LQ entry, and the data read at issue wait in the reserved entry for their arrival
(R114, log 7). -/
def queueLoadBody (h : Hdr) (loc : Bool) (ex : BitVec 1) (a : BitVec 5)
    (z : BitVec 2) (u : BitVec 1) (off : BitVec 8) (c : Nat) (s : State) : Eff :=
  let ea := effAddr (coreOf s c) false a z u off
  match addrFault loc (coreOf s c) ea (sizeOf_ z) with
  | some f => .trap s c f ea .read
  | none =>
    if 16 ≤ (coreOf s c).sh.lq.length then .wait s .queue
    else
      match if loc then localRead s c ea (sizeOf_ z) else globalRead s c ea (sizeOf_ z) with
      | .wait s w => .wait s w
      | .fault s f => .trap s c f ea .read
      | .ok s' v =>
        let o : Origin := { at_ := s.cycle, pc := (coreOf s c).a.str.pc }
        .done (modCore s' c fun k =>
          let k := postUpdate k false a z u off
          { k with sh := { k.sh with
              lq := k.sh.lq ++ [{ data := v, eos := ex == 1#1, filled := false, tok := h.t, org := o }] } }) .seq false

/-- A queue store: it waits for an SQ entry, which is popped and stored (R113, R114). -/
def queueStoreBody (loc : Bool) (a : BitVec 5)
    (z : BitVec 2) (u : BitVec 1) (off : BitVec 8) (c : Nat) (s : State) : Eff :=
  let k := coreOf s c
  let ea := effAddr k false a z u off
  match addrFault loc k ea (sizeOf_ z) with
  | some f => .trap s c f ea .write
  | none =>
    match k.sh.sq with
    | [] => .wait s .queue
    | e :: _ =>
      let bs := lowBytes (sizeOf_ z) e.data
      match if loc then localWrite s c ea bs else globalWrite s c ea bs with
      | .wait s w => .wait s w
      | .fault f => .trap s c f ea .write
      | .ok s' => .ok (modCore s' c fun k => sqPop s (postUpdate k false a z u off))

/-- `ldl` (R113). -/
def execLdl (h : Hdr) (d a : BitVec 5) (z : BitVec 2) (u : BitVec 1) (off : BitVec 8) (s : State) :
    Host.Outcome State Fault Refusal := aInst h (loadBody false localRead d a z u off) s
/-- `stl` (R113). -/
def execStl (h : Hdr) (d a : BitVec 5) (z : BitVec 2) (u : BitVec 1) (off : BitVec 8) (s : State) :
    Host.Outcome State Fault Refusal := aInst h (storeBody false localWrite d a z u off) s
/-- `ldq` (R113, R114). -/
def execLdq (h : Hdr) (ex : BitVec 1) (a : BitVec 5) (z : BitVec 2) (u : BitVec 1) (off : BitVec 8)
    (s : State) : Host.Outcome State Fault Refusal := aInst h (queueLoadBody h true ex a z u off) s
/-- `stq` (R113, R114). -/
def execStq (h : Hdr) (a : BitVec 5) (z : BitVec 2) (u : BitVec 1) (off : BitVec 8) (s : State) :
    Host.Outcome State Fault Refusal := aInst h (queueStoreBody true a z u off) s
/-- `ldg` (R113, R115). -/
def execLdg (h : Hdr) (d a : BitVec 5) (z : BitVec 2) (u : BitVec 1) (off : BitVec 8) (s : State) :
    Host.Outcome State Fault Refusal := aInst h (loadBody false globalRead d a z u off) s
/-- `stg` (R113, R115). -/
def execStg (h : Hdr) (d a : BitVec 5) (z : BitVec 2) (u : BitVec 1) (off : BitVec 8) (s : State) :
    Host.Outcome State Fault Refusal := aInst h (storeBody false globalWrite d a z u off) s
/-- `ldgq` (R113 to R115). -/
def execLdgq (h : Hdr) (ex : BitVec 1) (a : BitVec 5) (z : BitVec 2) (u : BitVec 1) (off : BitVec 8)
    (s : State) : Host.Outcome State Fault Refusal := aInst h (queueLoadBody h false ex a z u off) s
/-- `stgq` (R113 to R115). -/
def execStgq (h : Hdr) (a : BitVec 5) (z : BitVec 2) (u : BitVec 1) (off : BitVec 8) (s : State) :
    Host.Outcome State Fault Refusal := aInst h (queueStoreBody false a z u off) s

/-! ## Rows of parts -/

/-- The logged address of byte `o` of row `i` of a region. -/
def rowVa (t : TileWord) (i o : Nat) : Word := BitVec.ofNat 64 (rowAddr t i + o)

/-- The parts of rows `i` onwards with their logged addresses, row by row. -/
def addrParts (t : TileWord) : Nat → List (List Loc) → List (Loc × Word)
  | _, [] => []
  | i, r :: rs => (r.zipIdx.map fun p => (p.1, rowVa t i (16 * p.2))) ++ addrParts t (i + 1) rs

/-- The outcome of reading a list of parts for a stream. -/
inductive PartsRes where
  | ok (s : State) (bs : List Byte)
  | wait
  | fault (s : State) (f : FaultCode) (va : Word)

/-- Parts read in order by a stream: poison faults (R118), and a part that is read is no retry any more. -/
def readParts (s : State) (c p : Nat) : List (Loc × Word) → PartsRes
  | [] => .ok s []
  | (l, va) :: ls =>
    if !partReadable s l then .wait
    else
      match readPart s c p l with
      | .transit _ => .wait
      | .fault s f _ => .fault s f va
      | .ok s' bs poison =>
        if poison then .fault s' .poison va
        else
          match readParts (settleRetry s' (.core c) va) c p ls with
          | .ok s'' bs' => .ok s'' (bs ++ bs')
          | e => e

/-- The outcome of writing parts: what was written, in scratchpads and in physical memory. -/
inductive PartsW where
  | ok (s : State) (scr phys : List (Nat × Nat))
  | wait
  | fault (f : FaultCode) (va : Word)

/-- Parts written in order, with their data. -/
def writeParts (s : State) (c : Nat) (own : Owner) : List ((Loc × Word) × List Byte) → PartsW
  | [] => .ok s [] []
  | ((l, va), bs) :: ls =>
    match writePart s c own l bs with
    | .transit _ => .wait
    | .fault f _ => .fault f va
    | .dropped s' => writeParts s' c own ls
    | .ok s' pa true => writeParts (poisonPart (settleRetry s' (.core c) va) l pa) c own ls
    | .ok s' pa false =>
      match writeParts (settleRetry s' (.core c) va) c own ls with
      | .ok s'' scr phys =>
        .ok s'' (match l with | .scratch co o _ => (co, o) :: scr | _ => scr)
          (match pa with | some a => (a, 16) :: phys | none => phys)
      | e => e

/-- Granules that a command's writes cover whole become clean (R396). -/
def settleClean (s : State) (scr phys : List (Nat × Nat)) : State :=
  let s := { s with phys := clearCovered s.phys phys }
  scr.foldl (fun s co => modCore s co.1 fun k => { k with poison := k.poison.filter fun g => g != co.2 / 16 }) s

/-- Bytes cut into pieces of 16. -/
def pieces16 : Nat → List Byte → List (List Byte)
  | 0, _ => []
  | n + 1, bs => bs.take 16 :: pieces16 n (bs.drop 16)

/-- The rows of a region that a count leaves active. -/
def activeRows (t : TileWord) (acnt : Nat) : Nat := min (tRows t + 1) acnt

/-- `vld`: a whole region into a reserved VLQ entry (R117, R118, log 7). -/
def vldBody (h : Hdr) (tt : BitVec 4) (ex : BitVec 1) (c : Nat) (s : State) : Eff :=
  let k := coreOf s c
  let t := tGet k tt
  let n := tRows t + 1
  if !tileOk t (fun _ => true) || 2048 < n * tW t then .trap s c .tile 0 .read
  else
    match checkRows s c t .read 0 n with
    | .error e => rowFail s c e .read
    | .ok rows =>
      if 4 ≤ k.sh.vlq.length then .wait s .queue
      else
        match readParts s c (runParcel k) (addrParts t 0 (rows.take (activeRows t k.a.acnt.toNat))) with
        | .wait => .wait s .other
        | .fault s f va => .trap s c f va .read
        | .ok s' bs =>
          let o : Origin := { at_ := s.cycle, pc := k.a.str.pc }
          .done (modCore s' c fun k => { k with sh := { k.sh with vlq := k.sh.vlq ++
            [{ data := BitVec.ofNat 16384 (leNat bs), eos := ex == 1#1, filled := false, tok := h.t, org := o }] } })
            .seq false

/-- `vst`: the VSQ head popped into a region (R117, R118). -/
def vstBody (tt : BitVec 4) (c : Nat) (s : State) : Eff :=
  let k := coreOf s c
  let t := tGet k tt
  let n := tRows t + 1
  if !tileOk t (fun _ => true) || 2048 < n * tW t then .trap s c .tile 0 .write
  else
    match checkRows s c t .write 0 n with
    | .error e => rowFail s c e .write
    | .ok rows =>
      match k.sh.vsq with
      | [] => .wait s .queue
      | e :: _ =>
        let parts := addrParts t 0 (rows.take (activeRows t k.a.acnt.toNat))
        if !(parts.all fun p => partWritable s p.1) then .wait s .other
        else
          let bs := leBytes (16 * parts.length) e.data.toNat
          match writeParts s c (runOwner k) (parts.zip (pieces16 parts.length bs)) with
          | .wait => .wait s .other
          | .fault f va => .trap s c f va .write
          | .ok s' scr phys => .ok (modCore (settleClean s' scr phys) c fun k => vsqPop s k)

/-- `vld` (R117). -/
def execVld (h : Hdr) (tt : BitVec 4) (ex : BitVec 1) (s : State) : Host.Outcome State Fault Refusal :=
  aInst h (vldBody h tt ex) s
/-- `vst` (R117). -/
def execVst (h : Hdr) (tt : BitVec 4) (s : State) : Host.Outcome State Fault Refusal :=
  aInst h (vstBody tt) s

/-! ## Tile registers (R119, R187) -/

/-- `tdef.lo`. -/
def tdefLo (xs : Bool) (d : BitVec 4) (a : BitVec 5) (k : Core) : Core :=
  tSet k d ((tGet k d).extractLsb' 64 64 ++ rGet k xs a)
/-- `tdef.hi`. -/
def tdefHi (xs : Bool) (d : BitVec 4) (a : BitVec 5) (k : Core) : Core :=
  tSet k d (rGet k xs a ++ (tGet k d).extractLsb' 0 64)
/-- `tadv`: the address modulo 2^62. -/
def tadv (xs : Bool) (d : BitVec 4) (a : BitVec 5) (k : Core) : Core :=
  let t := tGet k d
  tSet k d (t.extractLsb' 62 66 ++ (t.extractLsb' 0 62 + (rGet k xs a).setWidth 62))
/-- `trows`: a count outside 1 to 4,096 is ILLEGAL. -/
def trowsBody (xs : Bool) (d : BitVec 4) (a : BitVec 5) (c : Nat) (s : State) : Eff :=
  let k := coreOf s c
  let n := rGet k xs a
  if n = 0 ∨ 4096 < n.toNat then .trap s c .illegal 0 .read
  else
    let t := tGet k d
    .ok (setCore s c (tSet k d (t.extractLsb' 120 8 ++ (n - 1).setWidth 12 ++ t.extractLsb' 0 108)))

/-- `tdef.lo` of the access stream (R119). -/
def execATdefLo (h : Hdr) (d : BitVec 4) (a : BitVec 5) (s : State) : Host.Outcome State Fault Refusal :=
  aInst h (onCore (tdefLo false d a)) s
/-- `tdef.hi` of the access stream (R119). -/
def execATdefHi (h : Hdr) (d : BitVec 4) (a : BitVec 5) (s : State) : Host.Outcome State Fault Refusal :=
  aInst h (onCore (tdefHi false d a)) s
/-- `tadv` of the access stream (R119). -/
def execATadv (h : Hdr) (d : BitVec 4) (a : BitVec 5) (s : State) : Host.Outcome State Fault Refusal :=
  aInst h (onCore (tadv false d a)) s
/-- `trows` of the access stream (R119). -/
def execATrows (h : Hdr) (d : BitVec 4) (a : BitVec 5) (s : State) : Host.Outcome State Fault Refusal :=
  aInst h (trowsBody false d a) s
/-- `tdef.lo` of the execute stream (R187). -/
def execXTdefLo (h : Hdr) (d : BitVec 4) (a : BitVec 5) (s : State) : Host.Outcome State Fault Refusal :=
  xInst h (onCore (tdefLo true d a)) s
/-- `tdef.hi` of the execute stream (R187). -/
def execXTdefHi (h : Hdr) (d : BitVec 4) (a : BitVec 5) (s : State) : Host.Outcome State Fault Refusal :=
  xInst h (onCore (tdefHi true d a)) s
/-- `tadv` of the execute stream (R187). -/
def execXTadv (h : Hdr) (d : BitVec 4) (a : BitVec 5) (s : State) : Host.Outcome State Fault Refusal :=
  xInst h (onCore (tadv true d a)) s
/-- `trows` of the execute stream (R187). -/
def execXTrows (h : Hdr) (d : BitVec 4) (a : BitVec 5) (s : State) : Host.Outcome State Fault Refusal :=
  xInst h (trowsBody true d a) s

end Sys2Proof.Machine
end

