-- ==== Sys2Proof/Machine/Control.lean ====
section
/-!
DEFINITION. Branches, jumps, branch-outcome queues and loops of both streams (R120 to R126, R180 to R184),
work queues (R127, R128), and the execute stream's frame (R177, R179).
-/
namespace Sys2Proof.Machine
open Sys2Proof

/-! ## Branches and jumps -/

/-- A compare and branch of the access stream (R120). -/
def branchBody (f : Word → Word → Bool) (a b : BitVec 5) (off : BitVec 11) (c : Nat) (s : State) : Eff :=
  let k := coreOf s c
  transfer false c (f (aGet k a) (aGet k b)) (target k false off) s

/-- A branch on a predicate xor n (R120, R180). -/
def predBranch (xs : Bool) (p : BitVec 3) (n : BitVec 1) (off : BitVec 17) (c : Nat) (s : State) : Eff :=
  let k := coreOf s c
  transfer xs c (qGet k xs p != (n == 1#1)) (target k xs off) s

/-- The branch-outcome queue a stream pops. -/
def bqOf (k : Core) (xs : Bool) : List BEnt := if xs then k.sh.bqx else k.sh.bqa
/-- The branch-outcome queue a stream pops, set. -/
def setBq (k : Core) (xs : Bool) (q : List BEnt) : Core :=
  if xs then { k with sh := { k.sh with bqx := q } } else { k with sh := { k.sh with bqa := q } }
/-- Its queue code in `loops`: both are 2. -/
abbrev qBQ : BitVec 4 := 2#4

/-- `bq`: pops an outcome, notes its EOS, branches on the bit xor n (R120, R180). -/
def bqBody (xs : Bool) (n : BitVec 1) (off : BitVec 17) (c : Nat) (s : State) : Eff :=
  let k := coreOf s c
  match bqOf k xs with
  | [] => .wait s .queue
  | e :: q =>
    transfer xs c (e.bit != (n == 1#1)) (target k xs off)
      (setCore s c (noteEos (moved s (setBq k xs q)) xs qBQ e.eos))

/-- `sendb`: pushes (predicate xor n) with its EOS to the partner's queue (R121, R181). -/
def sendbBody (xs : Bool) (p : BitVec 3) (n ex : BitVec 1) (c : Nat) (s : State) : Eff :=
  let k := coreOf s c
  let q := bqOf k (!xs)
  if 16 ≤ q.length then .wait s .queue
  else .ok (setCore s c (moved s (setBq k (!xs) (q ++ [{ bit := qGet k xs p != (n == 1#1), eos := ex == 1#1 }]))))

/-- `j` (R120, R126). -/
def jBody (xs : Bool) (off : BitVec 21) (c : Nat) (s : State) : Eff :=
  transfer xs c true (target (coreOf s c) xs off) s

/-- `jal`: links in register 3 of the access stream, 1 of the execute stream; never pops a loop
(R120, R126, R180). -/
def jalBody (xs : Bool) (off : BitVec 21) (c : Nat) (s : State) : Eff :=
  let k := coreOf s c
  .done (setCore s c (rSet k xs (if xs then 1 else 3) ((strOf k xs).pc + 4))) (.jump (target k xs off)) true

/-- `jr`: a target that is not a word address faults with ALIGN (R42, R120). -/
def jrBody (xs : Bool) (a : BitVec 5) (c : Nat) (s : State) : Eff :=
  let (t, s) := leaderValue s c (rGet (coreOf s c) xs a)
  if t.toNat % 4 ≠ 0 then .trap s c .align t .read else .done s (.jump t) true

/-- `beq` (R120). -/
def execBeq (h : Hdr) (a b : BitVec 5) (off : BitVec 11) (s : State) : Host.Outcome State Fault Refusal :=
  aInst h (branchBody (fun x y => x == y) a b off) s
/-- `bne` (R120). -/
def execBne (h : Hdr) (a b : BitVec 5) (off : BitVec 11) (s : State) : Host.Outcome State Fault Refusal :=
  aInst h (branchBody (fun x y => x != y) a b off) s
/-- `blt` (R120). -/
def execBlt (h : Hdr) (a b : BitVec 5) (off : BitVec 11) (s : State) : Host.Outcome State Fault Refusal :=
  aInst h (branchBody (fun x y => x.slt y) a b off) s
/-- `bge` (R120). -/
def execBge (h : Hdr) (a b : BitVec 5) (off : BitVec 11) (s : State) : Host.Outcome State Fault Refusal :=
  aInst h (branchBody (fun x y => !(x.slt y)) a b off) s
/-- `bltu` (R120). -/
def execBltu (h : Hdr) (a b : BitVec 5) (off : BitVec 11) (s : State) : Host.Outcome State Fault Refusal :=
  aInst h (branchBody (fun x y => x.ult y) a b off) s
/-- `bgeu` (R120). -/
def execBgeu (h : Hdr) (a b : BitVec 5) (off : BitVec 11) (s : State) : Host.Outcome State Fault Refusal :=
  aInst h (branchBody (fun x y => !(x.ult y)) a b off) s
/-- `bc` (R120). -/
def execBc (h : HdrP) (p : BitVec 3) (n : BitVec 1) (off : BitVec 17) (s : State) :
    Host.Outcome State Fault Refusal := pInst false h (predBranch false p n off) s
/-- `bq` of the access stream (R120). -/
def execABq (h : HdrP) (n : BitVec 1) (off : BitVec 17) (s : State) : Host.Outcome State Fault Refusal :=
  pInst false h (bqBody false n off) s
/-- `j` of the access stream (R120). -/
def execAJ (h : Hdr) (off : BitVec 21) (s : State) : Host.Outcome State Fault Refusal :=
  jInst false h (jBody false off) s
/-- `jal` of the access stream (R120). -/
def execAJal (h : Hdr) (off : BitVec 21) (s : State) : Host.Outcome State Fault Refusal :=
  jInst false h (jalBody false off) s
/-- `jr` of the access stream (R120). -/
def execAJr (h : Hdr) (a : BitVec 5) (s : State) : Host.Outcome State Fault Refusal :=
  jInst false h (jrBody false a) s
/-- `sendb` of the access stream (R121). -/
def execASendb (h : HdrP) (p : BitVec 3) (n ex : BitVec 1) (s : State) : Host.Outcome State Fault Refusal :=
  pInst false h (sendbBody false p n ex) s
/-- `bp` (R180). -/
def execBp (h : HdrP) (p : BitVec 3) (n : BitVec 1) (off : BitVec 17) (s : State) :
    Host.Outcome State Fault Refusal := pInst true h (predBranch true p n off) s
/-- `bq` of the execute stream (R180). -/
def execXBq (h : HdrP) (n : BitVec 1) (off : BitVec 17) (s : State) : Host.Outcome State Fault Refusal :=
  pInst true h (bqBody true n off) s
/-- `j` of the execute stream (R180). -/
def execXJ (h : Hdr) (off : BitVec 21) (s : State) : Host.Outcome State Fault Refusal :=
  jInst true h (jBody true off) s
/-- `jal` of the execute stream (R180). -/
def execXJal (h : Hdr) (off : BitVec 21) (s : State) : Host.Outcome State Fault Refusal :=
  jInst true h (jalBody true off) s
/-- `jr` of the execute stream (R180). -/
def execXJr (h : Hdr) (a : BitVec 5) (s : State) : Host.Outcome State Fault Refusal :=
  jInst true h (jrBody true a) s
/-- `sendb` of the execute stream (R181). -/
def execXSendb (h : HdrP) (p : BitVec 3) (n ex : BitVec 1) (s : State) : Host.Outcome State Fault Refusal :=
  pInst true h (sendbBody true p n ex) s

/-! ## Statuses (R65) -/

/-- Whether the edge notice of a core is raised (R26 `EDGE`, R342). -/
def edgePend (k : Core) : Bool := k.edge.isSome

/-- A status of R65. An LQ or VLQ entry that is reserved and not yet filled makes the queue non-empty (codes 8 and 9) and
shows no EOS (codes 12 and 13): the model's choice (log 60). -/
def status (k : Core) (st : BitVec 4) : Bool :=
  let n := st.toNat
  if n < 4 then !(bget k.inbox (BitVec.ofNat 2 n)).isEmpty
  else if n < 8 then (bget k.outbox (BitVec.ofNat 2 (n - 4))).length < 4
  else
    match n with
    | 8 => !k.sh.lq.isEmpty
    | 9 => !k.sh.vlq.isEmpty
    | 10 => k.sh.sq.length < 16
    | 11 => k.sh.vsq.length < 4
    | 12 => ((lqHead k).map fun e => e.eos).getD false
    | 13 => ((vlqHead k).map fun e => e.eos).getD false
    | 14 => edgePend k
    | _ => k.sh.tokX != 0#4

/-- `bst` (R180). -/
def bstBody (sc : BitVec 4) (n : BitVec 1) (off : BitVec 16) (c : Nat) (s : State) : Eff :=
  let k := coreOf s c
  transfer true c (status k sc != (n == 1#1)) (target k true off) s

/-- `bst` (R65, R180). -/
def execBst (h : HdrP) (sc : BitVec 4) (n : BitVec 1) (off : BitVec 16) (s : State) :
    Host.Outcome State Fault Refusal := pInst true h (bstBody sc n off) s

/-! ## Loops -/

/-- A counted loop of `n` iterations; a gang takes its leader's count (R122, R123, R186). -/
def countedLoop (xs : Bool) (n : Word) (len : BitVec 12) (c : Nat) (s : State) : Eff :=
  let (n, s) := leaderValue s c n
  if 4 ≤ (strOf (coreOf s c) xs).loops.length then .trap s c .illegal 0 .read
  else if n = 0 then skipBody xs len c s
  else pushLoop xs c (bodyEnt (coreOf s c) xs len (.counted n)) s

/-- `loop`. -/
def loopBody (xs : Bool) (a : BitVec 5) (len : BitVec 12) (c : Nat) (s : State) : Eff :=
  countedLoop xs (rGet (coreOf s c) xs a) len c s
/-- `loops`. -/
def loopsBody (xs : Bool) (ex : BitVec 4) (len : BitVec 12) (c : Nat) (s : State) : Eff :=
  pushLoop xs c (bodyEnt (coreOf s c) xs len (.eos ex false)) s

/-- The two reads of `loopr` (R125): the count they give. Where four entries are on the stack too, no rule orders ILLEGAL
(R122) against the address and the reads: these go first, the model's choice (log 73). -/
def looprBody (a : BitVec 5) (f : BitVec 3) (len : BitVec 12) (c : Nat) (s : State) : Eff :=
  let k := coreOf s c
  let ea := aGet k a
  if ea.toNat % 64 ≠ 0 then .trap s c .align ea .read
  else
    let eo := ea + BitVec.ofNat 64 (4 * f.toNat)
    match globalRead s c eo 4 with
    | .wait s w => .wait s w
    | .fault s e => .trap s c e eo .read
    | .ok s1 n =>
      match globalRead s1 c (ea + 0x20) 4 with
      | .wait s w => .wait s w
      | .fault s e => .trap s c e (ea + 0x20) .read
      | .ok s2 m => countedLoop false (if m.getLsbD f.toNat then n else 0) len c s2

/-- `loopv` (R183): a second on the stack is ILLEGAL. -/
def loopvBody (a : BitVec 5) (sc : BitVec 4) (len : BitVec 12) (c : Nat) (s : State) : Eff :=
  let (n, s) := leaderValue s c (sGet (coreOf s c) a)
  let ls := (coreOf s c).x.str.loops
  let piped := ls.any fun l => match l.kind with | .pipe _ _ _ _ => true | _ => false
  if piped ∨ 4 ≤ ls.length then .trap s c .illegal 0 .read
  else if n = 0 then skipBody true len c s
  else
    let st := sc.toNat
    let ent := bodyEnt (coreOf s c) true len (.pipe 0 n.toNat st (n.toNat + st - 1))
    pushLoop true c ent (modCore s c fun k => setStage k 0 n.toNat st)

/-- A loop instruction: a false guard skips the body (R123, R183). -/
def loopInst (xs : Bool) (h : Hdr) (len : BitVec 12) (body : Nat → State → Eff) (s : State) :
    Host.Outcome State Fault Refusal := cuvos xs h .lead body (skipBody xs len) s

/-- `loop` of the access stream (R123). -/
def execALoop (h : Hdr) (a : BitVec 5) (len : BitVec 12) (s : State) : Host.Outcome State Fault Refusal :=
  loopInst false h len (loopBody false a len) s
/-- `loops` of the access stream (R123). -/
def execALoops (h : Hdr) (ex : BitVec 4) (len : BitVec 12) (s : State) : Host.Outcome State Fault Refusal :=
  loopInst false h len (loopsBody false ex len) s
/-- `loopr` (R125). -/
def execLoopr (h : Hdr) (a : BitVec 5) (f : BitVec 3) (len : BitVec 12) (s : State) :
    Host.Outcome State Fault Refusal := loopInst false h len (looprBody a f len) s
/-- `loop` of the execute stream (R182). -/
def execXLoop (h : Hdr) (a : BitVec 5) (len : BitVec 12) (s : State) : Host.Outcome State Fault Refusal :=
  loopInst true h len (loopBody true a len) s
/-- `loops` of the execute stream (R182). -/
def execXLoops (h : Hdr) (ex : BitVec 4) (len : BitVec 12) (s : State) : Host.Outcome State Fault Refusal :=
  loopInst true h len (loopsBody true ex len) s
/-- `loopv` (R183). -/
def execLoopv (h : Hdr) (a : BitVec 5) (sc : BitVec 4) (len : BitVec 12) (s : State) :
    Host.Outcome State Fault Refusal := loopInst true h len (loopvBody a sc len) s

/-! ## Work queues (R127, R128, R316) -/

/-- The key of a section's work queue. -/
def wqKey (sect wq : Nat) : Nat := sect * 4 + wq

/-- The next new sub-tile of a queue: the n-th that falls to its section (R316). -/
def wqNext (q : WorkQ) : Option (Nat × Nat) :=
  let t := q.pos + q.ns * q.next
  let cols := (q.ext_j + q.tj - 1) / q.tj
  let i0 := t / cols * q.ti
  if i0 < q.ext_i then some (i0, t % cols * q.tj) else none

/-- A sub-tile noted for the strand that took it: the first 16 since its commit point are kept (R128). -/
def noteTake (q : WorkQ) (rcd : Word) (t : Nat × Nat) : WorkQ :=
  match q.taken.find? fun x => x.1 == rcd with
  | none => { q with taken := q.taken ++ [(rcd, 1, [t])] }
  | some (_, n, ts) =>
    { q with taken := (q.taken.filter fun x => x.1 != rcd) ++ [(rcd, n + 1, if n < 16 then ts ++ [t] else ts)] }

/-- How many sub-tiles a strand has taken from a queue since its commit point. -/
def takes (q : WorkQ) (rcd : Word) : Nat :=
  ((q.taken.find? fun x => x.1 == rcd).map fun x => x.2.1).getD 0

/-- A take from a queue: returned sub-tiles first (R127, R128). -/
def wqTake (q : WorkQ) (rcd : Word) : Option ((Nat × Nat) × WorkQ) :=
  match q.returned with
  | t :: r => some (t, noteTake { q with returned := r } rcd t)
  | [] =>
    match wqNext q with
    | none => none
    | some t => some (t, noteTake { q with next := q.next + 1 } rcd t)

/-- `ftile` (R127): the packed sub-tile, or the predicate. -/
def ftileBody (d : BitVec 5) (p : BitVec 3) (q : BitVec 2) (c : Nat) (s : State) : Eff :=
  let k := coreOf s c
  let own := runOwner k
  let key := wqKey (sectOf c) q.toNat
  let none_ := Eff.ok (setCore s c (cSet k p true))
  match mget s.sched.queues key with
  | none => none_
  | some Q =>
    if Q.launch ≠ own.launch then none_
    else
      match wqTake Q own.rcd with
      | none => none_
      | some ((i0, j0), Q') =>
        let rows := min Q.ti (Q.ext_i - i0)
        let cols := min Q.tj (Q.ext_j - j0)
        let v := BitVec.ofNat 64 (i0 + j0 * 2 ^ 16 + rows * 2 ^ 32 + cols * 2 ^ 48)
        let k' := cSet (aSet k d v) p false
        let k' := if 16 < takes Q' own.rcd then setIrv k' else k'
        .ok (setCore { s with sched := { s.sched with queues := mset s.sched.queues key Q' } } c k')

/-- `ftile` (R127). -/
def execFtile (h : Hdr) (d : BitVec 5) (c : BitVec 3) (q : BitVec 2) (s : State) :
    Host.Outcome State Fault Refusal := aInst h (ftileBody d c q) s

/-! ## The frame (R177, R179) -/

/-- A frame address: aligned, and within SLIM to LSIZE. -/
def frameRead (s : State) (c : Nat) (ea : Word) (n : Nat) : ScalarRes :=
  if !aligned ea n then .fault s .align
  else if ea.toNat < (coreOf s c).x.slim.toNat then .fault s .bounds
  else localRead s c ea n
/-- A frame store. -/
def frameWrite (s : State) (c : Nat) (ea : Word) (bs : List Byte) : ScalarSt :=
  if !aligned ea bs.length then .fault .align
  else if ea.toNat < (coreOf s c).x.slim.toNat then .fault .bounds
  else localWrite s c ea bs

/-- `ldf` (R177). -/
def execLdf (h : Hdr) (d a : BitVec 5) (z : BitVec 2) (u : BitVec 1) (off : BitVec 8) (s : State) :
    Host.Outcome State Fault Refusal := xInst h (loadBody true frameRead d a z u off) s
/-- `stf` (R177). -/
def execStf (h : Hdr) (d a : BitVec 5) (z : BitVec 2) (u : BitVec 1) (off : BitVec 8) (s : State) :
    Host.Outcome State Fault Refusal := xInst h (storeBody true frameWrite d a z u off) s

/-- `enter`: below SLIM is STACK (R179). -/
def enterBody (n : BitVec 12) (c : Nat) (s : State) : Eff :=
  let k := coreOf s c
  let b := BitVec.ofNat 64 (16 * n.toNat)
  let sp := sGet k 2
  if sp.ult b ∨ (sp - b).ult k.x.slim then .trap s c .stack (sp - b) .read
  else .ok (setCore s c (sSet k 2 (sp - b)))
/-- `leave`: above LSIZE is STACK (R179). -/
def leaveBody (n : BitVec 12) (c : Nat) (s : State) : Eff :=
  let k := coreOf s c
  let sp := sGet k 2 + BitVec.ofNat 64 (16 * n.toNat)
  if lsize k < sp.toNat then .trap s c .stack sp .read
  else .ok (setCore s c (sSet k 2 sp))

/-- `enter` (R179). -/
def execEnter (h : Hdr) (n : BitVec 12) (s : State) : Host.Outcome State Fault Refusal :=
  xInst h (enterBody n) s
/-- `leave` (R179). -/
def execLeave (h : Hdr) (n : BitVec 12) (s : State) : Host.Outcome State Fault Refusal :=
  xInst h (leaveBody n) s

/-! ## Gang registers (R185) -/

/-- The member and size of the running gang. -/
def gangMember (k : Core) : Word := BitVec.ofNat 64 ((k.run.map fun r => r.member.toNat).getD 0)
def gangLog (k : Core) : Nat := (k.run.map fun r => r.logsz.toNat).getD 0

/-- `gidx` (R185). -/
def execGidx (h : Hdr) (d : BitVec 5) (s : State) : Host.Outcome State Fault Refusal :=
  xInst h (onCore fun k => sSet k d (gangMember k)) s
/-- `gsize` (R185). -/
def execGsize (h : Hdr) (d : BitVec 5) (s : State) : Host.Outcome State Fault Refusal :=
  xInst h (onCore fun k => sSet k d (BitVec.ofNat 64 (2 ^ gangLog k))) s

end Sys2Proof.Machine
end

