-- ==== Sys2Proof/Machine/Csr.lean ====
section
/-!
DEFINITION. The control and status registers of a core and the CSR instructions of both streams (R26 to
R29, R61, R154, R187), and the shape instructions VSH (R194).
-/
namespace Sys2Proof.Machine
open Sys2Proof

/-- Size in bytes of an element of a kind 0 to 8 (R19's kind table). -/
def kindSize (k : Nat) : Nat :=
  match k with
  | 1 => 4 | 4 => 4 | 2 => 2 | 3 => 2 | 5 => 2 | _ => 1

/-- Fields of `VSHAPE`. -/
def shKind (v : Word) : Nat := (v.extractLsb' 24 4).toNat
def shRows (v : Word) : Nat := (v.extractLsb' 0 12).toNat + 1
def shCols (v : Word) : Nat := (v.extractLsb' 12 12).toNat + 1

/-- Whether a value is a valid `VSHAPE`: kinds 0 to 8, at most 2,048 bytes (R26). -/
def shapeOk (v : Word) : Bool := shKind v ≤ 8 && shRows v * shCols v * kindSize (shKind v) ≤ 2048

/-- Cycles until an edge; 0 once the edge has passed and is still pending, for which no rule gives a value: the model's
choice (log 75). -/
def edgeRemain (s : State) (k : Core) : Nat := (k.edge.map fun e => e - s.cycle).getD 0

/-- `CYCLE` as a core reads it: within 16 of the common count, the skew left open (R27, log 3). -/
def readCycle (s : State) : Word × State :=
  (BitVec.ofNat 64 (s.cycle + (Config.freeWord s.freeCtr).toNat % 33 - 16), { s with freeCtr := s.freeCtr + 1 })

/-- `QSTAT` (R26). An LQ or VLQ entry that is reserved and not yet filled is counted: the model's choice (log 60). -/
def readQstat (s : State) (c : Nat) : Word :=
  let k := coreOf s c
  let cnt (b : Bank (List Word) 2) (i : Nat) : Nat := (bget b (BitVec.ofNat 2 i)).length
  let closed (i : Nat) : Nat := if portClosed s c i then 2 ^ (52 + i) else 0
  BitVec.ofNat 64 (k.sh.lq.length + k.sh.sq.length * 2 ^ 5 + k.sh.vlq.length * 2 ^ 10 +
    k.sh.vsq.length * 2 ^ 13 + k.sh.bqx.length * 2 ^ 16 + k.sh.bqa.length * 2 ^ 21 +
    (List.range 4).foldl (fun a i => a + cnt k.inbox i * 2 ^ (26 + 3 * i) + cnt k.outbox i * 2 ^ (38 + 3 * i) +
      closed i) 0)

/-- `PARCEL`: trust group and id of the effective owner (R26, R339). -/
def readParcel (s : State) (c : Nat) : Word :=
  let p := effOwner s c
  BitVec.ofNat 64 (p + (cadParcel s p).group.toNat * 256)

/-- A CSR that only the access stream has, that only the execute stream has, or that both have. -/
def csrRead (s : State) (c : Nat) (xs : Bool) (n : Nat) : Option Word :=
  let k := coreOf s c
  if 0x20 ≤ n ∧ n < 0x28 then (k.run.map fun r => bget r.levels (BitVec.ofNat 3 (n - 0x20)))
  else if 0x28 ≤ n ∧ n < 0x30 then (if xs then none else some (bget k.a.dists (BitVec.ofNat 3 (n - 0x28))))
  else
    match n with
    | 0x00 => some (BitVec.ofNat 64 c)
    | 0x01 => some (readParcel s c)
    | 0x02 => some (runOwner k).rcd
    | 0x03 => some (BitVec.ofNat 64 (lbase k))
    | 0x04 => some (BitVec.ofNat 64 (lsize k))
    | 0x05 => if xs then some k.x.slim else none
    | 0x06 => if xs then none else some k.a.waitspin
    | 0x07 => some (wordOf ((k.run.map fun r => r.irv).getD false))
    | 0x08 => some (if edgePend k then BitVec.ofNat 64 (2 ^ 63 + edgeRemain s k % 2 ^ 24) else 0)
    | 0x09 => some (readCycle s).1
    | 0x0A => some (BitVec.ofNat 64 (gangLog k * 16) + gangMember k)
    | 0x0B => some (k.sh.tokA.setWidth 64)
    | 0x0C => some (k.sh.tokX.setWidth 64)
    | 0x0D => some (readQstat s c)
    | 0x10 => if xs then some (k.vec.fflags.setWidth 64) else none
    | 0x11 => if xs then some (wordOf k.vec.nve) else none
    | 0x14 => if xs then some k.vec.prngkey else none
    | 0x15 => if xs then some k.vec.prngctr else none
    | 0x18 => some ((k.run.map fun r => r.coord).getD 0)
    | 0x30 => if xs then some k.vec.shape else none
    | 0x31 => if xs then some (k.vec.rot.setWidth 64) else none
    | 0x32 => if xs then some (k.vec.vcnt.setWidth 64) else none
    | 0x33 => if xs then none else some (k.a.acnt.setWidth 64)
    | _ => none

/-- The bits of each `DIST` register that are not reserved (R26). -/
def distMask (i : Nat) : Word :=
  match i with
  | 0 => 0xFFFFFFFF_000F3FFF
  | 1 => 0x0000FFFF_FFFFFFFF | 2 => 0x0000FFFF_FFFFFFFF | 3 => 0x0000FFFF_FFFFFFFF
  | 4 => 0x00000000_FFFFFFFF | 5 => 0x00000000_FFFFFFFF | 6 => 0x00000000_FFFFFFFF
  | _ => 0

/-- A vector state with its shape set. -/
def setShape (k : Core) (v : Word) : Core :=
  { k with vec := { k.vec with shape := v &&& 0x0FFFFFFF } }

/-- A CSR write by a stream that has the CSR: the core after it, nothing for an invalid value; a read-only
CSR ignores it (R26). -/
def csrWrite (k : Core) (n : Nat) (v : Word) : Option Core :=
  if 0x28 ≤ n ∧ n < 0x30 then
    some { k with a := { k.a with dists := bset k.a.dists (BitVec.ofNat 3 (n - 0x28)) (v &&& distMask (n - 0x28)) } }
  else
    match n with
    | 0x05 => if v.toNat % 16 = 0 ∧ v.toNat ≤ lsize k then some { k with x := { k.x with slim := v } } else none
    | 0x06 => some { k with a := { k.a with waitspin := v &&& 0xFFFFFFFF } }
    | 0x10 => some { k with vec := { k.vec with fflags := v.setWidth 5 } }
    | 0x11 => some { k with vec := { k.vec with nve := v.getLsbD 0 } }
    | 0x14 => some { k with vec := { k.vec with prngkey := v } }
    | 0x15 => some { k with vec := { k.vec with prngctr := v } }
    | 0x30 => if shapeOk v then some (setShape k v) else none
    | 0x31 => some { k with vec := { k.vec with rot := v.setWidth 4 } }
    | 0x32 => some { k with vec := { k.vec with vcnt := v.setWidth 13 } }
    | 0x33 => some { k with a := { k.a with acnt := v.setWidth 13 } }
    | _ => some k

/-- The CSRs whose accesses wait for earlier vector instructions (R192). -/
def csrWaits (n : Nat) : Bool := n == 0x10 || n == 0x15 || n == 0x30

/-- A CSR instruction: `f` is what it writes from the old value, nothing for a pure read (R61). -/
def csrBody (xs : Bool) (d : BitVec 5) (n : BitVec 9) (f : Core → Word → Option Word) (c : Nat) (s : State) :
    Eff :=
  match csrRead s c xs n.toNat with
  | none => .trap s c .illegal 0 .read
  | some old =>
    if csrWaits n.toNat && !(coreOf s c).vec.vq.isEmpty then .wait s .other
    else
      let s1 := if n.toNat = 9 then (readCycle s).2 else s
      match f (coreOf s c) old with
      | none => .ok (modCore s1 c fun k => rSet k xs d old)
      | some v =>
        match csrWrite (coreOf s c) n.toNat v with
        | none => .trap s c .illegal 0 .read
        | some k => .ok (setCore s1 c (rSet k xs d old))

/-- What `csrs` writes: nothing when a is register 0. -/
def csrSet (xs : Bool) (a : BitVec 5) (k : Core) (old : Word) : Option Word :=
  if a = 0 then none else some (old ||| rGet k xs a)
/-- What `csrc` writes. -/
def csrClear (xs : Bool) (a : BitVec 5) (k : Core) (old : Word) : Option Word :=
  if a = 0 then none else some (old &&& ~~~(rGet k xs a))

/-- `csrr` of the access stream (R154). -/
def execACsrr (h : Hdr) (d : BitVec 5) (c : BitVec 9) (s : State) : Host.Outcome State Fault Refusal :=
  aInst h (csrBody false d c fun _ _ => none) s
/-- `csrw` of the access stream (R154). -/
def execACsrw (h : Hdr) (d a : BitVec 5) (c : BitVec 9) (s : State) : Host.Outcome State Fault Refusal :=
  aInst h (csrBody false d c fun k _ => some (rGet k false a)) s
/-- `csrs` of the access stream (R154). -/
def execACsrs (h : Hdr) (d a : BitVec 5) (c : BitVec 9) (s : State) : Host.Outcome State Fault Refusal :=
  aInst h (csrBody false d c (csrSet false a)) s
/-- `csrc` of the access stream (R154). -/
def execACsrc (h : Hdr) (d a : BitVec 5) (c : BitVec 9) (s : State) : Host.Outcome State Fault Refusal :=
  aInst h (csrBody false d c (csrClear false a)) s
/-- `csrr` of the execute stream (R187). -/
def execXCsrr (h : Hdr) (d : BitVec 5) (c : BitVec 9) (s : State) : Host.Outcome State Fault Refusal :=
  xInst h (csrBody true d c fun _ _ => none) s
/-- `csrw` of the execute stream (R187). -/
def execXCsrw (h : Hdr) (d a : BitVec 5) (c : BitVec 9) (s : State) : Host.Outcome State Fault Refusal :=
  xInst h (csrBody true d c fun k _ => some (rGet k true a)) s
/-- `csrs` of the execute stream (R187). -/
def execXCsrs (h : Hdr) (d a : BitVec 5) (c : BitVec 9) (s : State) : Host.Outcome State Fault Refusal :=
  xInst h (csrBody true d c (csrSet true a)) s
/-- `csrc` of the execute stream (R187). -/
def execXCsrc (h : Hdr) (d a : BitVec 5) (c : BitVec 9) (s : State) : Host.Outcome State Fault Refusal :=
  xInst h (csrBody true d c (csrClear true a)) s

/-! ## VSH (R194) -/

/-- `vshape`: an invalid value is ILLEGAL. -/
def vshapeBody (a : BitVec 5) (c : Nat) (s : State) : Eff :=
  let k := coreOf s c
  if shapeOk (sGet k a) then .ok (setCore s c (setShape k (sGet k a))) else .trap s c .illegal 0 .read

/-- `vshape` (R194). -/
def execVshape (h : Hdr) (a : BitVec 5) (s : State) : Host.Outcome State Fault Refusal :=
  xInst h (vshapeBody a) s
/-- `vgetsh` (R194). -/
def execVgetsh (h : Hdr) (d : BitVec 5) (s : State) : Host.Outcome State Fault Refusal :=
  xInst h (onCore fun k => sSet k d k.vec.shape) s
/-- `setvc` (R194). -/
def execSetvc (h : Hdr) (a : BitVec 5) (s : State) : Host.Outcome State Fault Refusal :=
  xInst h (onCore fun k => { k with vec := { k.vec with vcnt := (sGet k a).setWidth 13 } }) s

/-! ## Traps (R155, R187) -/

/-- `trap` of the access stream (R155). -/
def execATrap (h : Hdr) (_n : BitVec 16) (s : State) : Host.Outcome State Fault Refusal :=
  aInst h (fun c s => .trap s c .trap 0 .read) s
/-- `trap` of the execute stream (R187). -/
def execXTrap (h : Hdr) (_n : BitVec 16) (s : State) : Host.Outcome State Fault Refusal :=
  xInst h (fun c s => .trap s c .trap 0 .read) s
/-- `bkpt` of the execute stream: TRAP (R185). -/
def execXBkpt (h : Hdr) (_n : BitVec 16) (s : State) : Host.Outcome State Fault Refusal :=
  xInst h (fun c s => .trap s c .trap 0 .read) s

end Sys2Proof.Machine
end

