-- ==== Sys2Proof/Machine/Amo.lean ====
section
/-!
DEFINITION. Atomic memory operations and reductions (R137 to R140).
-/
namespace Sys2Proof.Machine
open Sys2Proof

/-! ## Where an atomic runs (R137) -/

/-- The scope policy a core's strand acts under (R414). -/
def policyOf (s : State) (c : Nat) : Policy :=
  ((launchOf s (runOwner (coreOf s c)).launch).map fun L => L.policy).getD .system

/-- A clamped system-scope operation counted (R137, R141, R393). -/
def clamped (s : State) (p : Nat) : State := modParcel s p fun P => { P with scopeclamp := P.scopeclamp + 1 }

/-- The indivisible step at an executor: the old value, and how a new value is stored. -/
inductive AmoRes where
  | ok (s : State) (old : Nat) (put : State → List Byte → State)
  | wait (s : State)
  | fault (s : State) (f : FaultCode)

/-- An atomic on window bytes: the scratchpad bank of the core (`.cr`). -/
def amoLocal (s : State) (c : Nat) (ea : Word) (n : Nat) : AmoRes :=
  match localRead s c ea n with
  | .ok s v =>
    if boardMeets (coreOf s c) (lbase (coreOf s c) + ea.toNat) n then .wait s
    else .ok s v.toNat fun s bs => modCore s c fun k => scratchStore k (lbase k + ea.toNat) bs
  | .wait s _ => .wait s
  | .fault s f => .fault s f

/-- What the message of an atomic meets (R402): one that fails is answered as a refused request (R392, log 58). -/
def amoFail (s : State) (p owner : Nat) : Option State :=
  if s.mesh.fail = some .request ∨ s.mesh.fail = some .body then some (logEv (meshSpent s) (.violation p owner)) else none

/-- An atomic on bytes of the executing core's section vault (`.sc`). -/
def amoVault (s : State) (c : Nat) (ea : Word) (n : Nat) : AmoRes :=
  let off := ea.toNat
  let sc := sectOf c
  let p := runParcel (coreOf s c)
  if 0x400000 < off + n then .fault s .bounds
  else if partOwner s sc off != p then .fault s .foreign
  else
    let pa := vaultPa sc off
    match amoFail s p (partOwner s sc off) with
    | some s => .fault s .foreign
    | none =>
      if anyPoison s.phys pa n then .fault s .poison
      else
        .ok (settleRetry (exchanged s (.core c) p (endpointAt pa)) (.core c) ea) (leNat (physBytes s.phys pa n)) fun s bs =>
          { s with phys := physStore s.phys pa bs }

/-- The lines of an operation at the fabric port: the L2 keeps no copy of a line of host memory (R438). -/
def portLines (s : State) (p pa n : Nat) (use : LineUse) : State :=
  match region pa with
  | .host => (linesOf pa n).foldl evictLine s
  | _ => useLines s p pa n use

/-- An atomic on global bytes, with write permission required: at the line's home slice (`.dv`), which takes ownership
of a half of host memory, or at the fabric port (`.sy`) (R137, R438). -/
def amoGlobal (port : Bool) (s : State) (c : Nat) (ea : Word) (n : Nat) : AmoRes :=
  let p := runParcel (coreOf s c)
  match translate s (.core c) p ea .write with
  | .transit => .wait (missWalk s (.core c) p ea)
  | .fault f => .fault s f
  | .ok pa l =>
    if !endpointOk s p pa then .fault (refused s p pa) .foreign
    else if linkLost s pa then .fault s .link
    else
      match amoFail s p (endpointOwner s p pa) with
      | some s => .fault s .foreign
      | none =>
        let lines (s : State) (use : LineUse) : State :=
          if port then portLines s p pa n use else useLines s p pa n use
        let t := lines (reach s (.core c) p ea l pa true) .own
        if anyPoison s.phys pa n then .fault t .poison
        else
          .ok (settleRetry t (.core c) ea) (leNat (physBytes s.phys pa n)) fun s bs =>
            let s := lines s .write
            { s with phys := physStore s.phys pa bs }

/-- The step at the executor that a scope names; the tenant policies act on `.sy` (R137). -/
def amoAt (s : State) (c : Nat) (ea : Word) (n : Nat) (sc : BitVec 2) : AmoRes :=
  if !aligned ea n then .fault s .align
  else
    match sc.toNat with
    | 0 => amoLocal s c ea n
    | 1 => amoVault s c ea n
    | 2 => amoGlobal false s c ea n
    | _ =>
      match policyOf s c with
      | .system => amoGlobal true s c ea n
      | .trap => .fault s .scope
      | .clamp =>
        match amoGlobal false s c ea n with
        | .ok s old put => .ok (clamped s (runParcel (coreOf s c))) old put
        | e => e

/-- An atomic operation (R138): `f` gives the new value from old, operand and expected value, nothing where
no store is made. -/
def amoBody (n : Nat) (f : Nat → Nat → Nat → Option Nat) (d a b : BitVec 5) (sc : BitVec 2) (c : Nat)
    (s : State) : Eff :=
  let k := coreOf s c
  let ea := aGet k a
  let x := (aGet k b).toNat % 2 ^ (8 * n)
  let e := (aGet k d).toNat % 2 ^ (8 * n)
  match amoAt s c ea n sc with
  | .wait s => .wait s .other
  | .fault s fc => .trap s c fc ea .write
  | .ok s old put =>
    let s := match f old x e with
      | some v => put s (leBytes n (v % 2 ^ (8 * n)))
      | none => s
    .ok (modCore s c fun k => setIrv (aSet k d (BitVec.ofNat 64 old)))

/-- A reduction (R139): nothing returned. -/
def redBody (n : Nat) (f : Nat → Nat → Nat) (a b : BitVec 5) (sc : BitVec 2) (c : Nat) (s : State) : Eff :=
  let k := coreOf s c
  let ea := aGet k a
  let x := (aGet k b).toNat % 2 ^ (8 * n)
  match amoAt s c ea n sc with
  | .wait s => .wait s .other
  | .fault s fc => .trap s c fc ea .write
  | .ok s old put => .ok (modCore (put s (leBytes n (f old x % 2 ^ (8 * n)))) c setIrv)

/-- The signed value of `n` bytes. -/
def sgnB (n x : Nat) : Int := signExt (8 * n) x

/-- The BF16 sum of a half by `round_to` (R88, R139): an exact sum of zero is +0. -/
def bf16Sum (x y : Nat) : Nat :=
  if flushIn .bf16 x % 2 ^ 15 = 0 ∧ flushIn .bf16 y % 2 ^ 15 = 0 then 0 else (fpAdd .bf16 true x y).1

/-- `amo.w.add` (R138). -/
def execAmoWAdd (h : Hdr) (d a b : BitVec 5) (sc : BitVec 2) (s : State) : Host.Outcome State Fault Refusal :=
  aInst h (amoBody 4 (fun old x _ => some (old + x)) d a b sc) s
/-- `amo.w.min` (R138). -/
def execAmoWMin (h : Hdr) (d a b : BitVec 5) (sc : BitVec 2) (s : State) : Host.Outcome State Fault Refusal :=
  aInst h (amoBody 4 (fun old x _ => some (if sgnB 4 old < sgnB 4 x then old else x)) d a b sc) s
/-- `amo.w.max` (R138). -/
def execAmoWMax (h : Hdr) (d a b : BitVec 5) (sc : BitVec 2) (s : State) : Host.Outcome State Fault Refusal :=
  aInst h (amoBody 4 (fun old x _ => some (if sgnB 4 old < sgnB 4 x then x else old)) d a b sc) s
/-- `amo.w.minu` (R138). -/
def execAmoWMinu (h : Hdr) (d a b : BitVec 5) (sc : BitVec 2) (s : State) : Host.Outcome State Fault Refusal :=
  aInst h (amoBody 4 (fun old x _ => some (min old x)) d a b sc) s
/-- `amo.w.maxu` (R138). -/
def execAmoWMaxu (h : Hdr) (d a b : BitVec 5) (sc : BitVec 2) (s : State) : Host.Outcome State Fault Refusal :=
  aInst h (amoBody 4 (fun old x _ => some (max old x)) d a b sc) s
/-- `amo.w.and` (R138). -/
def execAmoWAnd (h : Hdr) (d a b : BitVec 5) (sc : BitVec 2) (s : State) : Host.Outcome State Fault Refusal :=
  aInst h (amoBody 4 (fun old x _ => some (old &&& x)) d a b sc) s
/-- `amo.w.or` (R138). -/
def execAmoWOr (h : Hdr) (d a b : BitVec 5) (sc : BitVec 2) (s : State) : Host.Outcome State Fault Refusal :=
  aInst h (amoBody 4 (fun old x _ => some (old ||| x)) d a b sc) s
/-- `amo.w.xor` (R138). -/
def execAmoWXor (h : Hdr) (d a b : BitVec 5) (sc : BitVec 2) (s : State) : Host.Outcome State Fault Refusal :=
  aInst h (amoBody 4 (fun old x _ => some (old ^^^ x)) d a b sc) s
/-- `amo.w.swap` (R138). -/
def execAmoWSwap (h : Hdr) (d a b : BitVec 5) (sc : BitVec 2) (s : State) : Host.Outcome State Fault Refusal :=
  aInst h (amoBody 4 (fun _ x _ => some x) d a b sc) s
/-- `amo.w.cas` (R138). -/
def execAmoWCas (h : Hdr) (d a b : BitVec 5) (sc : BitVec 2) (s : State) : Host.Outcome State Fault Refusal :=
  aInst h (amoBody 4 (fun old x e => if old = e then some x else none) d a b sc) s
/-- `amo.d.add` (R138). -/
def execAmoDAdd (h : Hdr) (d a b : BitVec 5) (sc : BitVec 2) (s : State) : Host.Outcome State Fault Refusal :=
  aInst h (amoBody 8 (fun old x _ => some (old + x)) d a b sc) s
/-- `amo.d.min` (R138). -/
def execAmoDMin (h : Hdr) (d a b : BitVec 5) (sc : BitVec 2) (s : State) : Host.Outcome State Fault Refusal :=
  aInst h (amoBody 8 (fun old x _ => some (if sgnB 8 old < sgnB 8 x then old else x)) d a b sc) s
/-- `amo.d.max` (R138). -/
def execAmoDMax (h : Hdr) (d a b : BitVec 5) (sc : BitVec 2) (s : State) : Host.Outcome State Fault Refusal :=
  aInst h (amoBody 8 (fun old x _ => some (if sgnB 8 old < sgnB 8 x then x else old)) d a b sc) s
/-- `amo.d.minu` (R138). -/
def execAmoDMinu (h : Hdr) (d a b : BitVec 5) (sc : BitVec 2) (s : State) : Host.Outcome State Fault Refusal :=
  aInst h (amoBody 8 (fun old x _ => some (min old x)) d a b sc) s
/-- `amo.d.maxu` (R138). -/
def execAmoDMaxu (h : Hdr) (d a b : BitVec 5) (sc : BitVec 2) (s : State) : Host.Outcome State Fault Refusal :=
  aInst h (amoBody 8 (fun old x _ => some (max old x)) d a b sc) s
/-- `amo.d.and` (R138). -/
def execAmoDAnd (h : Hdr) (d a b : BitVec 5) (sc : BitVec 2) (s : State) : Host.Outcome State Fault Refusal :=
  aInst h (amoBody 8 (fun old x _ => some (old &&& x)) d a b sc) s
/-- `amo.d.or` (R138). -/
def execAmoDOr (h : Hdr) (d a b : BitVec 5) (sc : BitVec 2) (s : State) : Host.Outcome State Fault Refusal :=
  aInst h (amoBody 8 (fun old x _ => some (old ||| x)) d a b sc) s
/-- `amo.d.xor` (R138). -/
def execAmoDXor (h : Hdr) (d a b : BitVec 5) (sc : BitVec 2) (s : State) : Host.Outcome State Fault Refusal :=
  aInst h (amoBody 8 (fun old x _ => some (old ^^^ x)) d a b sc) s
/-- `amo.d.swap` (R138). -/
def execAmoDSwap (h : Hdr) (d a b : BitVec 5) (sc : BitVec 2) (s : State) : Host.Outcome State Fault Refusal :=
  aInst h (amoBody 8 (fun _ x _ => some x) d a b sc) s
/-- `amo.d.cas` (R138). -/
def execAmoDCas (h : Hdr) (d a b : BitVec 5) (sc : BitVec 2) (s : State) : Host.Outcome State Fault Refusal :=
  aInst h (amoBody 8 (fun old x e => if old = e then some x else none) d a b sc) s
/-- `red.iaddw` (R139). -/
def execRedIaddW (h : Hdr) (a b : BitVec 5) (sc : BitVec 2) (s : State) : Host.Outcome State Fault Refusal :=
  aInst h (redBody 4 (fun old x => old + x) a b sc) s
/-- `red.iaddd` (R139). -/
def execRedIaddD (h : Hdr) (a b : BitVec 5) (sc : BitVec 2) (s : State) : Host.Outcome State Fault Refusal :=
  aInst h (redBody 8 (fun old x => old + x) a b sc) s
/-- `red.faddf32` (R139). -/
def execRedFaddF32 (h : Hdr) (a b : BitVec 5) (sc : BitVec 2) (s : State) : Host.Outcome State Fault Refusal :=
  aInst h (redBody 4 (fun old x => (fpAdd .f32 true old x).1) a b sc) s
/-- `red.faddbf16x2` (R139). -/
def execRedFaddBf16x2 (h : Hdr) (a b : BitVec 5) (sc : BitVec 2) (s : State) : Host.Outcome State Fault Refusal :=
  aInst h (redBody 4 (fun old x => bf16Sum (old % 65536) (x % 65536) + 65536 * bf16Sum (old / 65536) (x / 65536)) a b sc) s
/-- `red.fmaxf32` (R139). -/
def execRedFmaxF32 (h : Hdr) (a b : BitVec 5) (sc : BitVec 2) (s : State) : Host.Outcome State Fault Refusal :=
  aInst h (redBody 4 (fun old x => (fpMinMax .f32 true true old x).1) a b sc) s
/-- `red.imaxw` (R139). -/
def execRedImaxW (h : Hdr) (a b : BitVec 5) (sc : BitVec 2) (s : State) : Host.Outcome State Fault Refusal :=
  aInst h (redBody 4 (fun old x => if sgnB 4 old < sgnB 4 x then x else old) a b sc) s
/-- `red.iminw` (R139). -/
def execRedIminW (h : Hdr) (a b : BitVec 5) (sc : BitVec 2) (s : State) : Host.Outcome State Fault Refusal :=
  aInst h (redBody 4 (fun old x => if sgnB 4 old < sgnB 4 x then old else x) a b sc) s

end Sys2Proof.Machine
end

