-- ==== Sys2Proof/Machine/Copy.lean ====
section
/-!
DEFINITION. The copy engine (R130 to R136): issue with its checks, the parts it moves, completion; and
`dsc` and `pref` (R158, R159).
-/
namespace Sys2Proof.Machine
open Sys2Proof

/-! ## Issue -/

/-- The completion that a `done` operand names, and whether it makes the command irrevocable (R58, R135,
R160): the handle is checked completely. -/
def copyDone (s : State) (c : Nat) (cr : BitVec 5) (m : BitVec 2) : Except (FaultCode × Word) (Done × Bool) :=
  match m.toNat with
  | 0 => .ok (.none, false)
  | 1 =>
    let h := aGet (coreOf s c) cr
    match checkHandle s c (runParcel (coreOf s c)) h .add with
    | .error f => .error (f, h)
    | .ok (.lc i) => .ok (.local_ i, false)
    | .ok (.home h) => .ok (.handle h, true)
  | 2 => .ok (.local_ (cr.setWidth 6), false)
  | _ => .ok (.local_ (cr.setWidth 6 + 32#6), false)

/-- The parts that move row for row; `link` says that they travel over the neighbour link. -/
def zipParts (link : Bool) (srcs dsts : List (List Loc)) : List Part :=
  (srcs.zip dsts).zipIdx.flatMap fun r =>
    (r.1.1.zip r.1.2).map fun p => { row := r.2, src := some p.1, fill := 0, dst := p.2, link := link }

/-- The low word of a tile register as it names row `i` of its region (R19, R344). -/
def rowLow (t : TileWord) (i : Nat) : Word := t.extractLsb' 62 2 ++ BitVec.ofNat 62 (tAddr t + i * tPitch t)

/-- A copy handed to the engine (R130): parts with the tile word of its first destination row, ranges read and written.
Where the parts rest on indices, these are read at acceptance, after the check of the handle (R132), and may fault or
wait. -/
def acceptCopy (c : Nat) (cr : BitVec 5) (m : BitVec 2) (moved : Except Eff (List Part × Word))
    (reads writes : List Loc) (s : State) : Eff :=
  match copyDone s c cr m with
  | .error (f, h) => .trap s c f h .read
  | .ok (dn, irv) =>
    if 16 ≤ (coreOf s c).eng.copyq.length then .wait s .other
    else
      match moved with
      | .error e => e
      | .ok (parts, low) =>
        let (seq, s) := newSeq s
        let s := registerParts (registerParts s false seq reads) true seq writes
        let cmd : CopyCmd :=
          { parts := parts, done := dn, own := runOwner (coreOf s c), seq := seq, dstLow := low,
            hold := none, failed := false, covered := [] }
        .ok (modCore s c fun k =>
          let k := { k with eng := { k.eng with copyq := k.eng.copyq ++ [cmd] } }
          if irv then setIrv k else k)

/-- The space-specific place in which two regions may meet, and the offset in it. -/
def regionPlace (t : TileWord) : Nat × Nat :=
  let a := tAddr t
  match tSpace t with
  | 2 => (2 + 4 * (a / 2 ^ 32 % 2 ^ 12), a % 2 ^ 32)
  | 3 => (3 + 4 * (a / 2 ^ 32 % 2 ^ 8), a % 2 ^ 32)
  | n => (n, a)

/-- Whether the bounding ranges of two regions overlap in a shared space (R131). -/
def boundsOverlap (x y : TileWord) : Bool :=
  let px := regionPlace x
  let py := regionPlace y
  px.1 == py.1 && px.2 < py.2 + tRows y * tPitch y + tW y && py.2 < px.2 + tRows x * tPitch x + tW x

/-- `cpy` (R131). -/
def cpyBody (d sc : BitVec 4) (cr : BitVec 5) (m : BitVec 2) (c : Nat) (s : State) : Eff :=
  let k := coreOf s c
  let td := tGet k d
  let ts := tGet k sc
  if !tileOk td (fun _ => true) || !tileOk ts (fun _ => true) || tRows td != tRows ts ||
      tWidth td != tWidth ts || boundsOverlap td ts then .trap s c .tile 0 .read
  else
    match checkRows s c ts .read 0 (tRows ts + 1) with
    | .error e => rowFail s c e .read
    | .ok srcs =>
      match checkRows s c td .write 0 (tRows td + 1) with
      | .error e => rowFail s c e .write
      | .ok dsts =>
        let n := activeRows td k.a.acnt.toNat
        acceptCopy c cr m (.ok (zipParts false (srcs.take n) (dsts.take n), rowLow td 0)) srcs.flatten dsts.flatten s

/-- `cpyf` (R133): the pattern of an a register in every active row. -/
def cpyfBody (d n : BitVec 4) (cr : BitVec 5) (m : BitVec 2) (c : Nat) (s : State) : Eff :=
  let k := coreOf s c
  let td := tGet k d
  if !tileOk td (fun _ => true) then .trap s c .tile 0 .write
  else
    match checkRows s c td .write 0 (tRows td + 1) with
    | .error e => rowFail s c e .write
    | .ok dsts =>
      let v := aGet k (n.setWidth 5)
      let parts := (dsts.take (activeRows td k.a.acnt.toNat)).zipIdx.flatMap fun r => r.1.map fun l =>
        ({ row := r.2, src := none, fill := v, dst := l } : Part)
      acceptCopy c cr m (.ok (parts, rowLow td 0)) [] dsts.flatten s

/-- The rows of a window of another core (R134). -/
def windowRows (n : Nat) (r : Resident) (t : TileWord) : Option (List (List Loc)) :=
  let rows := (List.range (tRows t + 1)).map fun i => rowAddr t i
  if rows.all fun a => a + tW t ≤ r.size then
    some (rows.map fun a => parts16 (fun o => .scratch n (r.base + a + o) (BitVec.ofNat 64 (a + o))) (tW t / 16))
  else none

/-- The first row of a region that leaves a window, as its address. -/
def firstOutside (r : Resident) (t : TileWord) : Word :=
  BitVec.ofNat 64 (((List.range (tRows t + 1)).find? fun i => r.size < rowAddr t i + tW t).map
    (rowAddr t)|>.getD (tAddr t))

/-- The round of the running strand of a core (R314). -/
def runRound (k : Core) : Option Nat := k.run.bind fun r => (mget k.res r.slot).bind fun x => x.round

/-- `cpyn` (R134). Its source rows are checked before the port and the neighbour's window: no rule orders them, the
model's choice (log 63). -/
def cpynBody (d sc : BitVec 4) (cr : BitVec 5) (dir m : BitVec 2) (c : Nat) (s : State) : Eff :=
  let k := coreOf s c
  let td := tGet k d
  let ts := tGet k sc
  if !tileOk td (fun _ => true) || !tileOk ts (fun _ => true) || tRows td != tRows ts ||
      tWidth td != tWidth ts || tSpace td != 0 then .trap s c .tile 0 .read
  else
    match checkRows s c ts .read 0 (tRows ts + 1) with
    | .error e => rowFail s c e .read
    | .ok srcs =>
      match if portClosed s c dir.toNat then none else neighbour c dir.toNat with
      | none => .trap s c .port 0 .write
      | some n =>
        match (runRound k).bind fun r => roundSlot s n (runOwner k).launch r with
        | none => .trap s c .bounds (BitVec.ofNat 64 (tAddr td)) .write
        | some w =>
          match windowRows n w td with
          | none => .trap s c .bounds (firstOutside w td) .write
          | some dsts =>
            let a := activeRows td k.a.acnt.toNat
            acceptCopy c cr m (.ok (zipParts true (srcs.take a) (dsts.take a), rowLow td 0)) srcs.flatten dsts.flatten s

/-- The outcome of reading the index tile. -/
inductive IdxRes where
  | ok (xs : List Nat)
  | wait
  | fault (f : FaultCode) (va : Word)

/-- The window offset of index element `i` (R132). -/
def idxOff (t : TileWord) (i : Nat) : Nat := rowAddr t (4 * i / tW t) + 4 * i % tW t

/-- The first `n` indices, each at most `top` (R132). A poisoned one faults with POISON at its offset: R132 gives no
outcome, the model's choice (log 63). -/
def readIdx (k : Core) (t : TileWord) (top : Nat) : Nat → IdxRes
  | 0 => .ok []
  | n + 1 =>
    match readIdx k t top n with
    | .ok xs =>
      match localLoad k (BitVec.ofNat 64 (idxOff t n)) 4 with
      | .blocked => .wait
      | .poison => .fault .poison (BitVec.ofNat 64 (idxOff t n))
      | .ok bs =>
        if top < leNat bs then .fault .bounds (BitVec.ofNat 64 (idxOff t n)) else .ok (xs ++ [leNat bs])
    | e => e

/-- Rows picked by indices. -/
def pickRows (rows : List (List Loc)) (xs : List Nat) : List (List Loc) := xs.map fun i => rows.getD i []

/-- `cpyg` and `cpys` (R132): `gather` says that the table is the source. Where rows of more than one region fail their
check, R130 orders no regions: the source's go first, then the destination's, then the index tile's, the model's choice
(log 63). -/
def cpyxBody (gather : Bool) (d sc : BitVec 4) (cr : BitVec 5) (m : BitVec 2) (c : Nat) (s : State) : Eff :=
  let k := coreOf s c
  let td := tGet k d
  let ts := tGet k sc
  let table := if gather then ts else td
  let moved := if gather then td else ts
  let ti := tGet k (if gather then sc + 1 else d + 1)
  if !tileOk td (fun _ => true) || !tileOk ts (fun _ => true) || !tileOk ti (fun x => x == 4) ||
      tSpace ti != 0 || (tRows ti + 1) * tW ti / 4 < tRows moved + 1 || tWidth table != tWidth moved then
    .trap s c .tile 0 .read
  else
    match checkRows s c ts .read 0 (tRows ts + 1) with
    | .error e => rowFail s c e .read
    | .ok srcs =>
      match checkRows s c td .write 0 (tRows td + 1) with
      | .error e => rowFail s c e .write
      | .ok dsts =>
        match checkRows s c ti .read 0 (tRows ti + 1) with
        | .error e => rowFail s c e .read
        | .ok _ =>
          let n := activeRows moved k.a.acnt.toNat
          let parts : Except Eff (List Part × Word) :=
            match readIdx k ti (tRows table) n with
            | .wait => .error (.wait s .other)
            | .fault f va => .error (.trap s c f va .read)
            | .ok xs =>
              .ok (if gather then (zipParts false (pickRows srcs xs) (dsts.take n), rowLow td 0)
                   else (zipParts false (srcs.take n) (pickRows dsts xs), rowLow td (xs.headD 0)))
          acceptCopy c cr m parts srcs.flatten dsts.flatten s

/-- `cpy` (R131). -/
def execCpy (h : Hdr) (d sc : BitVec 4) (c : BitVec 5) (m : BitVec 2) (s : State) :
    Host.Outcome State Fault Refusal := aInst h (cpyBody d sc c m) s
/-- `cpyg` (R132). -/
def execCpyg (h : Hdr) (d sc : BitVec 4) (c : BitVec 5) (m : BitVec 2) (s : State) :
    Host.Outcome State Fault Refusal := aInst h (cpyxBody true d sc c m) s
/-- `cpys` (R132). -/
def execCpys (h : Hdr) (d sc : BitVec 4) (c : BitVec 5) (m : BitVec 2) (s : State) :
    Host.Outcome State Fault Refusal := aInst h (cpyxBody false d sc c m) s
/-- `cpyf` (R133). -/
def execCpyf (h : Hdr) (d n : BitVec 4) (c : BitVec 5) (m : BitVec 2) (s : State) :
    Host.Outcome State Fault Refusal := aInst h (cpyfBody d n c m) s
/-- `cpyn` (R134). -/
def execCpyn (h : Hdr) (d sc : BitVec 4) (c : BitVec 5) (r m : BitVec 2) (s : State) :
    Host.Outcome State Fault Refusal := aInst h (cpynBody d sc c r m) s

/-! ## The engine -/

/-- What a part's move answers. -/
inductive PartStep where
  /-- Moved, with the physical range it made clean. -/
  | ok (s : State) (clean : List (Nat × Nat))
  /-- A translation is missing: the engine holds the command (R307). -/
  | hold (va : Word)
  | wait (s : State)

/-- A part's granule in a scratchpad made clean. -/
def cleanPart (s : State) (l : Loc) : State :=
  match l with
  | .scratch c o _ => modCore s c fun k => { k with poison := k.poison.filter fun g => g != o / 16 }
  | _ => s

/-- Whether the engine's access is the retry of one whose page the pager did not supply: it fails as PERM does (R307). -/
def unsupplied (s : State) (c : Nat) (cmd : CopyCmd) (va : Word) : Bool :=
  cmd.asked == some { va := va, pte := some (missPte s (.core c) cmd.own.parcel va) }

/-- The access of a part that its page keeps from being made for good: a page that the pager did not supply, or that gives
no right. The first terminates the strand that issued the copy with PERM, while it runs on the core (R307, log 12). -/
def copyPerm (s : State) (c : Nat) (cmd : CopyCmd) (f : FaultCode) (va : Word) : State :=
  let s := missWalk s (.core c) cmd.own.parcel va
  if f = .xlate ∧ ((coreOf s c).run.map fun r => r.own) = some cmd.own then strandFault s c false .perm va else s

/-- The data of a part: bytes, whether poisoned. An endpoint's refusal, or a page that cannot be read, reads as poison
(R391, R392). -/
def partData (s : State) (c : Nat) (cmd : CopyCmd) (x : Part) : PartRes :=
  match x.src with
  | none => .ok s (leBytes 8 x.fill.toNat ++ leBytes 8 x.fill.toNat) false
  | some l =>
    match readPart s c cmd.own.parcel l with
    | .fault s f va =>
      if f = .xlate ∧ !unsupplied s c cmd va then .fault s .xlate va
      else .ok (copyPerm s c cmd f va) (List.replicate 16 0) true
    | r => r

/-- 16 bytes written over the neighbour link: the neighbour's scratchpad checks its owner, and no message of the mesh is
sent (R134, R392). -/
def linkPart (s : State) (c : Nat) (own : Owner) (l : Loc) (bs : List Byte) : PutRes :=
  match l with
  | .scratch co o va =>
    if effOwner s co ≠ own.parcel then .dropped (droppedWrite s own.parcel c own va (scratchPa co o) (effOwner s co))
    else .ok (modCore s co fun k => { k with scratch := memSetList k.scratch o bs }) none false
  | l => writePart s c own l bs

/-- One part moved (R130, R135, R282). -/
def movePart (s : State) (c : Nat) (cmd : CopyCmd) (x : Part) : PartStep :=
  if (x.src.map (earlierBlocks s cmd.seq false)).getD false || earlierBlocks s cmd.seq true x.dst then .wait s
  else
    match partData s c cmd x with
    | .transit s => .wait s
    | .fault _ _ va => .hold va
    | .ok s bs poison =>
      match if x.link then linkPart s c cmd.own x.dst bs else writePart s c cmd.own x.dst bs with
      | .transit s => .wait s
      | .fault f va => if f = .xlate ∧ !unsupplied s c cmd va then .hold va else .ok (copyPerm s c cmd f va) []
      | .dropped s => .ok s []
      | .ok s pa bad =>
        if poison || bad then .ok (poisonPart s x.dst pa) []
        else .ok (cleanPart s x.dst) (pa.map (fun a => (a, 16))).toList

/-- The head copy command of a core replaced. -/
def setHeadCopy (s : State) (c : Nat) (cmd : CopyCmd) : State :=
  modCore s c fun k => { k with eng := { k.eng with copyq := cmd :: k.eng.copyq.tail } }

/-- The engine holds its head command for a page, and keeps the entry that its walk met (R306, R307). -/
def holdCopy (s : State) (c : Nat) (cmd : CopyCmd) (va : Word) : State :=
  let rt : Retry := { va := va, pte := some (missPte s (.core c) cmd.own.parcel va) }
  match pagerEntry (missWalk s (.core c) cmd.own.parcel va) cmd.own.parcel c va cmd.own.rcd .copy false with
  | some (t, s) => setHeadCopy s c { cmd with hold := some t, asked := some rt }
  | none => setHeadCopy s c cmd

/-- Parts moved in order while none waits or holds: the parts left and what was made clean. -/
def moveParts (s : State) (c : Nat) (cmd : CopyCmd) : List Part → State × CopyCmd × Option Word
  | [] => (s, { cmd with parts := [] }, none)
  | x :: xs =>
    match movePart s c cmd x with
    | .ok s' cl => moveParts s' c { cmd with covered := cl ++ cmd.covered, asked := none } xs
    | .hold va => (s, { cmd with parts := x :: xs }, some va)
    | .wait s => (s, { cmd with parts := x :: xs }, none)

/-- The completion add of a copy (R135). -/
def copyAdd (s : State) (c : Nat) (cmd : CopyCmd) : State :=
  match cmd.done with
  | .none => s
  | .handle h => completionAdd s cmd.own c h
  | .local_ i => (refAdd s c cmd.own (.lc i) 1).2

/-- The head command of a copy engine ends: its clean granules settle, its ranges are released, its add is
made, but for a command that lost parts at an edge (R344). -/
def finishCopy (s : State) (c : Nat) (cmd : CopyCmd) : State :=
  let s := { s with phys := clearCovered s.phys cmd.covered }
  let s := modCore s c fun k => { k with eng := { k.eng with copyq := k.eng.copyq.tail } }
  if cmd.failed then unregister s cmd.seq else copyAdd (unregister s cmd.seq) c cmd

/-- The copy engine moves what is left of its head command and completes it (R135); while a page is missing
it holds the command (R307). -/
def execCopyCompletion (core : Nat) (s : State) : Host.Outcome State Fault Refusal :=
  match (coreOf s core).eng.copyq with
  | [] => .next s
  | cmd :: _ =>
    if (cmd.hold.map fun t => !ticketReached s t).getD false then .next s
    else
      match moveParts s core { cmd with hold := none } cmd.parts with
      | (s', cmd', some va) => .next (holdCopy s' core cmd' va)
      | (s', cmd', none) =>
        if cmd'.parts.isEmpty then .next (finishCopy s' core cmd') else .next (setHeadCopy s' core cmd')

/-- One part of the row in progress moved ahead of the others: rows are processed in ascending order, and the order of
parts within a row is not stated (R130, R132, log 1). -/
def copyPart (s : State) (c k : Nat) : State :=
  match (coreOf s c).eng.copyq with
  | [] => s
  | cmd :: _ =>
    match cmd.hold, cmd.parts[k]? with
    | none, some x =>
      if (cmd.parts.head?.map fun y => y.row != x.row).getD true then s
      else
        match movePart s c cmd x with
        | .ok s' cl =>
          setHeadCopy s' c { cmd with covered := cl ++ cmd.covered, parts := cmd.parts.eraseIdx k, asked := none }
        | .hold va => holdCopy s c cmd va
        | .wait s => s
    | _, _ => s

/-! ## Discard and prefetch (R158, R159, R283) -/

/-- The 128-byte lines that lie wholly within the active rows of a region. -/
def wholeLines (t : TileWord) (n : Nat) : List Nat :=
  (List.range n).flatMap fun i =>
    let a := rowAddr t i
    let lo := (a + 127) / 128
    (List.range ((a + tW t) / 128 - lo)).map fun j => (lo + j) * 128

/-- A byte of a discarded part that takes the value of backing memory. -/
def dropByte (p : Phys) (pa : Nat) : Phys :=
  match region pa with
  | .view => { p with views := merase p.views pa }
  | _ =>
    match mget p.backing pa with
    | some b => { p with mem := memSet p.mem pa b, backing := merase p.backing pa }
    | none => p

/-- One 16-byte part of a discarded line takes its value or the one in backing memory: the home chooses
(R283, log 10). -/
def discardPart (s : State) (pa : Nat) : State :=
  let s' := { s with freeCtr := s.freeCtr + 1 }
  let keep := Config.freeBool s.freeCtr && (match region pa with | .view => false | _ => true)
  { s' with phys := (List.range 16).foldl (fun p i =>
      if keep then { p with backing := merase p.backing (pa + i) } else dropByte p (pa + i)) s'.phys }

/-- A discarded line leaves the L2 without writeback: what the package holds of a host line becomes I (R158, R438). -/
def dropLine (s : State) (line : Nat) : State :=
  let s := [2 * line, 2 * line + 1].foldl (fun s h =>
    if lineSt s.phys (64 * h) = .i then s
    else sendUp { s with phys := setLine s.phys (64 * h) .i } (.lineReq .cleanEvict h none false)) s
  { s with phys := { s.phys with l2 := merase s.phys.l2 line } }

/-- A line discarded where the parcel may write it. A discard is a write to its bytes: it recalls the copies that the host
holds and ends reservations (R158, R283, R286, R416). -/
def discardLine (c : Nat) (own : Owner) (s : State) (va : Nat) : State :=
  let v := BitVec.ofNat 64 va
  let p := own.parcel
  match translate s (.core c) p v .write with
  | .ok pa lf =>
    if !endpointOk s p pa then droppedWrite s p c own v pa (endpointOwner s p pa)
    else if s.mesh.fail = some .request then droppedWrite (meshSpent s) p c own v pa (endpointOwner s p pa)
    else if linkLost s pa then logEv s .linkStore
    else
      let s := settleRetry (reach s (.core c) p v lf pa true) (.core c) v
      let s := { s with phys := flushOver s.phys pa 128 }
      let s := (halvesOf pa 128).foldl (fun s h => useDevice s h .write) s
      let s := dropLine ((List.range 8).foldl (fun s j => discardPart s (pa + 16 * j)) s) (pa / 128)
      { s with phys := breakReservations s.phys pa 128 }
  | _ => s

/-- `dsc` (R158). -/
def dscBody (sc : BitVec 4) (c : Nat) (s : State) : Eff :=
  let k := coreOf s c
  let t := tGet k sc
  if !tileOk t (fun _ => true) || tSpace t != 1 then .trap s c .tile 0 .write
  else
    match checkRows s c t .write 0 (tRows t + 1) with
    | .error e => rowFail s c e .write
    | .ok _ => .ok ((wholeLines t (activeRows t k.a.acnt.toNat)).foldl (discardLine c (runOwner k)) s)

/-- The pieces of the active rows of a region that lie in one line each: address and length. -/
def linePieces (t : TileWord) (n : Nat) : List (Nat × Nat) :=
  (List.range n).flatMap fun i =>
    let a := rowAddr t i
    (linesOf a (tW t)).map fun l => (max a (128 * l), min (a + tW t) (128 * l + 128) - max a (128 * l))

/-- A piece of a line fetched into the L2, where its page gives the parcel read permission and its endpoint serves it; it is
skipped otherwise, and no A bit is set (R159). -/
def prefPiece (c p : Nat) (s : State) (x : Nat × Nat) : State :=
  let va := BitVec.ofNat 64 x.1
  let t := missWalk s (.core c) p va
  match translate s (.core c) p va .read with
  | .ok pa _ =>
    if !endpointOk s p pa || linkLost s pa || s.mesh.fail.isSome then t
    else useLines (exchanged t (.core c) p (endpointAt pa)) p pa x.2 .read
  | _ => t

/-- `pref`: only its tile check can fault, and no value changes; the active rows of a global region come into the L2, which
keeps no line of a vault (R159, R294). -/
def prefBody (sc : BitVec 4) (c : Nat) (s : State) : Eff :=
  let k := coreOf s c
  let t := tGet k sc
  if !tileOk t (fun _ => true) then .trap s c .tile 0 .read
  else if tSpace t = 1 then .ok ((linePieces t (activeRows t k.a.acnt.toNat)).foldl (prefPiece c (runParcel k)) s)
  else .ok s

/-- `dsc` (R158). -/
def execDsc (h : Hdr) (sc : BitVec 4) (s : State) : Host.Outcome State Fault Refusal :=
  aInst h (dscBody sc) s
/-- `pref` (R159). -/
def execPref (h : Hdr) (sc : BitVec 4) (s : State) : Host.Outcome State Fault Refusal :=
  aInst h (prefBody sc) s

end Sys2Proof.Machine
end

