-- ==== Sys2Proof/Machine/Counters.lean ====
section
/-!
DEFINITION. The counter instructions of the access stream but for the commit point `cwait.s` (R141 to
R148), and the fences (R149).
-/
namespace Sys2Proof.Machine
open Sys2Proof

/-! ## Handles and scope policy (R141) -/

/-- What the tenant policies do to a counter operation: nothing, a fault with SCOPE after it, or a count in
`SCOPECLAMP`. Only a handle of system scope with an ordering other than relaxed is affected. -/
def handlePolicy (s : State) (c : Nat) (h : Word) (ord : BitVec 2) : Policy :=
  if isLocalShort h || hScope h != 3 || ord = 0#2 then .system else policyOf s c

/-- `SCOPECLAMP` counted for a clamped operation. -/
def noteClamp (s : State) (c : Nat) (pol : Policy) : State :=
  match pol with
  | .clamp => clamped s (runParcel (coreOf s c))
  | _ => s

/-- A counter operation that has taken place: it completes, or under TRAP faults with SCOPE (R141). -/
def endCounter (pol : Policy) (c : Nat) (h : Word) (s : State) (fin : Core → Core) : Eff :=
  match pol with
  | .trap => .trap s c .scope h .read
  | pol => .ok (modCore (noteClamp s c pol) c fin)

/-! ## Adds (R142) -/

/-- An add: R35, then the amount, then the add at the home. -/
def caddBody (d a : BitVec 5) (amount : Core → Word) (ord : BitVec 2) (c : Nat) (s : State) : Eff :=
  let k := coreOf s c
  let h := aGet k a
  let x := amount k
  match checkHandle s c (runParcel k) h .add with
  | .error f => .trap s c f h .read
  | .ok r =>
    if 2 ^ 32 ≤ x.toNat then .trap s c .illegal h .read
    else
      let (old, s') := refAdd s c (runOwner k) r x
      endCounter (handlePolicy s c h ord) c h s' fun k => setIrv (aSet k d old)

/-- `cadd` (R142). -/
def execCadd (h : Hdr) (d a b : BitVec 5) (off : BitVec 2) (s : State) :
    Host.Outcome State Fault Refusal := aInst h (caddBody d a (fun k => aGet k b) off) s
/-- `caddk`: the constant is the field plus 1 (R142). -/
def execCaddk (h : Hdr) (d a k : BitVec 5) (off : BitVec 2) (s : State) :
    Host.Outcome State Fault Refusal := aInst h (caddBody d a (fun _ => k.setWidth 64 + 1) off) s

/-! ## Reads, tests and waits (R143, R144) -/

/-- A read of a counter, its value handed to `fin`. -/
def creadBody (a : BitVec 5) (ord : BitVec 2) (fin : Word → Core → Core) (c : Nat) (s : State) : Eff :=
  let k := coreOf s c
  let h := aGet k a
  match checkHandle s c (runParcel k) h .read with
  | .error f => .trap s c f h .read
  | .ok r =>
    match refAsk s c (runParcel k) r with
    | .error s => .trap s c .foreign h .read
    | .ok t => endCounter (handlePolicy s c h ord) c h t (fin (refValue s c r))

/-- `cwait`: reads until the threshold is reached; under TRAP the wait takes place before the fault (R141, R144). -/
def cwaitBody (a b : BitVec 5) (ord : BitVec 2) (c : Nat) (s : State) : Eff :=
  let k := coreOf s c
  let h := aGet k a
  match checkHandle s c (runParcel k) h .read with
  | .error f => .trap s c f h .read
  | .ok r =>
    match refAsk s c (runParcel k) r with
    | .error s => .trap s c .foreign h .read
    | .ok t =>
      if reached (refValue s c r) (aGet k b) then endCounter (handlePolicy s c h ord) c h t id else .wait t .other

/-- `cread` (R143). -/
def execCread (h : Hdr) (d a : BitVec 5) (off : BitVec 2) (s : State) :
    Host.Outcome State Fault Refusal := aInst h (creadBody a off fun v k => aSet k d v) s
/-- `ctest` (R143). -/
def execCtest (h : Hdr) (d : BitVec 3) (a b : BitVec 5) (off : BitVec 2) (s : State) :
    Host.Outcome State Fault Refusal :=
  aInst h (creadBody a off fun v k => cSet k d (reached v (aGet k b))) s
/-- `cwait` (R144). -/
def execCwait (h : Hdr) (a b : BitVec 5) (off : BitVec 2) (s : State) :
    Host.Outcome State Fault Refusal := aInst h (cwaitBody a b off) s

/-! ## Allocation (R146, R439) -/

/-- The mesh position of a core. -/
def corePos (c : Nat) : Nat × Nat :=
  (32 * (dieOf c % 2) + 4 * (c / 16 % 64 % 8) + c % 4, 24 * (dieOf c / 2) + 4 * (c / 16 % 64 / 8) + c % 16 / 4)
/-- The mesh position of an L2 slice of a die. -/
def slicePos (q k : Nat) : Nat × Nat := (32 * (q % 2) + k / 5, 24 * (q / 2) + 5 * (k % 5) + 2)
/-- Mesh hops between two positions. -/
def hops (x y : Nat × Nat) : Nat := (x.1 - y.1) + (y.1 - x.1) + (x.2 - y.2) + (y.2 - x.2)

/-- The slice of a core's die nearest to it; equal distances go to the lower number. -/
def nearestSlice (c : Nat) : Nat :=
  let far (k : Nat) : Nat := hops (corePos c) (slicePos (dieOf c) k)
  (List.range Config.numSlices).foldl (fun best k => if far k < far best then k else best) 0

/-- The home field of a new counter of a scope near a core (R34, R146). -/
def homeNear (scope c : Nat) : Nat :=
  if scope = 1 then sectOf c else if scope = 2 then dieOf c * 256 + nearestSlice c else 0

/-- A request word: nothing when it is illegal, else scope, hint core and `KEEP`. A hint that names no core makes a request
of system scope illegal too: R146 says both that such a word is invalid and that the hint does not affect a system
counter; the model's choice (log 75). -/
def allocRequest (w : Word) : Option (Nat × Option Nat × Bool) :=
  let scope := (w.extractLsb' 0 2).toNat
  let near := (w.extractLsb' 4 12).toNat
  let hint := w.getLsbD 2
  if w.toNat / 2 ^ 17 ≠ 0 ∨ w.getLsbD 3 ∨ scope = 0 ∨ (hint ∧ !coreExists near) then none
  else some (scope, if hint then some near else none, w.getLsbD 16)

/-- `calloc`. -/
def callocBody (d a : BitVec 5) (c : Nat) (s : State) : Eff :=
  let k := coreOf s c
  match allocRequest (aGet k a) with
  | none => .trap s c .illegal 0 .read
  | some (scope, near, keep) =>
    let home := homeNear scope (near.getD c)
    match refAsk s c (runParcel k) (.home (mkHandle scope 0 home 0)) with
    | .error s => .trap s c .foreign 0 .read
    | .ok t =>
      match homeAlloc t scope home (runParcel k) keep (runOwner k).launch false with
      | none => .ok (modCore t c fun k => aSet k d (BitVec.allOnes 64))
      | some (h, t) => .ok (modCore t c fun k => aSet k d h)

/-- `calloc` (R146). -/
def execCalloc (h : Hdr) (d a : BitVec 5) (s : State) : Host.Outcome State Fault Refusal :=
  aInst h (callocBody d a) s

/-! ## Free (R147, R354) -/

/-- FREE at a home: done before, refused, or carried out. -/
def freeAt (s : State) (h : Word) (p : Nat) : Except FaultCode State :=
  let C := ctrOf s h
  if !C.alloc && C.gen == hGen h + 1 then .ok s
  else if !C.alloc || C.gen != hGen h then .error .stale
  else if C.owner != p then .error .foreign
  else .ok (homeFree s h)

/-- `cfree`: R35 first, which gives FOREIGN to a core-scope handle of another core; a local counter, named in either way,
is ILLEGAL (R35, R141, R147). -/
def cfreeBody (a : BitVec 5) (c : Nat) (s : State) : Eff :=
  let k := coreOf s c
  let h := aGet k a
  if isLocalShort h || hLow h != 0 then .trap s c .illegal h .read
  else if !homeExists h then .trap s c .stale h .read
  else if hScope h = 0 then .trap s c (if hHome h = c then .illegal else .foreign) h .read
  else
    match refAsk s c (runParcel k) (.home h) with
    | .error s => .trap s c .foreign h .read
    | .ok t =>
      match freeAt t h (runParcel k) with
      | .error f => .trap t c f h .read
      | .ok t => .ok t

/-- `cfree` (R147). -/
def execCfree (h : Hdr) (a : BitVec 5) (s : State) : Host.Outcome State Fault Refusal :=
  aInst h (cfreeBody a) s

/-! ## Local readiness (R148) -/

/-- `carm`. -/
def carmBody (a b : BitVec 5) (c : Nat) (s : State) : Eff :=
  let k := coreOf s c
  let i := aGet k a
  if 63 < i.toNat then .trap s c .illegal 0 .read
  else
    let n : BitVec 6 := i.setWidth 6
    .ok (setCore s c (lcSet k n { lcOf k n with thr := aGet k b, armed := true }))

/-- The local counters of a mask. -/
def waitMaskBits (m : Word) : List Nat := (List.range 64).filter fun i => m.getLsbD i

/-- `cwany` and `cwall`: a mask of 0 is ILLEGAL. -/
def cwmaskBody (all : Bool) (a : BitVec 5) (c : Nat) (s : State) : Eff :=
  let k := coreOf s c
  let m := aGet k a
  let rd (i : Nat) : Bool := lcReady k (BitVec.ofNat 6 i)
  if m = 0 then .trap s c .illegal 0 .read
  else if (if all then (waitMaskBits m).all rd else (waitMaskBits m).any rd) then .ok s
  else .wait s .other

/-- The lowest ready local counter of a mask, or all ones. -/
def firstReady (k : Core) (m : Word) : Word :=
  match (waitMaskBits m).find? fun i => lcReady k (BitVec.ofNat 6 i) with
  | some i => BitVec.ofNat 64 i
  | none => BitVec.allOnes 64

/-- `carm` (R148). -/
def execCarm (h : Hdr) (a b : BitVec 5) (s : State) : Host.Outcome State Fault Refusal :=
  aInst h (carmBody a b) s
/-- `cwany` (R148). -/
def execCwany (h : Hdr) (a : BitVec 5) (_off : BitVec 2) (s : State) : Host.Outcome State Fault Refusal :=
  aInst h (cwmaskBody false a) s
/-- `cwall` (R148). -/
def execCwall (h : Hdr) (a : BitVec 5) (_off : BitVec 2) (s : State) : Host.Outcome State Fault Refusal :=
  aInst h (cwmaskBody true a) s
/-- `cfirst` (R148). -/
def execCfirst (h : Hdr) (d a : BitVec 5) (s : State) : Host.Outcome State Fault Refusal :=
  aInst h (onCore fun k => aSet k d (firstReady k (aGet k a))) s

/-! ## Fences (R149) -/

/-- A fence: every earlier access is already performed (log 6), and an acquiring fence stalls until every earlier queue
load and `vld` is complete (R48, R149); `.sy` obeys the tenant policy of R137. -/
def fenceBody (acq : Bool) (sc : BitVec 2) (c : Nat) (s : State) : Eff :=
  if acq && !(openLoads (coreOf s c)).isEmpty then .wait s .other
  else if sc = 3#2 then
    match policyOf s c with
    | .system => .ok s
    | .trap => .trap s c .scope 0 .read
    | .clamp => .ok (clamped s (runParcel (coreOf s c)))
  else .ok s

/-- `fence.acq` (R149). -/
def execFenceAcq (h : Hdr) (sc : BitVec 2) (s : State) : Host.Outcome State Fault Refusal :=
  aInst h (fenceBody true sc) s
/-- `fence.rel` (R149). -/
def execFenceRel (h : Hdr) (sc : BitVec 2) (s : State) : Host.Outcome State Fault Refusal :=
  aInst h (fenceBody false sc) s
/-- `fence.ar` (R149). -/
def execFenceAr (h : Hdr) (sc : BitVec 2) (s : State) : Host.Outcome State Fault Refusal :=
  aInst h (fenceBody true sc) s

end Sys2Proof.Machine
end

