-- ==== Sys2Proof/Machine/Strand.lean ====
section
/-!
DEFINITION. Commit points and the rendezvous of the two streams (R38, R145, R150, R151, R155, R185, R226),
`spawn` (R152), gangs (R153), calls (R156, R157), and the timeouts of a core (R25, R145, R153).
-/
namespace Sys2Proof.Machine
open Sys2Proof

/-! ## Arriving -/

/-- The other members of a core's gang take the token of the leader's word too (R186); nothing while one of
them has none. -/
def takeOthers (xs : Bool) (h : Hdr) (s : State) : List Nat → Option State
  | [] => some s
  | m :: ms =>
    match takeToken s (coreOf s m) xs h with
    | none => none
    | some k => takeOthers xs h (setCore s m k) ms

/-- The members of a core's gang other than itself. -/
def othersOf (s : State) (c : Nat) : List Nat := (gangOf s c).filter fun m => m != c

/-- An instruction of a stream completed on every core of a list: the PC moves and its token is posted. -/
def completeAll (xs tok : Bool) (s : State) (ms : List Nat) : State :=
  ms.foldl (complete xs { w := false, t := tok, g := 0 } .seq true) s

/-- A core's streams leave the rendezvous. -/
def clearAt (k : Core) : Core :=
  { k with a := { k.a with at_ := none, spin := none }, x := { k.x with at_ := none } }

/-- Both streams complete at the commit point and run on (R38). -/
def runOn (s : State) (c : Nat) (ta tx : Bool) : State :=
  let ms := gangOf s c
  let s := completeAll true tx (completeAll false ta s ms) ms
  ms.foldl (fun s m => modCore s m clearAt) s

/-! ## The record (R32, R38) -/

/-- The record write of a commit point: both PCs after the commit instruction, the carried registers, the
state word, and the two wait words; `IRV` and the kept sub-tiles are cleared. -/
def writeRecord (s : State) (c : Nat) (r : Running) (st : RecState) (w18 w20 : Word) : State :=
  let k := coreOf s c
  let p := r.own.parcel
  let a := r.own.rcd
  let w := recWord s p a
  let s := devPut64 s p a ((k.a.str.pc + 4) ||| 1)
  let s := devPut64 s p (a + 0x08) (k.x.str.pc + 4)
  let s := devPut64 s p (a + 0x10) (swWrite w (r.logsz != 0#4) false st 0)
  let s := devPut64 s p (a + 0x18) w18
  let s := devPut64 s p (a + 0x20) w20
  let s := devPut64 s p (a + 0x28) (aGet k 1)
  let s := devPut64 s p (a + 0x30) (aGet k 2)
  let s := devPut64 s p (a + 0x38) (sGet k 4)
  let s := clearTiles s a r.own.launch
  modCore s c fun k => { k with run := k.run.map fun r => { r with irv := false } }

/-- Whether a resident slot's strand has ANY affinity. -/
def slotAny (k : Core) (sl : Nat) : Bool := ((mget k.res sl).map fun x => x.any).getD false

/-- A suspended strand leaves its core: a HOME strand keeps its slot with a status, an ANY strand gives up
its window (R39, R319). -/
def leaveCore (s : State) (c : Nat) (r : Running) (st : ResStatus) : State :=
  sweepLeaving (modCore s c fun k =>
    setStatus (stopStrand k) r.slot (if slotAny k r.slot then .leaving false else st)) c

/-- The record of a strand that suspends on a counter: its wait words and `STATE` WAITING (R32, R145). -/
def recordWaiting (s : State) (r : Running) (h t : Word) : State :=
  let p := r.own.parcel
  let a := r.own.rcd
  let w := recWord s p a
  let s := devPut64 s p (a + 0x18) h
  let s := devPut64 s p (a + 0x20) t
  devPut64 s p (a + 0x10) (swWithState w .waiting)

/-- The WAIT of a strand whose commit point has written its record: it suspends WAITING, is readied at once when its
threshold has been reached, or faults with WAITERS (R145, R354). -/
def suspendOn (s : State) (c : Nat) (r : Running) (h t : Word) : State :=
  match registerWaiter s h t r.own.rcd r.own.parcel with
  | .full => strandFault s c false .waiters h
  | .ok s => leaveCore (recordWaiting s r h t) c r .parked
  | .ready =>
    readyStrand (leaveCore (recordWaiting s r h t) c r .parked) r.own.parcel r.own.rcd (ctrOf s h).fut

/-! ## The call area (R156, R157) -/

/-- The call slot of the running strand: none without a call area or outside the record array. -/
def callSlot (s : State) (r : Running) : Option Word :=
  match launchOf s r.own.launch with
  | none => none
  | some L =>
    let o := r.own.rcd - L.desc.recaddr
    if L.desc.callarea = 0 ∨ o.toNat % 64 ≠ 0 ∨ L.count ≤ o.toNat / 64 then none
    else some (L.desc.callarea + o)

/-- The outcome of a post: the sequence number and the slot's counter. -/
inductive PostRes where
  | ok (s : State) (seq : Word) (h : Word)
  | fault (s : State) (f : FaultCode) (addr : Word)
  | wait (s : State)

/-- A post into the running strand's slot (R156). The handle at `0x30` is checked completely (R35, R157), and before
the slot's state, an order that R157 leaves open against step 1 (log 67). The doorbell's add is dropped where its
counter has been freed or is another parcel's (log 68). -/
def postCall (s : State) (c : Nat) (num arg : Word) : PostRes :=
  match (coreOf s c).run with
  | none => .fault s .illegal 0
  | some r =>
    match callSlot s r with
    | none => .fault s .illegal 0
    | some va =>
      let p := r.own.parcel
      match readG s (.core c) p va 64 .read with
      | .transit s => .wait s
      | .fault s f => .fault s f va
      | .ok s bs =>
        let w0 := zextBytes (bs.take 8)
        let h := zextBytes ((bs.drop 0x30).take 8)
        match translate s (.core c) p va .write with
        | .transit => .wait (missWalk s (.core c) p va)
        | .fault f => .fault s f va
        | .ok _ _ =>
          match checkHandle s c p h .wait with
          | .error f => .fault s f va
          | .ok _ =>
            let st := w0.extractLsb' 0 4
            if st ≠ 0#4 ∧ st ≠ 3#4 then .fault s .illegal va
            else
              let seq : BitVec 32 := w0.extractLsb' 32 32 + 1
              let s := devPut64 s p (va + 0x08) num
              let s := devPut64 s p (va + 0x10) arg
              let s := devPut64 s p (va + 0x18) r.own.rcd
              let s := devPut64 s p va (seq ++ 1#32)
              let db := ((launchOf s r.own.launch).map fun L => L.desc.calldb).getD 0
              .ok (modCore (devAdd s p db 1).1 c setIrv) (seq.setWidth 64) h

/-! ## Commit points (R150) -/

/-- Whether a commit kind suspends, or may. -/
def CommitKind.suspends : CommitKind → Bool
  | .commit => false | _ => true

/-- Queues, tokens and loop stacks are empty (R38, R122). -/
def drained (k : Core) : Bool :=
  k.sh.lq.isEmpty && k.sh.sq.isEmpty && k.sh.vlq.isEmpty && k.sh.vsq.isEmpty && k.sh.bqx.isEmpty &&
    k.sh.bqa.isEmpty && k.sh.tokA == 0#4 && k.sh.tokX == 0#4 && k.a.str.loops.isEmpty && k.x.str.loops.isEmpty

/-- Both streams of a core wait without a stall of R25. -/
def waitBoth (s : State) (c : Nat) : State := markWait (markWait s c false .other) c true .other

/-- What a `cwait.s` comes to whose wait is over: the tenant policy of TRAP faults it with SCOPE and that of CLAMP counts
it; then it goes on (R141, log 30). -/
def endWait (s : State) (c : Nat) (h : Word) (acq : Bool) (go : State → State) : State :=
  match handlePolicy s c h (if acq then 2#2 else 0#2) with
  | .trap => strandFault s c false .scope h
  | pol => go (noteClamp s c pol)

/-- One test of the spin of `cwait.s`, or its end (R145). -/
def spinStep (s : State) (c : Nat) (r : Running) (h t : Word) (acq ta tx : Bool) (till : Nat) : State :=
  match checkRemote s h r.own.parcel .wait with
  | some f => strandFault s c false f h
  | none =>
    match refAsk s c r.own.parcel (.home h) with
    | .error s => strandFault s c false .foreign h
    | .ok u =>
      if s.cycle < till then
        if reached (ctrOf s h).value t then endWait u c h acq fun u => runOn u c ta tx else waitBoth u c
      else endWait u c h acq fun u => suspendOn u c r h t

/-- The steps of a commit point from its record write on (R150 steps 4 to 6). -/
def commitBody (s : State) (c : Nat) (r : Running) (kind : CommitKind) (ta tx : Bool) : State :=
  match kind with
  | .commit =>
    let s := (gangOf s c).foldl (fun s m =>
      match (coreOf s m).run with
      | some q => writeRecord s m q .running 0 0
      | none => s) s
    runOn s c ta tx
  | .susp => leaveCore (writeRecord s c r .suspended 0 0) c r .parked
  | .yield =>
    let any := slotAny (coreOf s c) r.slot
    let s := leaveCore (writeRecord s c r .ready 0 0) c r .ready
    if any then joinList s r.own.parcel r.own.rcd false else s
  | .exit =>
    let s := writeRecord s c r .exited 0 0
    let s := modCore s c fun k => setStatus (stopStrand k) r.slot (.leaving true)
    sweepLeaving (launchMinus s r.own.launch) c
  | .bkpt =>
    let word := (coreOf s c).a.str.ir
    let s := writeRecord s c r .suspended 0 0
    let s := faultEntry s r.own.parcel (fent 3 0 c r.own.launch r.own.rcd 0 (word.setWidth 64))
    leaveCore s c r .parked
  | .cwaitS h t acq =>
    let n := (coreOf s c).a.waitspin.toNat
    let s := writeRecord s c r .running 0 0
    let s := modCore s c fun k => { k with a := { k.a with spin := some (s.cycle + n) } }
    spinStep s c r h t acq ta tx (s.cycle + n)
  | .fcall a b =>
    match postCall s c a b with
    | .wait s => waitBoth s c
    | .fault s f addr => takeFault s c false f addr .write
    | .ok s seq h => suspendOn (writeRecord s c r .running 0 0) c r h seq

/-- A commit point both streams have reached: the wait for the matrix unit of R226, the checks of R150, then
its record write and effect. -/
def commitGo (s : State) (c : Nat) : State :=
  let k := coreOf s c
  match k.run, k.a.at_, k.x.at_ with
  | some r, some (kind, ta), some tx =>
    match kind, k.a.spin with
    | .cwaitS h t acq, some till => spinStep s c r h t acq ta tx till
    | _, _ =>
      if (k.a.str.hold.map fun t => !ticketReached s t).getD false then s
      else if kind.suspends && !k.eng.matq.isEmpty then waitBoth s c
      else if r.logsz ≠ 0#4 ∧ kind ≠ .commit then strandFault s c false .gang 0
      else
        match (gangOf s c).find? fun m => !drained (coreOf s m) with
        | some m => strandFault s m false .queue 0
        | none => commitBody s c r kind ta tx
  | _, _, _ => s

/-- The access stream at a commit instruction. -/
def arriveA (h : Hdr) (kind : CommitKind) (c : Nat) (s : State) : Eff :=
  match takeOthers false h s (othersOf s c) with
  | none => .wait s .token
  | some s =>
    let k := coreOf s c
    let s := if k.a.at_.isSome then s
      else setCore s c (moved s { k with a := { k.a with at_ := some (kind, h.t) } })
    if k.x.at_.isSome then .settled (commitGo s c) else .settled (markWait s c false .rendezvous)

/-- `xcmt`: earlier vector instructions complete first (R192, log 8), then the rendezvous (R150, R185). -/
def xcmtBody (h : Hdr) (c : Nat) (s : State) : Eff :=
  if (gangOf s c).any fun m => !(coreOf s m).vec.vq.isEmpty then .wait s .other
  else
    match takeOthers true h s (othersOf s c) with
    | none => .wait s .token
    | some s =>
      let k := coreOf s c
      let s := if k.x.at_.isSome then s
        else setCore s c (moved s { k with x := { k.x with at_ := some h.t } })
      if k.a.at_.isSome then .settled (commitGo s c) else .settled (markWait s c true .rendezvous)

/-- `susp` (R151). -/
def execSuspS (h : Hdr) (s : State) : Host.Outcome State Fault Refusal := aInst h (arriveA h .susp) s
/-- `yield` (R151). -/
def execYieldS (h : Hdr) (s : State) : Host.Outcome State Fault Refusal := aInst h (arriveA h .yield) s
/-- `exit` (R151). -/
def execExitS (h : Hdr) (s : State) : Host.Outcome State Fault Refusal := aInst h (arriveA h .exit) s
/-- `commit` (R151). -/
def execCommitS (h : Hdr) (s : State) : Host.Outcome State Fault Refusal := aInst h (arriveA h .commit) s
/-- `xcmt` (R185). -/
def execXcmt (h : Hdr) (s : State) : Host.Outcome State Fault Refusal := xInst h (xcmtBody h) s

/-- `cwait.s`: the handle is checked before anything else, which gives FOREIGN to a core-scope handle of another core; a
local counter, named in either way, is ILLEGAL (R35, R141, R145). -/
def cwaitSBody (h : Hdr) (a b : BitVec 5) (ord : BitVec 2) (c : Nat) (s : State) : Eff :=
  let k := coreOf s c
  let hd := aGet k a
  if isLocalShort hd then .trap s c .illegal hd .read
  else if hLow hd = 0 ∧ homeExists hd ∧ hScope hd = 0 then
    .trap s c (if hHome hd = c then .illegal else .foreign) hd .read
  else
    match checkRemote s hd (runParcel k) .wait with
    | some f => .trap s c f hd .read
    | none => arriveA h (.cwaitS hd (aGet k b) (ord != 0#2)) c s

/-- `cwait.s` (R145). -/
def execCwaitS (h : Hdr) (a b : BitVec 5) (off : BitVec 2) (s : State) :
    Host.Outcome State Fault Refusal := aInst h (cwaitSBody h a b off) s

/-- The debug flag of the running strand's launch (R308). -/
def debugOn (s : State) (c : Nat) : Bool :=
  ((launchOf s (runOwner (coreOf s c)).launch).map fun L => L.desc.flags.getLsbD 4).getD false

/-- `bkpt`: TRAP, or a suspending commit point under the debug flag (R155). -/
def bkptBody (h : Hdr) (c : Nat) (s : State) : Eff :=
  if debugOn s c then arriveA h .bkpt c s else .trap s c .trap 0 .read

/-- `bkpt` of the access stream (R155). -/
def execABkpt (h : Hdr) (_n : BitVec 16) (s : State) : Host.Outcome State Fault Refusal :=
  aInst h (bkptBody h) s

/-- `fcall`, a commit point whose own action is the post (R156). -/
def execFcall (h : Hdr) (a b : BitVec 5) (s : State) : Host.Outcome State Fault Refusal :=
  aInst h (fun c s => arriveA h (.fcall (aGet (coreOf s c) a) (aGet (coreOf s c) b)) c s) s

/-- `fcall.nb`: the sequence number of the post in d (R156). -/
def fcallNbBody (d a b : BitVec 5) (c : Nat) (s : State) : Eff :=
  let k := coreOf s c
  match postCall s c (aGet k a) (aGet k b) with
  | .wait s => .wait s .other
  | .fault s f addr => .trap s c f addr .write
  | .ok s seq _ => .ok (modCore s c fun k => aSet k d seq)

/-- `fcall.nb` (R156). -/
def execFcallNb (h : Hdr) (d a b : BitVec 5) (s : State) : Host.Outcome State Fault Refusal :=
  aInst h (fcallNbBody d a b) s

/-! ## `spawn` (R152, R318) -/

/-- Whether any row of the table in force assigns a core's section to a parcel (R314). -/
def inCoreList (s : State) (p c : Nat) : Bool :=
  coreExists c && s.cad.table.rows.any fun r => r.sects.getD (48 * dieOf c + sectOf c % 64) 63 == p

/-- Whether a record lies in its launch's record array (R318). -/
def inArray (L : Launch) (a : Word) : Bool :=
  (a - L.desc.recaddr).toNat % 64 == 0 && (a - L.desc.recaddr).toNat / 64 < L.count

/-- Whether a record is listed: on a dispatch list, or ready in its slot. -/
def alreadyListed (s : State) (p : Nat) (w a : Word) : Bool :=
  listed s p a ||
    ((residentSlot (coreOf s (swHome w)) p a).bind fun sl => mget (coreOf s (swHome w)).res sl).any
      fun r => r.status == .ready

/-- `spawn`. -/
def spawnBody (a : BitVec 5) (c : Nat) (s : State) : Eff :=
  let k := coreOf s c
  let p := runParcel k
  let rc := aGet k a
  if rc.toNat % 64 ≠ 0 then .trap s c .align rc .read
  else
    match readG s (.core c) p rc 64 .read with
    | .transit s => .wait s .other
    | .fault s f => .trap s c f rc .read
    | .ok s bs =>
      let w := zextBytes ((bs.drop 0x10).take 8)
      if leNat (bs.take 1) % 2 = 0 ∨ swState w ≠ 0 then .trap s c .illegal rc .read
      else
        match launchOf s (swLaunch w) with
        | none => .trap s c .illegal rc .read
        | some L =>
          if L.parcel ≠ p then .trap s c .illegal rc .read
          else if !swAny w && !inCoreList s p (swHome w) then .trap s c .foreign rc .read
          else
            let was := alreadyListed s p w rc
            let s := if was then s else joinList s p rc false
            let s := if was || inArray L rc then s
              else modLaunch s L.id fun L => { L with
                live := L.live + 1, spawned := if L.spawned.contains rc then L.spawned else rc :: L.spawned }
            .ok (modCore s c setIrv)

/-- `spawn` (R152). -/
def execSpawn (h : Hdr) (a : BitVec 5) (s : State) : Host.Outcome State Fault Refusal :=
  aInst h (spawnBody a) s

/-! ## Gangs (R153, R325) -/

/-- The cores of the aligned block of 2^n around a core. -/
def blockOf (c n : Nat) : List Nat :=
  (List.range (2 ^ n)).map fun i => c / 16 * 16 + c % 16 / 2 ^ n * 2 ^ n + i

/-- A core's arrivals at `fuse`. -/
def arrivals (k : Core) : List FuseAt := k.a.fuse.toList ++ k.x.fuse.toList

/-- The arrived cores that share a block with a core, over the sizes named at either. -/
def fuseParty (s : State) (c n : Nat) : List Nat :=
  (blockOf c 4).filter fun m =>
    (arrivals (coreOf s m)).any fun f => (blockOf c n).contains m || (blockOf m f.n).contains c

/-- Every arrived member faults with GANG. -/
def fuseFault (s : State) (ms : List Nat) : State :=
  ms.foldl (fun s m => strandFault s m (coreOf s m).a.fuse.isNone .gang 0) s

/-- Whether the arrivals of a block disagree: sizes, launches, a strand already fused, a loop in progress. -/
def fuseBad (s : State) (c n : Nat) (ms : List Nat) : Bool :=
  ms.any fun m =>
    let k := coreOf s m
    (arrivals k).any (fun f => f.n != n) || (runOwner k).launch != (runOwner (coreOf s c)).launch ||
      gangLog k != 0 || (k.a.fuse.isSome && !k.a.str.loops.isEmpty) || (k.x.fuse.isSome && !k.x.str.loops.isEmpty)

/-- A member joins the gang: `GANGIX` set and both streams past their `fuse`. -/
def fuseMember (n : Nat) (s : State) (m : Nat) : State :=
  let k := coreOf s m
  let ta := (k.a.fuse.map fun f => f.tok).getD false
  let tx := (k.x.fuse.map fun f => f.tok).getD false
  let s := completeAll true tx (completeAll false ta s [m]) [m]
  modCore s m fun k =>
    { k with a := { k.a with fuse := none }, x := { k.x with fuse := none },
             run := k.run.map fun r => { r with logsz := BitVec.ofNat 4 n, member := BitVec.ofNat 4 (m % 2 ^ n) } }

/-- The arrivals of a core's block acted on: a mismatch, the fusion, or a wait. -/
def fuseGo (s : State) (c n : Nat) : State :=
  let party := fuseParty s c n
  let block := blockOf c n
  if fuseBad s c n party then fuseFault s party
  else if block.all fun m => (coreOf s m).a.fuse.isSome && (coreOf s m).x.fuse.isSome then
    let s := block.foldl (fuseMember n) s
    let lead := block.headD c
    block.foldl (fun s m => followPc true lead (followPc false lead s m) m) s
  else s

/-- `fuse #n` of a stream: its arrival is recorded, a fused strand's too, and acted on. -/
def fuseBody (xs : Bool) (h : Hdr) (b : BitVec 5) (c : Nat) (s : State) : Eff :=
  let at_ : FuseAt := { n := b.toNat, since := s.cycle, tok := h.t }
  let s := markWait s c xs .other
  let s := modCore s c fun k =>
    if xs then { k with x := { k.x with fuse := some (k.x.fuse.getD at_) } }
    else { k with a := { k.a with fuse := some (k.a.fuse.getD at_) } }
  .settled (fuseGo s c b.toNat)

/-- The gang of a core dissolved, both streams of every member past their `split`. -/
def splitGo (s : State) (c : Nat) (ta tx : Bool) : State :=
  let ms := gangOf s c
  let s := completeAll true tx (completeAll false ta s ms) ms
  ms.foldl (fun s m => modCore s m fun k =>
    { k with a := { k.a with splitAt := none }, x := { k.x with splitAt := none },
             run := k.run.map fun r => { r with logsz := 0, member := 0 } }) s

/-- `split` of a stream: no effect when not fused. -/
def splitBody (xs : Bool) (h : Hdr) (c : Nat) (s : State) : Eff :=
  if gangLog (coreOf s c) = 0 then .ok s
  else
    match takeOthers xs h s (othersOf s c) with
    | none => .wait s .token
    | some s =>
      let s := markWait s c xs .other
      let s := modCore s c fun k =>
        if xs then { k with x := { k.x with splitAt := some h.t } }
        else { k with a := { k.a with splitAt := some h.t } }
      let k := coreOf s c
      match k.a.splitAt, k.x.splitAt with
      | some ta, some tx => .settled (splitGo s c ta tx)
      | _, _ => .settled s

/-- `fuse` of the access stream (R153). -/
def execAFuse (h : Hdr) (b : BitVec 5) (s : State) : Host.Outcome State Fault Refusal :=
  aInst h (fuseBody false h b) s
/-- `split` of the access stream (R153). -/
def execASplit (h : Hdr) (s : State) : Host.Outcome State Fault Refusal := aInst h (splitBody false h) s
/-- `fuse` of the execute stream (R153, R185). -/
def execXFuse (h : Hdr) (b : BitVec 5) (s : State) : Host.Outcome State Fault Refusal :=
  xInst h (fuseBody true h b) s
/-- `split` of the execute stream (R153, R185). -/
def execXSplit (h : Hdr) (s : State) : Host.Outcome State Fault Refusal := xInst h (splitBody true h) s

/-! ## Timeouts -/

/-- 65,536 cycles after the first arrival with the block incomplete, every arrived member faults (R153). -/
def execGangFuseTimeout (core : Nat) (s : State) : Host.Outcome State Fault Refusal :=
  match arrivals (coreOf s core) with
  | [] => .next s
  | f :: _ =>
    let party := fuseParty s core f.n
    let first := (party.flatMap fun m => (arrivals (coreOf s m)).map fun f => f.since).foldl min f.since
    if first + 65536 ≤ s.cycle then .next (fuseFault s party) else .next s

/-- The spin of `cwait.s` ends: the waiter is registered and the strand suspends (R145). -/
def execCwaitSSpinExpiry (core : Nat) (s : State) : Host.Outcome State Fault Refusal :=
  match (coreOf s core).a.spin with
  | none => .next s
  | some till => if till ≤ s.cycle then .next (commitGo s core) else .next s

/-- Whether a stream is stalled in the sense of R25, since `2^20` cycles. -/
def stalled20 (s : State) (st : Stream) : Bool :=
  (match st.stall with
   | some .queue => true | some .token => true | some .port => true | some .rendezvous => true
   | _ => false) && st.since + 2 ^ 20 ≤ s.cycle

/-- Both streams stalled for 2^20 cycles with nothing moved: DEADLOCK, charged to the access stream, with
`QSTAT` as its detail; the rest of a gang faults with GANG (R25, R153, R389). -/
def execDeadlockTimeout (core : Nat) (s : State) : Host.Outcome State Fault Refusal :=
  let k := coreOf s core
  if k.run.isSome && stalled20 s k.a.str && stalled20 s k.x.str && k.sh.lastMove + 2 ^ 20 ≤ s.cycle then
    let others := othersOf s core
    let s := faultOne s core false .deadlock 0 (readQstat s core)
    .next (others.foldl (fun s m => faultOne s m false .gang 0 (faultDetail (coreOf s m) false)) s)
  else .next s

/-! ## Queue entries and ports -/

/-- The token of a load whose data have arrived is posted, or waits while the count is 15 (R23). -/
def postArrival (s : State) (k : Core) (tok : Bool) (o : Origin) : Core :=
  if !tok then k
  else if k.sh.tokX = 15#4 then { k with sh := { k.sh with pendX := k.sh.pendX ++ [o] } }
  else moved s (setTokens k true (k.sh.tokX + 1))

/-- The data of a queue load arrive: its entry is filled and its token posted; a count of 15 keeps back the post, and so
the load's completion, alone (R23, R114). -/
def execLqEntryFill (core idx : Nat) (s : State) : Host.Outcome State Fault Refusal :=
  let k := coreOf s core
  match k.sh.lq[idx]? with
  | none => .next s
  | some e =>
    if e.filled then .next s
    else
      let k := { k with sh := { k.sh with lq := k.sh.lq.set idx { e with filled := true } } }
      .next (setCore s core (postArrival s k e.tok e.org))

/-- The data of a `vld` arrive: its entry is filled and its token posted, as for a queue load (R23, R117). -/
def execVlqEntryFill (core idx : Nat) (s : State) : Host.Outcome State Fault Refusal :=
  let k := coreOf s core
  match k.sh.vlq[idx]? with
  | none => .next s
  | some e =>
    if e.filled then .next s
    else
      let k := { k with sh := { k.sh with vlq := k.sh.vlq.set idx { e with filled := true } } }
      .next (setCore s core (postArrival s k e.tok e.org))

/-- The oldest entry of an outbox moves to the matching inbox of the neighbour when that has room and the
port is open (R24, R166). -/
def execPortEntryMove (core : Nat) (dir : BitVec 2) (s : State) : Host.Outcome State Fault Refusal :=
  match bget (coreOf s core).outbox dir, neighbour core dir.toNat with
  | v :: q, some n =>
    if portClosed s core dir.toNat || 4 ≤ (bget (coreOf s n).inbox (dir + 2)).length then .next s
    else
      let s := modCore s core fun k => moved s { k with outbox := bset k.outbox dir q }
      .next (modCore s n fun k => moved s { k with inbox := bset k.inbox (dir + 2) (bget k.inbox (dir + 2) ++ [v]) })
  | _, _ => .next s

end Sys2Proof.Machine
end

