-- ==== Sys2Proof/Machine/Matrix.lean ====
section
/-!
DEFINITION. The matrix unit (R210 to R226): checks at issue, the queue, and the execution of a command.
-/
namespace Sys2Proof.Machine
open Sys2Proof

/-! ## Operand checks (R213, R214, R218, R219, R221) -/

/-- K of a bit-plane tile (R214). -/
def tK (t : TileWord) : Nat := 128 * (tWidth t + 1) / tPlanes t

/-- A local tile of one kind with at most 32 rows. -/
def localTile (t : TileWord) (kind : Nat) : Bool :=
  tileOk t (fun x => x == kind) && tSpace t == 0 && tRows t ≤ 31

/-- A bit-plane operand read at `p` planes. -/
def planeTile (t : TileWord) (p : Nat) : Bool :=
  localTile t 9 && (tWidth t + 1) % tPlanes t == 0 && p ≤ tPlanes t

/-- A scale operand of a data tile. -/
def scaleTile (s t : TileWord) : Bool :=
  tileOk s (fun x => x == 10) && tSpace s == 0 && tRows t ≤ tRows s && tK t / 32 ≤ tW s

/-- The index tile of `mperm`. -/
def indexTile (t : TileWord) : Bool :=
  tileOk t (fun x => x == 4) && tSpace t == 0 && 128 ≤ (tRows t + 1) * tW t

/-- Kind, element size and greatest `WIDTH` of a port command's region, by format: 0 F32, 1 BF16, 2 I32,
3 ME. -/
def portShape (fmt : Nat) : Nat × Nat × Nat :=
  match fmt with
  | 0 => (1, 4, 7) | 1 => (2, 2, 3) | 2 => (4, 4, 7) | _ => (11, 8, 15)

/-- The region of a port command. -/
def portTile (t : TileWord) (fmt : Nat) : Bool :=
  localTile t (portShape fmt).1 && tWidth t ≤ (portShape fmt).2.2

/-- The format of the region of a port command. -/
def MatOp.fmt : MatOp → Nat
  | .mst f => f | _ => 3

/-- The tile checks of a command. -/
def matOk (op : MatOp) (ta tb sa sb : TileWord) : Bool :=
  match op with
  | .mmul scaled pa pb =>
    planeTile ta pa && planeTile tb pb && tK ta == tK tb && (!scaled || (scaleTile sa ta && scaleTile sb tb))
  | .mtrans pa => planeTile ta pa
  | .mperm pa => planeTile ta pa && indexTile tb
  | .mrsum pa => planeTile ta pa
  | .mcsum pa => planeTile ta pa
  | .mclr => true
  | op => portTile ta op.fmt

/-- The regions a command reads, and those it writes. -/
def matReads (op : MatOp) (ta tb sa sb : TileWord) : List TileWord :=
  match op with
  | .mmul scaled _ _ => if scaled then [ta, tb, sa, sb] else [ta, tb]
  | .mperm _ => [ta, tb]
  | .mclr => []
  | .mst _ => []
  | _ => [ta]
/-- The regions a command writes. -/
def matWrites (op : MatOp) (ta : TileWord) : List TileWord :=
  match op with
  | .mst _ => [ta]
  | _ => []

/-- Every row of every region checked, in order. -/
def checkRegions (s : State) (c : Nat) (k : AccKind) : List TileWord → Except (Option FaultCode × Word) (List Loc)
  | [] => .ok []
  | t :: ts =>
    match checkRows s c t k 0 (tRows t + 1) with
    | .error e => .error e
    | .ok rows =>
      match checkRegions s c k ts with
      | .ok ls => .ok (rows.flatten ++ ls)
      | .error e => .error e

/-- A matrix command at issue (R211): tile registers and `VCNT` read, checks, the queue. Step 2 of R211 orders no checks:
the TILE conditions go first, then the rows of tA, tB, tA + 1 and tB + 1 in that order, the model's choice (log 74). -/
def matIssue (op : MatOp) (acc : BitVec 2) (a b : BitVec 4) (c : Nat) (s : State) : Eff :=
  let k := coreOf s c
  let ta := tGet k a
  let tb := tGet k b
  let sa := tGet k (a + 1)
  let sb := tGet k (b + 1)
  if !matOk op ta tb sa sb then .trap s c .tile 0 .read
  else
    match checkRegions s c .read (matReads op ta tb sa sb) with
    | .error e => rowFail s c e .read
    | .ok reads =>
      match checkRegions s c .write (matWrites op ta) with
      | .error e => rowFail s c e .write
      | .ok writes =>
        if 16 ≤ k.eng.matq.length then .wait s .other
        else
          let (seq, s) := newSeq s
          let s := registerParts (registerParts s false seq reads) true seq writes
          let cmd : MatCmd :=
            { op := op, acc := acc, ta := ta, tb := tb, sa := sa, sb := sb, vcnt := k.vec.vcnt.toNat,
              base := lbase k, own := runOwner k, seq := seq }
          .ok (modCore s c fun k => { k with eng := { k.eng with matq := k.eng.matq ++ [cmd] } })

/-- `mmul` (R214). -/
def execMmul (h : Hdr) (c : BitVec 2) (a b : BitVec 4) (p q : BitVec 3) (s : State) :
    Host.Outcome State Fault Refusal :=
  xInst h (matIssue (.mmul false (p.toNat + 1) (q.toNat + 1)) c a b) s
/-- `mmul.bs` (R214). -/
def execMmulBs (h : Hdr) (c : BitVec 2) (a b : BitVec 4) (p q : BitVec 3) (s : State) :
    Host.Outcome State Fault Refusal :=
  xInst h (matIssue (.mmul true (p.toNat + 1) (q.toNat + 1)) c a b) s
/-- `mtrans` (R218). -/
def execMtrans (h : Hdr) (c : BitVec 2) (a : BitVec 4) (p : BitVec 3) (s : State) :
    Host.Outcome State Fault Refusal := xInst h (matIssue (.mtrans (p.toNat + 1)) c a 0) s
/-- `mperm` (R218, R219). -/
def execMperm (h : Hdr) (c : BitVec 2) (a b : BitVec 4) (p : BitVec 3) (s : State) :
    Host.Outcome State Fault Refusal := xInst h (matIssue (.mperm (p.toNat + 1)) c a b) s
/-- `mrsum` (R218). -/
def execMrsum (h : Hdr) (c : BitVec 2) (a : BitVec 4) (p : BitVec 3) (s : State) :
    Host.Outcome State Fault Refusal := xInst h (matIssue (.mrsum (p.toNat + 1)) c a 0) s
/-- `mcsum` (R218). -/
def execMcsum (h : Hdr) (c : BitVec 2) (a : BitVec 4) (p : BitVec 3) (s : State) :
    Host.Outcome State Fault Refusal := xInst h (matIssue (.mcsum (p.toNat + 1)) c a 0) s
/-- `mclr` (R220). -/
def execMclr (h : Hdr) (c : BitVec 2) (s : State) : Host.Outcome State Fault Refusal :=
  xInst h (matIssue .mclr c 0 0) s
/-- `mst.f32` (R221). -/
def execMstF32 (h : Hdr) (c : BitVec 2) (a : BitVec 4) (s : State) : Host.Outcome State Fault Refusal :=
  xInst h (matIssue (.mst 0) c a 0) s
/-- `mst.bf16` (R221). -/
def execMstBf16 (h : Hdr) (c : BitVec 2) (a : BitVec 4) (s : State) : Host.Outcome State Fault Refusal :=
  xInst h (matIssue (.mst 1) c a 0) s
/-- `mst.i32` (R221). -/
def execMstI32 (h : Hdr) (c : BitVec 2) (a : BitVec 4) (s : State) : Host.Outcome State Fault Refusal :=
  xInst h (matIssue (.mst 2) c a 0) s
/-- `mst.me` (R221). -/
def execMstMe (h : Hdr) (c : BitVec 2) (a : BitVec 4) (s : State) : Host.Outcome State Fault Refusal :=
  xInst h (matIssue (.mst 3) c a 0) s
/-- `mld` (R221). -/
def execMld (h : Hdr) (c : BitVec 2) (a : BitVec 4) (s : State) : Host.Outcome State Fault Refusal :=
  xInst h (matIssue .mld c a 0) s
/-- `mxaln` (R221). -/
def execMxaln (h : Hdr) (c : BitVec 2) (a : BitVec 4) (s : State) : Host.Outcome State Fault Refusal :=
  xInst h (matIssue .mxaln c a 0) s

/-! ## Arrivals (R215 to R219, R225) -/

/-- A scratchpad byte of a command by window offset. -/
def cmdByte (k : Core) (base o : Nat) : Byte := memGet k.scratch (base + o)
/-- Whether any of the granules at these window offsets is poisoned. -/
def cmdPoison (k : Core) (base : Nat) (os : List Nat) : Bool :=
  os.any fun o => k.poison.contains ((base + o) / 16)

/-- The NaN arrival. -/
abbrev nanArrival : Int × Int := (0, eSpecial)

/-- The granules that hold the first `kp` planes of element `k` of row `r`. -/
def planeGrans (t : TileWord) (kp r k : Nat) : List Nat :=
  (List.range kp).map fun p => rowAddr t r + (k / 128 * tPlanes t + p) * 16

/-- Element `k` of row `r` of a bit-plane tile read at `kp` planes (R95). -/
def planeElem (K : Core) (base : Nat) (t : TileWord) (kp r k : Nat) : Int :=
  planeRead (tPlanes t) kp (rowElem (tPlanes t) kp k fun o => cmdByte K base (rowAddr t r + o))

/-- The exponent of a block: the scales with the stored plane counts, or nothing for a NaN code. -/
def blockExp (K : Core) (c : MatCmd) (i j g : Nat) : Option Int :=
  let sa := (cmdByte K c.base (rowAddr c.sa i + g)).toNat
  let sb := (cmdByte K c.base (rowAddr c.sb j + g)).toNat
  if sa = 255 ∨ sb = 255 then none
  else some ((sa - 127 - (tPlanes c.ta - 1) : Int) + (sb - 127 - (tPlanes c.tb - 1)))

/-- The integer sum of a K block of a product. -/
def blockSum (K : Core) (c : MatCmd) (pa pb i j g : Nat) : Int :=
  (List.range 32).foldl (fun acc x =>
    acc + planeElem K c.base c.ta pa i (32 * g + x) * planeElem K c.base c.tb pb j (32 * g + x)) 0

/-- The granules a K block of element (i, j) reads. -/
def blockGrans (c : MatCmd) (scaled : Bool) (pa pb i j g : Nat) : List Nat :=
  planeGrans c.ta pa i (32 * g) ++ planeGrans c.tb pb j (32 * g) ++
    (if scaled then [rowAddr c.sa i + g, rowAddr c.sb j + g] else [])

/-- The arrival of a K block, if there is one. -/
def blockArrival (K : Core) (c : MatCmd) (scaled : Bool) (pa pb i j g : Nat) : Option (Int × Int) :=
  if cmdPoison K c.base (blockGrans c scaled pa pb i j g) then some nanArrival
  else
    match if scaled then blockExp K c i j g else some 0 with
    | none => some nanArrival
    | some e =>
      let v := blockSum K c pa pb i j g
      if v = 0 then none else some (v, e)

/-- The arrival of a sum of elements of row `r`, over the elements `ks`. -/
def sumArrival (K : Core) (c : MatCmd) (pa r : Nat) (ks : List Nat) : Option (Int × Int) :=
  if cmdPoison K c.base (ks.flatMap fun k => planeGrans c.ta pa r k) then some nanArrival
  else
    let v := ks.foldl (fun acc k => acc + planeElem K c.base c.ta pa r k) 0
    if v = 0 then none else some (v, 0)

/-- Entry `i` of the index tile. -/
def permIdx (K : Core) (c : MatCmd) (i : Nat) : Nat :=
  leNat (memGetList K.scratch (c.base + idxOff c.tb i) 4)

/-- The arrivals of an array command to element (i, j), in ascending K. -/
def matArrivals (K : Core) (c : MatCmd) (i j : Nat) : List (Int × Int) :=
  let rows := tRows c.ta + 1
  if c.vcnt ≤ i then []
  else
    match c.op with
    | .mmul scaled pa pb =>
      if rows ≤ i ∨ tRows c.tb + 1 ≤ j then []
      else (List.range (tK c.ta / 32)).filterMap (blockArrival K c scaled pa pb i j)
    | .mtrans pa => if rows ≤ j then [] else (sumArrival K c pa j [i]).toList
    | .mperm pa =>
      if rows ≤ j then []
      else if cmdPoison K c.base [idxOff c.tb i] then [nanArrival]
      else if tK c.ta ≤ permIdx K c i then []
      else (sumArrival K c pa j [permIdx K c i]).toList
    | .mrsum pa =>
      if rows ≤ i ∨ j ≠ 0 then [] else (sumArrival K c pa i (List.range (tK c.ta))).toList
    | .mcsum pa =>
      if i ≠ 0 ∨ rows ≤ j then [] else (sumArrival K c pa j (List.range (tK c.ta))).toList
    | _ => []

/-! ## Accumulators -/

/-- An accumulator element. -/
def accGet (A : Acc) (i j : Nat) : AccElem := mgetD A (32 * i + j) AccElem.empty
/-- An accumulator element set; the empty element is unlisted. -/
def accSet (A : Acc) (i j : Nat) (e : AccElem) : Acc :=
  if e = AccElem.empty then merase A (32 * i + j) else mset A (32 * i + j) e
/-- An element as a pair. -/
def AccElem.pair (e : AccElem) : Int × Int := (e.m.toInt, e.e.toInt)
/-- A pair as an element. -/
def elemOfPair (p : Int × Int) : AccElem := { m := BitVec.ofInt 48 p.1, e := BitVec.ofInt 16 p.2 }
/-- Arrivals added to an element (R97). -/
def accAdd (e : AccElem) (xs : List (Int × Int)) : AccElem :=
  xs.foldl (fun e x => elemOfPair (alnAdd e.pair.1 e.pair.2 x.1 x.2)) e

/-- The positions (i, j) of the first `n` rows and `m` columns. -/
def grid (n m : Nat) : List (Nat × Nat) := (List.range n).flatMap fun i => (List.range m).map fun j => (i, j)

/-- An array command's effect on its accumulator. -/
def arrayAcc (K : Core) (c : MatCmd) (A : Acc) : Acc :=
  (grid 32 32).foldl (fun A p =>
    match matArrivals K c p.1 p.2 with
    | [] => A
    | xs => accSet A p.1 p.2 (accAdd (accGet A p.1 p.2) xs)) A

/-! ## Port commands (R221) -/

/-- Covered rows and columns of a port command. -/
def portRows (c : MatCmd) : Nat := min (tRows c.ta + 1) c.vcnt
/-- Covered columns. -/
def portCols (c : MatCmd) : Nat := tW c.ta / (portShape c.op.fmt).2.1

/-- The bytes `mst` stores for an element. -/
def mstBytes (fmt : Nat) (e : AccElem) : List Byte :=
  match fmt with
  | 0 => leBytes 4 (pairToFp .f32 e.pair)
  | 1 => leBytes 2 (pairToFp .bf16 e.pair)
  | 2 => leBytes 4 (BitVec.ofInt 32 (pairToI32 e.pair)).toNat
  | _ => leBytes 8 (packPair e.pair).toNat

/-- `mst`: covered rows stored whole. -/
def mstCore (K : Core) (c : MatCmd) (A : Acc) : Core :=
  (List.range (portRows c)).foldl (fun K i =>
    scratchStore K (c.base + rowAddr c.ta i)
      ((List.range (portCols c)).flatMap fun j => mstBytes c.op.fmt (accGet A i j))) K

/-- The region dword of element (i, j), or the NaN pair when it is poisoned (R225). -/
def regionPair (K : Core) (c : MatCmd) (i j : Nat) : Int × Int :=
  let o := rowAddr c.ta i + 8 * j
  if cmdPoison K c.base [o] then nanArrival
  else unpackPair (BitVec.ofNat 64 (leNat (memGetList K.scratch (c.base + o) 8)))

/-- `mld` and `mxaln`. -/
def portAcc (K : Core) (c : MatCmd) (add : Bool) (A : Acc) : Acc :=
  (grid (portRows c) (portCols c)).foldl (fun A p =>
    let x := regionPair K c p.1 p.2
    accSet A p.1 p.2 (if add then accAdd (accGet A p.1 p.2) [x] else elemOfPair x)) A

/-! ## Poison entries (R225) -/

/-- The granules, by window offset, that a command reads. `mtrans` and `mperm` read those of the elements they select, not
those of the other K groups whose zeros R218 sums: no rule says which, the model's choice (log 74). -/
def cmdGrans (K : Core) (c : MatCmd) : List Nat :=
  let rows := tRows c.ta + 1
  let act := min rows c.vcnt
  match c.op with
  | .mmul scaled pa pb =>
    if c.vcnt = 0 then []
    else
      let gs := (List.range (tK c.ta / 128)).map fun g => 128 * g
      let bs := List.range (tK c.ta / 32)
      (List.range act).flatMap (fun i => gs.flatMap (planeGrans c.ta pa i)) ++
        (List.range (tRows c.tb + 1)).flatMap (fun j => gs.flatMap (planeGrans c.tb pb j)) ++
        (if scaled then
          (List.range act).flatMap (fun i => bs.map fun g => rowAddr c.sa i + g) ++
            (List.range (tRows c.tb + 1)).flatMap (fun j => bs.map fun g => rowAddr c.sb j + g)
         else [])
  | .mtrans pa =>
    if c.vcnt = 0 then [] else (List.range rows).flatMap fun j => planeGrans c.ta pa j 0
  | .mperm pa =>
    (List.range (min 32 c.vcnt)).flatMap fun i =>
      idxOff c.tb i ::
        (if cmdPoison K c.base [idxOff c.tb i] || tK c.ta ≤ permIdx K c i then []
         else (List.range rows).flatMap fun j => planeGrans c.ta pa j (permIdx K c i))
  | .mrsum pa =>
    (List.range act).flatMap fun i => (List.range (tK c.ta / 128)).flatMap fun g => planeGrans c.ta pa i (128 * g)
  | .mcsum pa =>
    if c.vcnt = 0 then []
    else (List.range rows).flatMap fun j =>
      (List.range (tK c.ta / 128)).flatMap fun g => planeGrans c.ta pa j (128 * g)
  | .mclr => []
  | .mst _ => []
  | _ => (grid (portRows c) (portCols c)).map fun p => rowAddr c.ta p.1 + 8 * p.2

/-- The poisoned granules a command reads, as window offsets in ascending order. -/
def poisonGrans (K : Core) (c : MatCmd) : List Nat :=
  (((cmdGrans K c).filter fun o => cmdPoison K c.base [o]).map fun o => o / 16).foldl (fun l g => insertNat g l) []

/-- The kind 6 entries of a command. -/
def reportGrans (s : State) (core : Nat) (c : MatCmd) (gs : List Nat) : State :=
  gs.foldl (fun s g =>
    faultEntry s c.own.parcel (fent 6 FaultCode.poison.code core c.own.launch c.own.rcd
      (BitVec.ofNat 64 (16 * g)) (c.acc.setWidth 64))) s

/-! ## Execution (R212) -/

/-- A core after a command's effect on accumulators and scratchpad. -/
def matCore (K : Core) (c : MatCmd) : Core :=
  let A := bget K.accs c.acc
  match c.op with
  | .mclr => { K with accs := bset K.accs c.acc [] }
  | .mst _ => mstCore K c A
  | .mld => { K with accs := bset K.accs c.acc (portAcc K c false A) }
  | .mxaln => { K with accs := bset K.accs c.acc (portAcc K c true A) }
  | _ => { K with accs := bset K.accs c.acc (arrayAcc K c A) }

/-- Whether an earlier accepted command still holds a range of a command (R223, R282). -/
def cmdBlocked (K : Core) (seq : Nat) : Bool :=
  K.eng.board.any fun e => e.seq == seq &&
    K.eng.board.any fun b => b.seq < seq && (e.wr || b.wr) && b.lo < e.lo + e.len && e.lo < b.lo + b.len

/-- The oldest accepted command executes and its result is in place. -/
def execMatrixCommandExecute (core : Nat) (s : State) : Host.Outcome State Fault Refusal :=
  let K := coreOf s core
  match K.eng.matq with
  | [] => .next s
  | c :: q =>
    if cmdBlocked K c.seq then .next s
    else
      let gs := poisonGrans K c
      let K := matCore K c
      let s := setCore s core { K with eng := { K.eng with matq := q } }
      .next (unregister (reportGrans s core c gs) c.seq)

end Sys2Proof.Machine
end

