-- ==== Sys2Proof/Machine/Sampler.lean ====
section
/-!
DEFINITION. The sampler on a core: the execute-stream instructions `sreg`, `sqdraft`, `srun`, `scommit`
(R227 to R234), the sequencer (R254), and the Utgen instructions of logit programs (R235 to R240). The
root is in SamplerRoot.lean.
-/
namespace Sys2Proof.Machine
open Sys2Proof

/-! ## Reading records -/

/-- The outcome of a read that may cross pages, with the address that failed. -/
inductive SpanRes where
  | ok (s : State) (bs : List Byte)
  | fault (s : State) (f : FaultCode) (va : Word)
  | transit (s : State)

/-- `n` 8-byte units read one by one for a parcel. -/
def readUnits (s : State) (u : Who) (p : Nat) (va : Word) : Nat → SpanRes
  | 0 => .ok s []
  | n + 1 =>
    match readG s u p va 8 .read with
    | .transit s => .transit s
    | .fault s f => .fault s f va
    | .ok s bs =>
      match readUnits s u p (va + 8) n with
      | .ok s bs' => .ok s (bs ++ bs')
      | e => e

/-- The little-endian number of `n` bytes at an offset of a record. -/
def recNat (bs : List Byte) (o n : Nat) : Nat := leNat ((bs.drop o).take n)
/-- A 32-bit field of a record. -/
def rec32 (bs : List Byte) (o : Nat) : BitVec 32 := BitVec.ofNat 32 (recNat bs o 4)
/-- A 64-bit field of a record. -/
def rec64 (bs : List Byte) (o : Nat) : Word := BitVec.ofNat 64 (recNat bs o 8)

/-! ## `sreg` (R227, R228, R231) -/

/-- A descriptor from its bytes. -/
def smpDesc (bs : List Byte) : SmpDesc :=
  { seed := rec64 bs 0x00, vocab := recNat bs 0x08 4, slen := recNat bs 0x0C 4, prog := recNat bs 0x10 4,
    budget := recNat bs 0x14 4, fallback := recNat bs 0x18 4, forcetok := rec32 bs 0x1C,
    biasaddr := rec64 bs 0x20, biascnt := recNat bs 0x28 4, tag := rec32 bs 0x2C, maskaddr := rec64 bs 0x30,
    paramaddr := rec64 bs 0x38, resaddr := rec64 bs 0x40, resctr := rec64 bs 0x48, candaddr := rec64 bs 0x50 }

/-- The slice count S. -/
def SmpDesc.slices (d : SmpDesc) : Nat := (d.vocab + d.slen - 1) / d.slen
/-- The length of slice `s`. -/
def SmpDesc.sliceLen (d : SmpDesc) (s : Nat) : Nat := min d.slen (d.vocab - s * d.slen)

/-- The ranges of R227, for a launch with `cnt` logit programs. -/
def SmpDesc.ok (d : SmpDesc) (cnt : Nat) (bs : List Byte) : Bool :=
  1 ≤ d.vocab && d.vocab ≤ 2 ^ 20 && d.slen % 16 == 0 && 16 ≤ d.slen && d.slen ≤ 8192 && d.prog < cnt &&
    d.budget ≤ 65536 && d.fallback ≤ 2 && d.biasaddr.toNat % 8 == 0 && d.biascnt ≤ 256 &&
    d.maskaddr.toNat % 16 == 0 && d.paramaddr.toNat % 64 == 0 && d.resaddr.toNat % 32 == 0 && d.resaddr != 0 &&
    !isLocalShort d.resctr && hScope d.resctr != 0 && d.candaddr.toNat % 8 == 0 &&
    recNat bs 0x58 40 == 0 && d.slices ≤ 3072

/-- The slice record's checks of R231, with the parcel's vault partitions. -/
def sliceOk (s : State) (k : Core) (d : SmpDesc) (rs : List Byte) : Bool :=
  let sl := recNat rs 0x00 4
  let w0 := recNat rs 0x04 4
  let ws := recNat rs 0x08 4
  let ca := recNat rs 0x10 8
  let n := d.sliceLen sl
  let off := ca % 2 ^ 32
  sl < d.slices && recNat rs 0x0C 4 == 0 && recNat rs 0x18 8 == 0 && w0 % 16 == 0 && ws % 16 == 0 &&
    w0 + 4 * n ≤ lsize k && ws + 12 * n ≤ lsize k && addrOk 3 ca && sectExists (ca / 2 ^ 32) &&
    off + n ≤ 0x400000 && (List.range n).all fun i => partOwner s (ca / 2 ^ 32) (off + i) == runParcel k

/-- The slot of the same launch that holds a descriptor and slice. -/
def sameSlot (k : Core) (va : Word) (sl : Nat) : Option (Nat × Slot) :=
  k.eng.slots.find? fun x => x.2.own.launch == (runOwner k).launch && x.2.addr == va && x.2.slice == sl

/-- The lowest free slot. -/
def freeSlot (k : Core) : Option Nat := (List.range 16).find? fun i => (mget k.eng.slots i).isNone

/-- The refusal value of `sreg`. -/
def sregRefusal (n : Nat) : Word := BitVec.ofNat 64 (2 ^ 63 + n)

/-- A binding from both records. -/
def bindSlot (k : Core) (L : Launch) (va : Word) (d : SmpDesc) (rs : List Byte) (old : Option Slot) : Slot :=
  { own := runOwner k, addr := va, desc := d, slice := recNat rs 0 4, w0 := lbase k + recNat rs 4 4,
    ws := lbase k + recNat rs 8 4, countAddr := rec64 rs 0x10,
    logitAddr := L.desc.logitaddr + BitVec.ofNat 64 (2048 * d.prog),
    drafts := (old.map fun x => x.drafts).getD [], draftSet := (old.map fun x => x.draftSet).getD 0 }

/-- Whether any core holds a slot of a parcel's descriptor. -/
def slotHeld (s : State) (p : Nat) (va : Word) : Bool :=
  s.cores.any fun kc => kc.2.eng.slots.any fun x => x.2.own.parcel == p && x.2.addr == va

/-- What the root keeps of a descriptor's draft sets is dropped with the last slot that held it (R234, R253). -/
def dropDrafts (s : State) (p : Nat) (va : Word) : State :=
  if slotHeld s p va then s
  else { s with tree := { s.tree with drafts := s.tree.drafts.filter fun x => !(x.parcel == p && x.desc == va) } }

/-- What `sreg` binds and answers once both records are read and the handle is checked. -/
def sregBind (k : Core) (L : Option Launch) (s : State) (va : Word) (ds rs : List Byte) : Word × Core :=
  let d := smpDesc ds
  match L with
  | none => (sregRefusal 2, k)
  | some L =>
    if !d.ok L.desc.logitcnt ds then (sregRefusal 2, k)
    else if !sliceOk s k d rs then (sregRefusal 3, k)
    else
      match sameSlot k va (recNat rs 0 4) with
      | some (i, x) =>
        (BitVec.ofNat 64 i, { k with eng := { k.eng with slots := mset k.eng.slots i (bindSlot k L va d rs (some x)) } })
      | none =>
        match freeSlot k with
        | none => (sregRefusal 1, k)
        | some i =>
          (BitVec.ofNat 64 i, { k with eng := { k.eng with slots := mset k.eng.slots i (bindSlot k L va d rs none) } })

/-- `sreg`. -/
def sregBody (d a b : BitVec 5) (c : Nat) (s : State) : Eff :=
  let k := coreOf s c
  let va := sGet k a
  let off := sGet k b
  if va.toNat % 64 ≠ 0 then .trap s c .align va .read
  else if off.toNat % 16 ≠ 0 then .trap s c .align off .read
  else
    match readUnits s (.core c) (runParcel k) va 16 with
    | .transit s => .wait s .other
    | .fault s f x => .trap s c f x .read
    | .ok s ds =>
      if !inWindow k off 32 then .trap s c .bounds off .read
      else
        match localLoad k off 32 with
        | .blocked => .wait s .other
        | .poison => .trap s c .poison off .read
        | .ok rs =>
          let h := (smpDesc ds).resctr
          match if isLocalShort h || hScope h == 0 then none else checkRemote s h (runParcel k) .add with
          | some f => .trap s c f h .read
          | none =>
            let r := sregBind (coreOf s c) (launchOf s (runOwner k).launch) s va ds rs
            .ok (settleRetry (setCore (dropDrafts s (runParcel k) va) c (sSet r.2 d r.1)) (.core c) off)

/-! ## `sqdraft`, `srun`, `scommit` (R232 to R234) -/

/-- A slot that the running strand's launch has bound, by register value. -/
def slotOf (k : Core) (v : Word) : Option Slot :=
  if v.toNat < 16 then (mget k.eng.slots v.toNat).filter fun x => x.own.launch == (runOwner k).launch else none

/-! ### Draft sets (R234, R253) -/

/-- Whether a draft set is one of a descriptor. -/
def DraftRoot.isOf (x : DraftRoot) (p : Nat) (va : Word) : Bool := x.parcel == p && x.desc == va

/-- The newest set of a descriptor that a slice has joined. -/
def lastJoined (ds : List DraftRoot) (sl : Nat) : Option DraftRoot := (ds.filter fun x => x.joined.contains sl).getLast?

/-- The set that a slice's `sqdraft` fills: the one that it has joined, while it has issued no run of it; else the first
later one of which nothing has been decided; none where a new set begins (log 49). -/
def nextSet (ds : List DraftRoot) (sl : Nat) : Option DraftRoot :=
  match lastJoined ds sl with
  | none => ds.find? fun x => x.decided.isEmpty && !x.closed
  | some y =>
    if !y.used.contains sl then some y
    else ds.find? fun x => decide (y.set < x.set) && x.decided.isEmpty && !x.closed

/-- The draft sets with one of them replaced. -/
def setDraftRoot (s : State) (x : DraftRoot) : State :=
  { s with tree := { s.tree with drafts := s.tree.drafts.map fun y =>
      if (y.isOf x.parcel x.desc && y.set == x.set) then x else y } }

/-- A slice joins the draft set that its `sqdraft` fills: the set's number. A new set is not refused (R234), and takes the
place of those that have ended. -/
def joinSet (s : State) (p : Nat) (va : Word) (sl : Nat) : Nat × State :=
  let ds := s.tree.drafts.filter fun x => x.isOf p va
  match nextSet ds sl with
  | some x =>
    (x.set, setDraftRoot s { x with joined := if x.joined.contains sl then x.joined else x.joined ++ [sl] })
  | none =>
    let n := s.sched.nextSeq
    let x : DraftRoot :=
      { parcel := p, desc := va, set := n, joined := [sl], used := [], decided := [], refused := none, closed := false }
    (n, { s with sched := { s.sched with nextSeq := n + 1 },
                 tree := { s.tree with drafts := (s.tree.drafts.filter fun y => !(y.isOf p va && y.closed)) ++ [x] } })

/-- A slice has issued a run of a draft set. -/
def useSet (s : State) (p : Nat) (x : Slot) : State :=
  { s with tree := { s.tree with drafts := s.tree.drafts.map fun y =>
      if (y.isOf p x.addr && y.set == x.draftSet && !y.used.contains x.slice) then { y with used := y.used ++ [x.slice] }
      else y } }

/-- Draft position `j` of a record, its q slice at a physical offset. -/
def draftAt (k : Core) (bs : List Byte) (j : Nat) : Draft :=
  { tok := rec32 bs (0x08 + 16 * j), q := rec32 bs (0x0C + 16 * j), qoff := lbase k + recNat bs (0x10 + 16 * j) 4,
    qvalid := recNat bs (0x14 + 16 * j) 4 % 2 == 1 }

/-- `sqdraft`: a valid q slice outside the window faults as any local range does (R40). -/
def sqdraftBody (a b : BitVec 5) (c : Nat) (s : State) : Eff :=
  let k := coreOf s c
  let va := sGet k b
  match slotOf k (sGet k a) with
  | none => .trap s c .illegal 0 .read
  | some x =>
    if va.toNat % 8 ≠ 0 then .trap s c .align va .read
    else
      match readUnits s (.core c) (runParcel k) va 17 with
      | .transit s => .wait s .other
      | .fault s f y => .trap s c f y .read
      | .ok s bs =>
        let n := recNat bs 0 4
        let js := List.range n
        if n = 0 ∨ 8 < n ∨ recNat bs 4 4 ≠ 0 ∨ (List.range 8).any (fun j => 2 ≤ recNat bs (0x14 + 16 * j) 4) then
          .trap s c .illegal 0 .read
        else
          let len := 4 * x.desc.sliceLen x.slice
          match js.find? fun j => recNat bs (0x14 + 16 * j) 4 = 1 ∧ lsize k < recNat bs (0x10 + 16 * j) 4 + len with
          | some j => .trap s c .bounds (BitVec.ofNat 64 (recNat bs (0x10 + 16 * j) 4)) .read
          | none =>
            let (set, s) := joinSet s x.own.parcel x.addr x.slice
            let x := { x with drafts := js.map (draftAt k bs), draftSet := set }
            .ok (modCore s c fun k => { k with eng := { k.eng with slots := mset k.eng.slots (sGet k a).toNat x } })

/-- The scoreboard entries of a run (R254): `w0` and a check pass's valid q slice are read, the workspace is
written. -/
def runRanges (x : Slot) (pass seq : Nat) : List BoardEnt :=
  let n := x.desc.sliceLen x.slice
  let q : List BoardEnt :=
    match if pass = 0 then none else x.drafts[pass - 1]? with
    | some d => if d.qvalid then [{ seq := seq, lo := d.qoff, len := 4 * n, wr := false }] else []
    | none => []
  [{ seq := seq, lo := x.w0, len := 4 * n, wr := false }] ++ q ++ [{ seq := seq, lo := x.ws, len := 12 * n, wr := true }]

/-- `srun`. -/
def srunBody (a b : BitVec 5) (c : Nat) (s : State) : Eff :=
  let k := coreOf s c
  let w := sGet k b
  let pass := (w.extractLsb' 32 4).toNat
  match slotOf k (sGet k a) with
  | none => .trap s c .illegal 0 .read
  | some x =>
    if w.toNat / 2 ^ 36 ≠ 0 ∨ x.drafts.length < pass then .trap s c .illegal 0 .read
    else if 8 ≤ k.eng.smpq.length then .wait s .other
    else
      let (seq, s) := newSeq s
      let cmd : SmpCmd := .run (sGet k a).toNat x (w.extractLsb' 0 32) pass (runOwner k) seq
      .ok (modCore (useSet s x.own.parcel x) c fun k =>
        setIrv { k with eng := { k.eng with smpq := k.eng.smpq ++ [cmd], board := k.eng.board ++ runRanges x pass seq } })

/-- `scommit`. -/
def scommitBody (a b : BitVec 5) (c : Nat) (s : State) : Eff :=
  let k := coreOf s c
  let w := sGet k b
  match slotOf k (sGet k a) with
  | none => .trap s c .illegal 0 .read
  | some x =>
    if w.toNat / 2 ^ 33 ≠ 0 then .trap s c .illegal 0 .read
    else if 8 ≤ k.eng.smpq.length then .wait s .other
    else
      let cmd : SmpCmd := .commit (sGet k a).toNat x (w.extractLsb' 0 32) (w.getLsbD 32) (runOwner k)
      .ok (modCore s c fun k => setIrv { k with eng := { k.eng with smpq := k.eng.smpq ++ [cmd] } })

/-- `sreg` (R231). -/
def execSreg (h : Hdr) (d a b : BitVec 5) (s : State) : Host.Outcome State Fault Refusal :=
  xInst h (sregBody d a b) s
/-- `sqdraft` (R234). -/
def execSqdraft (h : Hdr) (a b : BitVec 5) (s : State) : Host.Outcome State Fault Refusal :=
  xInst h (sqdraftBody a b) s
/-- `srun` (R232). -/
def execSrun (h : Hdr) (a b : BitVec 5) (s : State) : Host.Outcome State Fault Refusal :=
  xInst h (srunBody a b) s
/-- `scommit` (R233). -/
def execScommit (h : Hdr) (a b : BitVec 5) (s : State) : Host.Outcome State Fault Refusal :=
  xInst h (scommitBody a b) s

/-! ## Runs -/

/-- Elements of a run's slice. -/
def Run.n (r : Run) : Nat := r.bind.desc.sliceLen r.bind.slice
/-- The first token of a run's slice. -/
def Run.tok0 (r : Run) : Nat := r.bind.slice * r.bind.desc.slen
/-- c of R236. -/
def Run.c (r : Run) : Nat := (r.n + 127) / 128
/-- The budget. -/
def Run.budget (r : Run) : Nat := if r.bind.desc.budget = 0 then 4096 else r.bind.desc.budget

/-- A run of a core replaced. -/
def setRun (s : State) (c : Nat) (r : Run) : State :=
  modCore s c fun k =>
    { k with eng := { k.eng with runs := k.eng.runs.map fun x => if x.seq = r.seq then r else x } }

/-- A run's part on a core ends: it leaves the sequencer and its ranges are released (R254). -/
def dropRun (s : State) (c : Nat) (r : Run) : State :=
  unregister (modCore s c fun k =>
    { k with eng := { k.eng with runs := k.eng.runs.filter fun x => x.seq != r.seq } }) r.seq

/-- `n` FP32 elements of the scratchpad, nothing when a byte is poisoned. -/
def elems32 (k : Core) (lo n : Nat) : Option (List Nat) :=
  if scratchPoison k lo (4 * n) then none
  else some ((List.range n).map fun i => leNat (memGetList k.scratch (lo + 4 * i) 4))

/-- A working vector of a run; `w0` is the slice. -/
def wGet (k : Core) (r : Run) (i : BitVec 2) : Option (List Nat) :=
  if i = 0#2 then elems32 k r.bind.w0 r.n else elems32 k (r.bind.ws + 4 * r.n * (i.toNat - 1)) r.n

/-- A working vector written. -/
def wSet (s : State) (c : Nat) (r : Run) (i : BitVec 2) (xs : List Nat) : State :=
  modCore s c fun k => scratchStore k (r.bind.ws + 4 * r.n * (i.toNat - 1)) (xs.flatMap (leBytes 4))

/-- `w0` as a fallback sees it: a poisoned element is no number. -/
def w0List (k : Core) (r : Run) : List (BitVec 32) :=
  (List.range r.n).map fun i =>
    if scratchPoison k (r.bind.w0 + 4 * i) 4 then BitVec.ofNat 32 (Fmt.nan .f32)
    else BitVec.ofNat 32 (leNat (memGetList k.scratch (r.bind.w0 + 4 * i) 4))

/-! ## Contributions to the tree (R238, R240, R248) -/

/-- The tree's entry for a run, new when there is none. -/
def treeEntry (s : State) (r : Run) : TreeRun :=
  (s.tree.runs.find? fun t => t.key == r.key).getD
    { key := r.key, bind := { r.bind with own := r.own }, sync := [], syncAt := none, released := false,
      ends := [], endAt := none, dup := false, cancelled := false }

/-- The tree's entry of a key set. -/
def setTree (s : State) (t : TreeRun) : State :=
  { s with tree := { s.tree with runs := (s.tree.runs.filter fun x => x.key != t.key) ++ [t] } }

/-- A contribution travels up the tree as a message; one that fails its check counts as a faulted one (R402, log 58). -/
def sendUpTree (s : State) (c p : Nat) (fault : Bool) : Bool × State :=
  let s := sent s (endpointOf (.core c)) p
  if s.mesh.fail = some .request ∨ s.mesh.fail = some .body then (true, meshSpent s) else (fault, s)

/-- A slice's contribution to the first phase. -/
def sendSync (s : State) (c : Nat) (r : Run) (mx : Nat) (fault : Bool) : State :=
  let (fault, s) := sendUpTree s c r.own.parcel fault
  let t := treeEntry s r
  let p : SyncPart :=
    { slice := r.bind.slice, max := BitVec.ofNat 32 mx, fault := fault, w0 := w0List (coreOf s c) r }
  setTree s { t with sync := t.sync ++ [p], syncAt := some (t.syncAt.getD s.cycle),
                     dup := t.dup || t.sync.any fun x => x.slice == r.bind.slice }

/-- The draft position a check pass checks. -/
def Run.draft (r : Run) : Option Draft := if r.key.pass = 0 then none else r.bind.drafts[r.key.pass - 1]?

/-- The q elements of a check pass: the q slice, or q_j at t_j and +0 elsewhere (R252); nothing when
poisoned. -/
def qList (k : Core) (r : Run) : Option (List Nat) :=
  match r.draft with
  | none => some []
  | some d =>
    if d.qvalid then elems32 k d.qoff r.n
    else some ((List.range r.n).map fun i => if r.tok0 + i = d.tok.toNat then d.q.toNat else 0)

/-- A slice's contribution to the end action. -/
def sendEnd (s : State) (c : Nat) (r : Run) (act : EndAct) (xs qs : List Nat) (fault : Bool) : State :=
  let (fault, s) := sendUpTree s c r.own.parcel fault
  let t := treeEntry s r
  let p : EndPart :=
    { slice := r.bind.slice, act := act, fault := fault, xs := xs.map (BitVec.ofNat 32),
      w0 := w0List (coreOf s c) r, draft := r.draft.map fun d => (d.tok, d.q), qs := qs.map (BitVec.ofNat 32) }
  setTree s { t with ends := t.ends ++ [p], endAt := some (t.endAt.getD s.cycle),
                     dup := t.dup || t.ends.any fun x => x.slice == r.bind.slice }

/-- A run traps or overruns: its flag goes up the tree and its part ends (R238, R239). -/
def runFault (s : State) (c : Nat) (r : Run) : State :=
  dropRun (if r.phase = 1 then sendSync s c r 0 true else sendEnd s c r .greedy [] [] true) c r

/-! ## Starting (R235, R254) -/

/-- Whether a run's hold is over, or there is none. -/
def Run.free (s : State) (r : Run) : Bool := (r.hold.map fun h => ticketReached s h.1).getD true

/-- A page is missing: the run waits for the pager; a miss on the entry the pager left unchanged traps
(R237, R307, log 12). -/
def holdRun (s : State) (c : Nat) (r : Run) (va : Word) : State :=
  let rt : Retry := { va := va, pte := some (missPte s (.core c) r.own.parcel va) }
  let s := missWalk s (.core c) r.own.parcel va
  if (r.hold.map fun h => h.2 == rt).getD false then runFault s c r
  else
    match pagerEntry s r.own.parcel c va r.own.rcd .sampler false with
    | some (t, s) => setRun s c { r with hold := some (t, rt) }
    | none => s

/-- The parameters read into `g0` to `g15` (R235). -/
def loadParams (s : State) (c : Nat) (r : Run) : State :=
  if r.bind.desc.paramaddr = 0 then setRun s c { r with st := .running }
  else
    match readUnits s (.core c) r.own.parcel r.bind.desc.paramaddr 8 with
    | .transit s => s
    | .fault s .xlate va => holdRun s c r va
    | .fault s _ _ => runFault s c r
    | .ok s bs =>
      setRun s c { r with st := .running, hold := none, g := Vector.ofFn fun i : Fin (2 ^ 4) => rec32 bs (4 * i.val) }

/-- A count byte's physical address (R228). -/
def countPa (x : Slot) (i : Nat) : Nat := vaultPa (x.countAddr.toNat / 2 ^ 32) (x.countAddr.toNat % 2 ^ 32 + i)

/-- The count update of `scommit` (R233, R250). -/
def countToken (s : State) (x : Slot) (tok : BitVec 32) : State :=
  let t0 := x.slice * x.desc.slen
  let i := tok.toNat - t0
  if tok.toNat < t0 ∨ x.desc.sliceLen x.slice ≤ i ∨ s.commit.revoked.contains x.desc.tag then s
  else
    let pa := countPa x i
    { s with phys := physPut s.phys pa (BitVec.ofNat 8 (min 255 ((physByte s.phys pa).toNat + 1))) }

/-- The oldest queued sampler command starts: a run when fewer than 4 are in progress, none of its slot, and no earlier
command's range keeps it back, those of a run that waits in the tree among them where they overlap its own (R254, R282,
log 19); a commit behind the runs of its slot (R233). -/
def execSamplerRunStart (core : Nat) (s : State) : Host.Outcome State Fault Refusal :=
  let k := coreOf s core
  let pop : Core := { k with eng := { k.eng with smpq := k.eng.smpq.tail } }
  let busy (i : Nat) : Bool := k.eng.runs.any fun r => r.slot == i
  match k.eng.smpq with
  | [] => .next s
  | .run i x pos pass own seq :: _ =>
    if 4 ≤ k.eng.runs.length || busy i || cmdBlocked k seq then .next s
    else
      let r : Run :=
        { slot := i, bind := x, key := { parcel := own.parcel, desc := x.addr, pos := pos, pass := pass }, pc := 0,
          g := bfill 4 0, phase := 1, charged := 0, st := .loading, own := own, seq := seq, hold := none }
      let s := setCore s core { pop with eng := { pop.eng with runs := pop.eng.runs ++ [r] } }
      .next (loadParams s core r)
  | .commit i x tok rel _ :: _ =>
    if busy i then .next s
    else
      let s := countToken (setCore s core pop) x tok
      .next (if rel then modCore s core fun k => { k with eng := { k.eng with slots := merase k.eng.slots i } } else s)

/-! ## Utgen (R235 to R240) -/

/-- The run whose instruction the sequencer executes next: the oldest that is running and not held. -/
def curRun (s : State) (c : Nat) : Option Run :=
  (coreOf s c).eng.runs.find? fun r => r.st == .running && r.free s

/-- What a Utgen instruction answers. -/
inductive UtRes where
  /-- Carried out; the PC moves by an offset in words. -/
  | ok (s : State) (g : Bank (BitVec 32) 4) (off : Int)
  | trap
  /-- It traps after an access that an endpoint has logged. -/
  | trapped (s : State)
  | miss (va : Word)
  | wait (s : State)
  /-- `lsync`: the slice's maximum. -/
  | sync (mx : Nat)
  /-- An end action over a register's elements. -/
  | fin (act : EndAct) (xs : List Nat)

/-- A PC moved by words; anything left of word 0 is out of range too. -/
def pcPlus (pc : Nat) (off : Int) : Nat := if (pc : Int) + off < 0 then 256 else ((pc : Int) + off).toNat

/-- The end action of a run: in phase 1 it traps (R239). -/
def endRun (s : State) (c : Nat) (r : Run) (act : EndAct) (xs : List Nat) : State :=
  if r.phase = 1 then runFault s c r
  else
    match qList (coreOf s c) r with
    | none => runFault s c r
    | some qs => dropRun (sendEnd s c r act xs qs false) c r

/-- A UTGEN INSTRUCTION by the sequencer whose turn it is: the budget check, then its effect (R239). -/
def utInst (cost : Run → Nat) (f : State → Nat → Run → UtRes) (s : State) : Host.Outcome State Fault Refusal :=
  let c := s.me
  match curRun s c with
  | none => .next s
  | some r =>
    if r.budget < r.charged + cost r then .next (runFault s c r)
    else
      let r' := { r with charged := r.charged + cost r, hold := none }
      match f s c r with
      | .ok s g off => .next (setRun s c { r' with g := g, pc := pcPlus r.pc off })
      | .trap => .next (runFault s c r)
      | .trapped s => .next (runFault s c r)
      | .miss va => .next (holdRun s c r va)
      | .wait s => .next s
      | .sync mx =>
        if r.phase = 1 then .next (setRun (sendSync s c r mx false) c { r' with st := .atSync, pc := r.pc + 1 })
        else .next (runFault s c r)
      | .fin act xs => .next (endRun s c r act xs)

/-- A scalar Utgen instruction. -/
def utScalar (d : BitVec 4) (f : Run → BitVec 32) (s : State) : Host.Outcome State Fault Refusal :=
  utInst (fun _ => 1) (fun s _ r => .ok s (bset r.g d (f r)) 1) s

/-- An FP32 operation of the sampler's unit, flags dropped. -/
def fOp (f : Nat → Nat → FpRes) (a b : BitVec 32) : BitVec 32 := BitVec.ofNat 32 (f a.toNat b.toNat).1

/-- A slice instruction: the source vector to the destination; a `w0` destination traps (R239). -/
def utSlice (cost : Run → Nat) (d a : BitVec 2) (f : State → Run → List Nat → Option (List Nat)) (s : State) :
    Host.Outcome State Fault Refusal :=
  utInst cost (fun s c r =>
    if d = 0#2 then .trap
    else
      match wGet (coreOf s c) r a with
      | none => .trap
      | some xs =>
        match f s r xs with
        | none => .trap
        | some ys => .ok (wSet s c r d ys) r.g 1) s

/-- A `g` register as a number. -/
def gNat (r : Run) (i : BitVec 4) : Nat := (bget r.g i).toNat
/-- A positive finite value after the input flush. -/
def posFin (x : Nat) : Bool :=
  match operand .f32 true x with
  | .fin false m _ => m != 0
  | _ => false

/-- FP32 arithmetic with the vector flush. -/
def vAdd (a b : Nat) : Nat := (fpAdd .f32 true a b).1
def vSub (a b : Nat) : Nat := (fpSub .f32 true a b).1
def vMul (a b : Nat) : Nat := (fpMul .f32 true a b).1
def vDiv (a b : Nat) : Nat := (fpDiv .f32 true a b).1
/-- −∞. -/
abbrev negInf : Nat := 0xFF800000

/-- The count bytes of a run's slice, nothing when poisoned. -/
def countList (s : State) (r : Run) : Option (List Nat) :=
  if anyPoison s.phys (countPa r.bind 0) r.n then none
  else some ((physBytes s.phys (countPa r.bind 0) r.n).map fun b => b.toNat)

/-- `lmov` (R237). -/
def execLmov (d a : BitVec 4) (s : State) : Host.Outcome State Fault Refusal := utScalar d (fun r => bget r.g a) s

/-- `lkc`: the pool word follows the program's 256 words (R78, R235). -/
def execLkc (d im : BitVec 4) (s : State) : Host.Outcome State Fault Refusal :=
  utInst (fun _ => 1) (fun s c r =>
    let va := r.bind.logitAddr + BitVec.ofNat 64 (1024 + 4 * im.toNat)
    match readG s (.core c) r.own.parcel va 4 .read with
    | .transit s => .wait s
    | .fault _ .xlate => .miss va
    | .fault s _ => .trapped s
    | .ok s bs => .ok s (bset r.g d (rec32 bs 0)) 1) s

/-- `ladd` (R237). -/
def execLadd (d a b : BitVec 4) (s : State) : Host.Outcome State Fault Refusal :=
  utScalar d (fun r => fOp (fpAdd .f32 true) (bget r.g a) (bget r.g b)) s
/-- `lsub` (R237). -/
def execLsub (d a b : BitVec 4) (s : State) : Host.Outcome State Fault Refusal :=
  utScalar d (fun r => fOp (fpSub .f32 true) (bget r.g a) (bget r.g b)) s
/-- `lmul` (R237). -/
def execLmul (d a b : BitVec 4) (s : State) : Host.Outcome State Fault Refusal :=
  utScalar d (fun r => fOp (fpMul .f32 true) (bget r.g a) (bget r.g b)) s
/-- `lmin` (R237). -/
def execLmin (d a b : BitVec 4) (s : State) : Host.Outcome State Fault Refusal :=
  utScalar d (fun r => fOp (fpMinMax .f32 true false) (bget r.g a) (bget r.g b)) s
/-- `lmax` (R237). -/
def execLmax (d a b : BitVec 4) (s : State) : Host.Outcome State Fault Refusal :=
  utScalar d (fun r => fOp (fpMinMax .f32 true true) (bget r.g a) (bget r.g b)) s

/-- `lscale` (R237). -/
def execLscale (d a : BitVec 2) (b : BitVec 4) (s : State) : Host.Outcome State Fault Refusal :=
  utSlice Run.c d a (fun _ r xs => some (xs.map fun x => vMul x (gNat r b))) s
/-- `lshift` (R237). -/
def execLshift (d a : BitVec 2) (b : BitVec 4) (s : State) : Host.Outcome State Fault Refusal :=
  utSlice Run.c d a (fun _ r xs => some (xs.map fun x => vAdd x (gNat r b))) s
/-- `ltemp` (R237). -/
def execLtemp (d a : BitVec 2) (b : BitVec 4) (s : State) : Host.Outcome State Fault Refusal :=
  utSlice (fun r => 4 * r.c) d a (fun _ r xs =>
    if posFin (gNat r b) then some (xs.map fun x => vDiv x (gNat r b)) else none) s
/-- `lcap` (R237). -/
def execLcap (d a : BitVec 2) (b : BitVec 4) (s : State) : Host.Outcome State Fault Refusal :=
  utSlice (fun r => 12 * r.c) d a (fun _ r xs =>
    let g := gNat r b
    let rc := (fpRcp .f32 true g).1
    if posFin g then some (xs.map fun x => vMul g (tanht (vMul x rc)).1) else none) s

/-- What a walk of a table in global memory answers. -/
inductive TableRes where
  | ok (s : State) (xs : List Nat)
  | wait (s : State)
  | miss (va : Word)
  | trap (s : State)

/-- The bias list applied in order from entry `e` (R237). -/
def biasGo (s : State) (c : Nat) (r : Run) (e : Nat) : Nat → List Nat → TableRes
  | 0, xs => .ok s xs
  | n + 1, xs =>
    let va := r.bind.desc.biasaddr + BitVec.ofNat 64 (8 * e)
    match readG s (.core c) r.own.parcel va 8 .read with
    | .transit s => .wait s
    | .fault _ .xlate => .miss va
    | .fault s _ => .trap s
    | .ok s bs =>
      let t := recNat bs 0 4
      let i := t - r.tok0
      let xs := if r.tok0 ≤ t ∧ i < r.n then xs.set i (vAdd (xs.getD i 0) (recNat bs 4 4)) else xs
      biasGo s c r (e + 1) n xs

/-- A table instruction's answer from a walk of its table. -/
def tableRes (c : Nat) (d : BitVec 2) (r : Run) (e : TableRes) : UtRes :=
  match e with
  | .ok s ys => .ok (wSet s c r d ys) r.g 1
  | .wait s => .wait s
  | .miss va => .miss va
  | .trap s => .trapped s

/-- A table instruction. -/
def utTable (cost : Run → Nat) (d a : BitVec 2)
    (f : State → Nat → Run → List Nat → TableRes) (s : State) :
    Host.Outcome State Fault Refusal :=
  utInst cost (fun s c r =>
    if d = 0#2 then .trap
    else
      match wGet (coreOf s c) r a with
      | none => .trap
      | some xs => tableRes c d r (f s c r xs)) s

/-- `lbias` (R237). -/
def execLbias (d a : BitVec 2) (s : State) : Host.Outcome State Fault Refusal :=
  utTable (fun r => 4 + r.bind.desc.biascnt) d a (fun s c r xs => biasGo s c r 0 r.bind.desc.biascnt xs) s

/-- `lrep` (R237). -/
def execLrep (d a : BitVec 2) (b : BitVec 4) (s : State) : Host.Outcome State Fault Refusal :=
  utSlice (fun r => 2 * r.c) d a (fun s r xs =>
    let g := gNat r b
    if !posFin g then none
    else
      (countList s r).map fun cs => (xs.zip cs).map fun p =>
        if p.2 = 0 then p.1
        else if (fpCmp .f32 true 2#3 0 p.1).1 then vDiv p.1 g else vMul p.1 g) s

/-- `lfreq` (R237). -/
def execLfreq (d a : BitVec 2) (b c : BitVec 4) (s : State) : Host.Outcome State Fault Refusal :=
  utSlice (fun r => 2 * r.c) d a (fun s r xs =>
    (countList s r).map fun cs => (xs.zip cs).map fun p =>
      vSub (vSub p.1 (vMul (intToFp .f32 true .rne p.2).1 (gNat r b))) (if 0 < p.2 then gNat r c else 0)) s

/-- The mask applied from element `i` (R237): byte ⌊t / 8⌋, bit t mod 8. -/
def maskGo (s : State) (c : Nat) (r : Run) (i : Nat) : List Nat → TableRes
  | [] => .ok s []
  | x :: xs =>
    let t := r.tok0 + i
    let va := r.bind.desc.maskaddr + BitVec.ofNat 64 (t / 8)
    match readG s (.core c) r.own.parcel va 1 .read with
    | .transit s => .wait s
    | .fault _ .xlate => .miss va
    | .fault s _ => .trap s
    | .ok s bs =>
      match maskGo s c r (i + 1) xs with
      | .ok s ys => .ok s ((if leNat bs / 2 ^ (t % 8) % 2 = 1 then x else negInf) :: ys)
      | e => e

/-- `lmask` (R237). -/
def execLmask (d a : BitVec 2) (s : State) : Host.Outcome State Fault Refusal :=
  utTable Run.c d a (fun s c r xs => if r.bind.desc.maskaddr = 0 then .ok s xs else maskGo s c r 0 xs) s

/-- `lban` (R237). -/
def execLban (d a : BitVec 2) (b : BitVec 4) (s : State) : Host.Outcome State Fault Refusal :=
  utSlice (fun _ => 2) d a (fun _ r xs =>
    let t := gNat r b
    some (if r.tok0 ≤ t ∧ t - r.tok0 < r.n then xs.set (t - r.tok0) negInf else xs)) s

/-- `lminp` (R237). -/
def execLminp (d a : BitVec 2) (b : BitVec 4) (s : State) : Host.Outcome State Fault Refusal :=
  utSlice Run.c d a (fun _ r xs =>
    if r.phase = 1 then none
    else
      let th := vAdd (gNat r 15) (gNat r b)
      some (xs.map fun x => if (fpCmp .f32 true 1#3 x th).1 then negInf else x)) s

/-- An instruction that names a register and ends or synchronises. -/
def utReg (a : BitVec 2) (f : Run → List Nat → UtRes) (s : State) : Host.Outcome State Fault Refusal :=
  utInst (fun _ => 1) (fun s c r =>
    match wGet (coreOf s c) r a with
    | none => .trap
    | some xs => f r xs) s

/-- `ltopk`: without a candidate buffer it traps (R239, R247). -/
def execLtopk (a : BitVec 2) (k : BitVec 7) (s : State) : Host.Outcome State Fault Refusal :=
  utReg a (fun r xs => if r.bind.desc.candaddr = 0 then .trap else .fin (.topk k.toNat) xs) s

/-- A branch of a logit program. -/
def utBranch (p : BitVec 32 → Bool) (a : BitVec 4) (off : BitVec 15) (s : State) :
    Host.Outcome State Fault Refusal :=
  utInst (fun _ => 1) (fun s _ r => .ok s r.g (if p (bget r.g a) then off.toInt else 1)) s

/-- `lbr` (R236). -/
def execLbr (a _b : BitVec 4) (off : BitVec 15) (s : State) : Host.Outcome State Fault Refusal :=
  utBranch (fun _ => true) a off s
/-- `lbr ga`: taken when the raw bits are not 0 (R236). -/
def execLbrNz (a _b : BitVec 4) (off : BitVec 15) (s : State) : Host.Outcome State Fault Refusal :=
  utBranch (fun x => x != 0) a off s
/-- `lbr.z ga` (R236). -/
def execLbrZ (a _b : BitVec 4) (off : BitVec 15) (s : State) : Host.Outcome State Fault Refusal :=
  utBranch (fun x => x == 0) a off s

/-- `lsync`: a second one traps (R238). -/
def execLsync (a : BitVec 2) (s : State) : Host.Outcome State Fault Refusal :=
  utReg a (fun _ xs => .sync (treeMinMax .f32 true xs).1) s
/-- `lend.s` (R240). -/
def execLendS (a : BitVec 2) (s : State) : Host.Outcome State Fault Refusal :=
  utReg a (fun _ xs => .fin .sample xs) s
/-- `lend.g` (R240). -/
def execLendG (a : BitVec 2) (s : State) : Host.Outcome State Fault Refusal :=
  utReg a (fun _ xs => .fin .greedy xs) s
/-- `lend.f` (R240). -/
def execLendF (a : BitVec 4) (s : State) : Host.Outcome State Fault Refusal :=
  utInst (fun _ => 1) (fun _ _ r => .fin (.force (bget r.g a)) []) s

/-! ## Fetching a program word (R235, R239) -/

/-- The word at a run's PC. -/
inductive UtFetch where
  | word (s : State) (w : BitVec 32)
  | trap (s : State)
  | miss (va : Word)
  | wait (s : State)

/-- The program word at a run's PC, read for its parcel. -/
def utFetch (s : State) (c : Nat) (r : Run) : UtFetch :=
  let va := r.bind.logitAddr + BitVec.ofNat 64 (4 * r.pc)
  if 255 < r.pc then .trap s
  else
    match readG s (.core c) r.own.parcel va 4 .read with
    | .transit s => .wait s
    | .fault _ .xlate => .miss va
    | .fault s _ => .trap s
    | .ok s bs => .word s (rec32 bs 0)

/-- Fields of a Utgen word (R236). -/
def utOp (w : BitVec 32) : Nat := (w.extractLsb' 27 5).toNat
def utD (w : BitVec 32) : Nat := (w.extractLsb' 23 4).toNat
def utA (w : BitVec 32) : Nat := (w.extractLsb' 19 4).toNat
def utB (w : BitVec 32) : Nat := (w.extractLsb' 15 4).toNat
def utX (w : BitVec 32) : Nat := (w.extractLsb' 0 15).toNat

/-- Whether a word is a legal Utgen word: its opcode, its must-be-zero fields, its `w` operands (R236). -/
def utLegal (w : BitVec 32) : Bool :=
  let d := utD w
  let a := utA w
  let b := utB w
  let x := utX w
  match utOp w with
  | 1 => b == 0 && x == 0
  | 2 => a == 0 && b == 0 && x < 16
  | 3 => x == 0 | 4 => x == 0 | 5 => x == 0 | 6 => x == 0 | 7 => x == 0
  | 8 => d < 4 && a < 4 && x == 0 | 9 => d < 4 && a < 4 && x == 0 | 10 => d < 4 && a < 4 && x == 0
  | 11 => d < 4 && a < 4 && x == 0
  | 12 => d < 4 && a < 4 && b == 0 && x == 0
  | 13 => d < 4 && a < 4 && x == 0
  | 14 => d < 4 && a < 4 && x < 16
  | 15 => d < 4 && a < 4 && b == 0 && x == 0
  | 16 => d < 4 && a < 4 && x == 0 | 17 => d < 4 && a < 4 && x == 0
  | 18 => d == 0 && a < 4 && b == 0 && 1 ≤ x && x ≤ 64
  | 19 => d < 3
  | 20 => d == 0 && a < 4 && b == 0 && x == 0 | 21 => d == 0 && a < 4 && b == 0 && x == 0
  | 22 => d == 0 && a < 4 && b == 0 && x == 0
  | 23 => d == 0 && b == 0 && x == 0
  | _ => false

/-- The cost of a word in a run (R236). -/
def utCost (r : Run) (w : BitVec 32) : Nat :=
  match utOp w with
  | 8 => r.c | 9 => r.c | 10 => 4 * r.c | 11 => 12 * r.c | 12 => 4 + r.bind.desc.biascnt
  | 13 => 2 * r.c | 14 => 2 * r.c | 15 => r.c | 16 => 2 | 17 => r.c | _ => 1

/-- The next word of a run in progress acted on by a check: it traps or overruns when the check says so. -/
def runCheck (core run : Nat) (bad : Run → BitVec 32 → Bool) (s : State) : Host.Outcome State Fault Refusal :=
  match (coreOf s core).eng.runs[run]? with
  | none => .next s
  | some r =>
    if r.st ≠ .running || !r.free s then .next s
    else
      match utFetch s core r with
      | .word s' w => if bad r w then .next (runFault s' core r) else .next s
      | _ => .next s

/-- The next instruction would exceed the budget: the run overruns (R239). -/
def execSamplerRunOverrun (core run : Nat) (s : State) : Host.Outcome State Fault Refusal :=
  runCheck core run (fun r w => utLegal w && r.budget < r.charged + utCost r w) s
/-- The next word is illegal: the run traps (R239). -/
def execUtgenIllegalWord (core run : Nat) (s : State) : Host.Outcome State Fault Refusal :=
  runCheck core run (fun _ w => !utLegal w) s

end Sys2Proof.Machine
end

