-- ==== Sys2Proof/Machine/SamplerRoot.lean ====
section
/-!
DEFINITION. The sampler tree and root (R238 to R253): the global maximum, the end actions, the draw, the
fallbacks, speculative checks, the result entry, and the timeout.
-/
namespace Sys2Proof.Machine
open Sys2Proof

/-! ## Ending a run (R249, R250) -/

/-- What the root writes for a run. -/
structure SmpResult where
  tok : Nat
  status : Nat
  outcome : Nat
  z : Nat
  lp : Nat
  cands : List (Nat × Nat)

/-- No token: status and outcome only. -/
def noToken (status outcome : Nat) : SmpResult :=
  { tok := 0xFFFFFFFF, status := status, outcome := outcome, z := Fmt.nan .f32, lp := Fmt.nan .f32, cands := [] }
/-- A token that was not drawn. -/
def plainToken (tok status outcome : Nat) : SmpResult := { noToken status outcome with tok := tok }

/-- The runs of a key end on every core that still waits in them. -/
def endEverywhere (s : State) (key : RunKey) : State :=
  s.cores.foldl (fun s kc =>
    (kc.2.eng.runs.filter fun r => r.key == key).foldl (fun s r => dropRun s kc.1 r) s) s

/-- The progress of a run's draft set. -/
def draftRoot (s : State) (t : TreeRun) : DraftRoot :=
  (s.tree.drafts.find? fun x => x.isOf t.key.parcel t.key.desc && x.set == t.bind.draftSet).getD
    { parcel := t.key.parcel, desc := t.key.desc, set := t.bind.draftSet, joined := [], used := [], decided := [],
      refused := none, closed := false }

/-- A run that has ended, however it did, is decided for its draft set (R253): a check pass by its position, the ordinary
run as the set's last. -/
def noteDecided (s : State) (t : TreeRun) (refusal : Bool) : State :=
  if t.bind.drafts.isEmpty then s
  else
    let x := draftRoot s t
    if t.key.pass = 0 then setDraftRoot s { x with closed := true }
    else setDraftRoot s { x with decided := t.key.pass :: x.decided,
                                 refused := if refusal then some t.key.pass else x.refused }

/-- The result entry, the candidates and the `RESCTR` add of a run (R249); a revoked tag ends it REVOKED
(R250). `refusal` says that a check pass was refused. -/
def rootFinish (s : State) (t : TreeRun) (r : SmpResult) (refusal : Bool) : State :=
  let d := t.bind.desc
  let s := noteDecided s t refusal
  let r := if s.commit.revoked.contains d.tag then noToken 0x16 7 else r
  let p := t.key.parcel
  let bs := leBytes 4 r.tok ++ leBytes 1 r.status ++ leBytes 1 r.outcome ++ leBytes 2 r.cands.length ++
    leBytes 4 t.key.pos.toNat ++ leBytes 4 r.z ++ leBytes 4 r.lp ++ leBytes 12 0
  let s := devWrite s p (d.resaddr + BitVec.ofNat 64 (32 * t.key.pass)) bs
  let s := (r.cands.zipIdx).foldl (fun s x =>
    devWrite s p (d.candaddr + BitVec.ofNat 64 (8 * x.2)) (leBytes 4 x.1.1 ++ leBytes 4 x.1.2)) s
  let s := { s with tree := { s.tree with runs := s.tree.runs.filter fun x => x.key != t.key } }
  completionAdd (endEverywhere s t.key) t.bind.own 0xFFFF d.resctr

/-! ## Values over all slices -/

/-- A slice's part of a phase. -/
def endOf (t : TreeRun) (sl : Nat) : Option EndPart := t.ends.find? fun e => e.slice == sl

/-- The elements of the named register over all slices, in token order. -/
def allElems (f : Nat → Option (List (BitVec 32))) (n : Nat) : List Nat :=
  (List.range n).flatMap fun sl => ((f sl).getD []).map fun x => x.toNat

/-- The argmax over all slices: the lowest token on ties, none without a number (R103, R246). -/
def rootArgmax (xs : List Nat) : Option Nat :=
  let r := (argmax .f32 (xs.map some)).1
  if r = 0xFFFFFFFF then none else some r

/-- The fallback of a faulted sequence, over every slice's `w0` (R246). -/
def fallback (d : SmpDesc) (w0 : List Nat) : SmpResult :=
  match d.fallback with
  | 0 => match rootArgmax w0 with
    | some t => plainToken t 0x15 1
    | none => noToken 0x15 7
  | 1 => if d.forcetok.toNat < d.vocab then plainToken d.forcetok.toNat 0x15 2 else noToken 0x15 7
  | _ => noToken 0x15 7

/-! ## The tree of R243 and the traverse of R245 -/

/-- The sum of `2^k` leaves. -/
def nodeSum (k : Nat) (xs : List Nat) : Nat := (treeGo (fpAdd .f32 true) k xs).1.headD 0

/-- Whether one FP32 number is below another. -/
def fLt (a b : Nat) : Bool := (fpCmp .f32 true 1#3 a b).1

/-- The descent through one level's tree of `2^k` leaves: the leaf, what is left of r, and `last`. -/
def walkDown : Nat → List Nat → Nat → Bool → Nat × Nat × Bool
  | 0, _, r, last => (0, r, last)
  | k + 1, xs, r, last =>
    let l := xs.take (2 ^ k)
    let h := xs.drop (2 ^ k)
    let L := nodeSum k l
    let R := nodeSum k h
    let right (r : Nat) (b : Bool) : Nat × Nat × Bool :=
      let w := walkDown k h r b
      (2 ^ k + w.1, w.2.1, w.2.2)
    if last then (if fLt 0 R then right r true else walkDown k l r true)
    else if fLt r L then walkDown k l r false
    else if fLt 0 R then right (vSub r L) false
    else walkDown k l r true

/-- The masses of a draw: one list of element weights per slice. -/
abbrev Masses := List (List Nat)

/-- A slice's mass. -/
def sliceMass (w : Masses) (sl : Nat) : Nat := (treeSum .f32 (w.getD sl [])).1
/-- A section node. -/
def sectMass (w : Masses) (h : Nat) : Nat := (treeSum .f32 ((List.range 16).map fun i => sliceMass w (16 * h + i))).1
/-- A die node. -/
def dieMass (w : Masses) (q : Nat) : Nat := (treeSum .f32 ((List.range 48).map fun i => sectMass w (48 * q + i))).1
/-- The root: Z. -/
def rootMass (w : Masses) : Nat := (treeSum .f32 ((List.range 4).map (dieMass w))).1

/-- The element the traverse ends on: slice and index (R245). -/
def traverse (w : Masses) (u : Nat) : Nat × Nat :=
  let a := walkDown 2 ((List.range 4).map (dieMass w)) u false
  let b := walkDown 6 (padTo 6 0 ((List.range 48).map fun i => sectMass w (48 * a.1 + i))) a.2.1 a.2.2
  let h := 48 * a.1 + b.1
  let c := walkDown 4 ((List.range 16).map fun i => sliceMass w (16 * h + i)) b.2.1 b.2.2
  let sl := 16 * h + c.1
  let es := (w.getD sl []).map (flushIn .f32)
  let k := log2Up es.length
  let e := walkDown k (padTo k 0 es) c.2.1 c.2.2
  (sl, e.1)

/-- b of R244: bits [31:8] of lane 0 of the block for a purpose. -/
def drawBits (d : SmpDesc) (pos : BitVec 32) (purpose : BitVec 32) : Nat :=
  ((philox pos 0 purpose 0 (d.seed.extractLsb' 0 32) (d.seed.extractLsb' 32 32)).extractLsb' 8 24).toNat

/-- U of R244 for a total. -/
def drawU (b z : Nat) : Nat :=
  match unpack .f32 z with
  | .fin _ m e => roundTo .f32 false false ((2 * b + 1) * m) (e - 25)
  | _ => 0

/-! ## Sampling (R241, R242, R247, R251, R252) -/

/-- What R241 forms: the scaled elements and weights per slice, and Z. -/
structure Formed where
  xs : Masses
  ws : Masses
  z : Nat

/-- Steps 1 to 4 of R241; nothing when the sequence faults. -/
def formed (t : TreeRun) : Option Formed :=
  let n := t.bind.desc.slices
  let X : Masses := (List.range n).map fun sl => ((endOf t sl).map fun e => e.xs.map fun x => x.toNat).getD []
  let m := (treeMinMax .f32 true X.flatten).1
  let bad (x : Nat) : Bool := (unpack .f32 x).isNan || x == Fmt.inf .f32
  if X.flatten.any bad || m == negInf || (unpack .f32 m).isNan then none
  else
    let xs := X.map fun l => l.map fun x => vMul (vSub x m) cLOG2E
    let ws := xs.map fun l => l.map fun x => (exp2t x).1
    some { xs := xs, ws := ws, z := rootMass ws }

/-- The log2 probability of an element (R242). -/
def Formed.lp (f : Formed) (sl i : Nat) : Nat := vSub ((f.xs.getD sl []).getD i 0) (log2t f.z).1

/-- A drawn element as a result. -/
def Formed.result (f : Formed) (d : SmpDesc) (outcome : Nat) (p : Nat × Nat) : SmpResult :=
  { tok := p.1 * d.slen + p.2, status := 0, outcome := outcome, z := f.z, lp := f.lp p.1 p.2, cands := [] }

/-- An ordinary step's draw. -/
def drawStep (t : TreeRun) (f : Formed) : SmpResult :=
  f.result t.bind.desc 0 (traverse f.ws (drawU (drawBits t.bind.desc t.key.pos 0) f.z))

/-- Insertion into a list in descending order, earlier elements first on ties (R247). -/
def insertDesc (x : Nat × Nat) : List (Nat × Nat) → List (Nat × Nat)
  | [] => [x]
  | y :: ys =>
    if ltTot (unpack .f32 y.2) (unpack .f32 x.2) then x :: y :: ys else y :: insertDesc x ys

/-- Candidate mode (R247). -/
def topk (f : Formed) (k : Nat) : SmpResult :=
  let all := f.xs.flatten
  let fin := (all.zipIdx.map fun p => (p.2, p.1)).filter fun p => p.2 != negInf
  let best := (fin.foldl (fun l x => insertDesc x l) []).take k
  let cs := best.map fun p => (p.1, vSub p.2 (log2t f.z).1)
  let head := cs.headD (0xFFFFFFFF, Fmt.nan .f32)
  { tok := head.1, status := 0, outcome := 3, z := f.z, lp := head.2, cands := cs }

/-- Whether a draft probability faults its pass: NaN, negative or above 1 (R251). -/
def badQ (q : Nat) : Bool :=
  match unpack .f32 q with
  | .fin neg m e => (neg && m != 0) || ltVal (.fin false 1 0) (.fin neg m e)
  | _ => true

/-- The exact comparison (2b + 1) × q < p × 2^25 (R251). -/
def accepts (b q p : Nat) : Bool :=
  match unpack .f32 q, unpack .f32 p with
  | .fin _ mq eq_, .fin _ mp ep => ltVal (.fin false ((2 * b + 1) * mq) eq_) (.fin false mp (ep + 25))
  | _, _ => false

/-- The residual of a refusal (R252). -/
def residual (t : TreeRun) (f : Formed) : Masses :=
  f.ws.zipIdx.map fun p =>
    let qs := ((endOf t p.2).map fun e => e.qs.map fun x => x.toNat).getD []
    p.1.zipIdx.map fun w => (fpMinMax .f32 true true 0 (vSub (vDiv w.1 f.z) (qs.getD w.2 0))).1

/-- The draft of a check pass: the one its own slice gives, or the lowest slice's when no slice holds it. -/
def draftOf (t : TreeRun) : Option (BitVec 32 × BitVec 32) :=
  let ds := t.ends.filterMap fun e => e.draft.map fun d => (e.slice, d)
  match ds.find? fun d => d.2.1.toNat / t.bind.desc.slen = d.1 with
  | some d => some d.2
  | none => (ds.head?).map fun d => d.2

/-- A check pass decided: accepted, resampled, or a fault of the pass; true when refused (R251, R252). -/
def checkPass (t : TreeRun) (f : Formed) : Option (SmpResult × Bool) :=
  match draftOf t with
  | none => none
  | some (tok, q) =>
    let d := t.bind.desc
    let sl := tok.toNat / d.slen
    let i := tok.toNat % d.slen
    if badQ q.toNat then none
    else if accepts (drawBits d t.key.pos 1) q.toNat (vDiv ((f.ws.getD sl []).getD i 0) f.z) then
      some (f.result d 4 (sl, i), false)
    else
      let rs := residual t f
      let total := rootMass rs
      let b := drawBits d t.key.pos 2
      if fLt 0 total then some (f.result d 5 (traverse rs (drawU b total)), true)
      else some (f.result d 5 (traverse f.ws (drawU b f.z)), true)

/-! ## The root's decision (R240, R246, R253) -/

/-- Every slice's `w0` in token order, from the contributions to the end action. -/
def endW0 (t : TreeRun) : List Nat := allElems (fun sl => (endOf t sl).map fun e => e.w0) t.bind.desc.slices

/-- Decides a run whose contributions are all in: the result, and whether a check pass was refused. -/
def decideRun (t : TreeRun) : SmpResult × Bool :=
  let d := t.bind.desc
  let fb : SmpResult := fallback d (endW0 t)
  match t.ends with
  | [] => (fb, false)
  | e :: _ =>
    if t.ends.any (fun x => x.fault || x.act != e.act) then (fb, false)
    else
      match e.act with
      | .force tok => (if tok.toNat < d.vocab then plainToken tok.toNat 0 2 else fb, false)
      | .greedy =>
        match rootArgmax (allElems (fun sl => (endOf t sl).map fun x => x.xs) d.slices) with
        | some tk => (plainToken tk 0 1, false)
        | none => (fb, false)
      | .topk k =>
        match formed t with
        | some f => (topk f k, false)
        | none => (fb, false)
      | .sample =>
        match formed t with
        | none => (fb, false)
        | some f => if t.key.pass = 0 then (drawStep t f, false) else (checkPass t f).getD (fb, false)

/-- Whether a run of a draft set must wait for the set's earlier runs (R253, R376): a check pass for every one before it,
the ordinary run for every check pass, unless one was refused. -/
def waitsForSet (t : TreeRun) (x : DraftRoot) : Bool :=
  if t.key.pass = 0 then
    !x.closed && x.refused.isNone && (List.range t.bind.drafts.length).any fun j => !x.decided.contains (j + 1)
  else (List.range (t.key.pass - 1)).any fun j => !x.decided.contains (j + 1)

/-- Whether a run of a draft set is drained: an earlier pass of the set was refused (R253, R376). -/
def drainedRun (t : TreeRun) (x : DraftRoot) : Bool :=
  if t.key.pass = 0 then !x.closed && x.refused.isSome
  else x.refused.any fun k => decide (k < t.key.pass)

/-- A run ended in its turn: a run of a draft set waits for the set's earlier runs, and is drained once one of them was
refused (R253, R376). `r` is its result otherwise, and whether that refuses a check pass. -/
def inTurn (s : State) (t : TreeRun) (r : SmpResult × Bool) : State :=
  let x := draftRoot s t
  let set := !t.bind.drafts.isEmpty
  if set && waitsForSet t x then s
  else if set && drainedRun t x then rootFinish s t (noToken 0 6) false
  else rootFinish s t r.1 r.2

/-- A run whose contributions are all in is decided in its turn. -/
def rootDecide (s : State) (t : TreeRun) : State := inTurn s t (decideRun t)

/-- The tree's entry for a key. -/
def treeOf (s : State) (key : RunKey) : Option TreeRun := s.tree.runs.find? fun t => t.key == key

/-- Every slice of a run has contributed the parts of a list. -/
def allIn (t : TreeRun) (sl : List Nat) : Bool := (List.range t.bind.desc.slices).all fun i => sl.contains i

/-- All contributions to the end action are in: the root decides (R240); a run with two contributions for a
slice, or cancelled at an edge, ends HALTED (R248, R250). -/
def execRootEndAction (key : RunKey) (s : State) : Host.Outcome State Fault Refusal :=
  match treeOf s key with
  | none => .next s
  | some t =>
    if t.cancelled then .next (rootFinish s t (noToken 0x10 7) false)
    else if t.dup then .next (rootFinish s t (noToken 0x15 7) false)
    else if allIn t (t.ends.map fun e => e.slice) then .next (rootDecide s t)
    else .next s

/-- The global maximum returned to a run of the key that waits at `lsync` (R238). -/
def syncReturn (key : RunKey) (m : Nat) (r : Run) : Run :=
  if r.key = key ∧ r.st = .atSync then
    { r with st := .running, phase := 2, g := bset r.g 15 (BitVec.ofNat 32 m) }
  else r

/-- All maxima are in: the global maximum returns to every core, or, with a fault flag, every core ends the
run and the sequence takes its fallback (R238). -/
def execLsyncGlobalMax (key : RunKey) (s : State) : Host.Outcome State Fault Refusal :=
  match treeOf s key with
  | none => .next s
  | some t =>
    if t.dup || t.cancelled || t.released || !allIn t (t.sync.map fun e => e.slice) then .next s
    else if t.sync.any fun e => e.fault then
      let w0 := allElems (fun sl => (t.sync.find? fun e => e.slice == sl).map fun e => e.w0) t.bind.desc.slices
      .next (inTurn s t (fallback t.bind.desc w0, false))
    else
      let m := (treeMinMax .f32 true (t.sync.map fun e => e.max.toNat)).1
      let s := sent (setTree s { t with released := true }) (endpointOf .device) key.parcel
      .next { s with cores := s.cores.map fun kc =>
        (kc.1, { kc.2 with eng := { kc.2.eng with runs := kc.2.eng.runs.map (syncReturn key m) } }) }

/-- 2^20 cycles after the first contribution to a phase without all of them, the run ends HALTED (R248). -/
def execSamplerTreeTimeout (key : RunKey) (s : State) : Host.Outcome State Fault Refusal :=
  match treeOf s key with
  | none => .next s
  | some t =>
    let late (at_ : Option Nat) : Bool := at_.any fun c => decide (c + 2 ^ 20 ≤ s.cycle)
    let one := !t.released && !allIn t (t.sync.map fun e => e.slice) && late t.syncAt
    let two := !allIn t (t.ends.map fun e => e.slice) && late t.endAt
    if one || two then .next (rootFinish s t (noToken 0x15 7) false) else .next s

end Sys2Proof.Machine
end

