-- ==== Sys2Proof/Machine/Launch.lean ====
section
/-!
DEFINITION. Launch descriptors and their checks (R308 to R310), submission (R268, R311), start and placement
(R312 to R316), launch graphs (R326, R327), the end of a launch (R318), residency, dispatch and strand
initialisation (R37, R319 to R321), and the reclaim's test of an easement (R339).
-/
namespace Sys2Proof.Machine
open Sys2Proof

/-! ## The descriptor -/

/-- A number of `n` bytes at an offset of a byte list. -/
def fieldAt (bs : List Byte) (off n : Nat) : Nat := leNat ((bs.drop off).take n)

/-- A descriptor from its 128 bytes and its loop table (R308, R309). -/
def parseDesc (addr : Word) (bs : List Byte) (loops : List Word) : LaunchDesc :=
  let w (o : Nat) : Word := BitVec.ofNat 64 (fieldAt bs o 8)
  { addr := addr, aentry := w 0x00, xentry := w 0x08, logitaddr := w 0x10, logitcnt := fieldAt bs 0x18 4,
    winsize := fieldAt bs 0x1C 4, args := w 0x20, localaddr := w 0x28, locallen := fieldAt bs 0x30 4,
    flags := BitVec.ofNat 32 (fieldAt bs 0x34 4), starth := w 0x38, startt := w 0x40, doneh := w 0x48,
    faulth := w 0x50, recaddr := w 0x58, callarea := w 0x60, calldb := w 0x68, loops := loops,
    shapeaddr := w 0x78 }

/-- `KIND` of a loop-table entry. -/
def lvKind (e : Word) : Nat := (e.extractLsb' 32 3).toNat
/-- `EXTENT` of a loop-table entry. -/
def lvExtent (e : Word) : Nat := (e.extractLsb' 0 32).toNat
/-- `SHP` of a loop-table entry. -/
def lvShp (e : Word) : Bool := e.getLsbD 39

/-- The rules of R309 and R310 on one loop-table entry. -/
def levelOk (shape : Word) (e : Word) : Bool :=
  e.extractLsb' 58 6 == 0#6 && !e.getLsbD 35 && lvKind e ≤ 4 &&
    (lvKind e == 4 || e.extractLsb' 40 18 == 0#18) && (lvShp e || e.extractLsb' 36 3 == 0#3) &&
    (!lvShp e || shape != 0) &&
    (lvKind e != 4 || (!lvShp e && lvExtent e % 65536 != 0 && lvExtent e / 65536 != 0))

/-- How many levels have a kind. -/
def countKind (ls : List Word) (k : Nat) : Nat := (ls.filter fun e => lvKind e == k).length

/-- Whether a value is zero or a multiple of a power of two. -/
def alignedTo (w : Word) (n : Nat) : Bool := w.toNat % n == 0

/-- Whether a nonzero launch handle has core scope (R310). -/
def coreHandle (h : Word) : Bool := h != 0 && hScope h == 0

/-- The checks of R310 but for those of the handles at their homes. -/
def descOk (d : LaunchDesc) : Bool :=
  alignedTo d.aentry 4 && alignedTo d.xentry 4 && d.logitcnt ≤ 64 && (d.logitaddr != 0 || d.logitcnt == 0) &&
    d.winsize % 4096 == 0 && 4096 ≤ d.winsize && d.winsize ≤ Config.scratchSize &&
    alignedTo d.localaddr 16 && d.locallen % 16 == 0 && d.locallen ≤ d.winsize &&
    (d.localaddr != 0 || d.locallen == 0) && d.flags.toNat < 64 && alignedTo d.recaddr 64 &&
    alignedTo d.callarea 64 && (d.callarea == 0) == (d.calldb == 0) && alignedTo d.shapeaddr 64 &&
    d.loops.all (levelOk d.shapeaddr) && countKind d.loops 3 ≤ 1 && countKind d.loops 4 ≤ 1 &&
    countKind d.loops 2 + countKind d.loops 3 ≤ 4 &&
    !(coreHandle d.starth || coreHandle d.doneh || coreHandle d.faulth || coreHandle d.calldb)

/-- The advance check of one handle for a parcel (R35, R310); 0 names none. -/
def handleFault (s : State) (p : Nat) (h : Word) (r : Right) : Option FaultCode :=
  if h = 0 then none else checkRemote s h p r

/-- The first fault of a descriptor (R310). -/
def descFault (s : State) (p : Nat) (d : LaunchDesc) : Option FaultCode :=
  if !descOk d then some .illegal
  else
    (handleFault s p d.starth .wait).or ((handleFault s p d.doneh .add).or
      ((handleFault s p d.faulth .add).or (handleFault s p d.calldb .add)))

/-- Who submits a launch: its parcel, the function for a ring, the scope policy it acts under (R414), how the reads of its
submission are made, and which of them the capabilities of a hart allow (R259). -/
structure Submitter where
  parcel : Nat
  fn : Option Nat
  policy : Policy
  read : State → Word → Nat → GRes
  cap : Word → Nat → Bool

/-- The reads of a unit of the package for a parcel. -/
def unitRead (p : Nat) (s : State) (va : Word) (n : Nat) : GRes := readG s .device p va n .read

/-- A submission that a unit of the package makes. -/
def deviceSubmitter (p : Nat) (fn : Option Nat) (pol : Policy) : Submitter :=
  { parcel := p, fn := fn, policy := pol, read := unitRead p, cap := fun _ _ => true }

/-- Why what a launch needs could not be read. -/
inductive ReadErr where
  /-- The access faults at an address. -/
  | fault (s : State) (f : FaultCode) (va : Word)
  /-- No capability covers the access at an address. -/
  | cap (va : Word)
  /-- What was read breaks a rule. -/
  | illegal
  | transit

/-- An area read in pieces of 64 bytes, none of which crosses a page. -/
def readArea (rd : State → Word → Nat → GRes) (s : State) (va : Word) : Nat → Except ReadErr (State × List Byte)
  | 0 => .ok (s, [])
  | n + 1 =>
    match rd s va 64 with
    | .transit _ => .error .transit
    | .fault s f => .error (.fault s f va)
    | .ok s bs =>
      match readArea rd s (va + 64) n with
      | .ok (s, bs') => .ok (s, bs ++ bs')
      | .error e => .error e

/-- An area of a submission read, within the submitter's capabilities. -/
def subArea (s : State) (b : Submitter) (va : Word) (n : Nat) : Except ReadErr (State × List Byte) :=
  if !b.cap va (64 * n) then .error (.cap va) else readArea b.read s va n

/-- The 64-bit words of a byte list. -/
def wordsOf (bs : List Byte) : Nat → List Word
  | 0 => []
  | n + 1 => BitVec.ofNat 64 (leNat (bs.take 8)) :: wordsOf (bs.drop 8) n

/-- A descriptor with its loop table read; a misaligned loop table is not read, and R310 refuses it. -/
def readDesc (s : State) (b : Submitter) (va : Word) : Except ReadErr (State × LaunchDesc) :=
  match subArea s b va 2 with
  | .error e => .error e
  | .ok (s, bs) =>
    let la : Word := BitVec.ofNat 64 (fieldAt bs 0x70 8)
    let graph := fieldAt bs 0x34 4 / 32 % 2 == 1
    if graph then .ok (s, parseDesc va bs [])
    else if !alignedTo la 64 then .error .illegal
    else
      match subArea s b la 1 with
      | .error e => .error e
      | .ok (s, ls) => .ok (s, parseDesc va bs (wordsOf ls 8))

/-! ## Entries and submission (R311) -/

/-- The free launch entries, lowest first. -/
def freeEntries (s : State) (n : Nat) : List Nat :=
  ((List.range 4096).filter fun e => (mget s.sched.launches e).isNone).take n

/-- Whether a parcel's quota allows `n` more launches. -/
def launchQuotaOk (s : State) (p n : Nat) : Bool :=
  match (parcelOf s p).quotas.launches with
  | none => true
  | some q => (s.sched.launches.filter fun kl => kl.2.parcel == p).length + n ≤ q

/-- The launch id that an entry has now: entry number and use count. -/
def entryId (s : State) (e : Nat) : BitVec 28 := mgetD s.sched.uses e 0 ++ BitVec.ofNat 12 e

/-- A launch put in an entry. -/
def putLaunch (s : State) (e : Nat) (b : Submitter) (d : LaunchDesc) (st : LaunchSt) (g : Option Nat) : State :=
  let L : Launch :=
    { id := entryId s e, parcel := b.parcel, fn := b.fn, policy := b.policy, order := s.sched.nextOrder,
      desc := d, st := st, live := 0, count := 0, graph := g, levels := [], homes := [], stored := [] }
  { s with sched := { s.sched with launches := mset s.sched.launches e L, nextOrder := s.sched.nextOrder + 1 } }

/-- The outcome of a submission. -/
inductive SubmitRes where
  | ok (s : State) (id : BitVec 28)
  /-- No entry is free, or the quota is used up. -/
  | full (s : State)
  /-- A check of R310 or R326 failed. -/
  | refused (s : State) (f : FaultCode)
  /-- A read of the submission failed. -/
  | unread (s : State) (f : FaultCode) (va : Word)
  /-- No capability covers a read of the submission. -/
  | cap (va : Word)
  | transit

/-- What a submission comes to when something it needs could not be read. -/
def submitErr (s : State) : ReadErr → SubmitRes
  | .fault s f va => .unread s f va
  | .cap va => .cap va
  | .illegal => .refused s .illegal
  | .transit => .transit

/-- One launch submitted. -/
def submitOne (s : State) (b : Submitter) (d : LaunchDesc) : SubmitRes :=
  match descFault s b.parcel d with
  | some f => .refused s f
  | none =>
    if !launchQuotaOk s b.parcel 1 then .full s
    else
      match freeEntries s 1 with
      | e :: _ => .ok (putLaunch s e b d .waiting none) (entryId s e)
      | [] => .full s

/-! ## Launch graphs (R326, R327) -/

/-- Whether every byte is zero. -/
def allZero (bs : List Byte) : Bool := bs.all fun b => b == 0#8

/-- The rules of R326 on a graph header. -/
def headerOk (bs : List Byte) : Bool :=
  1 ≤ fieldAt bs 0 4 && fieldAt bs 0 4 ≤ 64 && fieldAt bs 4 4 ≤ 1 && fieldAt bs 8 8 % 64 == 0 &&
    allZero (bs.drop 0x20)

/-- The node descriptors of a version. -/
def readNodes (s : State) (b : Submitter) (ver : Word) : Nat → Nat → Except ReadErr (State × List LaunchDesc)
  | 0, _ => .ok (s, [])
  | n + 1, i =>
    match readDesc s b (ver + BitVec.ofNat 64 (0x40 + 128 * i)) with
    | .error e => .error e
    | .ok (s, d) =>
      match readNodes s b ver n (i + 1) with
      | .ok (s, ds) => .ok (s, d :: ds)
      | .error e => .error e

/-- Whether every node of a version obeys R326 and R310. -/
def nodesOk (s : State) (p : Nat) (ds : List LaunchDesc) : Bool :=
  ds.all fun d => !d.flags.getLsbD 5 && (descFault s p d).isNone

/-- The current version of a graph: its address and its nodes. -/
structure Version where
  ver : Word
  nodes : List LaunchDesc

/-- The current version read once, its nodes checked (R326, R327 step 2). -/
def readVersion (s : State) (b : Submitter) (hdr : Word) (nodes : Nat) : Except ReadErr (State × Version) :=
  if !b.cap (hdr + 8) 8 then .error (.cap (hdr + 8))
  else
    match b.read s (hdr + 8) 8 with
    | .transit _ => .error .transit
    | .fault s f => .error (.fault s f (hdr + 8))
    | .ok s bs =>
      let ver : Word := BitVec.ofNat 64 (leNat bs)
      if !alignedTo ver 64 then .error .illegal
      else
        match subArea s b ver 1 with
        | .error e => .error e
        | .ok (s, vh) =>
          if !allZero (vh.drop 8) then .error .illegal
          else
            match readNodes s b ver nodes 0 with
            | .error e => .error e
            | .ok (s, ds) => if nodesOk s b.parcel ds then .ok (s, { ver := ver, nodes := ds }) else .error .illegal

/-- A node's launch placed in its entry, with the effective start threshold of R327. -/
def putNodes (b : Submitter) (r : Word) (g : Nat) : State → List Nat → List LaunchDesc → State
  | s, e :: es, d :: ds =>
    putNodes b r g (putLaunch s e b { d with startt := d.startt * (r + 1) } .waiting (some g)) es ds
  | s, _, _ => s

/-- Steps 1 to 4 of R327 for a replay whose version is read. -/
def startReplay (s : State) (g : Nat) (R : Replay) (es : List Nat) (V : Version) : State :=
  let p := R.parcel
  let s := needRead (needRead s p (R.hdr + 0x18) 8) p V.ver 8
  let r : Word := BitVec.ofNat 64 (devNat s p (R.hdr + 0x18) 8)
  let s := devPut64 s p (R.hdr + 0x18) (r + 1)
  let s := devPut64 s p V.ver (BitVec.ofNat 64 (devNat s p V.ver 8) + 1)
  let s := putNodes (deviceSubmitter p R.fn R.policy) r g s es V.nodes
  { s with sched := { s.sched with replays := mset s.sched.replays g { R with ver := V.ver, started := true } } }

/-- Whether an earlier replay of a graph has not ended. -/
def earlierReplay (s : State) (p : Nat) (hdr : Word) (g : Nat) : Bool :=
  s.sched.replays.any fun kr => kr.1 < g && kr.2.parcel == p && kr.2.hdr == hdr

/-- A descriptor of no launch, for an entry held by a replay that waits. -/
def emptyDesc : LaunchDesc := parseDesc 0 [] []

/-- A graph launch submitted with a priority (R308, R326, R327). -/
def submitGraph (s : State) (b : Submitter) (hdr : Word) (prio : Nat) : SubmitRes :=
  match subArea s b hdr 1 with
  | .error e => submitErr s e
  | .ok (s, bs) =>
    let nodes := fieldAt bs 0 4
    if !headerOk bs then .refused s .illegal
    else
      match readVersion s b hdr nodes with
      | .error e => submitErr s e
      | .ok (s, V) =>
        let es := freeEntries s nodes
        if es.length < nodes || !launchQuotaOk s b.parcel nodes then .full s
        else
          let g := s.sched.nextReplay
          let excl := fieldAt bs 4 4 == 1
          let R : Replay :=
            { parcel := b.parcel, fn := b.fn, policy := b.policy, hdr := hdr, ver := 0,
              replayh := BitVec.ofNat 64 (fieldAt bs 0x10 8), excl := excl, prio := prio, order := s.sched.nextOrder,
              nodes := nodes, ids := es.map (entryId s), started := false }
          let id := entryId s (es.headD 0)
          let s := { s with sched := { s.sched with
            replays := mset s.sched.replays g R, nextReplay := g + 1 } }
          if excl && earlierReplay s b.parcel hdr g then
            .ok (es.foldl (fun s e => putLaunch s e b emptyDesc .reserved (some g)) s) id
          else .ok (startReplay s g R es V) id

/-- A LAUNCH SUBMITTED from a 64-byte aligned descriptor (R268, R310, R311, R326). -/
def submitLaunch (s : State) (b : Submitter) (va : Word) : SubmitRes :=
  match readDesc s b va with
  | .error e => submitErr s e
  | .ok (s, d) =>
    if d.flags.getLsbD 5 then submitGraph s b d.args (d.flags.toNat % 4) else submitOne s b d

/-! ## Dispatch (R319 to R321) -/

/-- The lowest free window of a size (R319). -/
def windowFor (k : Core) (size : Nat) : Option Nat :=
  ((List.range 64).map fun i => 4096 * i).find? fun o =>
    o + size ≤ Config.scratchSize && k.res.all fun r => r.2.base + r.2.size ≤ o || o + size ≤ r.2.base

/-- The lowest free resident slot. -/
def slotFor (k : Core) : Option Nat := (List.range 8).find? fun i => (mget k.res i).isNone

/-- How a page stands for a unit of the package that wants to read it: readable, or refused by the pager or the tables;
in transit or awaited; missing, with an entry of the pager ring to be queued (R303, R306, R307, log 56). -/
inductive PageSt where
  | here | waits | missing
  deriving DecidableEq, Repr

/-- The standing of the page of an address. -/
def pageAt (s : State) (p : Nat) (va : Word) : PageSt :=
  match translate s .device p va .read with
  | .transit => .waits
  | .fault .xlate =>
    if s.devMiss.any fun m => notSupplied s m p va then .here
    else if (parcelOf s p).pager.isNone || s.devMiss.any fun m => m.covers p va && !ticketReached s m.ticket then .waits
    else .missing
  | _ => .here

/-- The first address of a range in each of its pages. -/
def pageStarts (va : Word) (n : Nat) : List Word :=
  if n = 0 then []
  else va :: (List.range ((va.toNat % 4096 + n - 1) / 4096)).map fun i =>
    (va &&& ~~~0xFFF#64) + BitVec.ofNat 64 (4096 * (i + 1))

/-- The pieces of a range that lie each in one page. -/
def pagePieces (va : Word) (n : Nat) : List (Word × Nat) :=
  (pageStarts va n).map fun a => (a, min (4096 - a.toNat % 4096) (n - (a - va).toNat))

/-- The bytes of an area, as a unit of the package reads them for a parcel; 0 where it cannot. -/
def devArea (s : State) (p : Nat) (va : Word) (n : Nat) : List Byte :=
  (pagePieces va n).flatMap fun an => (devRead s p an.1 an.2).getD (List.replicate an.2 0)

/-- The read of an area: what `needRead` does, page by page. -/
def needRange (s : State) (p : Nat) (va : Word) (n : Nat) : State :=
  (pagePieces va n).foldl (fun s an => needRead s p an.1 an.2) s

/-- The missing pages among some are asked of their pagers (R306). -/
def askPages (s : State) (l : List (Nat × Word)) : State :=
  l.foldl (fun s pv => if pageAt s pv.1 pv.2 = .missing then deviceMiss s pv.1 pv.2 false else s) s

/-- A strand a core may dispatch: one resident in a slot, or one on a list. -/
inductive Cand where
  | res (slot : Nat) (r : Resident)
  | list (e : ListEnt)
  deriving DecidableEq, Repr

/-- Whether a candidate is of the urgent class, or once (R320). -/
def Cand.urgent : Cand → Bool
  | .res _ r => r.urgent || r.once
  | .list e => e.urgent || e.once

/-- Whether a record may be dispatched: valid, and READY, or RUNNING for a strand rolled back into its slot
(R31, R33). -/
def recordOk (s : State) (p : Nat) (rcd : Word) (rolled : Bool) : Bool :=
  let w := recWord s p rcd
  devNat s p rcd 8 % 2 == 1 && (swState w == 0 || (rolled && swState w == 1))

/-- The pages of a strand's record and local image (R319). -/
def ownPages (L : Launch) (o : Owner) : List (Nat × Word) :=
  (o.rcd :: pageStarts L.desc.localaddr L.desc.locallen).map fun va => (o.parcel, va)

/-- Whether a slot's strand has given up its window and needs a new one: an ANY strand rolled back to wait for a ticket
(R39, R307, R391, log 59). -/
def Resident.windowless (r : Resident) : Bool := r.any && r.size == 0

/-- Whether a window and the local image of a launch are there for a strand on a core. -/
def roomFor (s : State) (k : Core) (o : Owner) : Bool :=
  match launchOf s o.launch with
  | none => false
  | some L => (windowFor k L.desc.winsize).isSome && (ownPages L o).all fun pv => pageAt s pv.1 pv.2 == .here

/-- The resident candidates of a parcel, from the round-robin slot on; one without a window needs room for a new one. -/
def resCands (s : State) (k : Core) (p : Nat) : List Cand :=
  let order := (List.range 8).map fun i => (k.nextSlot + i) % 8
  order.filterMap fun i =>
    match mget k.res i with
    | some r =>
      if r.status == .ready && r.own.parcel == p && !r.scrub && recordOk s p r.own.rcd r.rolled &&
          (!r.windowless || roomFor s k r.own) then some (.res i r)
      else none
    | none => none

/-- Whether a listed strand finds a slot and a window on a core, its record may be dispatched, and its local image is
there. A core that is lent is wiped before its owner's strand runs, and has room for it then (R339). -/
def fits (s : State) (k : Core) (e : ListEnt) : Bool :=
  (slotFor k).isSome && recordOk s e.own.parcel e.own.rcd false && roomFor s k e.own

/-- An entry placed before those of lower priority, then first in, first out. -/
def insertEnt (near : ListEnt → Bool) (e : ListEnt) : List ListEnt → List ListEnt
  | [] => [e]
  | x :: xs =>
    let before : Bool := if near e ≠ near x then near e
      else x.prio < e.prio || (x.prio == e.prio && e.seq < x.seq)
    if before then e :: x :: xs else x :: insertEnt near e xs

/-- Entries in dispatch order. -/
def sortEnts (near : ListEnt → Bool) (l : List ListEnt) : List ListEnt :=
  l.foldl (fun acc e => insertEnt near e acc) []

/-- The home-list candidates of a core (R320). -/
def homeCands (s : State) (c : Nat) (k : Core) (p : Nat) : List Cand :=
  (sortEnts (fun _ => false) (s.sched.lists.filter fun e =>
    !e.any && e.home == c && e.own.parcel == p && fits s k e)).map .list

/-- The candidates of a parcel's ANY list, those homed in the core's section first (R320). -/
def anyCands (s : State) (c : Nat) (k : Core) (p : Nat) : List Cand :=
  (sortEnts (fun e => sectOf e.home == sectOf c) (s.sched.lists.filter fun e =>
    e.any && e.own.parcel == p && fits s k e)).map .list

/-- The next strand of a candidate list: the urgent class first, but after 16 urgent dispatches in a row a
normal strand that could be dispatched (R320, R321). -/
def pickCand (k : Core) (l : List Cand) : Option Cand :=
  let urg := l.filter Cand.urgent
  let nrm := l.filter fun x => !x.urgent
  match urg, nrm with
  | u :: _, [] => some u
  | u :: _, n :: _ => some (if 16 ≤ k.urgentRun then n else u)
  | [], n :: _ => some n
  | [], [] => none

/-- A core as its owner's strand finds it: wiped first where it is lent (R339). -/
def ownView (k : Core) : Core := if k.lent then { k with res := [] } else k

/-- The dispatchable strands of the parcel that owns a core. -/
def ownCands (s : State) (c : Nat) : List Cand :=
  let k := coreOf s c
  let p := coreOwner s c
  resCands s k p ++ homeCands s c (ownView k) p ++ anyCands s c (ownView k) p

/-- The beneficiaries of a parcel with `DCORE` set, in order (R330, R339). -/
def coreBenef (s : State) (p : Nat) : List Nat :=
  let P := cadParcel s p
  if P.active && P.dcore then P.benef else []

/-- The dispatchable strands of a beneficiary of a core's owner. -/
def benefCands (s : State) (c b : Nat) : List Cand := resCands s (coreOf s c) b ++ anyCands s c (coreOf s c) b

/-- The strands that a core chooses from, with the beneficiary whose they are: its owner's, or where it has none those of
the first beneficiary that has some (R320, R339). -/
def coreCands (s : State) (c : Nat) : Option Nat × List Cand :=
  match ownCands s c with
  | [] =>
    match (coreBenef s (coreOwner s c)).find? fun b => !(benefCands s c b).isEmpty with
    | some b => (some b, benefCands s c b)
    | none => (none, [])
  | l => (none, l)

/-- The count of urgent dispatches restarts on every core for which no normal strand is dispatchable (R321). -/
def restartCounts (s : State) : State :=
  { s with cores := s.cores.map fun (ck : Nat × Core) =>
      if ck.2.urgentRun ≠ 0 && !((coreCands s ck.1).2.any fun x => !x.urgent) then (ck.1, { ck.2 with urgentRun := 0 })
      else ck }

/-! ## The end of a launch (R318) -/

/-- Its `calloc` counters without `KEEP` freed, at one home. -/
def freeHomeCounters (id : BitVec 28) (key : Nat) (s : State) (ie : Nat × Ctr) : State :=
  if ie.2.alloc && !ie.2.keep && !ie.2.fut && ie.2.launch == id then
    homeFree s (mkHandle (key / 65536) ie.2.gen (key % 65536) ie.1)
  else s

/-- The counters of a launch freed, at every home. -/
def freeCounters (s : State) (id : BitVec 28) : State :=
  s.homes.foldl (fun s kh => kh.2.entries.foldl (freeHomeCounters id kh.1) s) s

/-- A core's windows, slots and sampler slots of a launch released. -/
def releaseLaunch (id : BitVec 28) (k : Core) : Core :=
  let mine := k.res.filter fun r => r.2.own.launch == id
  let k := mine.foldl (fun k r => scrub { k with res := merase k.res r.1 } r.2.base r.2.size) k
  { k with eng := { k.eng with slots := k.eng.slots.filter fun x => x.2.own.launch != id } }

/-- A launch entry freed: its use count rises (R311). -/
def freeEntry (s : State) (e : Nat) : State :=
  { s with sched := { s.sched with launches := merase s.sched.launches e,
                                   uses := mset s.sched.uses e (mgetD s.sched.uses e 0 + 1) } }

/-- THE END OF A LAUNCH (R318). -/
def endLaunch (s : State) (e : Nat) (L : Launch) : State :=
  let s := { s with cores := s.cores.map fun (ck : Nat × Core) => (ck.1, releaseLaunch L.id ck.2) }
  let s := { s with sched := { s.sched with
    queues := s.sched.queues.filter fun q => q.2.launch != L.id,
    lists := s.sched.lists.filter fun x => x.own.launch != L.id } }
  restartCounts (freeEntry (freeCounters s L.id) e)

/-- Whether a core has an engine command of a launch, or a window it is leaving. -/
def engineBusy (id : BitVec 28) (k : Core) : Bool :=
  k.eng.copyq.any (fun x => x.own.launch == id) || k.eng.matq.any (fun x => x.own.launch == id) ||
    k.eng.runs.any (fun x => x.own.launch == id) ||
    k.eng.smpq.any (fun x => match x with
      | .run _ _ _ _ own _ => own.launch == id
      | .commit _ _ _ _ own => own.launch == id) ||
    k.res.any (fun r => r.2.own.launch == id && (match r.2.status with | .leaving _ => true | _ => false))

/-- Whether a launch has ended all its strands and engine commands; a command cancelled at an edge counts as completed
(R318, R344). -/
def launchDone (s : State) (L : Launch) : Bool :=
  L.st == .live && L.live == 0 && !s.cores.any (fun ck => engineBusy L.id ck.2) &&
    !s.tree.runs.any (fun r => r.bind.own.launch == L.id && !r.cancelled)

/-- A launch ends (R318). -/
def execLaunchEnd (entry : Nat) (s : State) : Host.Outcome State Fault Refusal :=
  match mget s.sched.launches entry with
  | none => .next s
  | some L => if launchDone s L then .next (endLaunch s entry L) else .next s

/-! ## Placement (R313 to R316) -/

/-- The cores of a section. -/
def sectCores (sc : Nat) : List Nat := (List.range 16).map fun i => 16 * sc + i

/-- Whether any row of the table in force assigns a section to a parcel. -/
def sectInRows (s : State) (p sc : Nat) : Bool :=
  s.cad.table.rows.any fun r => r.sects.getD (48 * (sc / 64) + sc % 64) 63 == p

/-- The parcel's core list (R314), in ascending order. -/
def coreList (s : State) (p : Nat) : List Nat :=
  (((List.range 256).filter sectExists).filter (sectInRows s p)).flatMap sectCores

/-- The cores of a list on a die. -/
def onDie (l : List Nat) (d : Nat) : List Nat := l.filter fun c => dieOf c == d

/-- The core lists of a launch with a DIES extent, or the one list (R314). -/
def placeLists (s : State) (p : Nat) (dies : Option Nat) : List (List Nat) :=
  let l := coreList s p
  match dies with
  | none => [l]
  | some d => ((((List.range 4).map (onDie l)).filter fun x => !x.isEmpty)).take d

/-- The `LEVEL` image of a loop-table entry: a NONE level reads extent 0 (R26, R313). -/
def levelImage (shape : List Byte) (e : Word) : Word :=
  let f := (e.extractLsb' 36 3).toNat
  let x : Nat :=
    if lvKind e = 0 then 0
    else if lvShp e then
      if fieldAt shape 0x20 4 / 2 ^ f % 2 = 1 then fieldAt shape (4 * f) 4 else 0
    else lvExtent e
  BitVec.ofNat 64 (lvKind e * 2 ^ 32 + x)

/-- The spatial levels, kind and extent, in level order. -/
def spatial (ls : List Word) : List (Nat × Nat) :=
  (ls.filter fun e => lvKind e == 2 || lvKind e == 3).map fun e => (lvKind e, lvExtent e)

/-- The product of extents. -/
def prod (l : List Nat) : Nat := l.foldl (fun a b => a * b) 1

/-- The coordinates of a row-major index. -/
def coords : List (Nat × Nat) → Nat → List (Nat × Nat)
  | [], _ => []
  | (kd, _) :: ls, k =>
    let n := prod (ls.map (·.2))
    (kd, k / n) :: coords ls (k % n)

/-- The coordinate word: field n holds the n-th spatial level's value (R315). -/
def coordWord (cs : List (Nat × Nat)) : Word :=
  BitVec.ofNat 64 (cs.foldr (fun c acc => c.2 % 65536 + 65536 * acc) 0)

/-- The DIES point of coordinates. -/
def diePoint (cs : List (Nat × Nat)) : Nat := ((cs.find? fun c => c.1 == 3).map (·.2)).getD 0

/-- The CORES index of coordinates, over the spatial levels. -/
def coresIndex (sp cs : List (Nat × Nat)) : Nat :=
  ((sp.zip cs).filter fun x => x.1.1 == 2).foldl (fun a x => a * x.1.2 + x.2.2) 0

/-- The home core of a strand (R314). -/
def homeOfStrand (lists : List (List Nat)) (sp : List (Nat × Nat)) (i : Nat) : Nat :=
  let cs := coords sp i
  let l := lists.getD (diePoint cs) []
  l.getD (coresIndex sp cs % l.length) 0

/-- The strand's record at the start (R315). -/
def firstRecord (s : State) (L : Launch) (home i : Nat) (coord : Word) : State :=
  let d := L.desc
  let p := L.parcel
  let a := d.recaddr + BitVec.ofNat 64 (64 * i)
  let w : Word := L.id ++ 0#8 ++ BitVec.ofNat 12 home ++ 0#2 ++ bitOf (d.flags.getLsbD 3) ++
    bitOf (d.flags.getLsbD 2) ++ 0#12
  let s := devPut64 s p a (d.aentry ||| 1)
  let s := devPut64 s p (a + 0x08) d.xentry
  let s := devPut64 s p (a + 0x10) w
  let s := devPut64 s p (a + 0x18) 0
  let s := devPut64 s p (a + 0x20) 0
  let s := devPut64 s p (a + 0x28) d.args
  let s := devPut64 s p (a + 0x30) coord
  let s := devPut64 s p (a + 0x38) coord
  joinList s p a false

/-- Distinct members of a list, in ascending order. -/
def distinct (l : List Nat) : List Nat := l.foldl (fun acc x => insertNat x acc) []

/-- The DYNAMIC level of a table, if any. -/
def dynLevel (ls : List Word) : Option Word := ls.find? fun e => lvKind e == 4

/-- The sections in which a launch binds its work queue, and the queue's number (R316). -/
def bindKeys (L : Launch) (homes : List Nat) : List Nat :=
  match dynLevel L.desc.loops with
  | none => []
  | some e => (distinct (homes.map sectOf)).map fun sc => wqKey sc (e.extractLsb' 56 2).toNat

/-- The queue of one of the sections (R316). -/
def newQueue (id : BitVec 28) (e : Word) (pos ns : Nat) : WorkQ :=
  { launch := id, ext_i := lvExtent e % 65536, ext_j := lvExtent e / 65536, ti := (e.extractLsb' 40 8).toNat + 1,
    tj := (e.extractLsb' 48 8).toNat + 1, pos := pos, ns := ns, next := 0, returned := [], taken := [] }

/-- One work queue bound: in its section while the launch's parcel owns it, else in the launch's entry, from
which an edge restores it (R316, R347). -/
def bindQueue (s : State) (L : Launch) (key : Nat) (q : WorkQ) : State :=
  if sectionOwner s (key / 4) = L.parcel then
    { s with sched := { s.sched with queues := mset s.sched.queues key q } }
  else modLaunch s L.id fun L => { L with stored := mset L.stored key q }

/-- The work queues bound (R316). -/
def bindQueues (s : State) (L : Launch) (keys : List Nat) : State :=
  match dynLevel L.desc.loops with
  | none => s
  | some e => keys.zipIdx.foldl (fun s ki => bindQueue s L ki.1 (newQueue L.id e ki.2 keys.length)) s

/-- Whether a section's queue is bound to a launch of a parcel (R316, R347). -/
def queueTaken (s : State) (p key : Nat) : Bool :=
  if sectionOwner s (key / 4) = p then (mget s.sched.queues key).isSome
  else s.sched.launches.any fun kl => kl.2.parcel == p && (mget kl.2.stored key).isSome

/-- A launch that ends without strands: a kind 5 entry, the fault counter, its end (R312, R313). -/
def failLaunch (s : State) (e : Nat) (L : Launch) (f : FaultCode) (h : Word) : State :=
  let s := faultEntry s L.parcel (fent 5 f.code 0xFFFF L.id 0 L.desc.addr h)
  endLaunch (launchFault s L.id) e L

/-- Whether a start fails with ILLEGAL (R313). -/
def startIllegal (s : State) (L : Launch) (sp : List (Nat × Nat)) (lists : List (List Nat)) : Bool :=
  let dies := (sp.find? fun x => x.1 == 3).map (·.2)
  let c := prod ((sp.filter fun x => x.1 == 2).map (·.2))
  sp.any (fun x => 65536 < x.2) ||
    (match dies with
     | some d => (placeLists s L.parcel (some 4)).length < d
     | none => false) ||
    lists.any fun l => 8 * l.length < c

/-- What R312 says of a launch that has not started: its counter was freed, it may start, or it waits. -/
inductive StartRes where
  | stale | go | wait
  deriving DecidableEq, Repr

/-- The start condition of a launch (R312). -/
def startCond (s : State) (L : Launch) : StartRes :=
  match L.st with
  | .met => .go
  | .waiting =>
    if L.desc.starth = 0 then .go
    else
      let C := ctrOf s L.desc.starth
      if !C.alloc || C.gen != hGen L.desc.starth then .stale
      else if reached C.value L.desc.startt then .go else .wait
  | _ => .wait

/-- What a start would place: `LEVEL` images, spatial levels, lists and homes; nothing while the shape record
cannot be read. -/
structure Placement where
  levels : List Word
  sp : List (Nat × Nat)
  lists : List (List Nat)
  homes : List Nat

/-- The placement of a launch (R313, R314). -/
def placement (s : State) (L : Launch) : Option Placement :=
  match (if L.desc.loops.any lvShp then devRead s L.parcel L.desc.shapeaddr 64 else some []) with
  | none => none
  | some shape =>
    let lv := L.desc.loops.map (levelImage shape)
    let sp := spatial lv
    let lists := placeLists s L.parcel ((sp.find? fun x => x.1 == 3).map (·.2))
    let n := if startIllegal s L sp lists then 0 else prod (sp.map (·.2))
    some { levels := lv, sp := sp, lists := lists, homes := (List.range n).map (homeOfStrand lists sp) }

/-- The start carried out (R313 to R316). -/
def startLaunch (s : State) (e : Nat) (L : Launch) (P : Placement) : State :=
  if startIllegal s L P.sp P.lists then failLaunch s e L .illegal 0
  else
    let L := { L with st := .live, live := P.homes.length, count := P.homes.length, levels := P.levels,
                      homes := P.homes }
    let s := { s with sched := { s.sched with launches := mset s.sched.launches e L } }
    let s := bindQueues s L (bindKeys L P.homes)
    P.homes.zipIdx.foldl (fun s hi => firstRecord s L hi.1 hi.2 (coordWord (coords P.sp hi.2))) s

/-- Whether a launch could start now: its condition holds, its shape record reads, its queues are free. -/
def startable (s : State) (L : Launch) : Bool :=
  startCond s L == .go &&
    (match placement s L with
     | none => false
     | some P => (bindKeys L P.homes).all fun k => !queueTaken s L.parcel k)

/-- Whether one of two starts comes first: a higher `PRIO`, or the same and submitted earlier (R312). -/
def startsBefore (prio order prio' order' : Nat) : Bool := prio' < prio || (prio == prio' && order < order')

/-- `PRIO` of a launch. -/
def Launch.prio (L : Launch) : Nat := L.desc.flags.toNat % 4

/-- Whether a replay waits for nothing but its turn: the earlier replay of its graph has ended (R327). -/
def replayReady (s : State) (g : Nat) (R : Replay) : Bool := !R.started && !earlierReplay s R.parcel R.hdr g

/-- Whether a replay cannot start yet because a page of its version is missing or in transit (R303, R306). -/
def replayWaits (s : State) (R : Replay) : Bool :=
  match readVersion s (deviceSubmitter R.parcel R.fn R.policy) R.hdr R.nodes with
  | .error .transit => true
  | .error (.fault s .xlate va) => pageAt s R.parcel va != .here
  | _ => false

/-- Whether another launch or graph launch that could start now is to start first (R308, R312, R323). -/
def startsLater (s : State) (prio order : Nat) : Bool :=
  (s.sched.launches.any fun kl => startsBefore kl.2.prio kl.2.order prio order && startable s kl.2) ||
    s.sched.replays.any fun kr =>
      startsBefore kr.2.prio kr.2.order prio order && replayReady s kr.1 kr.2 && !replayWaits s kr.2

/-- A launch starts, or ends without strands because its start counter was freed (R312, R313). -/
def execLaunchStart (entry : Nat) (s : State) : Host.Outcome State Fault Refusal :=
  match mget s.sched.launches entry with
  | none => .next s
  | some L =>
    match startCond s L with
    | .wait => .next s
    | .stale => .next (failLaunch s entry L .stale L.desc.starth)
    | .go =>
      let s := if L.desc.loops.any lvShp then needRead s L.parcel L.desc.shapeaddr 64 else s
      if s.host.quiesced then .next s
      else if startable s L && !startsLater s L.prio L.order then
        match placement s L with
        | none => .next s
        | some P => .next (startLaunch s entry L P)
      else .next s

/-- A replay that cannot start ends with nothing started: a kind 5 entry, its entries freed (R326, R327). -/
def failReplay (s : State) (g : Nat) (R : Replay) (f : FaultCode) : State :=
  let s := faultEntry s R.parcel (fent 5 f.code 0xFFFF (R.ids.headD 0) 0 R.hdr 0)
  let s := (R.ids.map fun id => id.toNat % 4096).foldl freeEntry s
  { s with sched := { s.sched with replays := merase s.sched.replays g } }

/-- A waiting replay starts when the earlier replay of its graph has ended; a version that breaks R326 or R310, or that
cannot be read, ends it with nothing started (R327). -/
def execGraphReplayStart (graph : Nat) (s : State) : Host.Outcome State Fault Refusal :=
  match mget s.sched.replays graph with
  | none => .next s
  | some R =>
    if !replayReady s graph R || s.host.quiesced || startsLater s R.prio R.order then .next s
    else
      match readVersion s (deviceSubmitter R.parcel R.fn R.policy) R.hdr R.nodes with
      | .ok (s, V) => .next (startReplay s graph R (R.ids.map fun id => id.toNat % 4096) V)
      | .error (.fault s .xlate va) =>
        let t := blockedBy s R.parcel va false (.miss R.parcel va false)
        .next (if t.blocked.isSome then t else failReplay t graph R .perm)
      | .error (.fault s f _) => .next (failReplay s graph R f)
      | .error .illegal => .next (failReplay s graph R .illegal)
      | .error _ => .next s

/-- A replay ends when all its node launches have: `INFLIGHT` falls, `REPLAYH` receives 1 (R327). -/
def execGraphReplayEnd (graph : Nat) (s : State) : Host.Outcome State Fault Refusal :=
  match mget s.sched.replays graph with
  | none => .next s
  | some R =>
    if R.started && R.ids.all fun id => (launchOf s id).isNone then
      let s := needRead s R.parcel R.ver 8
      let s := devPut64 s R.parcel R.ver (BitVec.ofNat 64 (devNat s R.parcel R.ver 8) - 1)
      let s := (devAdd s R.parcel R.replayh 1).1
      .next { s with sched := { s.sched with replays := merase s.sched.replays graph } }
    else .next s

/-! ## Dispatch (R320, R321, R339) -/

/-- The strand a core takes, with the beneficiary whose it is under an easement (R339), and whether a normal
strand could be dispatched. A core that is lent is reclaimed before a strand of its owner runs on it. -/
def choose (s : State) (c : Nat) : Option (Cand × Option Nat × Bool) :=
  let k := coreOf s c
  let l := coreCands s c
  if l.1.isNone && k.lent then none
  else (pickCand k l.2).map fun x => (x, l.1, l.2.any fun y => !y.urgent)

/-- The pages that a core's search for a strand needs: records and images of the strands it could take. -/
def wantedPages (s : State) (c : Nat) : List (Nat × Word) :=
  let ps := coreOwner s c :: coreBenef s (coreOwner s c)
  let pages (o : Owner) : List (Nat × Word) := ((launchOf s o.launch).map fun L => ownPages L o).getD []
  ((coreOf s c).res.filter fun r => r.2.status == .ready && ps.contains r.2.own.parcel).flatMap
      (fun r => if r.2.windowless then pages r.2.own else [(r.2.own.parcel, r.2.own.rcd)]) ++
    (s.sched.lists.filter fun e => ps.contains e.own.parcel && (e.any || e.home == c)).flatMap fun e => pages e.own

/-- The index of a record in its launch's array, if it lies there. -/
def strandIndex (L : Launch) (rcd : Word) : Option Nat :=
  if inArray L rcd then some ((rcd - L.desc.recaddr).toNat / 64) else none

/-- The round of a strand: earlier strands of its launch with the same home core (R314). -/
def roundOf (L : Launch) (i : Nat) : Nat :=
  ((L.homes.take i).filter fun h => h == L.homes.getD i 0).length

/-- The local image copied into a new window; what cannot be read, or reads as poison, is poison there (R80, R319). Nothing
while a page of the image is missing or in transit. -/
def loadImage (s : State) (c p : Nat) (base : Nat) (va : Word) : Nat → Option State
  | 0 => some s
  | n + 1 =>
    match readG s .device p va 16 .read with
    | .transit _ => none
    | .ok s bs => loadImage (modCore (devDone s p va) c fun k => scratchStore k base bs) c p (base + 16) (va + 16) n
    | .fault s f =>
      if f = .xlate ∧ pageAt s p va ≠ .here then none
      else
        let s := if f = .xlate then blockedBy s p va false (.miss p va false) else s
        loadImage (modCore s c fun k => scratchPoisonAt k base) c p (base + 16) (va + 16) n

/-- The state of a core at strand initialisation (R37). -/
def initStrand (s : State) (c : Nat) (L : Launch) (r : Resident) (slot : Nat) : State :=
  let p := r.own.parcel
  let a := r.own.rcd
  let rd (o : Word) : Word := BitVec.ofNat 64 (devNat s p (a + o) 8)
  let coord := match strandIndex L a with
    | some i => coordWord (coords (spatial L.levels) i)
    | none => rd 0x30
  let run : Running :=
    { slot := slot, own := r.own, lbase := r.base, lsize := r.size, coord := coord,
      levels := Vector.ofFn fun i : Fin (2 ^ 3) => L.levels.getD i.val 0, irv := false, logsz := 0, member := 0 }
  let half : Word := BitVec.ofNat 64 (r.size / 2)
  let ar := bset (bset (bset (bfill 5 (0 : Word)) 1 (rd 0x28)) 2 (rd 0x30)) 4 half
  let xr := bset (bset (bfill 5 (0 : Word)) 2 (BitVec.ofNat 64 r.size)) 4 (rd 0x38)
  let at_ (o : Word) : Stream := { Stream.init with pc := rd o &&& ~~~(3 : Word) }
  modCore s c fun k =>
    { k with a := { AState.init with regs := ar, str := at_ 0 },
             x := { XState.init with regs := xr, slim := half, str := at_ 8 },
             vec := VState.init, accs := bfill 2 [], sh := { Shared.init with lastMove := s.cycle }, run := some run }

/-- A core received under an easement: local counters, port entries and sampler slots of its owner, and of a borrower
before, are not the borrower's (R348). -/
def lend (eas : Option Nat) (k : Core) : Core :=
  if eas.isSome && (!k.lent || k.borrower != eas) then
    { k with lent := true, borrower := eas, lcs := [], inbox := bfill 2 [], outbox := bfill 2 [],
             eng := { k.eng with slots := [] } }
  else k

/-- A resident strand runs: its state word's `STATE` is written and the core initialised (R317, R37). -/
def runResident (s : State) (c slot : Nat) (L : Launch) (r : Resident) (eas : Option Nat) (urg nrm : Bool) :
    State :=
  let p := r.own.parcel
  let s := needRead s p r.own.rcd 64
  let w := recWord s p r.own.rcd
  let s := devPut64 s p (r.own.rcd + 0x10) (swWithState w .running)
  let s := modCore s c fun k =>
    { lend eas k with
      res := mset k.res slot { r with status := .running, once := false, rolled := false },
      nextSlot := (slot + 1) % 8, easement := eas,
      urgentRun := if urg && nrm then k.urgentRun + 1 else 0 }
  restartCounts (initStrand s c L r slot)

/-- A new window for a strand in a slot: placed, zeroed, and the local image loaded (R319); nothing where it finds no
room or the image cannot be read. -/
def placeWindow (s : State) (c sl : Nat) (L : Launch) (r : Resident) : Option (State × Resident) :=
  match windowFor (coreOf s c) L.desc.winsize with
  | none => none
  | some base =>
    let r := { r with base := base, size := L.desc.winsize }
    let s := modCore s c fun k => scrub { k with res := mset k.res sl r } base L.desc.winsize
    (loadImage s c r.own.parcel base L.desc.localaddr (L.desc.locallen / 16)).map fun s => (s, r)

/-- A listed strand made resident: slot, window, local image. -/
def makeResident (s : State) (c : Nat) (L : Launch) (e : ListEnt) : Option (State × Nat × Resident) :=
  match slotFor (coreOf s c) with
  | none => none
  | some sl =>
    let r : Resident :=
      { own := e.own, base := 0, size := 0, any := e.any, urgent := e.urgent, once := e.once,
        round := (strandIndex L e.own.rcd).map (roundOf L), status := .ready, retried := [] }
    let s := { s with sched := { s.sched with lists := s.sched.lists.filter fun x => x != e } }
    (placeWindow s c sl L r).map fun t => (t.1, sl, t.2)

/-- A resident strand as it is dispatched: with the window that it holds, or a new one where it gave it up. -/
def regainWindow (s : State) (c sl : Nat) (L : Launch) (r : Resident) : Option (State × Resident) :=
  if r.windowless then placeWindow s c sl L r else some (s, r)

/-- Whether a core may initialise a strand: it runs none, its matrix queue is empty (R226), no edge notice is
raised on it, it is wiped (R339, R341), and a parcel owns it (R335). -/
def mayDispatch (s : State) (c : Nat) : Bool :=
  let k := coreOf s c
  coreExists c && k.run.isNone && k.eng.matq.isEmpty && k.edge.isNone && !k.wipe && k.dispatchAt ≤ s.cycle &&
    coreOwner s c < Config.numParcels

/-- DISPATCH of the next strand on a free core (R320, R321, R323). The missing pages of strands that it could otherwise take
are asked of their pagers, and do not keep the others from being dispatched. -/
def execDispatch (core : Nat) (s : State) : Host.Outcome State Fault Refusal :=
  if !mayDispatch s core then .next s
  else
    let s := askPages s (wantedPages s core)
    match choose s core with
    | none => .next (restartCounts s)
    | some (.res sl r, eas, nrm) =>
      match launchOf s r.own.launch with
      | none => .next s
      | some L =>
        match regainWindow s core sl L r with
        | none => .next s
        | some (s, r) => .next (runResident s core sl L r eas (Cand.res sl r).urgent nrm)
    | some (.list e, eas, nrm) =>
      match launchOf s e.own.launch with
      | none => .next s
      | some L =>
        match makeResident s core L e with
        | none => .next s
        | some (s, sl, r) => .next (runResident s core sl L r eas (Cand.list e).urgent nrm)

end Sys2Proof.Machine
end

