-- ==== Sys2Proof/Machine/Futures.lean ====
section
/-!
DEFINITION. The future table (R362 to R369): creation, delivery, completion, the timer, release, cancellation,
late replies, and the sequence entries that deliveries reach (R366, R371).
-/
namespace Sys2Proof.Machine
open Sys2Proof

/-! ## Entries -/

/-- A future table entry. -/
def futOf (s : State) (id : Nat) : Future := mgetD s.futures id Future.init
/-- A future table entry set. -/
def setFut (s : State) (id : Nat) (f : Future) : State := { s with futures := mset s.futures id f }

/-- The tag of a future with no sequence (R362). -/
def noSeq : BitVec 32 := 0xFFFFFFFF#32

/-- Whether an entry waits for its completion (R364). -/
def Future.pending (f : Future) : Bool := f.st == .armed || f.st == .running
/-- Whether an entry is complete (R364). -/
def Future.complete (f : Future) : Bool := f.st == .replied || f.st == .timedout || f.st == .error

/-! ## Sequences (R371) -/

/-- The sequence entry of a parcel that a tag names: the live one (ACTIVE or CALLING), for which the tag is unique; with no
live one, an entry in use that has it (R366, R371). -/
def seqOf (s : State) (p : Nat) (tag : BitVec 32) : Option Word :=
  match mget s.commit.gens p with
  | none => none
  | some g =>
    let mine := ((List.range g.nseq).map fun i => g.seqtab + BitVec.ofNat 64 (192 * i)).filter fun e =>
      devNat s p e 4 == tag.toNat && devNat s p (e + 6) 1 != 0
    (mine.find? fun e => devNat s p (e + 6) 1 == 1 || devNat s p (e + 6) 1 == 2).or mine.head?

/-- The sequence table of a parcel is read. -/
def needTable (s : State) (p : Nat) : State :=
  match mget s.commit.gens p with
  | none => s
  | some g => needRange s p g.seqtab (192 * g.nseq)

/-- `STATE` of a sequence entry. -/
def seqState (s : State) (p : Nat) (e : Word) : Nat := devNat s p (e + 6) 1
/-- `SLOTS` of a sequence entry. -/
def seqSlots (s : State) (p : Nat) (e : Word) : BitVec 16 := BitVec.ofNat 16 (devNat s p (e + 0x0C) 2)
/-- `REPLYBASE` of a sequence entry. -/
def seqReplyBase (s : State) (p : Nat) (e : Word) : Word := BitVec.ofNat 64 (devNat s p (e + 0x28) 8)
/-- A byte of a sequence entry written. -/
def seqPut8 (s : State) (p : Nat) (e : Word) (off v : Nat) : State :=
  devWrite s p (e + BitVec.ofNat 64 off) [BitVec.ofNat 8 v]
/-- `SLOTS` written. -/
def seqPutSlots (s : State) (p : Nat) (e : Word) (v : BitVec 16) : State :=
  devWrite s p (e + 0x0C) (leBytes 2 v.toNat)

/-- The reply slot of an address (R366). -/
def replySlot (base a : Word) : Nat := (a - base).toNat / 65600
/-- A bit of `SLOTS`. -/
def slotBit (k : Nat) : BitVec 16 := 1#16 <<< k

/-- A u32 list written: count, then tokens (R366). -/
def putTokens (s : State) (p : Nat) (a : Word) (toks : List (BitVec 32)) : State :=
  toks.zipIdx.foldl (fun s ti => devPut32 s p (a + BitVec.ofNat 64 (4 + 4 * ti.2)) ti.1)
    (devPut32 s p a (BitVec.ofNat 32 toks.length))

/-- A token list in memory is read: its count, then its tokens. -/
def needTokens (s : State) (p : Nat) (a : Word) : State :=
  let s := needRead s p a 4
  needRange s p (a + 4) (4 * min (devNat s p a 4) 16384)

/-- A token list in memory, of at most 16,384 tokens. -/
def tokenList (s : State) (p : Nat) (a : Word) : List (BitVec 32) :=
  (List.range (min (devNat s p a 4) 16384)).map fun i =>
    BitVec.ofNat 32 (devNat s p (a + BitVec.ofNat 64 (4 + 4 * i)) 4)

/-- A future id appended to a sequence's prefill ring (R366, R371). -/
def prefillPush (s : State) (p : Nat) (e : Word) (id : Nat) : State :=
  let head := devNat s p (e + 0x12) 1
  let n := devNat s p (e + 0x13) 1
  if 16 ≤ n then s
  else
    let s := devPut32 s p (e + BitVec.ofNat 64 (0x80 + 4 * ((head + n) % 16))) (BitVec.ofNat 32 id)
    seqPut8 s p e 0x13 (n + 1)

/-! ## The image of an entry (R362) -/

/-- The code of an entry's state (R362). -/
def FutSt.code : FutSt → BitVec 3
  | .free => 0 | .armed => 1 | .running => 2 | .replied => 3 | .timedout => 4 | .error => 5

/-- The state word of an entry (R362). -/
def Future.word (f : Future) : BitVec 32 :=
  f.late ++ 0#6 ++ f.origin ++ 0#2 ++ BitVec.ofNat 6 f.owner ++ 0#5 ++ f.st.code

/-- THE 64-BYTE IMAGE of an entry (R362). -/
def Future.image (f : Future) : List Byte :=
  leBytes 4 f.word.toNat ++ leBytes 4 f.nonce.toNat ++ leBytes 4 f.tag.toNat ++ leBytes 2 f.tool.toNat ++
    leBytes 2 f.reason.toNat ++ leBytes 8 f.handle.toNat ++ leBytes 8 f.replyAddr.toNat ++ leBytes 4 f.replyLen ++
    leBytes 4 f.tmo.toNat ++ leBytes 8 f.deadline.toNat ++ leBytes 8 f.argAddr.toNat ++ leBytes 4 f.argLen ++ leBytes 4 0

/-- What a parcel's software reads of an entry through the read-only mapping: zeros where another parcel owns it; the
service firmware, which has no parcel, reads every entry (R362). -/
def futureView (s : State) (reader : Option Nat) (id : Nat) : List Byte :=
  let f := futOf s id
  if reader.isNone || reader == some f.owner then f.image else List.replicate 64 0

/-! ## Creation (R362, R363) -/

/-- What a creation asks for. -/
structure FutReq where
  parcel : Nat
  tag : BitVec 32
  tool : BitVec 16
  origin : BitVec 2
  replyAddr : Word
  replyLen : Nat
  tmo : BitVec 32
  argAddr : Word
  argLen : Nat
  conn : Nat
  st : FutSt

/-- Whether a parcel's quota of live entries allows one more (R362). -/
def futQuotaOk (s : State) (p : Nat) : Bool :=
  match (parcelOf s p).quotas.futures with
  | none => true
  | some q => (s.futures.filter fun kf => kf.2.st != .free && kf.2.owner == p).length < q

/-- A future created: id and entry; nothing when no id is free, the quota is used up, or no system counter can
be allocated. -/
def createFuture (s : State) (r : FutReq) : Option (State × Nat × Future) :=
  if !futQuotaOk s r.parcel then none
  else
    match lowestFrom (fun i => (futOf s i).st == .free) 65536 0 with
    | none => none
    | some id =>
      match homeAlloc s 3 0 r.parcel true 0 true with
      | none => none
      | some (h, s) =>
        let f : Future :=
          { st := r.st, nonce := (futOf s id).nonce + 1, tag := r.tag, tool := r.tool, reason := 0, handle := h,
            replyAddr := r.replyAddr, replyLen := r.replyLen, tmo := r.tmo,
            deadline := BitVec.ofNat 64 (s.cycle + 1100 * (r.tmo.toNat + 1)), argAddr := r.argAddr,
            argLen := r.argLen, owner := r.parcel, origin := r.origin, late := 0, conn := r.conn, doneAt := 0 }
        some (setFut s id f, id, f)

/-! ## Delivery and completion (R364 to R367) -/

/-- Tokens delivered: to the sequence's slot and prefill ring, or to the reply buffer (R366). -/
def deliver (s : State) (id : Nat) (f : Future) (toks : List (BitVec 32)) : State :=
  let s := putTokens s f.owner f.replyAddr toks
  if f.tag = noSeq then s
  else
    let s := needTable s f.owner
    match seqOf s f.owner f.tag with
    | none => s
    | some e => prefillPush s f.owner e id

/-- The sequence's timeout reply tokens, or its error reply tokens, delivered; a future with no sequence gets
none (R365, R267). `off` is the field of R371 that names the list. -/
def deliverFrom (s : State) (id : Nat) (f : Future) (off : Word) : State :=
  if f.tag = noSeq then s
  else
    let s := needTable s f.owner
    match seqOf s f.owner f.tag with
    | none => s
    | some e =>
      let a : Word := BitVec.ofNat 64 (devNat s f.owner (e + off) 8)
      let s := needTokens s f.owner a
      deliver s id f (tokenList s f.owner a)

/-- An entry completed: its state, then the counter receives 1 (R364). -/
def completeFuture (s : State) (id : Nat) (f : Future) (st : FutSt) : State :=
  let s := setFut s id { f with st := st, doneAt := s.cycle }
  (devAdd s f.owner f.handle 1).1

/-- The counter of an entry freed as `cfree` frees it (R367). -/
def freeFutCounter (s : State) (f : Future) : State :=
  if (ctrOf s f.handle).alloc && (ctrOf s f.handle).gen == hGen f.handle then homeFree s f.handle else s

/-- An entry as it stands FREE: its state word is that of reset (R362); the nonce stays for the next creation (R363). -/
def Future.freed (f : Future) : Future :=
  { f with st := .free, owner := Config.freeId, origin := 0, late := 0 }

/-- An entry released: its counter is freed and it becomes FREE (R367). -/
def releaseFuture (s : State) (id : Nat) : State :=
  let f := futOf s id
  if f.st = .free then s else setFut (freeFutCounter s f) id f.freed

/-- An entry cancelled by a revocation: its counter freed, its slot returned (R368). -/
def cancelFuture (s : State) (id : Nat) : State :=
  let f := futOf s id
  let s := needTable s f.owner
  let s := match seqOf s f.owner f.tag with
    | none => s
    | some e => seqPutSlots s f.owner e
        (seqSlots s f.owner e &&& ~~~(slotBit (replySlot (seqReplyBase s f.owner e) f.replyAddr)))
  releaseFuture s id

/-- Every entry of a revoked tag cancelled (R368). -/
def cancelTag (s : State) (tag : BitVec 32) : State :=
  s.futures.foldl (fun s kf => if kf.2.st != .free && kf.2.tag == tag then cancelFuture s kf.1 else s) s

/-! ## Late replies (R369) -/

/-- Whether a device ring with a consumer's counter is full: as many entries are out as it holds. A ring with
no counter is full once every entry is used. -/
def ringFull (s : State) (r : DevRing) : Bool :=
  let used : Nat := if r.cfg.handle = 0 then 0
    else ((ctrOf s r.cfg.handle).value - BitVec.ofNat 64 r.tail).toNat
  r.cfg.entries ≤ r.head - used

/-- A record of a refused completion (R369). -/
def lateRecord (s : State) (p id src : Nat) (nonce : BitVec 32) : State :=
  match (parcelOf s p).lateRing with
  | none => s
  | some r =>
    if ringFull s r then modParcel s p fun P => { P with lateDrops := P.lateDrops + 1 }
    else
      let va := r.cfg.base + BitVec.ofNat 64 (16 * (r.head % r.cfg.entries))
      let bs := leBytes 2 id ++ leBytes 2 src ++ leBytes 4 nonce.toNat ++ leBytes 8 (s.cycle % 2 ^ 64)
      modParcel (devWrite s p va bs) p fun P => { P with lateRing := some { r with head := r.head + 1 } }

/-- Whether a completion from parcel `p` is refused (R267, R369). -/
def refusesCompletion (f : Future) (p : Nat) (nonce : BitVec 32) : Bool :=
  f.st == .free || f.owner != p || f.nonce != nonce || !f.pending

/-- A completion refused: `LATE` rises when the id is in use by the parcel, and the record is appended. -/
def refuseCompletion (s : State) (p id src : Nat) (nonce : BitVec 32) : State :=
  let f := futOf s id
  let s := if f.st = .free ∨ f.owner ≠ p then s
    else setFut s id { f with late := if f.late = 255#8 then 255#8 else f.late + 1 }
  lateRecord s p id src nonce

/-! ## Events -/

/-- An entry that times out (R365). -/
def timeOut (s : State) (id : Nat) : State :=
  let f := futOf s id
  completeFuture (deliverFrom s id f 0x30) id f .timedout

/-- The timer at the last microsecond boundary (R365). An entry whose delivery waits for a page stays as it is until a later
boundary, and the others go on (R303, log 56). -/
def execFutureTimerTick (s : State) : Host.Outcome State Fault Refusal :=
  let now := s.cycle - s.cycle % 1100
  .next (s.futures.foldl (fun s kf =>
    if kf.2.pending && kf.2.deadline.toNat ≤ now then settled s (timeOut s kf.1) else s) s)

/-- A completed entry released: one with no sequence 2^24 cycles after its completion (R367), one of a
sequence that software has freed (R379). -/
def execFutureReleaseNoseq (id : Nat) (s : State) : Host.Outcome State Fault Refusal :=
  let f := futOf s id
  if !f.complete then .next s
  else if f.tag = noSeq then
    if f.doneAt + 2 ^ 24 ≤ s.cycle then .next (releaseFuture s id) else .next s
  else
    let s := needTable s f.owner
    if (seqOf s f.owner f.tag).isNone then .next (releaseFuture s id) else .next s

/-- A remote reply (R369, R419): it completes the entry or is refused; either way it is acknowledged. A list
longer than 16,384 tokens is no reply of R419 and completes nothing. -/
def execRemoteToolReply (conn id : Nat) (nonce : BitVec 32) (toks : List (BitVec 32)) (s : State) :
    Host.Outcome State Fault Refusal :=
  match mget s.host.conns conn with
  | none => .next s
  | some C =>
    let f := futOf s id
    if 16384 < toks.length ∨ 65536 ≤ id then .next s
    else if refusesCompletion f C.parcel nonce || f.origin != 2#2 || f.conn != conn then
      .next (sendUp (refuseCompletion s C.parcel id 1 nonce) (.replyAck conn id))
    else .next (sendUp (completeFuture (deliver s id f toks) id f .replied) (.replyAck conn id))

end Sys2Proof.Machine
end

