-- ==== Sys2Proof/Machine/Harts.lean ====
section
/-!
DEFINITION. The application cores' device extension: traps (R258, R260 to R262; the RISC-V trap sequence log 13),
memory capabilities (R259), the counter instructions (R263 to R265), futures (R266, R267), launches (R268),
device CSR writes (R258) and capability-checked accesses.
-/
namespace Sys2Proof.Machine
open Sys2Proof

/-- A hart; one that is not listed is as at reset. -/
def hartOf (s : State) (h : Nat) : Hart := mgetD s.harts h Hart.init
/-- A hart set. -/
def setHart (s : State) (h : Nat) (H : Hart) : State := { s with harts := mset s.harts h H }
/-- The hart whose turn it is. -/
def State.hartMe (s : State) : Nat :=
  match s.turn with
  | .hart h => h
  | _ => 0

/-- `x`n; `x0` reads 0. -/
def hxGet (H : Hart) (r : BitVec 5) : Word := if r = 0#5 then 0 else bget H.x r
/-- `x`n written; `x0` discards. -/
def hxSet (H : Hart) (r : BitVec 5) (v : Word) : Hart := if r = 0#5 then H else { H with x := bset H.x r v }

/-! ## Traps -/

/-- The exception causes: 24 and 25 of R260 and R262, the rest RISC-V's (log 13). -/
def causeIllegal : Nat := 2
/-- Load address misaligned. -/
def causeMisaligned : Nat := 4
/-- Virtual instruction. -/
def causeVirtual : Nat := 22
/-- A device-extension exception. -/
def causeDevice : Nat := 24
/-- A failed capability check. -/
def causeCap : Nat := 25

/-- A RISC-V CSR of a hart that has no field of its own. -/
def hartCsr (H : Hart) (n : Nat) : Word := mgetD H.csr n 0
/-- A RISC-V CSR set. -/
def hartCsrSet (H : Hart) (n : Nat) (v : Word) : Hart := { H with csr := mset H.csr n v }

/-- The privilege level of a mode: user 0, supervisor 1, machine 3. -/
def modeLevel : Mode → Nat
  | .u => 0 | .vu => 0 | .s => 1 | .vs => 1 | .m => 3
/-- Whether a mode is a guest's. -/
def modeGuest : Mode → Bool
  | .vs => true | .vu => true | _ => false
/-- The mode of a level. -/
def modeOf (lvl : Nat) (guest : Bool) : Mode :=
  match lvl, guest with
  | 0, false => .u | 0, true => .vu | 3, _ => .m | _, false => .s | _, true => .vs

/-- Bits `lo` up to `lo + n` of a word replaced. -/
def putBits (x : Word) (lo n v : Nat) : Word :=
  (x &&& ~~~(BitVec.ofNat 64 ((2 ^ n - 1) * 2 ^ lo))) ||| BitVec.ofNat 64 (v % 2 ^ n * 2 ^ lo)
/-- A bit as a number. -/
def bitNat (b : Bool) : Nat := if b then 1 else 0
/-- Where a trap goes: `tvec` with its vectored interrupts. -/
def tvecPc (tvec : Word) (vector : Nat) : Word :=
  let base := tvec &&& ~~~(3 : Word)
  if tvec &&& 3 = 1 then base + BitVec.ofNat 64 (4 * vector) else base

/-- A TRAP of a hart to the supervisor (log 13): `sepc`, `scause` and `stval` saved, the interrupt enable and the
mode stacked, `SPVP` with a guest's (log 14), the pc at `stvec`. -/
def hartEnter (H : Hart) (cause stval : Word) (vector : Nat) : Hart :=
  let guest := modeGuest H.mode
  let H := if guest then hartCsrSet H 0x600 (putBits (hartCsr H 0x600) 8 1 (modeLevel H.mode)) else H
  { H with sepc := H.pc, scause := cause, stval := stval,
           spp := H.mode == .s || H.mode == .m || H.mode == .vs, spv := guest,
           spie := H.sie, sie := false, mode := .s, waitSince := none, pc := tvecPc H.stvec vector }

/-- A trap to machine mode (log 14). -/
def enterM (H : Hart) (cause stval : Word) (vector : Nat) : Hart :=
  let st := hartCsr H 0x300
  let st := putBits (putBits (putBits (putBits st 7 1 (bitNat (st.getLsbD 3))) 3 1 0) 11 2 (modeLevel H.mode)) 39 1
    (bitNat (modeGuest H.mode))
  let H' := hartCsrSet (hartCsrSet (hartCsrSet (hartCsrSet H 0x300 st) 0x341 H.pc) 0x342 cause) 0x343 stval
  { H' with mode := .m, waitSince := none, pc := tvecPc (hartCsr H 0x305) vector }

/-- A trap to a guest's supervisor (log 14). -/
def enterVs (H : Hart) (cause stval : Word) (vector : Nat) : Hart :=
  let st := hartCsr H 0x200
  let st := putBits (putBits (putBits st 5 1 (bitNat (st.getLsbD 1))) 1 1 0) 8 1 (modeLevel H.mode)
  let H' := hartCsrSet (hartCsrSet (hartCsrSet (hartCsrSet H 0x200 st) 0x241 H.pc) 0x242 cause) 0x243 stval
  { H' with mode := .vs, waitSince := none, pc := tvecPc (hartCsr H 0x205) vector }

/-- An exception of a hart. -/
def hartTrap (s : State) (h : Nat) (cause : Nat) (stval : Word) : State :=
  setHart s h (hartEnter (hartOf s h) (BitVec.ofNat 64 cause) stval 0)

/-- A device-extension exception of cause 24 (R262). -/
def devTrap (s : State) (h : Nat) (f : FaultCode) (stval : Word) : State :=
  hartTrap (setHart s h { hartOf s h with dvcause := f.code.setWidth 64 }) h causeDevice stval

/-- A failed capability check (R260). -/
def capTrap (s : State) (h : Nat) (a : Word) : State :=
  hartTrap (setHart s h { hartOf s h with dvcause := FaultCode.capability.code.setWidth 64 }) h causeCap a

/-- An instruction of a hart carried out. -/
def hartNext (s : State) (h : Nat) (f : Hart → Hart) : State :=
  let H := f (hartOf s h)
  setHart s h { H with pc := H.pc + 4, waitSince := none }

/-! ## Capabilities (R259) -/

/-- Whether one capability covers an access. -/
def capCovers (H : Hart) (i : BitVec 3) (a : Word) (n : Nat) (r w x : Bool) : Bool :=
  let c := bget H.dvcap i
  let base := (c.extractLsb' 0 57).toNat
  let len := ((bget H.dvcaplen i).extractLsb' 0 57).toNat
  let a57 := (a.extractLsb' 0 57).toNat
  c.getLsbD 63 && base ≤ a57 && a57 + n ≤ base + len && (!r || c.getLsbD 62) && (!w || c.getLsbD 61) &&
    (!x || c.getLsbD 60)

/-- Whether an access passes: it is not checked, or some capability covers it. -/
def capOk (H : Hart) (a : Word) (n : Nat) (r w x : Bool) : Bool :=
  H.mode != .u || !H.dvctl.getLsbD 0 ||
    (List.range 8).any fun i => capCovers H (BitVec.ofNat 3 i) a n r w x

/-- The check that an access of `n` bytes needs: by a capability for reads, writes or fetches (R259). -/
def capAcc (H : Hart) (a : Word) (n : Nat) : AccKind → Bool
  | .read => capOk H a n true false false
  | .write => capOk H a n false true false
  | .fetch => capOk H a n false false true

/-! ## Translation of a hart (R256, R257; the RISC-V parts log 14) -/

/-! ### Interrupts -/

/-- The machine, supervisor and guest interrupts in the order in which RISC-V takes them. -/
def intOrder : List Nat := [11, 3, 7, 9, 1, 5, 12, 10, 2, 6]

/-- The interrupts pending (R256): what software and the lines from outside have set, a guest's that `hvip` gives, and the
timers whose compare value `time` has reached where `menvcfg` and `henvcfg` let Sstc compare. -/
def pendingInts (s : State) (H : Hart) : Word :=
  let now (base : Word) : Nat := (BitVec.ofNat 64 s.cycle + base).toNat
  let ip := (hartCsr H 0x344 &&& ~~~(0x444 : Word)) ||| (hartCsr H 0x645 &&& 0x444)
  let ip := if (hartCsr H 0x30A).getLsbD 63 then putBits ip 5 1 (bitNat ((hartCsr H 0x14D).toNat ≤ now 0)) else ip
  if (hartCsr H 0x60A).getLsbD 63 && (hartCsr H 0x24D).toNat ≤ now (hartCsr H 0x605) then putBits ip 6 1 1 else ip

/-- Where an interrupt goes: machine mode, the supervisor, or a guest's supervisor. -/
inductive IntTo where
  | m | s | vs
  deriving DecidableEq, Repr

/-- Where an interrupt goes by `mideleg` and `hideleg`. -/
def intTo (H : Hart) (i : Nat) : IntTo :=
  if !(hartCsr H 0x303).getLsbD i then .m
  else if i = 2 ∨ i = 6 ∨ i = 10 then (if (hartCsr H 0x603).getLsbD i then .vs else .s)
  else .s

/-- Whether a hart's mode and interrupt enables let an interrupt in. -/
def intOpen (H : Hart) : IntTo → Bool
  | .m => H.mode != .m || (hartCsr H 0x300).getLsbD 3
  | .s => H.mode != .m && (H.mode != .s || H.sie)
  | .vs => H.mode == .vu || (H.mode == .vs && (hartCsr H 0x200).getLsbD 1)

/-- The interrupt that a hart takes before its next instruction: pending, enabled and not masked by its mode. -/
def dueInt (s : State) (H : Hart) : Option Nat :=
  intOrder.find? fun i => (pendingInts s H).getLsbD i && (hartCsr H 0x304).getLsbD i && intOpen H (intTo H i)

/-- An interrupt taken; a guest sees its own as the supervisor's. -/
def takeInt (s : State) (h i : Nat) : State :=
  let H := hartOf s h
  let cause (n : Nat) : Word := BitVec.ofNat 64 (2 ^ 63 + n)
  setHart s h (match intTo H i with
    | .m => enterM H (cause i) 0 i
    | .s => hartEnter H (cause i) 0 i
    | .vs => enterVs H (cause (i - 1)) 0 (i - 1))

/-- The interrupt lines from outside the core: those of `mip` that machine mode's software, timer and external
interrupts and the supervisor's external interrupt have (log 1). -/
def hartLines (s : State) (h : Nat) (v : Word) : State :=
  let H := hartOf s h
  setHart s h (hartCsrSet H 0x344 ((hartCsr H 0x344 &&& ~~~(0xA88 : Word)) ||| (v &&& 0xA88)))

/-! ### Regimes -/

/-- The mode in which an access is made: of M mode's loads and stores the previous mode's while `MPRV` is set. -/
def accMode (H : Hart) (k : AccKind) : Mode :=
  if H.mode = .m ∧ k ≠ .fetch ∧ (hartCsr H 0x300).getLsbD 17 then
    match ((hartCsr H 0x300).extractLsb' 11 2).toNat, (hartCsr H 0x300).getLsbD 39 with
    | 0, false => .u | 0, true => .vu | 1, false => .s | 1, true => .vs | _, _ => .m
  else H.mode

/-- A PMP entry's range: base and size; size 0 when it is off. -/
def pmpRange (H : Hart) (i : Nat) : Nat × Nat :=
  let cfg := (hartCsr H (0x3A0 + i / 8 * 2)).toNat / 2 ^ (8 * (i % 8)) % 256
  let a := (hartCsr H (0x3B0 + i)).toNat
  match cfg / 8 % 4 with
  | 0 => (0, 0)
  | 1 =>
    let lo := if i = 0 then 0 else (hartCsr H (0x3B0 + i - 1)).toNat
    (4 * lo, 4 * (a - lo))
  | 2 => (4 * a, 4)
  | _ =>
    let t := ((List.range 54).find? fun j => a / 2 ^ j % 2 == 0).getD 54
    (4 * (a - a % 2 ^ (t + 1)), 2 ^ (t + 3))

/-- The checks of the 16 PMP entries on a physical access (R256): the first entry that meets it decides. -/
def pmpOk (H : Hart) (m : Mode) (pa n : Nat) (k : AccKind) : Bool :=
  let meets (i : Nat) : Bool := let r := pmpRange H i; r.2 != 0 && decide (r.1 < pa + n ∧ pa < r.1 + r.2)
  match (List.range 16).find? meets with
  | none => m == .m
  | some i =>
    let r := pmpRange H i
    let cfg := (hartCsr H (0x3A0 + i / 8 * 2)).toNat / 2 ^ (8 * (i % 8)) % 256
    let bit := match k with | .read => 1 | .write => 2 | .fetch => 4
    decide (r.1 ≤ pa ∧ pa + n ≤ r.1 + r.2) && ((m == .m && cfg / 128 % 2 == 0) || cfg / bit % 2 == 1)

/-- What a walk of a hart's own tables has read, and the leaves it goes through, each with whether it is written
through. -/
structure HPath where
  reads : List Nat
  leaves : List (Leaf × Bool)

/-- No table. -/
def HPath.nil : HPath := { reads := [], leaves := [] }
/-- One path after another. -/
def HPath.append (a b : HPath) : HPath := { reads := a.reads ++ b.reads, leaves := a.leaves ++ b.leaves }

/-- Where a table entry lies. -/
inductive HPlace where
  | ok (pa : Nat) | miss | denied | transit

/-- What a walk of a hart's own tables finds: a leaf, no page, no page for a guest's table entry, an entry that PMP denies,
or a page in transit. -/
inductive HWalk where
  | leaf (l : Leaf) | miss | guest (ga : Nat) | denied | transit

/-- What a table entry of a hart's own tables says, with `k` levels below it: a leaf, or the next table's base, with the
NAPOT and PBMT bits that R256 names. A 64 KiB leaf is answered as the 4 KiB leaf that it gives the address. -/
def hartEntry (va k a pte : Nat) : Option (Sum Leaf Nat) :=
  if !pteBit pte 0 || (pteBit pte 2 && !pteBit pte 1) || pte / 2 ^ 54 % 128 ≠ 0 || pte / 2 ^ 61 % 4 == 3 then none
  else if pteBit pte 1 || pteBit pte 3 then
    if pteBit pte 63 then
      if k = 0 ∧ ptePpn pte % 16 = 8 then
        some (.inl { at_ := a, pte := pte - 8 * 2 ^ 10 + va / 4096 % 16 * 2 ^ 10, level := 0 })
      else none
    else if ptePpn pte % 2 ^ (9 * k) ≠ 0 then none
    else some (.inl { at_ := a, pte := pte, level := k })
  else some (.inr (ptePpn pte * 4096))

/-- A hart's walk of tables of its own from a base with `k` levels left (log 14). `place` says where a table entry lies;
the first table has `top` entries. -/
def hartWalk (p : Phys) (place : Nat → HPath × HPlace) (va : Nat) : Nat → Nat → Nat → HPath × HWalk
  | 0, _, _ => (HPath.nil, .miss)
  | k + 1, top, base =>
    let ga := base + 8 * (va / 2 ^ (12 + 9 * k) % top)
    match place ga with
    | (w, .miss) => (w, .guest ga)
    | (w, .denied) => (w, .denied)
    | (w, .transit) => (w, .transit)
    | (w, .ok a) =>
      let w := w.append { reads := [a], leaves := [] }
      match hartEntry va k a (physNat p a 8) with
      | none => (w, .miss)
      | some (.inl l) => (w, .leaf l)
      | some (.inr next) =>
        let r := hartWalk p place va k 512 next
        (w.append r.1, r.2)

/-- The levels of the tables that a translation mode names: Sv39, Sv48 or Sv57 (R256). -/
def modeLevels (atp : Word) : Option Nat :=
  match (atp.extractLsb' 60 4).toNat with
  | 8 => some 3 | 9 => some 4 | 10 => some 5 | _ => none

/-- The base of the tables that a translation register names. -/
def atpBase (atp : Word) : Nat := (atp.extractLsb' 0 44).toNat * 4096

/-- Whether the bits of an address above a regime's all equal its top bit. -/
def fitsBits (va : Word) (n : Nat) : Bool := (va <<< (64 - n)).sshiftRight (64 - n) == va

/-- Whether a leaf's U bit lets a mode use it: user modes need it, supervisors its absence, or SUM for their data. -/
def userOk (H : Hart) (m : Mode) (l : Leaf) (k : AccKind) : Bool :=
  let user := modeLevel m == 0
  let st := hartCsr H (if modeGuest m then 0x200 else 0x300)
  pteBit l.pte 4 == user || (!user && k != .fetch && st.getLsbD 18)

/-- A leaf with what `MXR` gives it: what may be executed may be read. -/
def mxrLeaf (mxr : Bool) (l : Leaf) : Leaf :=
  { l with pte := l.pte ||| 16 ||| (if mxr && pteBit l.pte 3 then 2 else 0) }

/-- Whether a leaf's R, W or X bit lets an access. -/
def leafLets (l : Leaf) : AccKind → Bool
  | .read => pteBit l.pte 1 | .write => pteBit l.pte 2 | .fetch => pteBit l.pte 3

/-- What a leaf gives a hart: its U bit, then the checks of R115 and R303. -/
def hartLeaf (s : State) (H : Hart) (m : Mode) (l : Leaf) (va : Nat) (k : AccKind) : XRes :=
  if !userOk H m l k then (if l.pte / 2 ^ 8 % 4 = 1 then .transit else .fault .perm)
  else leafRes (fun sc off => partOwner s sc off == H.owner) (mxrLeaf ((hartCsr H 0x300).getLsbD 19) l) va k

/-- How an access of a hart found its page: without one, by the parcel's tables, or by tables of the hart's own. -/
inductive Via where
  | plain
  | parcel (l : Option Leaf)
  | own (w : HPath)

/-- Where a hart's access goes: a physical address, a fault, with the guest's physical address where the guest's second
stage raises it, or a wait for a page in transit. -/
inductive HOut where
  | ok (pa : Nat)
  | fault (f : FaultCode) (ga : Option Nat)
  | transit

/-- A place that PMP lets pass. -/
def pmpGate (H : Hart) (m : Mode) (pa n : Nat) (k : AccKind) : HOut :=
  if pmpOk H m pa n k then .ok pa else .fault .bounds none

/-- A physical access: of M mode, or of a supervisor with translation off. -/
def plainAt (H : Hart) (m : Mode) (pa n : Nat) (k : AccKind) : HOut :=
  if region pa = .hole then .fault .bounds none else pmpGate H m pa n k

/-- What a leaf's answer comes to. -/
def outOf (H : Hart) (m : Mode) (n : Nat) (k : AccKind) : XRes → HOut
  | .ok pa _ => pmpGate H m pa n k
  | .fault f => .fault f none
  | .transit => .transit

/-- A table entry at a physical address, as PMP lets a supervisor read it. -/
def plainPlace (H : Hart) (a : Nat) : HPath × HPlace :=
  (HPath.nil, if pmpOk H .s a 8 .read then .ok a else .denied)

/-- What a walk that found no leaf comes to. -/
def walkFail : HWalk → HOut
  | .guest ga => .fault .xlate (some ga)
  | .denied => .fault .bounds none
  | .transit => .transit
  | _ => .fault .xlate none

/-- A translation of a sandbox context through its parcel's root (R257). -/
def parcelXlate (s : State) (h : Nat) (m : Mode) (va : Word) (n : Nat) (k : AccKind) : Via × HOut :=
  let H := hartOf s h
  if !canonical va then (.parcel none, .fault .perm none)
  else
    match (match heldLeaf s.xl (.hart h) H.owner (vaOf va) with
      | some l => HWalk.leaf l
      | none => (hartWalk s.phys (plainPlace H) (vaOf va) 4 512 (parcelOf s H.owner).root).2) with
    | .leaf l => (.parcel (some l), outOf H m n k (hartLeaf s H m l (vaOf va) k))
    | r => (.parcel none, walkFail r)

/-- A translation through tables that `satp` names. -/
def ownXlate (s : State) (h : Nat) (m : Mode) (levels base : Nat) (va : Word) (n : Nat) (k : AccKind) : Via × HOut :=
  let H := hartOf s h
  let bits := 12 + 9 * levels
  let v := va.toNat % 2 ^ bits
  if !fitsBits va bits then (.plain, .fault .perm none)
  else
    match hartWalk s.phys (plainPlace H) v levels 512 base with
    | (w, .leaf l) =>
      match hartLeaf s H m l v k with
      | .ok pa _ => (.own (w.append { reads := [], leaves := [(l, k == .write)] }), pmpGate H m pa n k)
      | r => (.own w, outOf H m n k r)
    | (w, r) => (.own w, walkFail r)

/-- A GUEST'S PHYSICAL ADDRESS translated by the tables that `hgatp` names; its leaves are user pages (R256, log 14). -/
def guestPlace (s : State) (H : Hart) (k : AccKind) (ga : Nat) : HPath × HPlace :=
  match modeLevels (hartCsr H 0x680) with
  | none => plainPlace H ga
  | some levels =>
    if 2 ^ (14 + 9 * levels) ≤ ga then (HPath.nil, .miss)
    else
      match hartWalk s.phys (plainPlace H) ga levels 2048 (atpBase (hartCsr H 0x680) / 16384 * 16384) with
      | (w, .leaf l) =>
        if !pteBit l.pte 4 then (w, .miss)
        else
          match leafRes (fun sc off => partOwner s sc off == H.owner) (mxrLeaf ((hartCsr H 0x300).getLsbD 19) l) ga k with
          | .ok pa _ => (w.append { reads := [], leaves := [(l, k == .write)] }, .ok pa)
          | .fault .foreign => (w, .denied)
          | .fault _ => (w, .miss)
          | .transit => (w, .transit)
      | (w, .denied) => (w, .denied)
      | (w, _) => (w, .miss)

/-- The end of a guest's access: its physical address placed. -/
def guestEnd (s : State) (H : Hart) (m : Mode) (w : HPath) (ga n : Nat) (k : AccKind) : Via × HOut :=
  match guestPlace s H k ga with
  | (w', .ok pa) => (.own (w.append w'), plainAt H m pa n k)
  | (w', .miss) => (.own (w.append w'), .fault .xlate (some ga))
  | (w', .denied) => (.own (w.append w'), .fault .bounds none)
  | (w', .transit) => (.own (w.append w'), .transit)

/-- A guest's translation in two stages: `vsatp`, then `hgatp` (R256, log 14). -/
def guestXlate (s : State) (h : Nat) (m : Mode) (va : Word) (n : Nat) (k : AccKind) : Via × HOut :=
  let H := hartOf s h
  let atp := hartCsr H 0x280
  match modeLevels atp with
  | none => guestEnd s H m HPath.nil va.toNat n k
  | some levels =>
    let bits := 12 + 9 * levels
    let v := va.toNat % 2 ^ bits
    if !fitsBits va bits then (.plain, .fault .perm none)
    else
      match hartWalk s.phys (guestPlace s H .read) v levels 512 (atpBase atp) with
      | (w, .leaf l) =>
        let mxr := (hartCsr H 0x200).getLsbD 19 || (hartCsr H 0x300).getLsbD 19
        if !userOk H m l k || !leafLets (mxrLeaf mxr l) k then (.own w, .fault .perm none)
        else
          guestEnd s H m (w.append { reads := [], leaves := [(l, k == .write)] }) (l.pa v) n k
      | (w, r) => (.own w, walkFail r)

/-- THE TRANSLATION OF A HART'S ACCESS within one page. A sandbox context, which runs in U mode, translates through its
parcel's Sv48 root unless `satp` names Sv39 or Sv57 tables (R257); a supervisor through what `satp` names, or not at
all; a guest in two stages (R256, log 14). -/
def hartXlate (s : State) (h : Nat) (va : Word) (n : Nat) (k : AccKind) : Via × HOut :=
  let H := hartOf s h
  let m := accMode H k
  let atp := hartCsr H 0x180
  if m = .m then (.plain, plainAt H m va.toNat n k)
  else if modeGuest m then guestXlate s h m va n k
  else
    match modeLevels atp with
    | none => if m = .u then parcelXlate s h m va n k else (.plain, plainAt H m va.toNat n k)
    | some levels =>
      if m = .u ∧ levels = 4 then parcelXlate s h m va n k else ownXlate s h m levels (atpBase atp) va n k

/-- The physical address that a hart's access reaches, where it reaches one. -/
def hartPa (s : State) (h : Nat) (va : Word) (n : Nat) (k : AccKind) : Option Nat :=
  match (hartXlate s h va n k).2 with
  | .ok pa => some pa
  | _ => none

/-! ## Memory of a hart -/

/-- What a hart's access gives. CAPABILITY stands for a failed check of R259; `ga` is the guest's physical address of a
fault of the guest's second stage. A wait for a page in transit carries what the walk has read. -/
inductive HRes where
  | ok (s : State) (bs : List Byte)
  | fault (s : State) (f : FaultCode) (va : Word) (ga : Option Nat)
  | transit (s : State)

/-- The state after the walk of a hart's access: its entries read through the L2, and its leaf used (R305, R438). -/
def hartWalked (s : State) (h : Nat) (va : Word) (wr : Bool) : Via → State
  | .plain => s
  | .parcel none => missWalk s (.hart h) (hartOf s h).owner va
  | .parcel (some l) =>
    let p := (hartOf s h).owner
    walked s (.hart h) p (parcelOf s p).root (vaOf va) l wr
  | .own w =>
    let p := (hartOf s h).owner
    w.leaves.foldl (fun s lw => markLeaf s p lw.1 lw.2) (w.reads.foldl (fun s a => useLines s p a 8 .read) s)

/-- The state after a walk that found no page to use. -/
def hartMissed (s : State) (h : Nat) (va : Word) : Via → State
  | .parcel _ => missWalk s (.hart h) (hartOf s h).owner va
  | v => hartWalked s h va false v

/-- The state after a hart's access reached its lines. -/
def hartTouch (s : State) (h : Nat) (va : Word) (pa n : Nat) (use : LineUse) (v : Via) : State :=
  let p := (hartOf s h).owner
  useLines (exchanged (hartWalked s h va (use != .read) v) (.hart h) p (endpointAt pa)) p pa n use

/-- One piece read, within a page; `use` says what it needs of its lines. -/
def hartPiece (use : LineUse) (s : State) (h : Nat) (va : Word) (n : Nat) (k : AccKind) : HRes :=
  match hartXlate s h va n k with
  | (v, .fault f ga) => .fault (hartMissed s h va v) f va ga
  | (v, .transit) => .transit (hartMissed s h va v)
  | (v, .ok pa) =>
    match readAt s (hartOf s h).owner pa n (hartTouch s h va pa n use v) with
    | .ok s bs => .ok s bs
    | .fault s f => .fault s f va none
    | .transit s => .transit s

/-- Pieces read in order. -/
def hartPieces (use : LineUse) (h : Nat) (k : AccKind) : State → List (Word × Nat) → HRes
  | s, [] => .ok s []
  | s, (va, n) :: ps =>
    match hartPiece use s h va n k with
    | .ok s bs =>
      match hartPieces use h k s ps with
      | .ok s bs' => .ok s (bs ++ bs')
      | e => e
    | e => e

/-- A READ OF A HART: the capability check over the whole range, then each page of it (R259). -/
def hartRead (s : State) (h : Nat) (va : Word) (n : Nat) (k : AccKind) : HRes :=
  if capAcc (hartOf s h) va n k then hartPieces .read h k s (pagePieces va n) else .fault s .capability va none

/-- What keeps a store from being made at one of its pages. -/
def hartStoreFault (s : State) (h : Nat) : List (Word × Nat) → Option HRes
  | [] => none
  | (va, n) :: ps =>
    match hartXlate s h va n .write with
    | (v, .fault f ga) => some (.fault (hartMissed s h va v) f va ga)
    | (v, .transit) => some (.transit (hartMissed s h va v))
    | (_, .ok _) => hartStoreFault s h ps

/-- What keeps a store of a hart from being made: its capability check, or the translation of one of its pages
(R259, R260). -/
def hartStoreStop (s : State) (h : Nat) (va : Word) (n : Nat) : Option HRes :=
  if !capAcc (hartOf s h) va n .write then some (.fault s .capability va none)
  else hartStoreFault s h (pagePieces va n)

/-- Bytes stored at a physical address that a hart's access reaches. -/
def hartPutAt (s : State) (h : Nat) (va : Word) (pa : Nat) (bs : List Byte) (t : State) : State :=
  let p := (hartOf s h).owner
  writeAt s (.hart h) p (noOwner p) va pa bs t

/-- One piece stored, within a page. -/
def hartPut (h : Nat) (s : State) (va : Word) (bs : List Byte) : State :=
  match hartXlate s h va bs.length .write with
  | (v, .ok pa) => hartPutAt s h va pa bs (hartTouch s h va pa bs.length .write v)
  | _ => s

/-- The bytes of a store, page by page. -/
def hartPuts (s : State) (h : Nat) (va : Word) (bs : List Byte) : State :=
  (pagePieces va bs.length).foldl (fun s an => hartPut h s an.1 ((bs.drop (an.1 - va).toNat).take an.2)) s

/-- A STORE OF A HART: the capability check, every page's translation, then the bytes; nothing is stored in part
(R259, R260). -/
def hartStore (s : State) (h : Nat) (va : Word) (bs : List Byte) : HRes :=
  match hartStoreStop s h va bs.length with
  | some r => r
  | none => .ok (hartPuts s h va bs) []

/-- AN ATOMIC OPERATION OF A HART at the line's home slice, one message there and back (R259, R278, R438): the bytes that
it read; `f` gives those that it stores. -/
def hartAmo (s : State) (h : Nat) (va : Word) (n : Nat) (f : List Byte → List Byte) : HRes :=
  let p := (hartOf s h).owner
  if !capOk (hartOf s h) va n true true false then .fault s .capability va none
  else
    match hartXlate s h va n .write with
    | (v, .fault c ga) => .fault (hartMissed s h va v) c va ga
    | (v, .transit) => .transit (hartMissed s h va v)
    | (v, .ok pa) =>
      match readAt s p pa n (hartTouch s h va pa n .own v) with
      | .fault s c => .fault s c va none
      | .transit s => .transit s
      | .ok t bs => .ok (hartPutAt t h va pa (f bs) (useLines t p pa n .write)) bs

/-- A failed access of a device-extension instruction: the capability trap, or cause 24 with the fault's code (R260,
R262). -/
def devFault (s : State) (h : Nat) (f : FaultCode) (va : Word) : State :=
  if f = .capability then capTrap s h va else devTrap s h f va

/-! ## Issue of a custom instruction -/

/-- A custom word (R261). -/
def customWord (q l : BitVec 1) (sc : BitVec 2) (rs2 rs1 : BitVec 5) (f : BitVec 3) (rd : BitVec 5)
    (op : BitVec 7) : BitVec 32 := q ++ l ++ sc ++ 0#3 ++ rs2 ++ rs1 ++ f ++ rd ++ op

/-- A custom instruction: illegal in U mode while its enable is 0 (R261); FOREIGN on a hart that no parcel owns
(R268). `bit` is its enable in `dvctl`. -/
def customInst (bit : Nat) (w : BitVec 32) (rs1 : BitVec 5) (body : Nat → State → State) (s : State) :
    Host.Outcome State Fault Refusal :=
  let h := s.hartMe
  let H := hartOf s h
  if H.mode = .u ∧ !H.dvctl.getLsbD bit then .next (hartTrap s h causeIllegal (w.setWidth 64))
  else if H.owner = Config.freeId then .next (devTrap s h .foreign (hxGet H rs1))
  else .next (body h s)

/-! ## Counters (R263 to R265) -/

/-- The handle checks of R263. -/
def hartHandle (s : State) (p : Nat) (h : Word) (r : Right) : Option FaultCode :=
  if h.toNat < 64 ∨ hScope h = 0 then some .foreign else checkRemote s h p r

/-- What the hart's scope policy does to an operation (R263). -/
def hartPolicy (H : Hart) (sc : BitVec 2) (ordered : Bool) : Policy :=
  if sc = 3#2 ∧ ordered then H.policy else .system

/-- A counter instruction: the handle checks, an amount check, the scope policy, then its effect. -/
def hartCounter (s : State) (h : Nat) (sc : BitVec 2) (ordered : Bool) (hd : Word) (r : Right) (amountOk : Bool)
    (act : State → State) : State :=
  let H := hartOf s h
  match hartHandle s H.owner hd r with
  | some f => devTrap s h f hd
  | none =>
    if !amountOk then devTrap s h .illegal hd
    else
      match hartPolicy H sc ordered with
      | .trap => devTrap s h .scope hd
      | .clamp => act (clamped s H.owner)
      | .system => act s

/-- A read of a counter by a hart reaches its home (R402); one whose request fails its check is answered as a refused one,
and logged (R392). -/
def hartAsk (s : State) (h : Nat) (hd : Word) (act : State → State) : State :=
  let p := (hartOf s h).owner
  if s.mesh.fail = some .request then
    devTrap (logEv (meshSpent s) (.violation p (ctrOf s hd).owner)) h .foreign hd
  else act (homeMsg s (.hart h) p hd)

/-- `dv.cadd` (R264). -/
def execDvCadd (q ln : BitVec 1) (sc : BitVec 2) (rs2 a d : BitVec 5) (s : State) :
    Host.Outcome State Fault Refusal :=
  customInst 1 (customWord q ln sc rs2 a 0 d 0x0B) a (fun h s =>
    let H := hartOf s h
    let x := hxGet H rs2
    hartCounter s h sc (q = 1#1 || ln = 1#1) (hxGet H a) .add (x.toNat < 2 ^ 32) fun s =>
      let (old, s) := meshAdd s (.hart h) (noOwner H.owner) 0xFFFF (hxGet H a) x
      hartNext s h fun H => hxSet H d old) s

/-- `dv.cread` (R264). -/
def execDvCread (q : BitVec 1) (sc : BitVec 2) (a d : BitVec 5) (s : State) :
    Host.Outcome State Fault Refusal :=
  customInst 1 (customWord q 0 sc 0 a 1 d 0x0B) a (fun h s =>
    let hd := hxGet (hartOf s h) a
    hartCounter s h sc (q = 1#1) hd .read true fun s =>
      hartAsk s h hd fun s => hartNext s h fun H => hxSet H d (ctrOf s hd).value) s

/-- `dv.ctest` (R264). -/
def execDvCtest (q : BitVec 1) (sc : BitVec 2) (rs2 a d : BitVec 5) (s : State) :
    Host.Outcome State Fault Refusal :=
  customInst 1 (customWord q 0 sc rs2 a 2 d 0x0B) a (fun h s =>
    let hd := hxGet (hartOf s h) a
    hartCounter s h sc (q = 1#1) hd .read true fun s =>
      hartAsk s h hd fun s => hartNext s h fun H => hxSet H d (wordOf (reached (ctrOf s hd).value (hxGet H rs2)))) s

/-- `dv.cwait`: reads the counter at its home until the threshold is reached (R264, R265). The policy acts when the wait
ends. -/
def dvCwaitBody (q : BitVec 1) (sc : BitVec 2) (rs2 a d : BitVec 5) (h : Nat) (s : State) : State :=
  let H := hartOf s h
  let hd := hxGet H a
  match hartHandle s H.owner hd .read with
  | some f => devTrap s h f hd
  | none =>
    hartAsk s h hd fun s =>
      if reached (ctrOf s hd).value (hxGet H rs2) then
        match hartPolicy H sc (q = 1#1) with
        | .trap => devTrap s h .scope hd
        | .clamp => hartNext (clamped s H.owner) h fun H => hxSet H d 1
        | .system => hartNext s h fun H => hxSet H d 1
      else setHart s h { H with waitSince := some ((H.waitSince.map (·.1)).getD s.cycle, d) }

/-- `dv.cwait` (R264, R265). -/
def execDvCwait (q : BitVec 1) (sc : BitVec 2) (rs2 a d : BitVec 5) (s : State) :
    Host.Outcome State Fault Refusal :=
  customInst 1 (customWord q 0 sc rs2 a 3 d 0x0B) a (dvCwaitBody q sc rs2 a d) s

/-- The timeout of a `dv.cwait` in progress: rd = 0 (R265). -/
def execDvCwaitTimeout (hart : Nat) (s : State) : Host.Outcome State Fault Refusal :=
  let H := hartOf s hart
  let t := (H.dvcwto.extractLsb' 0 32).toNat
  match H.waitSince with
  | none => .next s
  | some (t0, d) =>
    if t ≠ 0 ∧ t0 + 1100 * t ≤ s.cycle then .next (hartNext s hart fun H => hxSet H d 0) else .next s

/-- An interrupt taken during a `dv.cwait`: one that is pending and enabled, whose instruction then begins again (R265). -/
def execHartInterrupt (hart : Nat) (cause : Nat) (s : State) : Host.Outcome State Fault Refusal :=
  let H := hartOf s hart
  if H.waitSince.isSome && dueInt s H == some cause then .next (takeInt s hart cause) else .next s

/-! ## Futures (R266, R267) -/

/-- A request block (R266). -/
structure FnewReq where
  tag : BitVec 32
  tool : BitVec 16
  zero : Nat
  reply : Word
  tmo : BitVec 32
  len : Nat

/-- A request block from its bytes. -/
def fnewReq (bs : List Byte) : FnewReq :=
  { tag := BitVec.ofNat 32 (fieldAt bs 0 4), tool := BitVec.ofNat 16 (fieldAt bs 4 2), zero := fieldAt bs 6 2,
    reply := BitVec.ofNat 64 (fieldAt bs 8 8), tmo := BitVec.ofNat 32 (fieldAt bs 0x10 4),
    len := fieldAt bs 0x14 4 }

/-- The reply slot that a sequence future gets with its sequence's bit set (R366): the reply buffer of the entry
and its length, or nothing when every slot is held. A future whose tag no sequence of the parcel has keeps the
block's buffer. -/
def fnewReply (s : State) (p : Nat) (r : FnewReq) : Option (State × Word × Nat) :=
  if r.tag = noSeq then some (s, r.reply, r.len)
  else
    match seqOf s p r.tag with
    | none => some (s, r.reply, r.len)
    | some e =>
      match (List.range 16).find? fun k => !(seqSlots s p e).getLsbD k with
      | none => none
      | some k => some (seqPutSlots s p e (seqSlots s p e ||| slotBit k),
          seqReplyBase s p e + BitVec.ofNat 64 (65600 * k), 65600)

/-- Steps 3 and 4 of R266, with the handle's store checked before anything changes. -/
def fnewMake (s : State) (h : Nat) (va : Word) (r : FnewReq) (d : BitVec 5) : State :=
  let H := hartOf s h
  let none_ := hartNext s h fun H => hxSet H d (BitVec.allOnes 64)
  let s := needTable s H.owner
  match fnewReply s H.owner r with
  | none => none_
  | some (s1, reply, len) =>
    let req : FutReq :=
      { parcel := H.owner, tag := r.tag, tool := r.tool, origin := 0, replyAddr := reply, replyLen := len,
        tmo := r.tmo, argAddr := 0, argLen := 0, conn := 0, st := .running }
    match createFuture s1 req with
    | none => none_
    | some (s2, id, f) =>
      match hartStoreStop s h (va + 0x18) 8 with
      | some (.transit t) => t
      | some (.fault t c a _) => devFault t h c a
      | _ =>
        hartNext (hartPuts s2 h (va + 0x18) (leBytes 8 f.handle.toNat)) h fun H =>
          hxSet H d (f.nonce ++ BitVec.ofNat 32 id)

/-- `dv.fnew` (R266). -/
def dvFnewBody (a d : BitVec 5) (h : Nat) (s : State) : State :=
  let va := hxGet (hartOf s h) a
  if va.toNat % 8 ≠ 0 then hartTrap s h causeMisaligned va
  else
    match hartRead s h va 32 .read with
    | .transit s => s
    | .fault s f a _ => devFault s h f a
    | .ok s bs =>
      let r := fnewReq bs
      if r.zero ≠ 0 ∨ r.reply.toNat % 4 ≠ 0 ∨ r.len % 4 ≠ 0 ∨ r.len < 4 then devTrap s h .illegal va
      else if r.tag ≠ noSeq ∧ s.commit.revoked.contains r.tag then devTrap s h .revoked va
      else fnewMake s h va r d

/-- `dv.fnew` (R266). -/
def execDvFnew (a d : BitVec 5) (s : State) : Host.Outcome State Fault Refusal :=
  customInst 2 (customWord 0 0 0 0 a 0 d 0x2B) a (dvFnewBody a d) s

/-- A refused completion by a hart: rd = 1 (R267). -/
def hartLate (s : State) (h id : Nat) (nonce : BitVec 32) (d : BitVec 5) : State :=
  hartNext (refuseCompletion s (hartOf s h).owner id 0 nonce) h fun H => hxSet H d 1

/-- The tokens of a byte list. -/
def toksOf (bs : List Byte) : Nat → List (BitVec 32)
  | 0 => []
  | n + 1 => BitVec.ofNat 32 (leNat (bs.take 4)) :: toksOf (bs.drop 4) n

/-- `dv.fpost` (R267). -/
def dvFpostBody (rs2 a d : BitVec 5) (h : Nat) (s : State) : State :=
  let H := hartOf s h
  let w := hxGet H a
  let id := (w.extractLsb' 0 16).toNat
  let f := futOf s id
  let va := hxGet H rs2
  if refusesCompletion f H.owner (w.extractLsb' 32 32) then hartLate s h id (w.extractLsb' 32 32) d
  else if va.toNat % 4 ≠ 0 then hartTrap s h causeMisaligned va
  else
    match hartRead s h va 4 .read with
    | .transit s => s
    | .fault s f a _ => devFault s h f a
    | .ok s cnt =>
      let n := leNat cnt
      if 16384 < n ∨ (f.tag = noSeq ∧ f.replyLen < 4 + 4 * n) then hartNext s h fun H => hxSet H d 2
      else
        match (if n = 0 then HRes.ok s [] else hartRead s h (va + 4) (4 * n) .read) with
        | .transit s => s
        | .fault s f a _ => devFault s h f a
        | .ok s bs =>
          hartNext (completeFuture (deliver s id f (toksOf bs n)) id f .replied) h fun H => hxSet H d 0

/-- `dv.fpost` (R267). -/
def execDvFpost (rs2 a d : BitVec 5) (s : State) : Host.Outcome State Fault Refusal :=
  customInst 2 (customWord 0 0 0 rs2 a 1 d 0x2B) a (dvFpostBody rs2 a d) s

/-- `dv.ffail` (R267). -/
def dvFfailBody (rs2 a d : BitVec 5) (h : Nat) (s : State) : State :=
  let H := hartOf s h
  let w := hxGet H a
  let id := (w.extractLsb' 0 16).toNat
  let f := futOf s id
  let r := hxGet H rs2
  if r.extractLsb' 16 48 ≠ 0#48 then devTrap s h .illegal w
  else if refusesCompletion f H.owner (w.extractLsb' 32 32) then hartLate s h id (w.extractLsb' 32 32) d
  else
    let s := deliverFrom s id f 0x38
    hartNext (completeFuture s id { f with reason := r.extractLsb' 0 16 } .error) h fun H => hxSet H d 0

/-- `dv.ffail` (R267). -/
def execDvFfail (rs2 a d : BitVec 5) (s : State) : Host.Outcome State Fault Refusal :=
  customInst 2 (customWord 0 0 0 rs2 a 2 d 0x2B) a (dvFfailBody rs2 a d) s

/-! ## Launches (R268) -/

/-- A submission that a hart makes: its reads are the hart's, under its translation and within its capabilities (R259,
R268). -/
def hartSubmitter (H : Hart) (h : Nat) : Submitter :=
  { parcel := H.owner, fn := none, policy := H.policy, cap := fun a n => capOk H a n true false false,
    read := fun s va n =>
      match hartRead s h va n .read with
      | .ok s bs => .ok s bs
      | .fault s f _ _ => .fault s f
      | .transit s => .transit s }

/-- `dv.launch` (R268). -/
def dvLaunchBody (a d : BitVec 5) (h : Nat) (s : State) : State :=
  let H := hartOf s h
  let va := hxGet H a
  if va.toNat % 64 ≠ 0 then hartTrap s h causeMisaligned va
  else
    match submitLaunch s (hartSubmitter H h) va with
    | .ok s id => hartNext s h fun H => hxSet H d (id.setWidth 64)
    | .full s => hartNext s h fun H => hxSet H d (BitVec.allOnes 64)
    | .refused s f => devTrap s h f va
    | .unread s f at_ => devTrap s h f at_
    | .cap at_ => capTrap s h at_
    | .transit => s

/-- `dv.launch` (R268). -/
def execDvLaunch (a d : BitVec 5) (s : State) : Host.Outcome State Fault Refusal :=
  customInst 3 (customWord 0 0 0 0 a 3 d 0x2B) a (dvLaunchBody a d) s

/-! ## Illegal custom words (R261) -/

/-- Whether a word lies in a custom space. -/
def isCustom (w : BitVec 32) : Bool :=
  let op := w.extractLsb' 0 7
  op == 0x0B#7 || op == 0x2B#7 || op == 0x5B#7 || op == 0x7B#7

/-- Whether R261 gives a custom word an instruction. -/
def customLegal (w : BitVec 32) : Bool :=
  let f := (w.extractLsb' 12 3).toNat
  let rs2z := w.extractLsb' 20 5 == 0#5
  let aq := w.getLsbD 31
  let rl := w.getLsbD 30
  if w.extractLsb' 0 7 = 0x0B#7 then
    f < 4 && w.extractLsb' 25 3 == 0#3 && w.getLsbD 29 && (if f = 0 then !aq || rl else !rl) &&
      (f != 1 || rs2z)
  else if w.extractLsb' 0 7 = 0x2B#7 then
    f < 4 && w.extractLsb' 25 7 == 0#7 && ((f != 0 && f != 3) || rs2z)
  else false

/-- The `dvctl` enable of a legal custom word. -/
def customEnable (w : BitVec 32) : Nat :=
  if w.extractLsb' 0 7 = 0x0B#7 then 1 else if w.extractLsb' 12 3 = 3#3 then 3 else 2

/-- A custom word that R261 refuses raises an illegal-instruction exception with the word in `stval`. -/
def execCustomIllegalInstruction (hart : Nat) (word : BitVec 32) (s : State) :
    Host.Outcome State Fault Refusal :=
  let H := hartOf s hart
  if isCustom word && (!customLegal word || (H.mode == .u && !H.dvctl.getLsbD (customEnable word))) then
    .next (hartTrap s hart causeIllegal (word.setWidth 64))
  else .next s

/-! ## Device CSRs (R258) -/

/-- Whether a CSR number is one of the device extension's. -/
def isDevCsr (c : BitVec 12) : Bool :=
  c == 0x800#12 || (0x5C0 ≤ c.toNat && c.toNat ≤ 0x5D1) || c == 0xDC0#12

/-- A device CSR written; reserved fields read 0. -/
def devCsrSet (H : Hart) (c : BitVec 12) (v : Word) : Hart :=
  let n := c.toNat
  if n = 0x800 then { H with dvcwto := v &&& 0xFFFFFFFF }
  else if n < 0x5C8 then { H with dvcap := bset H.dvcap (c.extractLsb' 0 3) (v &&& 0xF1FFFFFFFFFFFFFF) }
  else if n < 0x5D0 then { H with dvcaplen := bset H.dvcaplen (c.extractLsb' 0 3) (v &&& 0x01FFFFFFFFFFFFFF) }
  else if n = 0x5D0 then { H with dvctl := v &&& 0xF }
  else { H with dvcause := v &&& 0xFF }

/-- A device CSR read (R258): `dvparcel` reads the owner and its trust group. -/
def devCsrGet (s : State) (H : Hart) (c : BitVec 12) : Word :=
  let n := c.toNat
  if n = 0x800 then H.dvcwto
  else if n = 0xDC0 then
    BitVec.ofNat 64 (256 * (cadParcel s H.owner).group.toNat + H.owner % 64)
  else if n < 0x5C8 then bget H.dvcap (c.extractLsb' 0 3)
  else if n < 0x5D0 then bget H.dvcaplen (c.extractLsb' 0 3)
  else if n = 0x5D0 then H.dvctl
  else H.dvcause

/-- The exception that an access of a hart's mode to a device CSR raises: the virtual-instruction exception from VS and VU,
the illegal-instruction exception from too low a mode and for a write of the read-only register (R258). -/
def devCsrCause (H : Hart) (c : BitVec 12) (write : Bool) : Option Nat :=
  if H.mode = .vs ∨ H.mode = .vu then some causeVirtual
  else if (H.mode = .u ∧ c ≠ 0x800#12) ∨ (write ∧ c = 0xDC0#12) then some causeIllegal
  else none

/-- A write of a device CSR by a hart (R258); one that waits in a `dv.cwait` executes nothing (R265). -/
def execDeviceCsrWrite (hart : Nat) (csr : BitVec 12) (v : Word) (s : State) :
    Host.Outcome State Fault Refusal :=
  let H := hartOf s hart
  if !isDevCsr csr || H.waitSince.isSome then .next s
  else
    match devCsrCause H csr true with
    | some c => .next (hartTrap s hart c 0)
    | none => .next (hartNext s hart fun H => devCsrSet H csr v)

/-! ## Accesses in U mode (R259, R260) -/

/-- Whether a capability lets an element of an access pass: R, W or X as R259 gives them; a cache-block operation that
neither reads nor zeroes needs R or W (log 14). -/
def capElem (H : Hart) (k : HartAccessKind) (a : Word) (n : Nat) : Bool :=
  match k with
  | .fetch => capOk H a n false false true
  | .load => capOk H a n true false false
  | .store => capOk H a n false true false
  | .amo => capOk H a n true true false
  | .cboZero => capOk H a n true true false
  | _ => capOk H a n true false false || capOk H a n false true false

/-- The first element of an access that fails its check. -/
def capFail (H : Hart) (acc : HartAccess) : Option Word :=
  acc.elems.find? fun a => !capElem H acc.kind a acc.size

/-- Elements stored in order, up to one that faults. -/
def storeElems (s : State) (h size : Nat) : List (Word × Word) → HRes
  | [] => .ok s []
  | (a, v) :: es =>
    match hartStore s h a (leBytes size v.toNat) with
    | .ok s _ => storeElems s h size es
    | e => e

/-- The physical bytes that stored elements change: those whose endpoints serve them, but for a piece that the mesh drops
or poisons, and for those behind a lost link (R392, R402, R423). -/
def elemRanges (s : State) (h size : Nat) (elems : List Word) : List (Nat × Nat) :=
  let all := (elems.flatMap fun a => pagePieces a size).filterMap fun an =>
    (hartPa s h an.1 an.2 .write).bind fun pa => if endpointOk s (hartOf s h).owner pa then some (pa, an.2) else none
  let all := (if s.mesh.fail = some .request then all.drop 1 else all).filter fun r => !linkLost s r.1
  if s.mesh.fail = some .body then all.drop 1 else all

/-- The granules that the elements of one instruction cover together become clean (R396). -/
def coverElems (s t : State) (h size : Nat) (elems : List Word) : State :=
  { t with phys := clearCovered t.phys (elemRanges s h size elems) }

/-- The elements of one instruction stored. -/
def storeAll (s : State) (h size : Nat) (es : List (Word × Word)) : HRes :=
  match storeElems s h size es with
  | .ok t bs => .ok (coverElems s t h size (es.map (·.1))) bs
  | e => e

/-- The elements read in order. -/
def loadElems (s : State) (h size : Nat) : List Word → HRes
  | [] => .ok s []
  | a :: es =>
    match hartRead s h a size .read with
    | .ok s bs =>
      match loadElems s h size es with
      | .ok s bs' => .ok s (bs ++ bs')
      | e => e
    | e => e

/-- Elements exchanged in order, each at its home (R278). -/
def amoElems (s : State) (h size : Nat) : List (Word × Word) → HRes
  | [] => .ok s []
  | (a, v) :: es =>
    match hartAmo s h a size fun _ => leBytes size v.toNat with
    | .ok s bs =>
      match amoElems s h size es with
      | .ok s bs' => .ok s (bs ++ bs')
      | e => e
    | e => e

/-- A block written back, and for a flush or an invalidation given up by the L2 (R256, R296). -/
def cleanBlock (drop : Bool) (s : State) (pa : Nat) : State :=
  if drop then evictLine s (pa / 128) else { s with phys := writeBackLine s.phys (pa / 128) }

/-- The blocks of a cache-block operation that translates as a read, written back or given up in order. -/
def cleanElems (drop : Bool) (s : State) (h : Nat) : List Word → HRes
  | [] => .ok s []
  | a :: es =>
    match hartXlate s h a 1 .read with
    | (v, .ok pa) => cleanElems drop (cleanBlock drop (hartWalked s h a false v) pa) h es
    | (v, .fault f ga) => .fault (hartMissed s h a v) f a ga
    | (v, .transit) => .transit (hartMissed s h a v)

/-- The access once its checks pass: reads, then stores; a scalar result goes to rd (log 13). -/
def performAccess (s : State) (h : Nat) (acc : HartAccess) : HRes :=
  let pairs := acc.elems.zip acc.data
  match acc.kind with
  | .fetch => .ok s []
  | .load => loadElems s h acc.size acc.elems
  | .store => storeAll s h acc.size pairs
  | .cboZero => storeAll s h acc.size (acc.elems.map fun a => (a, 0))
  | .cboClean => cleanElems false s h acc.elems
  | .cboFlush => cleanElems true s h acc.elems
  | .cboInval => cleanElems true s h acc.elems
  | .amo => amoElems s h acc.size pairs

/-- What a failed access needs for its RISC-V cause: a fetch, a read or a write. -/
def accKindOf : HartAccessKind → AccKind
  | .fetch => .fetch
  | .load => .read
  | _ => .write

/-- The RISC-V cause of a failed access (log 13). -/
def accessCause (f : FaultCode) (k : AccKind) : Nat :=
  match f, k with
  | .poison, _ => 19
  | .xlate, .read => 13 | .xlate, .write => 15 | .xlate, .fetch => 12
  | .perm, .read => 13 | .perm, .write => 15 | .perm, .fetch => 12
  | _, .read => 5 | _, .write => 7 | _, .fetch => 1

/-- A failed access of a RISC-V instruction: the capability trap, or RISC-V's (R260, log 13). -/
def hartFault (s : State) (h : Nat) (f : FaultCode) (k : AccKind) (va : Word) : State :=
  if f = .capability then capTrap s h va else hartTrap s h (accessCause f k) va

/-- A U-mode access checked against the capabilities before translation (R259): a failure raises CAPABILITY with
no effect (R260), else the access takes place; of several elements none is stored where one faults. A hart that waits in a `dv.cwait` makes none (R265). -/
def execHartUModeAccess (hart : Nat) (acc : HartAccess) (s : State) : Host.Outcome State Fault Refusal :=
  let H := hartOf s hart
  if H.mode ≠ .u ∨ H.waitSince.isSome then .next s
  else
    match capFail H acc with
    | some a => .next (capTrap s hart a)
    | none =>
      let kept (t : State) : State := if acc.kind = .store ∧ acc.elems.length ≠ 1 then s else t
      match performAccess s hart acc with
      | .transit t => .next (kept t)
      | .fault t f a _ => .next (hartFault (kept t) hart f (accKindOf acc.kind) a)
      | .ok s bs =>
        .next (hartNext s hart fun H =>
          if acc.elems.length = 1 && !bs.isEmpty then hxSet H acc.rd (BitVec.ofNat 64 (leNat bs)) else H)

end Sys2Proof.Machine
end

