-- ==== Sys2Proof/Machine/RvFp.lean ====
section
/-!
DEFINITION. The floating-point arithmetic of the harts: F, D, Zfhmin and Zfa (R256). R256 names the RVA23 profiles and
the spec prints none of their operations: all of it is PRESUMED from RISC-V and IEEE 754 (log 14).
-/
namespace Sys2Proof.Machine
open Sys2Proof

/-- A binary interchange format: exponent and fraction bits. -/
structure HFmt where
  eb : Nat
  fb : Nat
  deriving DecidableEq, Repr

/-- Half precision. -/
def h16 : HFmt := { eb := 5, fb := 10 }
/-- Single precision. -/
def h32 : HFmt := { eb := 8, fb := 23 }
/-- Double precision. -/
def h64 : HFmt := { eb := 11, fb := 52 }

/-- Its bits. -/
def HFmt.width (f : HFmt) : Nat := 1 + f.eb + f.fb
/-- Its bias. -/
def HFmt.bias (f : HFmt) : Nat := 2 ^ (f.eb - 1) - 1
/-- The exponent of its smallest normal value. -/
def HFmt.emin (f : HFmt) : Int := 1 - (f.bias : Int)
/-- +∞. -/
def HFmt.inf (f : HFmt) : Nat := (2 ^ f.eb - 1) * 2 ^ f.fb
/-- The canonical NaN. -/
def HFmt.nan (f : HFmt) : Nat := f.inf + 2 ^ (f.fb - 1)
/-- The bits of a sign and a magnitude. -/
def HFmt.sign (f : HFmt) (neg : Bool) (m : Nat) : Nat := if neg then 2 ^ (f.width - 1) + m else m

/-- The value of a bit pattern. -/
def hUnpack (f : HFmt) (x : Nat) : Fp :=
  let neg := x / 2 ^ (f.width - 1) % 2 == 1
  let ec := x / 2 ^ f.fb % 2 ^ f.eb
  let fr := x % 2 ^ f.fb
  if ec = 2 ^ f.eb - 1 then (if fr = 0 then .inf neg else .nan (fr < 2 ^ (f.fb - 1)))
  else if ec = 0 then .fin neg fr (f.emin - f.fb)
  else .fin neg (2 ^ f.fb + fr) ((ec : Int) - f.bias - f.fb)

/-- The rounding modes. -/
inductive HMode where
  | rne | rtz | rdn | rup | rmm
  deriving DecidableEq, Repr

/-- The rounding mode of a field, with `frm` for a dynamic one; nothing for a reserved one. -/
def hMode (rm frm : Nat) : Option HMode :=
  match if rm = 7 then frm else rm with
  | 0 => some .rne | 1 => some .rtz | 2 => some .rdn | 3 => some .rup | 4 => some .rmm | _ => none

/-- A magnitude rounded at the quantum `2^q`: the integer multiple, and whether it is inexact. -/
def hRound (mode : HMode) (neg : Bool) (mag : Nat) (ex q : Int) : Nat × Bool :=
  if q ≤ ex then (mag * 2 ^ (ex - q).toNat, false)
  else
    let sh := (q - ex).toNat
    let r := mag / 2 ^ sh
    let rem := mag % 2 ^ sh
    let up : Bool :=
      match mode with
      | .rne => 2 ^ sh < 2 * rem || (2 * rem == 2 ^ sh && r % 2 == 1)
      | .rtz => false
      | .rdn => neg && rem != 0
      | .rup => !neg && rem != 0
      | .rmm => 2 ^ sh ≤ 2 * rem
    (if up then r + 1 else r, rem != 0)

/-- The bits of `m × 2^q`, a multiple of the format's quantum, before any overflow. -/
def hPack (f : HFmt) (m : Nat) (q : Int) : Nat :=
  if m = 0 then 0
  else
    let e := (Nat.log2 m : Int) + q
    if e < f.emin then m * 2 ^ (q - (f.emin - f.fb)).toNat
    else
      let sig := if Nat.log2 m ≤ f.fb then m * 2 ^ (f.fb - Nat.log2 m) else m / 2 ^ (Nat.log2 m - f.fb)
      (e + f.bias).toNat * 2 ^ f.fb + (sig - 2 ^ f.fb)

/-- The exact value `±mag × 2^ex` rounded to a format, with overflow and the gradual underflow of IEEE 754, tiny after
rounding. -/
def hFinish (f : HFmt) (mode : HMode) (neg : Bool) (mag : Nat) (ex : Int) : FpRes :=
  if mag = 0 then (f.sign neg 0, 0)
  else
    let qn : Int := (Nat.log2 mag : Int) + ex - f.fb
    let mu := (hRound mode neg mag ex qn).1
    let tiny : Bool := (Nat.log2 mu : Int) + qn < f.emin
    let r := hRound mode neg mag ex (max qn (f.emin - f.fb))
    let bits := hPack f r.1 (max qn (f.emin - f.fb))
    if f.inf ≤ bits then
      let big : Bool := match mode with | .rne => true | .rmm => true | .rtz => false | .rdn => neg | .rup => !neg
      (f.sign neg (if big then f.inf else f.inf - 1), fOF ||| fNX)
    else (f.sign neg bits, flagIf (tiny && r.2) fUF ||| flagIf r.2 fNX)

/-- An invalid operation's result. -/
def hInvalid (f : HFmt) : FpRes := (f.nan, fNV)
/-- The NaN result of an operation with a NaN operand. -/
def hNanRes (f : HFmt) (sig : Bool) : FpRes := (f.nan, flagIf sig fNV)

/-- A value with its sign inverted when `c`. -/
def negIf (c : Bool) : Fp → Fp
  | .inf n => .inf (n != c) | .fin n m e => .fin (n != c) m e | x => x

/-- The sum of two finite values; an exact zero has their common sign, else that of the mode. -/
def hAddFin (f : HFmt) (mode : HMode) (na : Bool) (ma : Nat) (ea : Int) (nb : Bool) (mb : Nat) (eb : Int) : FpRes :=
  let e := min ea eb
  let x := signed na (ma * 2 ^ (ea - e).toNat) + signed nb (mb * 2 ^ (eb - e).toNat)
  if x = 0 then (f.sign (if na = nb then na else mode == .rdn) 0, 0) else hFinish f mode (x < 0) x.natAbs e

/-- x + y. -/
def hAdd (f : HFmt) (mode : HMode) (x y : Fp) : FpRes :=
  match x, y with
  | .nan s, y => hNanRes f (s || y.isSig)
  | x, .nan s => hNanRes f (s || x.isSig)
  | .inf n, .inf k => if n = k then (f.sign n f.inf, 0) else hInvalid f
  | .inf n, _ => (f.sign n f.inf, 0)
  | _, .inf n => (f.sign n f.inf, 0)
  | .fin na ma ea, .fin nb mb eb => hAddFin f mode na ma ea nb mb eb

/-- x × y. -/
def hMul (f : HFmt) (mode : HMode) (x y : Fp) : FpRes :=
  match x, y with
  | .nan s, y => hNanRes f (s || y.isSig)
  | x, .nan s => hNanRes f (s || x.isSig)
  | .inf n, .inf k => (f.sign (n != k) f.inf, 0)
  | .inf n, .fin k m _ => if m = 0 then hInvalid f else (f.sign (n != k) f.inf, 0)
  | .fin k m _, .inf n => if m = 0 then hInvalid f else (f.sign (n != k) f.inf, 0)
  | .fin na ma ea, .fin nb mb eb => hFinish f mode (na != nb) (ma * mb) (ea + eb)

/-- x / y. -/
def hDiv (f : HFmt) (mode : HMode) (x y : Fp) : FpRes :=
  match x, y with
  | .nan s, y => hNanRes f (s || y.isSig)
  | x, .nan s => hNanRes f (s || x.isSig)
  | .inf _, .inf _ => hInvalid f
  | .inf n, .fin k _ _ => (f.sign (n != k) f.inf, 0)
  | .fin k _ _, .inf n => (f.sign (n != k) 0, 0)
  | .fin na ma ea, .fin nb mb eb =>
    if mb = 0 then (if ma = 0 then hInvalid f else (f.sign (na != nb) f.inf, fDZ))
    else
      let q := ma * 2 ^ 128 / mb
      let st := if ma * 2 ^ 128 % mb = 0 then 0 else 1
      hFinish f mode (na != nb) (2 * q + st) (ea - eb - 129)

/-- √x. -/
def hSqrt (f : HFmt) (mode : HMode) (x : Fp) : FpRes :=
  match x with
  | .nan s => hNanRes f s
  | .inf true => hInvalid f
  | .inf false => (f.inf, 0)
  | .fin neg m e =>
    if m = 0 then (f.sign neg 0, 0)
    else if neg then hInvalid f
    else
      let m' := (if e % 2 = 0 then m else 2 * m) * 2 ^ 128
      let e' := (if e % 2 = 0 then e else e - 1) - 128
      let r := isqrt 96 m'
      let st := if r * r = m' then 0 else 1
      hFinish f mode false (2 * r + st) (e' / 2 - 1)

/-- x × y + z with one rounding; ∞ × 0 is invalid whatever the addend. -/
def hFma (f : HFmt) (mode : HMode) (x y z : Fp) : FpRes :=
  let sig := x.isSig || y.isSig || z.isSig
  let bad : Bool := match x, y with
    | .inf _, .fin _ m _ => m == 0
    | .fin _ m _, .inf _ => m == 0
    | _, _ => false
  if bad then hInvalid f
  else if x.isNan || y.isNan || z.isNan then hNanRes f sig
  else
    match x, y, z with
    | .fin na ma ea, .fin nb mb eb, .fin nc mc ec => hAddFin f mode (na != nb) (ma * mb) (ea + eb) nc mc ec
    | .fin _ _ _, .fin _ _ _, z => (f.sign z.neg f.inf, 0)
    | x, y, .inf n => if n = (x.neg != y.neg) then (f.sign n f.inf, 0) else hInvalid f
    | x, y, _ => (f.sign (x.neg != y.neg) f.inf, 0)

/-- `fmin`, `fmax` of two bit patterns, and Zfa's `fminm`, `fmaxm`, for which a NaN is a NaN. -/
def hMinMax (f : HFmt) (mx strict : Bool) (a b : Nat) : FpRes :=
  let x := hUnpack f a
  let y := hUnpack f b
  let nv := flagIf (x.isSig || y.isSig) fNV
  if strict && (x.isNan || y.isNan) then (f.nan, nv)
  else
    match x.isNan, y.isNan with
    | true, true => (f.nan, nv)
    | true, false => (b, nv)
    | false, true => (a, nv)
    | false, false => (if (if mx then ltTot x y else ltTot y x) then b else a, 0)

/-- A comparison: `feq`, `flt`, `fle` by number, and whether a quiet NaN is let pass. -/
def hCmp (f : HFmt) (op : Nat) (quiet : Bool) (a b : Nat) : Bool × Flags :=
  let x := hUnpack f a
  let y := hUnpack f b
  let un := x.isNan || y.isNan
  let nv := flagIf (if quiet then x.isSig || y.isSig else un) fNV
  match op with
  | 0 => (eqVal x y, nv)
  | 1 => (!un && ltVal x y, nv)
  | _ => (!un && !ltVal y x, nv)

/-- The class of a bit pattern. -/
def hClass (f : HFmt) (a : Nat) : Nat :=
  match hUnpack f a with
  | .nan true => 256
  | .nan false => 512
  | .inf n => if n then 1 else 128
  | .fin n m _ =>
    if m = 0 then (if n then 8 else 16)
    else if m < 2 ^ f.fb then (if n then 4 else 32)
    else (if n then 2 else 64)

/-- A conversion between formats. -/
def hConv (dst : HFmt) (mode : HMode) (x : Fp) : FpRes :=
  match x with
  | .nan s => hNanRes dst s
  | .inf n => (dst.sign n dst.inf, 0)
  | .fin n m e => hFinish dst mode n m e

/-- A value as an integer within bounds: out of them, and a NaN as the upper one, it is invalid. -/
def hToInt (mode : HMode) (lo hi : Int) (x : Fp) : Int × Flags :=
  match x with
  | .nan _ => (hi, fNV)
  | .inf n => (if n then lo else hi, fNV)
  | .fin n m e =>
    let r := hRound mode n m e 0
    let v := signed n r.1
    if v < lo then (lo, fNV) else if hi < v then (hi, fNV) else (v, flagIf r.2 fNX)

/-- A value rounded to an integral one (Zfa): `fround`, and `froundnx`, which raises NX. -/
def hRint (f : HFmt) (mode : HMode) (nx : Bool) (x : Fp) : FpRes :=
  match x with
  | .nan s => hNanRes f s
  | .inf n => (f.sign n f.inf, 0)
  | .fin n m e =>
    let r := hRound mode n m e 0
    if 0 ≤ e then ((hFinish f mode n m e).1, 0) else ((hFinish f mode n r.1 0).1, flagIf (nx && r.2) fNX)

/-- `fcvtmod.w.d`: the integer part modulo 2^32, as a signed word. -/
def hToMod (x : Fp) : Int × Flags :=
  match x with
  | .fin n m e =>
    let r := hRound .rtz n m e 0
    let v := signed n r.1
    let w := (BitVec.ofInt 32 v).toInt
    (w, if v = w then flagIf r.2 fNX else fNV)
  | _ => (0, fNV)

/-- The constants of `fli` (Zfa) but for its last two: a sign, a magnitude and an exponent; the second is the smallest
normal value. -/
def fliTable : List (Bool × Nat × Int) :=
  [(true, 1, 0), (false, 0, 0), (false, 1, -16), (false, 1, -15), (false, 1, -8), (false, 1, -7), (false, 1, -4),
   (false, 1, -3), (false, 1, -2), (false, 5, -4), (false, 3, -3), (false, 7, -4), (false, 1, -1), (false, 5, -3),
   (false, 3, -2), (false, 7, -3), (false, 1, 0), (false, 5, -2), (false, 3, -1), (false, 7, -2), (false, 1, 1),
   (false, 5, -1), (false, 3, 0), (false, 1, 2), (false, 1, 3), (false, 1, 4), (false, 1, 7), (false, 1, 8),
   (false, 1, 15), (false, 1, 16)]

/-- A constant of `fli`. -/
def hLoadImm (f : HFmt) (i : Nat) : Nat :=
  if i = 1 then 2 ^ f.fb
  else
    match fliTable[i]? with
    | some (n, m, e) => (hFinish f .rne n m e).1
    | none => if i = 30 then f.inf else f.nan

/-! ## The instructions -/

/-- What a floating-point operation leaves: a value for a general register or for a floating-point one, and flags. -/
inductive FRes where
  | x (v : Word) (fl : Flags)
  | f (v : Word) (fl : Flags)

/-- The format of a two-bit field; nothing for quad precision. -/
def hFmt (i : Nat) : Option HFmt :=
  match i with
  | 0 => some h32 | 1 => some h64 | 2 => some h16 | _ => none

/-- The bit pattern of a register in a format: the canonical NaN where it is not boxed. -/
def hBits (f : HFmt) (v : Word) : Nat :=
  if 2 ^ 64 - 2 ^ f.width ≤ v.toNat ∨ f.width = 64 then v.toNat % 2 ^ f.width else f.nan

/-- A bit pattern boxed in a register. -/
def hBox (f : HFmt) (x : Nat) : Word := BitVec.ofNat 64 (2 ^ 64 - 2 ^ f.width + x % 2 ^ f.width)

/-- A result for a floating-point register. -/
def fRes (f : HFmt) (r : FpRes) : FRes := .f (hBox f r.1) r.2

/-- An integer result, sign-extended from the width of its type. -/
def iRes (bits : Nat) (r : Int × Flags) : FRes :=
  .x (if bits = 32 then (BitVec.ofInt 32 r.1).signExtend 64 else BitVec.ofInt 64 r.1) r.2

/-- The integer type of a conversion: its width and bounds. -/
def intType (i : Nat) : Option (Nat × Int × Int) :=
  match i with
  | 0 => some (32, -2 ^ 31, 2 ^ 31 - 1) | 1 => some (32, 0, 2 ^ 32 - 1)
  | 2 => some (64, -2 ^ 63, 2 ^ 63 - 1) | 3 => some (64, 0, 2 ^ 64 - 1) | _ => none

/-- The sign injections. -/
def hSgnj (f : HFmt) (rm a b : Nat) : Option FRes :=
  let sa := a / 2 ^ (f.width - 1) % 2 == 1
  let sb := b / 2 ^ (f.width - 1) % 2 == 1
  let m := a % 2 ^ (f.width - 1)
  match rm with
  | 0 => some (.f (hBox f (f.sign sb m)) 0)
  | 1 => some (.f (hBox f (f.sign (!sb) m)) 0)
  | 2 => some (.f (hBox f (f.sign (sa != sb) m)) 0)
  | _ => none

/-- A conversion to a format: from another one by the field of rs2, or Zfa's roundings. -/
def hConvert (f : HFmt) (mode : HMode) (i : Nat) (v : Word) : Option FRes :=
  if i = 4 ∨ i = 5 then
    if f = h16 then none else some (fRes f (hRint f mode (i == 5) (hUnpack f (hBits f v))))
  else
    match hFmt i with
    | none => none
    | some src => if src = f then none else some (fRes f (hConv f mode (hUnpack src (hBits src v))))

/-- One operation of the OP-FP space in single or double precision, for operands `a` and `b` as bit patterns. -/
def hArith (f : HFmt) (f5 rm frm i : Nat) (a b : Nat) : Option FRes :=
  let x := hUnpack f a
  let y := hUnpack f b
  let rounded (g : HMode → FpRes) : Option FRes := (hMode rm frm).map fun m => fRes f (g m)
  match f5 with
  | 0x00 => rounded fun m => hAdd f m x y
  | 0x01 => rounded fun m => hAdd f m x (negIf true y)
  | 0x02 => rounded fun m => hMul f m x y
  | 0x03 => rounded fun m => hDiv f m x y
  | 0x0B => if i = 0 then rounded fun m => hSqrt f m x else none
  | 0x04 => hSgnj f rm a b
  | 0x05 => if rm < 4 then some (fRes f (hMinMax f (rm % 2 == 1) (rm / 2 == 1) a b)) else none
  | 0x14 =>
    let cmp (op : Nat) (quiet : Bool) : Option FRes :=
      let r := hCmp f op quiet a b
      some (.x (if r.1 then 1 else 0) r.2)
    match rm with
    | 0 => cmp 2 false | 1 => cmp 1 false | 2 => cmp 0 true | 4 => cmp 2 true | 5 => cmp 1 true | _ => none
  | 0x18 =>
    if i = 8 then (if f = h64 ∧ rm = 1 then some (iRes 32 (hToMod x)) else none)
    else
      match intType i, hMode rm frm with
      | some (bits, lo, hi), some m => some (iRes bits (hToInt m lo hi x))
      | _, _ => none
  | 0x1C => if i = 0 ∧ rm = 1 then some (.x (BitVec.ofNat 64 (hClass f a)) 0) else none
  | _ => none

/-- A conversion from an integer register. -/
def hFromInt (f : HFmt) (mode : HMode) (i : Nat) (v : Word) : Option FRes :=
  let go (x : Int) : Option FRes := some (fRes f (hFinish f mode (x < 0) x.natAbs 0))
  match i with
  | 0 => go (v.extractLsb' 0 32).toInt
  | 1 => go ((v.extractLsb' 0 32).toNat : Int)
  | 2 => go v.toInt
  | 3 => go (v.toNat : Int)
  | _ => none

/-- THE OP-FP SPACE: funct5, the format, the rounding field, `frm`, the fields of rs2 and rs1, the three register values. Half
precision is only converted and moved (Zfhmin). -/
def hOp (f5 fmt rm frm i i1 : Nat) (fa fb xa : Word) : Option FRes :=
  match hFmt fmt with
  | none => none
  | some f =>
    match f5 with
    | 0x08 => (hMode rm frm).bind fun m => hConvert f m i fa
    | 0x1A => if f = h16 then none else (hMode rm frm).bind fun m => hFromInt f m i xa
    | 0x1E =>
      if rm ≠ 0 then none
      else if i = 0 then some (.f (hBox f (xa.toNat % 2 ^ f.width)) 0)
      else if i = 1 ∧ f ≠ h16 then some (.f (hBox f (hLoadImm f i1)) 0)
      else none
    | _ =>
      if f5 = 0x1C ∧ i = 0 ∧ rm = 0 then
        some (.x ((BitVec.ofNat 64 (fa.toNat % 2 ^ f.width) <<< (64 - f.width)).sshiftRight (64 - f.width)) 0)
      else if f = h16 then none
      else hArith f f5 rm frm i (hBits f fa) (hBits f fb)

/-- The fused operations: `np` negates the product, `nc` the addend. -/
def hFused (fmt rm frm : Nat) (np nc : Bool) (fa fb fc : Word) : Option FRes :=
  match hFmt fmt, hMode rm frm with
  | some f, some m =>
    if f = h16 then none
    else some (fRes f (hFma f m (negIf np (hUnpack f (hBits f fa))) (hUnpack f (hBits f fb)) (negIf nc (hUnpack f (hBits f fc)))))
  | _, _ => none

end Sys2Proof.Machine
end

