-- ==== Sys2Proof/Machine/RvVec.lean ====
section
/-!
DEFINITION. The vector arithmetic of the harts: V with VLEN 256, Zvfhmin and Zvbb (R256). R256 names the RVA23 profiles
and the spec prints none of their operations: all of it is PRESUMED from RISC-V (log 14). Elements past the length and
inactive ones stay as they were.
-/
namespace Sys2Proof.Machine
open Sys2Proof

/-! ## The register file -/

/-- A byte of the vector registers, numbered through the file. -/
def vByte (H : Hart) (i : Nat) : Byte := (bget H.v (BitVec.ofNat 5 (i / 32))).extractLsb' (8 * (i % 32)) 8
/-- Bytes of the vector registers. -/
def vBytes (H : Hart) (i n : Nat) : List Byte := (List.range n).map fun j => vByte H (i + j)
/-- A vector register with one byte replaced. -/
def putByte (x : BitVec 256) (j : Nat) (b : Byte) : BitVec 256 :=
  (x &&& ~~~(BitVec.ofNat 256 (255 * 2 ^ (8 * j)))) ||| BitVec.ofNat 256 (b.toNat * 2 ^ (8 * j))
/-- Bytes of the vector registers written: the file becomes Dirty. -/
def vPut (H : Hart) (i : Nat) (bs : List Byte) : Hart :=
  let v := bs.zipIdx.foldl (fun v bj =>
    let r := BitVec.ofNat 5 ((i + bj.2) / 32)
    bset v r (putByte (bget v r) ((i + bj.2) % 32) bj.1)) H.v
  { hartCsrSet H 0x300 (putBits (hartCsr H 0x300) 9 2 3) with v := v }

/-- An element of `n` bits. -/
def hvGet (H : Hart) (n reg i : Nat) : Nat := leNat (vBytes H (32 * reg + i * (n / 8)) (n / 8))
/-- An element set. -/
def hvSet (n reg : Nat) (H : Hart) (iv : Nat × Nat) : Hart :=
  vPut H (32 * reg + iv.1 * (n / 8)) (leBytes (n / 8) (iv.2 % 2 ^ n))
/-- An element of a mask. -/
def vBit (H : Hart) (reg i : Nat) : Bool := (vByte H (32 * reg + i / 8)).getLsbD (i % 8)
/-- An element of a mask set. -/
def vBitSet (reg : Nat) (H : Hart) (ib : Nat × Bool) : Hart :=
  let at_ := 32 * reg + ib.1 / 8
  let m : Byte := BitVec.ofNat 8 (2 ^ (ib.1 % 8))
  vPut H at_ [if ib.2 then vByte H at_ ||| m else vByte H at_ &&& ~~~m]

/-- `vtype`'s element width in bits and its group size in eighths of a register; nothing for a reserved one. -/
def vtypeOf (vt : Word) : Option (Nat × Nat) :=
  let sew := 8 * 2 ^ ((vt.extractLsb' 3 3).toNat)
  let mul := match (vt.extractLsb' 0 3).toNat with
    | 0 => 8 | 1 => 16 | 2 => 32 | 3 => 64 | 5 => 1 | 6 => 2 | 7 => 4 | _ => 0
  if vt.toNat < 256 && sew ≤ 64 && mul != 0 && sew * 8 ≤ 64 * mul then some (sew, mul) else none

/-- VLMAX, with VLEN 256 (R256). -/
def vlmaxOf (sew mul : Nat) : Nat := 256 * mul / 8 / sew

/-- What a vector operation works with: the hart, the word, the element width, the group size in eighths. -/
structure VCtx where
  H : Hart
  w : BitVec 32
  sew : Nat
  mul : Nat

/-- The field of vd. -/
def VCtx.vd (c : VCtx) : Nat := (c.w.extractLsb' 7 5).toNat
/-- The field of vs1, rs1 or the immediate. -/
def VCtx.vs1 (c : VCtx) : Nat := (c.w.extractLsb' 15 5).toNat
/-- The field of vs2. -/
def VCtx.vs2 (c : VCtx) : Nat := (c.w.extractLsb' 20 5).toNat
/-- Whether every element is active. -/
def VCtx.vm (c : VCtx) : Bool := c.w.getLsbD 25
/-- funct6. -/
def VCtx.f6 (c : VCtx) : Nat := (c.w.extractLsb' 26 6).toNat
/-- funct3. -/
def VCtx.f3 (c : VCtx) : Nat := (c.w.extractLsb' 12 3).toNat
/-- The vector length. -/
def VCtx.vl (c : VCtx) : Nat := (hartCsr c.H 0xC20).toNat
/-- The first element. -/
def VCtx.start (c : VCtx) : Nat := (hartCsr c.H 0x008).toNat % 256
/-- The number of elements of a group. -/
def VCtx.vlmax (c : VCtx) : Nat := vlmaxOf c.sew c.mul
/-- The elements that an operation has. -/
def VCtx.body (c : VCtx) : List Nat := (List.range c.vl).drop c.start
/-- Whether an element is active. -/
def VCtx.on (c : VCtx) (i : Nat) : Bool := c.vm || vBit c.H 0 i
/-- The active elements. -/
def VCtx.active (c : VCtx) : List Nat := c.body.filter c.on
/-- Whether a register may name a group of a width of elements. -/
def VCtx.reg (c : VCtx) (r n : Nat) : Bool :=
  let emul := c.mul * n / c.sew
  let g := max 1 (emul / 8)
  emul != 0 && emul ≤ 64 && r % g == 0 && r + g ≤ 32
/-- An element of vs2 and of vd of a width. -/
def VCtx.a (c : VCtx) (n i : Nat) : Nat := hvGet c.H n c.vs2 i
/-- An element of vd. -/
def VCtx.d (c : VCtx) (n i : Nat) : Nat := hvGet c.H n c.vd i
/-- The first source: an element of vs1, a general register, or an immediate, unsigned where `u` says so. -/
def VCtx.b (c : VCtx) (u : Bool) (n i : Nat) : Nat :=
  let r := c.w.extractLsb' 15 5
  match c.f3 with
  | 3 => if u then r.toNat else (r.signExtend 64).toNat % 2 ^ n
  | 4 => (hxGet c.H r).toNat % 2 ^ n
  | 6 => (hxGet c.H r).toNat % 2 ^ n
  | _ => hvGet c.H n c.vs1 i
/-- Whether the first source is a register group of a width, where it is one. -/
def VCtx.bOk (c : VCtx) (n : Nat) : Bool := !(c.f3 == 0 || c.f3 == 1 || c.f3 == 2) || c.reg c.vs1 n

/-- What a vector operation leaves: a hart, with its saturation and floating-point flags; nothing for an illegal word. -/
abbrev VRes := Option (Hart × Bool × Flags)

/-- Elements of vd written. -/
def VCtx.put (c : VCtx) (n : Nat) (es : List (Nat × Nat)) : VRes := some (es.foldl (hvSet n c.vd) c.H, false, 0)
/-- Elements of vd written by operations that may saturate. -/
def VCtx.putSat (c : VCtx) (n : Nat) (es : List (Nat × Nat × Bool)) : VRes :=
  some ((es.map fun e => (e.1, e.2.1)).foldl (hvSet n c.vd) c.H, es.any fun e => e.2.2, 0)
/-- Elements of vd written by floating-point operations. -/
def VCtx.putFp (c : VCtx) (n : Nat) (es : List (Nat × FpRes)) : VRes :=
  some ((es.map fun e => (e.1, e.2.1)).foldl (hvSet n c.vd) c.H, false, es.foldl (fun f e => f ||| e.2.2) 0)
/-- Mask elements of vd written. -/
def VCtx.putMask (c : VCtx) (es : List (Nat × Bool)) : VRes := some (es.foldl (vBitSet c.vd) c.H, false, 0)
/-- A general register written. -/
def VCtx.putX (c : VCtx) (v : Word) : VRes := some (hxSet c.H (c.w.extractLsb' 7 5) v, false, 0)

/-! ## Integer arithmetic -/

/-- A value shifted right by `d` bits, rounded by `vxrm`. -/
def vRound (vxrm : Nat) (v : Int) (d : Nat) : Int :=
  let q := v / 2 ^ d
  let rem := (v % 2 ^ d).toNat
  let up : Bool := match vxrm with
    | 0 => 2 ^ d ≤ 2 * rem && d != 0
    | 1 => 2 ^ d < 2 * rem || (2 * rem == 2 ^ d && d != 0 && q % 2 == 1)
    | 2 => false
    | _ => rem != 0 && q % 2 == 0
  if up then q + 1 else q

/-- A value clipped to bounds, and whether it lay outside them. -/
def vClip (lo hi v : Int) : Nat × Bool :=
  if v < lo then ((lo % 2 ^ 64).toNat, true) else if hi < v then ((hi % 2 ^ 64).toNat, true) else ((v % 2 ^ 64).toNat, false)
/-- Clipped to the signed values of `n` bits. -/
def vClipS (n : Nat) (v : Int) : Nat × Bool := vClip (-2 ^ (n - 1)) (2 ^ (n - 1) - 1) v
/-- Clipped to the unsigned values of `n` bits. -/
def vClipU (n : Nat) (v : Int) : Nat × Bool := vClip 0 (2 ^ n - 1) v
/-- An integer as a bit pattern of `n` bits. -/
def vInt (n : Nat) (v : Int) : Nat := (v % 2 ^ n).toNat

/-- The element operations of OPIVV, OPIVX and OPIVI, `n` bits wide: `a` of vs2, `b` the first source. -/
def vOpI (f3 f6 n vxrm a b : Nat) : Option (Nat × Bool) :=
  let sa := signExt n a
  let sb := signExt n b
  let sh := b % n
  let r (ok : Bool) (v : Nat) : Option (Nat × Bool) := if ok then some (v, false) else none
  let all := true
  let vvx := f3 ≠ 3
  match f6 with
  | 0x00 => r all (a + b) | 0x01 => r vvx (a &&& (2 ^ n - 1 - b)) | 0x02 => r vvx (a + 2 ^ n - b)
  | 0x03 => r (f3 ≠ 0) (b + 2 ^ n - a)
  | 0x04 => r vvx (min a b) | 0x05 => r vvx (if sa < sb then a else b) | 0x06 => r vvx (max a b)
  | 0x07 => r vvx (if sa < sb then b else a)
  | 0x09 => r all (a &&& b) | 0x0A => r all (a ||| b) | 0x0B => r all (a ^^^ b)
  | 0x14 => r all (a / 2 ^ sh + a * 2 ^ (n - sh) % 2 ^ n)
  | 0x15 =>
    if f3 = 3 then r all (let t := (b + 32) % n; a / 2 ^ t + a * 2 ^ (n - t) % 2 ^ n)
    else r all (a * 2 ^ sh % 2 ^ n + a / 2 ^ (n - sh))
  | 0x20 => some (vClipU n (a + b)) | 0x21 => some (vClipS n (sa + sb))
  | 0x22 => if vvx then some (vClipU n ((a : Int) - b)) else none
  | 0x23 => if vvx then some (vClipS n (sa - sb)) else none
  | 0x25 => r all (a * 2 ^ sh)
  | 0x27 => if vvx then some (vClipS n (vRound vxrm (sa * sb) (n - 1))) else none
  | 0x28 => r all (a / 2 ^ sh) | 0x29 => r all (vInt n (sa / 2 ^ sh))
  | 0x2A => r all (vInt n (vRound vxrm a sh)) | 0x2B => r all (vInt n (vRound vxrm sa sh))
  | _ => none

/-- The comparisons of OPIVV, OPIVX and OPIVI. -/
def vCmpI (f3 f6 n a b : Nat) : Option Bool :=
  let sa := signExt n a
  let sb := signExt n b
  match f6 with
  | 0x18 => some (a == b) | 0x19 => some (a != b)
  | 0x1A => if f3 = 3 then none else some (a < b) | 0x1B => if f3 = 3 then none else some (sa < sb)
  | 0x1C => some (a ≤ b) | 0x1D => some (sa ≤ sb)
  | 0x1E => if f3 = 0 then none else some (b < a) | 0x1F => if f3 = 0 then none else some (sb < sa)
  | _ => none

/-- The element operations of OPMVV and OPMVX of one width; `d` of vd. -/
def vOpM (f6 n vxrm a b d : Nat) : Option Nat :=
  let sa := signExt n a
  let sb := signExt n b
  let i (v : Int) : Option Nat := some (vInt n v)
  match f6 with
  | 0x08 => i (vRound vxrm ((a : Int) + b) 1) | 0x09 => i (vRound vxrm (sa + sb) 1)
  | 0x0A => i (vRound vxrm ((a : Int) - b) 1) | 0x0B => i (vRound vxrm (sa - sb) 1)
  | 0x20 => some (if b = 0 then 2 ^ n - 1 else a / b)
  | 0x21 => if b = 0 then some (2 ^ n - 1) else i (sa.tdiv sb)
  | 0x22 => some (if b = 0 then a else a % b)
  | 0x23 => if b = 0 then some a else i (sa.tmod sb)
  | 0x24 => some (a * b / 2 ^ n) | 0x25 => some (a * b) | 0x26 => i (sa * b / 2 ^ n) | 0x27 => i (sa * sb / 2 ^ n)
  | 0x29 => some (b * d + a) | 0x2B => i ((a : Int) - b * d) | 0x2D => some (b * a + d) | 0x2F => i ((d : Int) - b * a)
  | _ => none

/-- The widening operations of OPMVV and OPMVX: `a` and `b` of `n` bits, `aw` of vs2 and `d` of vd of twice as many. -/
def vOpW (f3 f6 n a b aw d : Nat) : Option Nat :=
  let sa := signExt n a
  let sb := signExt n b
  let i (v : Int) : Option Nat := some (vInt (2 * n) v)
  match f6 with
  | 0x30 => i ((a : Int) + b) | 0x31 => i (sa + sb) | 0x32 => i ((a : Int) - b) | 0x33 => i (sa - sb)
  | 0x34 => i ((aw : Int) + b) | 0x35 => i ((aw : Int) + sb) | 0x36 => i ((aw : Int) - b) | 0x37 => i ((aw : Int) - sb)
  | 0x38 => i ((a : Int) * b) | 0x3A => i (sa * b) | 0x3B => i (sa * sb)
  | 0x3C => i ((d : Int) + a * b) | 0x3D => i ((d : Int) + sa * sb)
  | 0x3E => if f3 = 6 then i ((d : Int) + sa * b) else none
  | 0x3F => i ((d : Int) + a * sb)
  | _ => none

/-- The reductions of OPMVV. -/
def vRed (f6 n : Nat) (x y : Nat) : Nat :=
  match f6 with
  | 0 => (x + y) % 2 ^ n | 1 => x &&& y | 2 => x ||| y | 3 => x ^^^ y | 4 => min x y
  | 5 => if signExt n x < signExt n y then x else y
  | 6 => max x y
  | _ => if signExt n x < signExt n y then y else x

/-- The bits of a value in reverse. -/
def vRev (n x : Nat) : Nat := (List.range n).foldl (fun acc i => acc * 2 + x / 2 ^ i % 2) 0

/-- The unary operations of Zvbb. -/
def vUnary (i n a : Nat) : Option Nat :=
  let w : Word := BitVec.ofNat 64 a
  match i with
  | 8 => some ((List.range (n / 8)).foldl (fun acc j => acc + vRev 8 (a / 2 ^ (8 * j) % 256) * 2 ^ (8 * j)) 0)
  | 9 => some ((List.range (n / 8)).foldl (fun acc j => acc * 256 + a / 2 ^ (8 * j) % 256) 0)
  | 10 => some (vRev n a)
  | 12 => some (((List.range n).find? fun j => w.getLsbD (n - 1 - j)).getD n)
  | 13 => some (((List.range n).find? fun j => w.getLsbD j).getD n)
  | 14 => some ((List.range n).filter fun j => w.getLsbD j).length
  | _ => none

/-! ## Permutations and masks -/

/-- `vcompress`: the elements of vs2 that the mask vs1 selects, packed. -/
def vCompress (c : VCtx) : VRes :=
  let sel := (List.range c.vl).filter fun i => vBit c.H c.vs1 i
  c.put c.sew (sel.zipIdx.map fun ij => (ij.2, c.a c.sew ij.1))

/-- The logical operations on masks. -/
def vMaskOp (f6 : Nat) (a b : Bool) : Bool :=
  match f6 with
  | 0x18 => a && !b | 0x19 => a && b | 0x1A => a || b | 0x1B => a != b
  | 0x1C => a || !b | 0x1D => !(a && b) | 0x1E => !(a || b) | _ => a == b

/-- `vmsbf`, `vmsof`, `vmsif`: set before, only at, and up to the first set element. -/
def vFirstMask (c : VCtx) (kind : Nat) : VRes :=
  let first := (c.active.find? fun i => vBit c.H c.vs2 i).getD c.vl
  c.putMask (c.active.map fun i =>
    (i, match kind with | 1 => decide (i < first) | 2 => i == first | _ => decide (i ≤ first)))

/-- `viota`: the number of set active elements before each one. -/
def vIota (c : VCtx) : VRes :=
  c.put c.sew (c.active.map fun i => (i, (c.active.filter fun j => j < i && vBit c.H c.vs2 j).length))

/-- The slides. -/
def vSlide (c : VCtx) (up : Bool) (off : Nat) : VRes :=
  if up then c.put c.sew ((c.active.filter fun i => off ≤ i).map fun i => (i, c.a c.sew (i - off)))
  else c.put c.sew (c.active.map fun i => (i, if i + off < c.vlmax then c.a c.sew (i + off) else 0))

/-- The slides by one, with a scalar shifted in. -/
def vSlide1 (c : VCtx) (up : Bool) (x : Nat) : VRes :=
  c.put c.sew (c.active.map fun i =>
    (i, if up then (if i = 0 then x else c.a c.sew (i - 1)) else if i + 1 = c.vl then x else c.a c.sew (i + 1)))

/-- The gathers: the elements of vs2 at indices. -/
def vGather (c : VCtx) (idx : Nat → Nat) : VRes :=
  c.put c.sew (c.active.map fun i => (i, if idx i < c.vlmax then c.a c.sew (idx i) else 0))

/-- `vmv1r` and its kin: whole registers. -/
def vWhole (c : VCtx) : VRes :=
  let n := c.vs1 + 1
  if c.vm && [1, 2, 4, 8].contains n && c.vd % n == 0 && c.vs2 % n == 0 then
    some (vPut c.H (32 * c.vd) (vBytes c.H (32 * c.vs2) (32 * n)), false, 0)
  else none

/-! ## The integer spaces -/

/-- A list of results, or nothing where one is illegal. -/
def allSome {α : Type} (xs : List (Option α)) : Option (List α) :=
  xs.foldr (fun x acc => x.bind fun x => acc.map fun l => x :: l) (some [])

/-- Narrowing: shifts and clips of elements of twice the width. -/
def vNarrow (c : VCtx) : VRes :=
  let n := c.sew
  let vxrm := (hartCsr c.H 0x00A).toNat % 4
  if c.reg c.vs2 (2 * n) && c.reg c.vd n && c.bOk n && n ≤ 32 then
    c.putSat n (c.active.map fun i =>
      let a := c.a (2 * n) i
      let sa := signExt (2 * n) a
      let sh := c.b true n i % (2 * n)
      (i, match c.f6 with
        | 0x2C => (a / 2 ^ sh, false)
        | 0x2D => (vInt n (sa / 2 ^ sh), false)
        | 0x2E => vClipU n (vRound vxrm a sh)
        | _ => vClipS n (vRound vxrm sa sh)))
  else none

/-- `vadc`, `vsbc`, `vmadc`, `vmsbc`: the sum or difference of an element, with the carry that the mask gives. -/
def vCarry (c : VCtx) : VRes :=
  let n := c.sew
  let carry (i : Nat) : Nat := if !c.vm && vBit c.H 0 i then 1 else 0
  let sum (i : Nat) : Int :=
    if c.f6 < 0x12 then (c.a n i : Int) + c.b false n i + carry i else (c.a n i : Int) - c.b false n i - carry i
  if (0x12 ≤ c.f6 && c.f3 == 3) || !c.reg c.vs2 n || !c.bOk n then none
  else if c.f6 % 2 = 0 then
    if !c.vm && c.vd != 0 && c.reg c.vd n then c.put n (c.body.map fun i => (i, vInt n (sum i))) else none
  else c.putMask (c.body.map fun i => (i, decide (sum i < 0 ∨ 2 ^ n ≤ sum i)))

/-- OPIVV, OPIVX and OPIVI. -/
def vSpaceI (c : VCtx) : VRes :=
  let n := c.sew
  let shifts := [0x14, 0x15, 0x25, 0x28, 0x29, 0x2A, 0x2B].contains c.f6
  let vxrm := (hartCsr c.H 0x00A).toNat % 4
  let plain := c.reg c.vs2 n && c.reg c.vd n && c.bOk n
  match c.f6 with
  | 0x0C => if plain && c.vd != c.vs2 then
      vGather c fun i => if c.f3 = 4 then (hxGet c.H (c.w.extractLsb' 15 5)).toNat else c.b true n i else none
  | 0x0E =>
    if c.f3 = 0 then (if c.reg c.vs2 n && c.reg c.vd n && c.reg c.vs1 16 then vGather c fun i => hvGet c.H 16 c.vs1 i else none)
    else if plain && c.vd != c.vs2 then vSlide c true (if c.f3 = 4 then (hxGet c.H (c.w.extractLsb' 15 5)).toNat else c.vs1)
    else none
  | 0x0F => if plain && c.f3 ≠ 0 then
      vSlide c false (if c.f3 = 4 then (hxGet c.H (c.w.extractLsb' 15 5)).toNat else c.vs1) else none
  | 0x10 => vCarry c | 0x11 => vCarry c | 0x12 => vCarry c | 0x13 => vCarry c
  | 0x17 =>
    if !c.reg c.vd n || !c.bOk n then none
    else if c.vm then (if c.vs2 = 0 then c.put n (c.body.map fun i => (i, c.b false n i)) else none)
    else if c.reg c.vs2 n && c.vd != 0 then
      c.put n (c.body.map fun i => (i, if vBit c.H 0 i then c.b false n i else c.a n i))
    else none
  | 0x2C => vNarrow c | 0x2D => vNarrow c | 0x2E => vNarrow c | 0x2F => vNarrow c
  | 0x30 => vSum false | 0x31 => vSum true
  | 0x35 =>
    if c.reg c.vs2 n && c.reg c.vd (2 * n) && c.bOk n && n ≤ 32 then
      c.put (2 * n) (c.active.map fun i => (i, c.a n i * 2 ^ (c.b true n i % (2 * n))))
    else none
  | f6 =>
    if f6 = 0x27 ∧ c.f3 = 3 then vWhole c
    else if 0x18 ≤ f6 ∧ f6 < 0x20 then
      if c.reg c.vs2 n && c.bOk n then
        (allSome (c.active.map fun i => (vCmpI c.f3 f6 n (c.a n i) (c.b false n i)).map fun b => (i, b))).bind c.putMask
      else none
    else if plain && (vOpI c.f3 f6 n vxrm 0 0).isSome then
      (allSome (c.active.map fun i =>
        (vOpI c.f3 f6 n vxrm (c.a n i) (c.b shifts n i)).map fun r => (i, r.1, r.2))).bind (c.putSat n)
    else none
where
  /-- The widening sums. -/
  vSum (sg : Bool) : VRes :=
    let n := c.sew
    let ext (x : Nat) : Int := if sg then signExt n x else x
    if c.f3 ≠ 0 ∨ 32 < n ∨ c.start ≠ 0 ∨ !c.reg c.vs2 n then none
    else if c.vl = 0 then some (c.H, false, 0)
    else c.put (2 * n) [(0, vInt (2 * n) (c.active.foldl (fun acc i => acc + ext (c.a n i)) (hvGet c.H (2 * n) c.vs1 0 : Int)))]

/-- The unary operations of OPMVV. -/
def vSpaceU (c : VCtx) : VRes :=
  let n := c.sew
  if 2 ≤ c.vs1 ∧ c.vs1 < 8 then
    let m := n / 2 ^ (4 - c.vs1 / 2)
    if 8 ≤ m && c.reg c.vs2 m && c.reg c.vd n then
      c.put n (c.active.map fun i => (i, if c.vs1 % 2 = 1 then vInt n (signExt m (c.a m i)) else c.a m i))
    else none
  else if c.reg c.vs2 n && c.reg c.vd n && (vUnary c.vs1 n 0).isSome then
    c.put n (c.active.map fun i => (i, (vUnary c.vs1 n (c.a n i)).getD 0))
  else none

/-- OPMVV and OPMVX. -/
def vSpaceM (c : VCtx) : VRes :=
  let n := c.sew
  let vv := c.f3 == 2
  let vxrm := (hartCsr c.H 0x00A).toNat % 4
  let x := hxGet c.H (c.w.extractLsb' 15 5)
  let plain := c.reg c.vs2 n && c.reg c.vd n && c.bOk n
  let f6 := c.f6
  if f6 < 8 then
    if !vv || c.start != 0 || !c.reg c.vs2 n then none
    else if c.vl = 0 then some (c.H, false, 0)
    else c.put n [(0, c.active.foldl (fun acc i => vRed f6 n acc (c.a n i)) (hvGet c.H n c.vs1 0))]
  else if f6 = 0x0E ∨ f6 = 0x0F then
    if vv || !plain || (f6 == 0x0E && c.vd == c.vs2) then none else vSlide1 c (f6 == 0x0E) (x.toNat % 2 ^ n)
  else if f6 = 0x10 then
    if !vv then
      if c.vs2 ≠ 0 ∨ !c.vm then none
      else if c.start < c.vl then c.put n [(0, x.toNat)] else some (c.H, false, 0)
    else if c.vs1 = 0 then (if c.vm then c.putX (BitVec.ofInt 64 (signExt n (c.a n 0))) else none)
    else if c.start ≠ 0 then none
    else if c.vs1 = 16 then c.putX (BitVec.ofNat 64 (c.active.filter fun i => vBit c.H c.vs2 i).length)
    else if c.vs1 = 17 then
      c.putX (match c.active.find? fun i => vBit c.H c.vs2 i with | some i => BitVec.ofNat 64 i | none => BitVec.allOnes 64)
    else none
  else if f6 = 0x12 then (if vv then vSpaceU c else none)
  else if f6 = 0x14 then
    if !vv then none
    else if c.vs1 = 17 then (if c.reg c.vd n && c.vs2 == 0 then c.put n (c.active.map fun i => (i, i)) else none)
    else if c.start ≠ 0 then none
    else if c.vs1 = 16 then (if c.reg c.vd n then vIota c else none)
    else if 1 ≤ c.vs1 ∧ c.vs1 ≤ 3 then vFirstMask c c.vs1
    else none
  else if f6 = 0x17 then (if vv && c.vm && c.start == 0 && c.reg c.vs2 n && c.reg c.vd n then vCompress c else none)
  else if 0x18 ≤ f6 ∧ f6 < 0x20 then
    if vv && c.vm then c.putMask (c.body.map fun i => (i, vMaskOp f6 (vBit c.H c.vs2 i) (vBit c.H c.vs1 i))) else none
  else if 0x30 ≤ f6 then
    let wide := 0x34 ≤ f6 && f6 < 0x38
    if 32 < n || !c.reg c.vd (2 * n) || !c.bOk n || !c.reg c.vs2 (if wide then 2 * n else n) then none
    else
      (allSome (c.active.map fun i =>
        (vOpW c.f3 f6 n (c.a n i) (c.b false n i) (c.a (2 * n) i) (c.d (2 * n) i)).map fun v => (i, v))).bind (c.put (2 * n))
  else if plain && (vOpM f6 n vxrm 0 0 0).isSome then
    (allSome (c.active.map fun i => (vOpM f6 n vxrm (c.a n i) (c.b false n i) (c.d n i)).map fun v => (i, v))).bind (c.put n)
  else none

/-! ## Floating point -/

/-- The format of elements of a width that has arithmetic. -/
def vFmt (n : Nat) : Option HFmt := if n = 32 then some h32 else if n = 64 then some h64 else none

/-- The first source of a floating-point operation. -/
def VCtx.fb (c : VCtx) (f : HFmt) (i : Nat) : Nat :=
  if c.f3 = 5 then hBits f (bget c.H.f (c.w.extractLsb' 15 5)) else hvGet c.H f.width c.vs1 i

/-- The element operations of OPFVV and OPFVF of one width. -/
def vOpF (f : HFmt) (m : HMode) (f3 f6 a b d : Nat) : Option FpRes :=
  let x := hUnpack f a
  let y := hUnpack f b
  let z := hUnpack f d
  let inj (rm : Nat) : Option FpRes :=
    let sa := a / 2 ^ (f.width - 1) % 2 == 1
    let sb := b / 2 ^ (f.width - 1) % 2 == 1
    some (f.sign (match rm with | 0 => sb | 1 => !sb | _ => sa != sb) (a % 2 ^ (f.width - 1)), 0)
  match f6 with
  | 0x00 => some (hAdd f m x y) | 0x02 => some (hAdd f m x (negIf true y))
  | 0x04 => some (hMinMax f false false a b) | 0x06 => some (hMinMax f true false a b)
  | 0x08 => inj 0 | 0x09 => inj 1 | 0x0A => inj 2
  | 0x20 => some (hDiv f m x y) | 0x21 => if f3 = 5 then some (hDiv f m y x) else none
  | 0x24 => some (hMul f m x y) | 0x27 => if f3 = 5 then some (hAdd f m y (negIf true x)) else none
  | 0x28 => some (hFma f m y z x) | 0x29 => some (hFma f m (negIf true y) z (negIf true x))
  | 0x2A => some (hFma f m y z (negIf true x)) | 0x2B => some (hFma f m (negIf true y) z x)
  | 0x2C => some (hFma f m y x z) | 0x2D => some (hFma f m (negIf true y) x (negIf true z))
  | 0x2E => some (hFma f m y x (negIf true z)) | 0x2F => some (hFma f m (negIf true y) x z)
  | _ => none

/-- The widening operations of OPFVV and OPFVF: values of vs2, of the first source and of vd. -/
def vOpFW (f6 : Nat) (m : HMode) (x y z : Fp) : Option FpRes :=
  match f6 with
  | 0x30 => some (hAdd h64 m x y) | 0x32 => some (hAdd h64 m x (negIf true y))
  | 0x34 => some (hAdd h64 m x y) | 0x36 => some (hAdd h64 m x (negIf true y))
  | 0x38 => some (hMul h64 m x y)
  | 0x3C => some (hFma h64 m y x z) | 0x3D => some (hFma h64 m (negIf true y) x (negIf true z))
  | 0x3E => some (hFma h64 m y x (negIf true z)) | 0x3F => some (hFma h64 m (negIf true y) x z)
  | _ => none

/-- The comparisons of OPFVV and OPFVF. -/
def vCmpF (f : HFmt) (f3 f6 a b : Nat) : Option (Bool × Flags) :=
  match f6 with
  | 0x18 => some (hCmp f 0 true a b) | 0x19 => some (hCmp f 2 false a b) | 0x1B => some (hCmp f 1 false a b)
  | 0x1C => let r := hCmp f 0 true a b; some (!r.1, r.2)
  | 0x1D => if f3 = 5 then some (hCmp f 1 false b a) else none
  | 0x1F => if f3 = 5 then some (hCmp f 2 false b a) else none
  | _ => none

/-- A conversion rounded to odd. -/
def hConvOdd (f : HFmt) (x : Fp) : FpRes :=
  let r := hConv f .rtz x
  (if r.2 &&& fNX ≠ 0 then r.1 ||| 1 else r.1, r.2)

/-- A value converted to an integer of `n` bits, signed or not, as its bit pattern. -/
def hToBits (m : HMode) (sg : Bool) (n : Nat) (x : Fp) : FpRes :=
  let r := if sg then hToInt m (-2 ^ (n - 1)) (2 ^ (n - 1) - 1) x else hToInt m 0 (2 ^ n - 1) x
  (vInt n r.1, r.2)

/-- An integer of `n` bits, signed or not, converted to a format. -/
def hFromBits (f : HFmt) (m : HMode) (sg : Bool) (n a : Nat) : FpRes :=
  let v : Int := if sg then signExt n a else a
  hFinish f m (v < 0) v.natAbs 0

/-- The float format of any width, where only conversions have half precision. -/
def vFmtC (n : Nat) : Option HFmt := if n = 16 then some h16 else vFmt n

/-- The conversions: source and destination widths by the group of the field of vs1, and the element's function. -/
def vConvert (c : VCtx) (m : HMode) : VRes :=
  let n := c.sew
  let k := c.vs1 % 8
  let src := if c.vs1 < 16 then n else 2 * n
  let dst := if c.vs1 < 8 then n else if c.vs1 < 16 then 2 * n else n
  let g? : Option (Nat → FpRes) :=
    match k with
    | 0 => (vFmt src).map fun f a => hToBits m false dst (hUnpack f a)
    | 1 => (vFmt src).map fun f a => hToBits m true dst (hUnpack f a)
    | 2 => (vFmt dst).map fun f a => hFromBits f m false src a
    | 3 => (vFmt dst).map fun f a => hFromBits f m true src a
    | 4 =>
      if c.vs1 < 8 then none
      else (vFmtC src).bind fun f => (vFmtC dst).map fun g a => hConv g m (hUnpack f a)
    | 5 => if c.vs1 < 16 then none else (vFmt src).bind fun f => (vFmt dst).map fun g a => hConvOdd g (hUnpack f a)
    | 6 => (vFmt src).map fun f a => hToBits .rtz false dst (hUnpack f a)
    | _ => (vFmt src).map fun f a => hToBits .rtz true dst (hUnpack f a)
  match g? with
  | some g =>
    if src ≤ 64 && dst ≤ 64 && c.vs1 < 24 && c.reg c.vs2 src && c.reg c.vd dst then
      c.putFp dst (c.active.map fun i => (i, g (c.a src i)))
    else none
  | none => none

/-- The unary operations of VFUNARY1; the 7-bit estimates are free (log 14). -/
def vUnaryF (f : HFmt) (m : HMode) (i a : Nat) : Option FpRes :=
  match i with
  | 0 => some (hSqrt f m (hUnpack f a))
  | 4 => some ((Config.hartEstimate false f.width a).toNat, Config.hartEstimateFlags false f.width a)
  | 5 => some ((Config.hartEstimate true f.width a).toNat, Config.hartEstimateFlags true f.width a)
  | 16 => some (hClass f a, 0)
  | _ => none

/-- The floating-point reductions. -/
def vRedF (f : HFmt) (m : HMode) (f6 : Nat) (acc : FpRes) (v : Fp) (b : Nat) : FpRes :=
  let r := match f6 with
    | 5 => hMinMax f false false acc.1 b
    | 7 => hMinMax f true false acc.1 b
    | _ => hAdd f m (hUnpack f acc.1) v
  (r.1, acc.2 ||| r.2)

/-- A reduction of elements of width `n` into a value of format `f`. -/
def vReduce (c : VCtx) (f : HFmt) (m : HMode) (n : Nat) (src : HFmt) : VRes :=
  if c.f3 ≠ 1 ∨ c.start ≠ 0 ∨ !c.reg c.vs2 n then none
  else if c.vl = 0 then some (c.H, false, 0)
  else
    c.putFp f.width [(0, c.active.foldl (fun acc i => vRedF f m c.f6 acc (hUnpack src (c.a n i)) (c.a n i))
      (hvGet c.H f.width c.vs1 0, 0))]

/-- OPFVV and OPFVF, with the rounding mode of `frm`. -/
def vSpaceF (c : VCtx) (m : HMode) : VRes :=
  let n := c.sew
  let vf := c.f3 == 5
  let f6 := c.f6
  if f6 = 0x12 then (if vf then none else vConvert c m)
  else
    match vFmt n with
    | none => none
    | some f =>
      let bOk := vf || c.reg c.vs1 n
      let plain := c.reg c.vs2 n && c.reg c.vd n && bOk
      if f6 = 1 ∨ f6 = 3 ∨ f6 = 5 ∨ f6 = 7 then vReduce c f m n f
      else if f6 = 0x31 ∨ f6 = 0x33 then (if n = 32 then vReduce c h64 m 32 h32 else none)
      else if f6 = 0x0E ∨ f6 = 0x0F then
        if !vf || !plain || (f6 == 0x0E && c.vd == c.vs2) then none else vSlide1 c (f6 == 0x0E) (c.fb f 0)
      else if f6 = 0x10 then
        if !c.vm then none
        else if vf then
          if c.vs2 ≠ 0 then none else if c.start < c.vl then c.put n [(0, c.fb f 0)] else some (c.H, false, 0)
        else if c.vs1 = 0 then
          some ({ hartCsrSet c.H 0x300 (putBits (hartCsr c.H 0x300) 13 2 3) with
            f := bset c.H.f (c.w.extractLsb' 7 5) (hBox f (c.a n 0)) }, false, 0)
        else none
      else if f6 = 0x13 then
        if !vf && c.reg c.vs2 n && c.reg c.vd n && (vUnaryF f m c.vs1 0).isSome then
          c.putFp n (c.active.map fun i => (i, (vUnaryF f m c.vs1 (c.a n i)).getD (0, 0)))
        else none
      else if f6 = 0x17 then
        if !vf || !c.reg c.vd n then none
        else if c.vm then (if c.vs2 = 0 then c.put n (c.body.map fun i => (i, c.fb f i)) else none)
        else if c.reg c.vs2 n && c.vd != 0 then
          c.put n (c.body.map fun i => (i, if vBit c.H 0 i then c.fb f i else c.a n i))
        else none
      else if 0x18 ≤ f6 ∧ f6 < 0x20 then
        if c.reg c.vs2 n && bOk then
          (allSome (c.active.map fun i => (vCmpF f c.f3 f6 (c.a n i) (c.fb f i)).map fun r => (i, r))).map fun rs =>
            ((rs.map fun r => (r.1, r.2.1)).foldl (vBitSet c.vd) c.H, false, rs.foldl (fun fl r => fl ||| r.2.2) 0)
        else none
      else if 0x30 ≤ f6 then
        let wide := f6 == 0x34 || f6 == 0x36
        if n ≠ 32 || !c.reg c.vd 64 || !bOk || !c.reg c.vs2 (if wide then 64 else 32) then none
        else
          (allSome (c.active.map fun i =>
            (vOpFW f6 m (if wide then hUnpack h64 (c.a 64 i) else hUnpack h32 (c.a 32 i)) (hUnpack h32 (c.fb h32 i))
              (hUnpack h64 (c.d 64 i))).map fun r => (i, r))).bind (c.putFp 64)
      else if plain && (vOpF f m c.f3 f6 0 0 0).isSome then
        (allSome (c.active.map fun i => (vOpF f m c.f3 f6 (c.a n i) (c.fb f i) (c.d n i)).map fun r => (i, r))).bind (c.putFp n)
      else none

/-- THE VECTOR ARITHMETIC SPACE but for the configuration instructions. -/
def vArith (c : VCtx) : VRes :=
  let r := match c.f3 with
    | 0 => vSpaceI c | 3 => vSpaceI c | 4 => vSpaceI c
    | 2 => vSpaceM c | 6 => vSpaceM c
    | _ =>
      match hMode 7 (c.H.fcsr.extractLsb' 5 3).toNat with
      | some m => if (hartCsr c.H 0x300).extractLsb' 13 2 = 0#2 then none else vSpaceF c m
      | none => none
  r.map fun r =>
    let H := { r.1 with fcsr := r.1.fcsr ||| r.2.2.setWidth 8 }
    (hartCsrSet (hartCsrSet H 0x009 (hartCsr H 0x009 ||| (if r.2.1 then 1 else 0))) 0x008 0, r.2.1, r.2.2)

end Sys2Proof.Machine
end

