-- ==== Sys2Proof/Machine/Rv.lean ====
section
/-!
DEFINITION. The RISC-V instructions of the application cores (R256, R278, R285): RV64 with M, A, B, C, Zicsr, Zifencei,
Zicond and the cache-block operations, loads and stores of F, D, V and H, CSRs, traps and returns, with the arithmetic of
RvFp and RvVec. R256 names the RVA23 profiles and the spec prints none of this: all of it is PRESUMED (log 14).
-/
namespace Sys2Proof.Machine
open Sys2Proof

/-! ## Fields and immediates -/

/-- `rd`. -/
def rvRd (w : BitVec 32) : BitVec 5 := w.extractLsb' 7 5
/-- `rs1`. -/
def rvRs1 (w : BitVec 32) : BitVec 5 := w.extractLsb' 15 5
/-- `rs2`. -/
def rvRs2 (w : BitVec 32) : BitVec 5 := w.extractLsb' 20 5
/-- `funct3`. -/
def rvF3 (w : BitVec 32) : Nat := (w.extractLsb' 12 3).toNat
/-- `funct7`. -/
def rvF7 (w : BitVec 32) : Nat := (w.extractLsb' 25 7).toNat
/-- The immediate of an I-type word. -/
def immI (w : BitVec 32) : Word := (w.extractLsb' 20 12).signExtend 64
/-- The immediate of an S-type word. -/
def immS (w : BitVec 32) : Word := (w.extractLsb' 25 7 ++ w.extractLsb' 7 5).signExtend 64
/-- The immediate of a B-type word. -/
def immB (w : BitVec 32) : Word :=
  (w.extractLsb' 31 1 ++ w.extractLsb' 7 1 ++ w.extractLsb' 25 6 ++ w.extractLsb' 8 4 ++ 0#1).signExtend 64
/-- The immediate of a U-type word. -/
def immU (w : BitVec 32) : Word := (w.extractLsb' 12 20 ++ 0#12).signExtend 64
/-- The immediate of a J-type word. -/
def immJ (w : BitVec 32) : Word :=
  (w.extractLsb' 31 1 ++ w.extractLsb' 12 8 ++ w.extractLsb' 20 1 ++ w.extractLsb' 21 10 ++ 0#1).signExtend 64

/-! ## Integer arithmetic -/

/-- Leading zeros of the low `n` bits. -/
def clzN (n : Nat) (a : Word) : Word :=
  BitVec.ofNat 64 (((List.range n).find? fun i => a.getLsbD (n - 1 - i)).getD n)
/-- Trailing zeros of the low `n` bits. -/
def ctzN (n : Nat) (a : Word) : Word := BitVec.ofNat 64 (((List.range n).find? fun i => a.getLsbD i).getD n)
/-- Ones among the low `n` bits. -/
def popN (n : Nat) (a : Word) : Word := BitVec.ofNat 64 ((List.range n).filter fun i => a.getLsbD i).length
/-- The bytes of a word, each through a function of its place and value. -/
def byteMap (f : Nat → Nat) : Word := BitVec.ofNat 64 ((List.range 8).foldr (fun i acc => f i % 256 + 256 * acc) 0)
/-- The byte of a word. -/
def byteOf (a : Word) (i : Nat) : Nat := (a.extractLsb' (8 * i) 8).toNat

/-- The 64-bit operations of two registers, by funct7 and funct3. -/
def rvOp (f7 f3 : Nat) (a b : Word) : Option Word :=
  let sh := b.toNat % 64
  match f7, f3 with
  | 0x00, 0 => some (a + b) | 0x00, 1 => some (a <<< sh) | 0x00, 2 => some (wordOf (a.slt b))
  | 0x00, 3 => some (wordOf (a.ult b)) | 0x00, 4 => some (a ^^^ b) | 0x00, 5 => some (a >>> sh)
  | 0x00, 6 => some (a ||| b) | 0x00, 7 => some (a &&& b)
  | 0x20, 0 => some (a - b) | 0x20, 5 => some (a.sshiftRight sh)
  | 0x20, 4 => some (~~~(a ^^^ b)) | 0x20, 6 => some (a ||| ~~~b) | 0x20, 7 => some (a &&& ~~~b)
  | 0x01, 0 => some (a * b)
  | 0x01, 1 => some (BitVec.ofInt 64 (a.toInt * b.toInt / 2 ^ 64))
  | 0x01, 2 => some (BitVec.ofInt 64 (a.toInt * b.toNat / 2 ^ 64))
  | 0x01, 3 => some (BitVec.ofNat 64 (a.toNat * b.toNat / 2 ^ 64))
  | 0x01, 4 => some (if b = 0 then BitVec.allOnes 64 else a.sdiv b)
  | 0x01, 5 => some (if b = 0 then BitVec.allOnes 64 else a / b)
  | 0x01, 6 => some (if b = 0 then a else a.srem b)
  | 0x01, 7 => some (if b = 0 then a else a % b)
  | 0x10, 2 => some (a <<< 1 + b) | 0x10, 4 => some (a <<< 2 + b) | 0x10, 6 => some (a <<< 3 + b)
  | 0x05, 4 => some (if a.slt b then a else b) | 0x05, 5 => some (if a.ult b then a else b)
  | 0x05, 6 => some (if a.slt b then b else a) | 0x05, 7 => some (if a.ult b then b else a)
  | 0x30, 1 => some (a.rotateLeft sh) | 0x30, 5 => some (a.rotateRight sh)
  | 0x24, 1 => some (a &&& ~~~(1#64 <<< sh)) | 0x24, 5 => some ((a >>> sh) &&& 1)
  | 0x34, 1 => some (a ^^^ (1#64 <<< sh)) | 0x14, 1 => some (a ||| (1#64 <<< sh))
  | 0x07, 5 => some (if b = 0 then 0 else a) | 0x07, 7 => some (if b = 0 then a else 0)
  | _, _ => none

/-- A 32-bit result, sign-extended. -/
def sextW (x : BitVec 32) : Word := x.signExtend 64
/-- The low half. -/
def loW (a : Word) : BitVec 32 := a.extractLsb' 0 32

/-- The 32-bit operations of two registers. -/
def rvOpW (f7 f3 : Nat) (a b : Word) : Option Word :=
  let x := loW a
  let y := loW b
  let sh := b.toNat % 32
  match f7, f3 with
  | 0x00, 0 => some (sextW (x + y)) | 0x20, 0 => some (sextW (x - y))
  | 0x00, 1 => some (sextW (x <<< sh)) | 0x00, 5 => some (sextW (x >>> sh)) | 0x20, 5 => some (sextW (x.sshiftRight sh))
  | 0x01, 0 => some (sextW (x * y))
  | 0x01, 4 => some (if y = 0 then BitVec.allOnes 64 else sextW (x.sdiv y))
  | 0x01, 5 => some (if y = 0 then BitVec.allOnes 64 else sextW (x / y))
  | 0x01, 6 => some (if y = 0 then sextW x else sextW (x.srem y))
  | 0x01, 7 => some (if y = 0 then sextW x else sextW (x % y))
  | 0x04, 0 => some (x.setWidth 64 + b)
  | 0x04, 4 => if b = 0 then some (a &&& 0xFFFF) else none
  | 0x10, 2 => some (x.setWidth 64 <<< 1 + b) | 0x10, 4 => some (x.setWidth 64 <<< 2 + b)
  | 0x10, 6 => some (x.setWidth 64 <<< 3 + b)
  | 0x30, 1 => some (sextW (x.rotateLeft sh)) | 0x30, 5 => some (sextW (x.rotateRight sh))
  | _, _ => none

/-- The 64-bit operations of a register and an immediate: the 12 immediate bits select a unary operation or a shift. -/
def rvOpImm (w : BitVec 32) (a : Word) : Option Word :=
  let i := immI w
  let i12 := (w.extractLsb' 20 12).toNat
  let sh := i12 % 64
  match rvF3 w with
  | 0 => some (a + i) | 2 => some (wordOf (a.slt i)) | 3 => some (wordOf (a.ult i))
  | 4 => some (a ^^^ i) | 6 => some (a ||| i) | 7 => some (a &&& i)
  | 1 =>
    match i12 / 64 with
    | 0x00 => some (a <<< sh) | 0x0A => some (a ||| (1#64 <<< sh)) | 0x12 => some (a &&& ~~~(1#64 <<< sh))
    | 0x1A => some (a ^^^ (1#64 <<< sh))
    | 0x18 =>
      match sh with
      | 0 => some (clzN 64 a) | 1 => some (ctzN 64 a) | 2 => some (popN 64 a)
      | 4 => some ((a.extractLsb' 0 8).signExtend 64) | 5 => some ((a.extractLsb' 0 16).signExtend 64)
      | _ => none
    | _ => none
  | _ =>
    if i12 = 0x287 then some (byteMap fun j => if byteOf a j = 0 then 0 else 255)
    else if i12 = 0x6B8 then some (byteMap fun j => byteOf a (7 - j))
    else
      match i12 / 64 with
      | 0x00 => some (a >>> sh) | 0x10 => some (a.sshiftRight sh) | 0x12 => some ((a >>> sh) &&& 1)
      | 0x18 => some (a.rotateRight sh)
      | _ => none

/-- The 32-bit operations of a register and an immediate. -/
def rvOpImmW (w : BitVec 32) (a : Word) : Option Word :=
  let x := loW a
  let sh := (rvRs2 w).toNat
  match rvF3 w, rvF7 w with
  | 0, _ => some (sextW (x + loW (immI w)))
  | 1, 0x00 => some (sextW (x <<< sh)) | 1, 0x04 => some (x.setWidth 64 <<< sh)
  | 1, 0x05 => some (x.setWidth 64 <<< (sh + 32))
  | 1, 0x30 =>
    match sh with
    | 0 => some (clzN 32 a) | 1 => some (ctzN 32 a) | 2 => some (popN 32 a) | _ => none
  | 5, 0x00 => some (sextW (x >>> sh)) | 5, 0x20 => some (sextW (x.sshiftRight sh))
  | 5, 0x30 => some (sextW (x.rotateRight sh))
  | _, _ => none

/-- Whether a branch is taken. -/
def rvTaken (f3 : Nat) (a b : Word) : Option Bool :=
  match f3 with
  | 0 => some (a == b) | 1 => some (a != b) | 4 => some (a.slt b) | 5 => some (!a.slt b)
  | 6 => some (a.ult b) | 7 => some (!a.ult b) | _ => none

/-- What an AMO stores: funct5, the old value, the operand; 32-bit operations look at the low halves. -/
def rvAmo (f5 : Nat) (word : Bool) (old b : Word) : Option Word :=
  let lt := if word then (loW old).slt (loW b) else old.slt b
  let ltu := if word then (loW old).ult (loW b) else old.ult b
  match f5 with
  | 0x01 => some b | 0x00 => some (old + b) | 0x04 => some (old ^^^ b) | 0x0C => some (old &&& b)
  | 0x08 => some (old ||| b) | 0x10 => some (if lt then old else b) | 0x14 => some (if lt then b else old)
  | 0x18 => some (if ltu then old else b) | 0x1C => some (if ltu then b else old) | _ => none

/-! ## Compressed words -/

/-- An I-type word. -/
def mkI (imm : BitVec 12) (rs1 : BitVec 5) (f3 : BitVec 3) (rd : BitVec 5) (op : BitVec 7) : BitVec 32 :=
  imm ++ rs1 ++ f3 ++ rd ++ op
/-- An R-type word. -/
def mkR (f7 : BitVec 7) (rs2 rs1 : BitVec 5) (f3 : BitVec 3) (rd : BitVec 5) (op : BitVec 7) : BitVec 32 :=
  f7 ++ rs2 ++ rs1 ++ f3 ++ rd ++ op
/-- An S-type word. -/
def mkS (imm : BitVec 12) (rs2 rs1 : BitVec 5) (f3 : BitVec 3) (op : BitVec 7) : BitVec 32 :=
  imm.extractLsb' 5 7 ++ rs2 ++ rs1 ++ f3 ++ imm.extractLsb' 0 5 ++ op
/-- A B-type word from a byte offset. -/
def mkB (o : BitVec 13) (rs2 rs1 : BitVec 5) (f3 : BitVec 3) : BitVec 32 :=
  o.extractLsb' 12 1 ++ o.extractLsb' 5 6 ++ rs2 ++ rs1 ++ f3 ++ o.extractLsb' 1 4 ++ o.extractLsb' 11 1 ++ 0x63#7
/-- A JAL from a byte offset. -/
def mkJ (o : BitVec 21) (rd : BitVec 5) : BitVec 32 :=
  o.extractLsb' 20 1 ++ o.extractLsb' 1 10 ++ o.extractLsb' 11 1 ++ o.extractLsb' 12 8 ++ rd ++ 0x6F#7

/-- Quadrant 0: loads, stores and the stack address. -/
def expand0 (c : BitVec 16) : Option (BitVec 32) :=
  let rd : BitVec 5 := 1#2 ++ c.extractLsb' 2 3
  let rs : BitVec 5 := 1#2 ++ c.extractLsb' 7 3
  let od : BitVec 12 := 0#4 ++ c.extractLsb' 5 2 ++ c.extractLsb' 10 3 ++ 0#3
  let ow : BitVec 12 := 0#5 ++ c.extractLsb' 5 1 ++ c.extractLsb' 10 3 ++ c.extractLsb' 6 1 ++ 0#2
  let ob : BitVec 12 := 0#10 ++ c.extractLsb' 5 1 ++ c.extractLsb' 6 1
  let oh : BitVec 12 := 0#10 ++ c.extractLsb' 5 1 ++ 0#1
  match (c.extractLsb' 13 3).toNat with
  | 0 =>
    let n : BitVec 12 := 0#2 ++ c.extractLsb' 7 4 ++ c.extractLsb' 11 2 ++ c.extractLsb' 5 1 ++ c.extractLsb' 6 1 ++ 0#2
    if n = 0#12 then none else some (mkI n 2 0 rd 0x13)
  | 1 => some (mkI od rs 3 rd 0x07) | 2 => some (mkI ow rs 2 rd 0x03) | 3 => some (mkI od rs 3 rd 0x03)
  | 4 =>
    match (c.extractLsb' 10 3).toNat with
    | 0 => some (mkI ob rs 4 rd 0x03)
    | 1 => some (mkI oh rs (if c.getLsbD 6 then 1 else 5) rd 0x03)
    | 2 => some (mkS ob rd rs 0 0x23)
    | 3 => if c.getLsbD 6 then none else some (mkS oh rd rs 1 0x23)
    | _ => none
  | 5 => some (mkS od rd rs 3 0x27) | 6 => some (mkS ow rd rs 2 0x23) | _ => some (mkS od rd rs 3 0x23)

/-- The register arithmetic of quadrant 1. -/
def expandAlu (c : BitVec 16) : Option (BitVec 32) :=
  let rd : BitVec 5 := 1#2 ++ c.extractLsb' 7 3
  let rs : BitVec 5 := 1#2 ++ c.extractLsb' 2 3
  let sh : BitVec 6 := c.extractLsb' 12 1 ++ c.extractLsb' 2 5
  match (c.extractLsb' 10 2).toNat with
  | 0 => some (mkI (0#6 ++ sh) rd 5 rd 0x13)
  | 1 => some (mkI (0x10#6 ++ sh) rd 5 rd 0x13)
  | 2 => some (mkI ((c.extractLsb' 12 1 ++ c.extractLsb' 2 5).signExtend 12) rd 7 rd 0x13)
  | _ =>
    match c.getLsbD 12, (c.extractLsb' 5 2).toNat with
    | false, 0 => some (mkR 0x20 rs rd 0 rd 0x33) | false, 1 => some (mkR 0 rs rd 4 rd 0x33)
    | false, 2 => some (mkR 0 rs rd 6 rd 0x33) | false, _ => some (mkR 0 rs rd 7 rd 0x33)
    | true, 0 => some (mkR 0x20 rs rd 0 rd 0x3B) | true, 1 => some (mkR 0 rs rd 0 rd 0x3B)
    | true, 2 => some (mkR 1 rs rd 0 rd 0x33)
    | true, _ =>
      match (c.extractLsb' 2 3).toNat with
      | 0 => some (mkI 0xFF rd 7 rd 0x13) | 1 => some (mkI 0x604 rd 1 rd 0x13)
      | 2 => some (mkR 4 0 rd 4 rd 0x3B) | 3 => some (mkI 0x605 rd 1 rd 0x13)
      | 4 => some (mkR 4 0 rd 0 rd 0x3B) | 5 => some (mkI 0xFFF rd 4 rd 0x13)
      | _ => none

/-- Quadrant 1: immediates, arithmetic, jumps and branches. -/
def expand1 (c : BitVec 16) : Option (BitVec 32) :=
  let rd := c.extractLsb' 7 5
  let i6 := c.extractLsb' 12 1 ++ c.extractLsb' 2 5
  let i : BitVec 12 := i6.signExtend 12
  let rs : BitVec 5 := 1#2 ++ c.extractLsb' 7 3
  let ob : BitVec 13 := (c.extractLsb' 12 1 ++ c.extractLsb' 5 2 ++ c.extractLsb' 2 1 ++ c.extractLsb' 10 2 ++
    c.extractLsb' 3 2 ++ 0#1).signExtend 13
  match (c.extractLsb' 13 3).toNat with
  | 0 => some (mkI i rd 0 rd 0x13)
  | 1 => if rd = 0#5 then none else some (mkI i rd 0 rd 0x1B)
  | 2 => some (mkI i 0 0 rd 0x13)
  | 3 =>
    if i6 = 0#6 then
      if rd.getLsbD 0 && rd.toNat < 16 then some (mkI 0 0 0 0 0x13) else none
    else if rd = 2#5 then
      let n : BitVec 12 := (c.extractLsb' 12 1 ++ c.extractLsb' 3 2 ++ c.extractLsb' 5 1 ++ c.extractLsb' 2 1 ++
        c.extractLsb' 6 1 ++ 0#4).signExtend 12
      some (mkI n 2 0 2 0x13)
    else some (i6.signExtend 20 ++ rd ++ 0x37#7)
  | 4 => expandAlu c
  | 5 =>
    let o : BitVec 21 := (c.extractLsb' 12 1 ++ c.extractLsb' 8 1 ++ c.extractLsb' 9 2 ++ c.extractLsb' 6 1 ++
      c.extractLsb' 7 1 ++ c.extractLsb' 2 1 ++ c.extractLsb' 11 1 ++ c.extractLsb' 3 3 ++ 0#1).signExtend 21
    some (mkJ o 0)
  | 6 => some (mkB ob 0 rs 0) | _ => some (mkB ob 0 rs 1)

/-- Quadrant 2: shifts, stack accesses, jumps and moves. -/
def expand2 (c : BitVec 16) : Option (BitVec 32) :=
  let rd := c.extractLsb' 7 5
  let rs := c.extractLsb' 2 5
  let od : BitVec 12 := 0#3 ++ c.extractLsb' 2 3 ++ c.extractLsb' 12 1 ++ c.extractLsb' 5 2 ++ 0#3
  let ow : BitVec 12 := 0#4 ++ c.extractLsb' 2 2 ++ c.extractLsb' 12 1 ++ c.extractLsb' 4 3 ++ 0#2
  let sd : BitVec 12 := 0#3 ++ c.extractLsb' 7 3 ++ c.extractLsb' 10 3 ++ 0#3
  let sw : BitVec 12 := 0#4 ++ c.extractLsb' 7 2 ++ c.extractLsb' 9 4 ++ 0#2
  match (c.extractLsb' 13 3).toNat with
  | 0 => some (mkI (0#6 ++ c.extractLsb' 12 1 ++ rs) rd 1 rd 0x13)
  | 1 => some (mkI od 2 3 rd 0x07)
  | 2 => if rd = 0#5 then none else some (mkI ow 2 2 rd 0x03)
  | 3 => if rd = 0#5 then none else some (mkI od 2 3 rd 0x03)
  | 4 =>
    match c.getLsbD 12, decide (rd = 0#5), decide (rs = 0#5) with
    | false, true, true => none | false, false, true => some (mkI 0 rd 0 0 0x67)
    | false, _, false => some (mkR 0 rs 0 0 rd 0x33)
    | true, true, true => some 0x00100073#32 | true, false, true => some (mkI 0 rd 0 1 0x67)
    | true, _, false => some (mkR 0 rs rd 0 rd 0x33)
  | 5 => some (mkS sd rs 2 3 0x27) | 6 => some (mkS sw rs 2 2 0x23) | _ => some (mkS sd rs 2 3 0x23)

/-- The 32-bit word that a compressed word stands for. -/
def expandC (c : BitVec 16) : Option (BitVec 32) :=
  match (c.extractLsb' 0 2).toNat with
  | 0 => expand0 c | 1 => expand1 c | 2 => expand2 c | _ => none

/-! ## Traps and returns -/

/-- A trap of a RISC-V instruction: to machine mode from there and where `medeleg` does not delegate it, else to the
supervisor, or to the guest's where `hedeleg` delegates it. -/
def rvEnter (H : Hart) (cause : Nat) (stval : Word) : Hart :=
  let c : Word := BitVec.ofNat 64 cause
  if H.mode = .m ∨ !(hartCsr H 0x302).getLsbD cause then enterM H c stval 0
  else if modeGuest H.mode && (hartCsr H 0x602).getLsbD cause then enterVs H c stval 0
  else hartEnter H c stval 0

/-- An exception of a RISC-V instruction. -/
def rvTrap (s : State) (h : Nat) (cause : Nat) (stval : Word) : State := setHart s h (rvEnter (hartOf s h) cause stval)

/-- A fault of a guest's second stage: to machine mode, or to the supervisor, with the guest's physical address. -/
def rvGuestFault (H : Hart) (k : AccKind) (va : Word) (ga : Nat) : Hart :=
  let c := match k with | .fetch => 20 | .read => 21 | .write => 23
  let at_ : Word := BitVec.ofNat 64 (ga / 4)
  if H.mode = .m ∨ !(hartCsr H 0x302).getLsbD c then enterM (hartCsrSet H 0x34B at_) (BitVec.ofNat 64 c) va 0
  else hartEnter (hartCsrSet H 0x643 at_) (BitVec.ofNat 64 c) va 0

/-- A failed access of a RISC-V instruction: the capability trap of R260, or RISC-V's; `ga` is the guest's physical
address where its second stage failed. -/
def rvFault (s : State) (h : Nat) (f : FaultCode) (k : AccKind) (va : Word) (ga : Option Nat) : State :=
  match ga with
  | some ga => setHart s h (rvGuestFault (hartOf s h) k va ga)
  | none => if f = .capability then capTrap s h va else rvTrap s h (accessCause f k) va

/-- `mret`. -/
def rvMret (H : Hart) : Hart :=
  let st := hartCsr H 0x300
  let lvl := (st.extractLsb' 11 2).toNat
  let st' := putBits (putBits (putBits (putBits st 3 1 (bitNat (st.getLsbD 7))) 7 1 1) 11 2 0) 39 1 0
  let st' := if lvl = 3 then st' else putBits st' 17 1 0
  { hartCsrSet H 0x300 st' with mode := modeOf lvl (st.getLsbD 39), pc := hartCsr H 0x341 }

/-- `sret`: a supervisor's, or a guest supervisor's. -/
def rvSret (H : Hart) : Hart :=
  if H.mode = .vs then
    let st := hartCsr H 0x200
    let st' := putBits (putBits (putBits st 1 1 (bitNat (st.getLsbD 5))) 5 1 1) 8 1 0
    { hartCsrSet H 0x200 st' with mode := if st.getLsbD 8 then .vs else .vu, pc := hartCsr H 0x241 }
  else
    { H with sie := H.spie, spie := true, spp := false, spv := false, mode := modeOf (bitNat H.spp) H.spv, pc := H.sepc }

/-! ## CSRs -/

/-- `mstatus` with the bits that have fields of their own. -/
def mstatusOf (H : Hart) : Word :=
  putBits (putBits (putBits (putBits (hartCsr H 0x300) 1 1 (bitNat H.sie)) 5 1 (bitNat H.spie)) 8 1 (bitNat H.spp)) 32 4 10
/-- `mstatus` written through a mask. -/
def mstatusPut (H : Hart) (v mask : Word) : Hart :=
  let st := (mstatusOf H &&& ~~~mask) ||| (v &&& mask)
  { hartCsrSet H 0x300 (st &&& ~~~(0xF00000122 : Word)) with
    sie := st.getLsbD 1, spie := st.getLsbD 5, spp := st.getLsbD 8 }
/-- What a supervisor sees of `mstatus`. -/
def sstatusMask : Word := 0x80000003000DE762#64
/-- The supervisor's interrupts. -/
def sintMask : Word := 0x222#64

/-- The CSRs that hold what is written to them. -/
def plainCsr (n : Nat) : Bool :=
  [0x008, 0x009, 0x00A, 0x106, 0x10A, 0x10C, 0x10D, 0x10E, 0x10F, 0x140, 0x14D, 0x200, 0x205, 0x240, 0x241, 0x242,
   0x243, 0x24D, 0x302, 0x303, 0x304, 0x305, 0x306, 0x30A, 0x30C, 0x30D, 0x30E, 0x30F, 0x320, 0x340, 0x341, 0x342,
   0x343, 0x34A, 0x34B, 0x3A0, 0x3A2, 0x602, 0x603, 0x605, 0x606, 0x607, 0x60A, 0x60C, 0x60D, 0x60E, 0x60F,
   0x643, 0x64A, 0x747].contains n ||
    (0x323 ≤ n && n ≤ 0x33F) || (0x3B0 ≤ n && n ≤ 0x3BF)

/-- The counters whose values no rule gives: cycles, instructions and events of a hart. -/
def freeCsr (n : Nat) : Bool :=
  n == 0xB00 || n == 0xB02 || (0xB03 ≤ n && n ≤ 0xB1F) || n == 0xC00 || n == 0xC02 || (0xC03 ≤ n && n ≤ 0xC1F)

/-- The number of a CSR as a guest's instruction means it. -/
def guestCsr (H : Hart) (n : Nat) : Nat :=
  if modeGuest H.mode ∧ [0x100, 0x104, 0x105, 0x140, 0x141, 0x142, 0x143, 0x144, 0x14D, 0x180].contains n then n + 0x100 else n

/-- The guest's interrupts, as `hideleg` shows them to the guest one place lower. -/
def guestInts (H : Hart) (x : Word) : Word := (x &&& hartCsr H 0x603 &&& 0x444) >>> 1

/-- A CSR's value (R256, R258): `mhartid` is the hart's number, `time` is `CYCLE`; nothing where there is no such CSR. -/
def csrGet (s : State) (h n : Nat) : Option Word :=
  let H := hartOf s h
  if isDevCsr (BitVec.ofNat 12 n) then some (devCsrGet s H (BitVec.ofNat 12 n))
  else if plainCsr n then some (hartCsr H n)
  else if freeCsr n then some (Config.freeWord s.freeCtr)
  else
    match n with
    | 0x001 => some (H.fcsr.setWidth 64 &&& 0x1F) | 0x002 => some ((H.fcsr >>> 5).setWidth 64)
    | 0x003 => some (H.fcsr.setWidth 64) | 0x00F => some (hartCsr H 0x009 ||| hartCsr H 0x00A <<< 1)
    | 0x100 => some (mstatusOf H &&& sstatusMask) | 0x104 => some (hartCsr H 0x304 &&& sintMask &&& hartCsr H 0x303)
    | 0x105 => some H.stvec | 0x141 => some H.sepc | 0x142 => some H.scause | 0x143 => some H.stval
    | 0x144 => some (pendingInts s H &&& sintMask &&& hartCsr H 0x303) | 0x344 => some (pendingInts s H)
    | 0x204 => some (guestInts H (hartCsr H 0x304)) | 0x244 => some (guestInts H (pendingInts s H))
    | 0x604 => some (hartCsr H 0x304 &&& 0x1444) | 0x644 => some (pendingInts s H &&& 0x1444)
    | 0x645 => some (hartCsr H 0x645 &&& 0x444) | 0x680 => some (hartCsr H 0x680) | 0x180 => some (hartCsr H 0x180) | 0x280 => some (hartCsr H 0x280)
    | 0x300 => some (mstatusOf H) | 0x301 => some 0x80000000003411AF
    | 0x600 => some (putBits (hartCsr H 0x600) 7 1 (bitNat H.spv))
    | 0xC01 => some (BitVec.ofNat 64 s.cycle)
    | 0xC20 => some (hartCsr H 0xC20) | 0xC21 => some (hartCsr H 0xC21) | 0xC22 => some 32
    | 0xDA0 => some 0 | 0xE12 => some 0
    | 0xF11 => some 0 | 0xF12 => some 0 | 0xF13 => some 0 | 0xF14 => some (BitVec.ofNat 64 h) | 0xF15 => some 0
    | _ => none

/-- A translation root written: a mode that R256 does not name changes nothing. -/
def satpPut (H : Hart) (n : Nat) (v : Word) : Hart :=
  if [0, 8, 9, 10].contains (v.extractLsb' 60 4).toNat then hartCsrSet H n v else H

/-- A PMP register written: a locked entry changes nothing. -/
def pmpPut (H : Hart) (n : Nat) (v : Word) : Hart :=
  let locked (i : Nat) : Bool := (hartCsr H (0x3A0 + i / 8 * 2)).getLsbD (8 * (i % 8) + 7)
  if 0x3B0 ≤ n then
    if locked (n - 0x3B0) then H else hartCsrSet H n (v &&& 0x3FFFFFFFFFFFFF)
  else
    hartCsrSet H n ((List.range 8).foldl (fun acc j =>
      if locked ((n - 0x3A0) / 2 * 8 + j) then acc else putBits acc (8 * j) 8 (byteOf v j % 32 + byteOf v j / 128 * 128))
      (hartCsr H n))

/-- A CSR written. -/
def csrPut (H : Hart) (n : Nat) (v : Word) : Hart :=
  let masked (n : Nat) (mask v : Word) : Hart := hartCsrSet H n ((hartCsr H n &&& ~~~mask) ||| (v &&& mask))
  if isDevCsr (BitVec.ofNat 12 n) then devCsrSet H (BitVec.ofNat 12 n) v
  else if 0x3A0 ≤ n ∧ n ≤ 0x3BF then pmpPut H n v
  else if n = 0x303 then hartCsrSet H n ((v &&& 0x222) ||| 0x1444)
  else if n = 0x603 then hartCsrSet H n (v &&& 0x444)
  else if plainCsr n then hartCsrSet H n v
  else
    match n with
    | 0x001 => { H with fcsr := (H.fcsr &&& 0xE0) ||| (v.extractLsb' 0 5).setWidth 8 }
    | 0x002 => { H with fcsr := v.extractLsb' 0 3 ++ H.fcsr.extractLsb' 0 5 }
    | 0x003 => { H with fcsr := v.extractLsb' 0 8 }
    | 0x00F => hartCsrSet (hartCsrSet H 0x009 (v &&& 1)) 0x00A (v >>> 1 &&& 3)
    | 0x100 => mstatusPut H v sstatusMask | 0x300 => mstatusPut H v 0xFFFFFFFFFFFFFFFF
    | 0x104 => masked 0x304 (sintMask &&& hartCsr H 0x303) v
    | 0x144 => masked 0x344 (2 &&& hartCsr H 0x303) v
    | 0x344 => masked 0x344 0x222 v
    | 0x204 => masked 0x304 (0x444 &&& hartCsr H 0x603) (v <<< 1)
    | 0x244 => masked 0x645 (4 &&& hartCsr H 0x603) (v <<< 1)
    | 0x604 => masked 0x304 0x1444 v
    | 0x644 => masked 0x645 4 v
    | 0x645 => hartCsrSet H 0x645 (v &&& 0x444)
    | 0x680 => satpPut H n v
    | 0x105 => { H with stvec := v } | 0x141 => { H with sepc := v &&& ~~~(1 : Word) } | 0x142 => { H with scause := v }
    | 0x143 => { H with stval := v } | 0x180 => satpPut H n v | 0x280 => satpPut H n v
    | 0x600 => { hartCsrSet H 0x600 v with spv := v.getLsbD 7 }
    | _ => H

/-- Whether the counter enables let a mode read a counter: each mode below machine mode needs the bit of every mode above
it; what a guest lacks by `hcounteren` or its supervisor's is a virtual-instruction exception. -/
def counterCause (H : Hart) (i : Nat) : Option Nat :=
  let m := (hartCsr H 0x306).getLsbD i
  let g := (hartCsr H 0x606).getLsbD i
  let u := (hartCsr H 0x106).getLsbD i
  match H.mode with
  | .m => none
  | .s => if m then none else some causeIllegal
  | .u => if m && u then none else some causeIllegal
  | .vs => if !m then some causeIllegal else if g then none else some causeVirtual
  | .vu => if !m then some causeIllegal else if g && u then none else some causeVirtual

/-- The exception of an access to `stimecmp`, or a guest's `vstimecmp`, below machine mode: Sstc and the `time` counter must
be enabled for it. -/
def sstcCause (H : Hart) (n : Nat) : Option Nat :=
  let m := (hartCsr H 0x30A).getLsbD 63 && (hartCsr H 0x306).getLsbD 1
  let g := (hartCsr H 0x60A).getLsbD 63 && (hartCsr H 0x606).getLsbD 1
  if H.mode = .m ∨ (n ≠ 0x14D ∧ n ≠ 0x24D) then none
  else if !m then some causeIllegal
  else if modeGuest H.mode && !g then some causeVirtual
  else none

/-- The exception of an access to a translation register that `mstatus` or `hstatus` traps (TVM, VTVM). -/
def tvmCause (H : Hart) (n : Nat) : Option Nat :=
  if H.mode = .s ∧ (n = 0x180 ∨ n = 0x680) ∧ (hartCsr H 0x300).getLsbD 20 then some causeIllegal
  else if H.mode = .vs ∧ n = 0x180 ∧ (hartCsr H 0x600).getLsbD 20 then some causeVirtual
  else none

/-- The exception that a CSR access raises: from too low a privilege, or a write of a read-only CSR; a guest's access to a
hypervisor or device CSR is a virtual-instruction exception (R258). -/
def csrCause (H : Hart) (n : Nat) (write : Bool) : Option Nat :=
  let need := n / 256 % 4
  if isDevCsr (BitVec.ofNat 12 n) then devCsrCause H (BitVec.ofNat 12 n) write
  else if write && n / 1024 == 3 then some causeIllegal
  else if H.mode = .m then none
  else if need = 3 then some causeIllegal
  else if modeGuest H.mode && (need = 2 || modeLevel H.mode < need) then some causeVirtual
  else if !modeGuest H.mode && need ≠ 0 && H.mode ≠ .s then some causeIllegal
  else if 0xC00 ≤ n ∧ n ≤ 0xC1F then counterCause H (n - 0xC00)
  else (sstcCause H n).or (tvmCause H n)

/-! ## Registers of the other files -/

/-- `f`n written: the file becomes Dirty. -/
def hfSet (H : Hart) (r : BitVec 5) (v : Word) : Hart :=
  { hartCsrSet H 0x300 (putBits (hartCsr H 0x300) 13 2 3) with f := bset H.f r v }
/-- Whether floating-point, or vector, instructions are off. -/
def fsOff (H : Hart) : Bool := (hartCsr H 0x300).extractLsb' 13 2 == 0#2
/-- Whether vector instructions are off. -/
def vsOff (H : Hart) : Bool := (hartCsr H 0x300).extractLsb' 9 2 == 0#2
/-! ## Vector configuration and accesses -/

/-- `vsetvli`, `vsetivli`, `vsetvl`: `avl` is nothing where the length stays. -/
def vsetvl (H : Hart) (rd : BitVec 5) (vt : Word) (avl : Option Nat) : Hart :=
  match vtypeOf vt with
  | none => hxSet (hartCsrSet (hartCsrSet (hartCsrSet H 0xC20 0) 0xC21 0x8000000000000000) 0x008 0) rd 0
  | some (sew, mul) =>
    let vl : Word := BitVec.ofNat 64 (min (avl.getD (hartCsr H 0xC20).toNat) (vlmaxOf sew mul))
    hxSet (hartCsrSet (hartCsrSet (hartCsrSet H 0xC20 vl) 0xC21 vt) 0x008 0) rd vl

/-- One element that a vector access moves: its number, its address, its first byte in the register file, its bytes. -/
structure VElem where
  i : Nat
  va : Word
  reg : Nat
  n : Nat

/-- The elements of a vector load or store, in order; nothing for a reserved form. -/
def vElems (H : Hart) (w : BitVec 32) : Option (List VElem) :=
  let eb := match rvF3 w with | 0 => 1 | 5 => 2 | 6 => 4 | _ => 8
  let nf := (w.extractLsb' 29 3).toNat + 1
  let vd := (rvRd w).toNat
  let base := hxGet H (rvRs1 w)
  let start := (hartCsr H 0x008).toNat % 256
  let active (i : Nat) : Bool := w.getLsbD 25 || (vByte H (i / 8)).getLsbD (i % 8)
  let lumop := (rvRs2 w).toNat
  let mop := (w.extractLsb' 26 2).toNat
  if w.getLsbD 28 then none
  else if mop = 0 ∧ lumop = 8 then
    if [1, 2, 4, 8].contains nf && vd % nf == 0 then
      some (((List.range (32 * nf / eb)).drop start).map fun i =>
        { i := i, va := base + BitVec.ofNat 64 (i * eb), reg := 32 * vd + i * eb, n := eb })
    else none
  else
    match vtypeOf (hartCsr H 0xC21) with
    | none => none
    | some (sew, mul) =>
      let mask := mop = 0 ∧ lumop = 11
      let vl := (hartCsr H 0xC20).toNat
      let evl := if mask then (vl + 7) / 8 else vl
      let db := if mop % 2 = 1 then sew / 8 else eb
      let emul := if mask then 8 else mul * db * 8 / sew
      let per := max 1 (emul / 8)
      if mop = 0 ∧ !([0, 11, 16].contains lumop) ∨ emul = 0 ∨ 64 < emul ∨ 8 < nf * per ∨ 32 < vd + nf * per ∨
          (mask ∧ (eb ≠ 1 ∨ nf ≠ 1)) then none
      else
        some ((((List.range evl).drop start).filter fun i => mask || active i).flatMap fun i =>
          (List.range nf).map fun f =>
            let off := match mop with
              | 0 => BitVec.ofNat 64 ((i * nf + f) * eb)
              | 2 => hxGet H (rvRs2 w) * BitVec.ofNat 64 i + BitVec.ofNat 64 (f * eb)
              | _ => BitVec.ofNat 64 (leNat (vBytes H (32 * (rvRs2 w).toNat + i * eb) eb) + f * db)
            { i := i, va := base + off, reg := 32 * (vd + f * per) + i * db, n := db })

/-- Elements loaded in order. A fault stops at its element, in `vstart`; a fault-only-first load then ends there with the
length cut, but for element 0. -/
def vLoad (h : Nat) (ff : Bool) (len : Word) : State → List VElem → State
  | s, [] => setHart s h { hartCsrSet (hartOf s h) 0x008 0 with pc := (hartOf s h).pc + len }
  | s, e :: es =>
    match hartRead s h e.va e.n .read with
    | .ok t bs => vLoad h ff len (setHart t h (vPut (hartOf t h) e.reg bs)) es
    | .transit t => setHart t h (hartCsrSet (hartOf t h) 0x008 (BitVec.ofNat 64 e.i))
    | .fault t f a ga =>
      if ff && e.i != 0 then
        let H := hartCsrSet (hartCsrSet (hartOf s h) 0xC20 (BitVec.ofNat 64 e.i)) 0x008 0
        setHart s h { H with pc := H.pc + len }
      else rvFault (setHart t h (hartCsrSet (hartOf t h) 0x008 (BitVec.ofNat 64 e.i))) h f .read a ga

/-- Elements stored in order, to the end or up to one that faults, which `vstart` then names. -/
def vStoreGo (h : Nat) (data : VElem → Word) (stop : State → VElem → HRes → State) (done : State → State) :
    State → List VElem → State
  | s, [] => done s
  | s, e :: es =>
    match hartStore s h e.va (leBytes e.n (data e).toNat) with
    | .ok s _ => vStoreGo h data stop done s es
    | r => stop s e r

/-- A vector store: every capability check first (R260), then the elements; the granules that they cover together become
clean (R396). -/
def vStore (h : Nat) (len : Word) (s : State) (es : List VElem) : State :=
  let H := hartOf s h
  match es.find? fun e => !capOk H e.va e.n false true false with
  | some e => capTrap s h e.va
  | none =>
    let data (e : VElem) : Word := BitVec.ofNat 64 (leNat (vBytes H e.reg e.n))
    let n := (es.head?.map fun e => e.n).getD 1
    let at_ (t : State) (e : VElem) : State := setHart t h (hartCsrSet (hartOf t h) 0x008 (BitVec.ofNat 64 e.i))
    vStoreGo h data
      (fun s e r => match r with
        | .ok t _ => t
        | .transit t => at_ t e
        | .fault t f a ga => rvFault (at_ t e) h f .write a ga)
      (fun t =>
        let t := coverElems s t h n (es.map fun e => e.va)
        setHart t h { hartCsrSet (hartOf t h) 0x008 0 with pc := (hartOf t h).pc + len })
      s es

/-! ## One instruction -/

/-- An illegal instruction. -/
def rvIllegal (s : State) (h : Nat) (w : BitVec 32) : State := rvTrap s h causeIllegal (w.setWidth 64)

/-- An instruction that only writes the hart's registers, and moves the pc on. -/
def rvDone (s : State) (h : Nat) (len : Word) (f : Hart → Hart) : State :=
  let H := f (hartOf s h)
  setHart s h { H with pc := H.pc + len }

/-- A result for `rd`, or an illegal word. -/
def rvResult (s : State) (h : Nat) (len : Word) (w : BitVec 32) (r : Option Word) : State :=
  match r with
  | some v => rvDone s h len fun H => hxSet H (rvRd w) v
  | none => rvIllegal s h w

/-- The value of loaded bytes: sign- or zero-extended by funct3. -/
def loadValue (f3 : Nat) (bs : List Byte) : Word :=
  let v := leNat bs
  match f3 with
  | 0 => (BitVec.ofNat 8 v).signExtend 64 | 1 => (BitVec.ofNat 16 v).signExtend 64
  | 2 => (BitVec.ofNat 32 v).signExtend 64 | _ => BitVec.ofNat 64 v

/-- A load into a register file. -/
def rvLoad (s : State) (h : Nat) (va : Word) (n : Nat) (put : Hart → List Byte → Hart) (len : Word) : State :=
  match hartRead s h va n .read with
  | .ok s bs => rvDone s h len fun H => put H bs
  | .transit s => s
  | .fault s f a ga => rvFault s h f .read a ga

/-- A store. -/
def rvStore (s : State) (h : Nat) (va : Word) (bs : List Byte) (len : Word) : State :=
  match hartStore s h va bs with
  | .ok s _ => rvDone s h len id
  | .transit s => s
  | .fault s f a ga => rvFault s h f .write a ga

/-- Load-reserved and store-conditional, at the line's home (R278). -/
def rvLrSc (s : State) (h : Nat) (w : BitVec 32) (len : Word) (va : Word) (n : Nat) (sc : Bool) : State :=
  let H := hartOf s h
  let f3 := rvF3 w
  let pa? := hartPa s h va n (if sc then .write else .read)
  if sc then
    let held := match pa? with
      | some pa => mget s.phys.resv h == some (pa / 64)
      | none => true
    let resv := s.phys.resv
    let s := { s with phys := { s.phys with resv := merase resv h } }
    if !held then rvDone s h len fun H => hxSet H (rvRd w) 1
    else
      match hartStore s h va (leBytes n (hxGet H (rvRs2 w)).toNat) with
      | .ok s _ => rvDone s h len fun H => hxSet H (rvRd w) 0
      | .transit t => { t with phys := { t.phys with resv := resv } }
      | .fault s f a ga => rvFault s h f .write a ga
  else
    match hartRead s h va n .read with
    | .ok s bs =>
      let s := match pa? with
        | some pa => { s with phys := { s.phys with resv := mset s.phys.resv h (pa / 64) } }
        | none => s
      rvDone s h len fun H => hxSet H (rvRd w) (loadValue f3 bs)
    | .transit s => s
    | .fault s f a ga => rvFault s h f .read a ga

/-- The A extension: one read and write at the line's home (R278); a capability must allow both (R259). -/
def rvAtomic (s : State) (h : Nat) (w : BitVec 32) (len : Word) : State :=
  let H := hartOf s h
  let va := hxGet H (rvRs1 w)
  let f5 := rvF7 w / 4
  let n := if rvF3 w = 2 then 4 else 8
  if rvF3 w ≠ 2 ∧ rvF3 w ≠ 3 then rvIllegal s h w
  else if f5 = 2 ∨ f5 = 3 then
    if va.toNat % n ≠ 0 then rvTrap s h (if f5 = 2 then causeMisaligned else 6) va
    else rvLrSc s h w len va n (f5 == 3)
  else
    match rvAmo f5 (n == 4) 0 0 with
    | none => rvIllegal s h w
    | some _ =>
      if va.toNat % n ≠ 0 then rvTrap s h 6 va
      else
        let new (old : List Byte) : Word :=
          (rvAmo f5 (n == 4) (loadValue (rvF3 w) old) (hxGet H (rvRs2 w))).getD 0
        match hartAmo s h va n fun old => leBytes n (new old).toNat with
        | .transit s => s
        | .fault s f a ga => rvFault s h f .write a ga
        | .ok s old => rvDone s h len fun H => hxSet H (rvRd w) (loadValue (rvF3 w) old)

/-- FENCE, FENCE.I and the cache-block operations (R256, R259, R285). Accesses are performed at their step, so a fence has
nothing to wait for; FENCE.I finds no copy of code to drop, for harts fetch from memory. -/
def rvMiscMem (s : State) (h : Nat) (w : BitVec 32) (len : Word) : State :=
  let H := hartOf s h
  let va := hxGet H (rvRs1 w) &&& ~~~(63 : Word)
  let op := (w.extractLsb' 20 12).toNat
  let env := if H.mode = .m then (0xD0 : Word)
    else if H.mode = .u ∨ H.mode = .vu then hartCsr H 0x30A &&& hartCsr H 0x10A else hartCsr H 0x30A
  if rvF3 w = 0 ∨ rvF3 w = 1 then rvDone s h len id
  else if rvF3 w ≠ 2 ∨ rvRd w ≠ 0#5 then rvIllegal s h w
  else
    let kind? : Option HartAccessKind :=
      match op with
      | 0 => if env.extractLsb' 4 2 = 0#2 then none else some .cboInval
      | 1 => if env.getLsbD 6 then some .cboClean else none
      | 2 => if env.getLsbD 6 then some .cboFlush else none
      | 4 => if env.getLsbD 7 then some .cboZero else none
      | _ => none
    match kind? with
    | none => rvIllegal s h w
    | some k =>
      if !capElem H k va 64 then capTrap s h va
      else
        match performAccess s h { kind := k, elems := [va], size := 64, data := [], rd := 0 } with
        | .ok s _ => rvDone s h len id
        | .transit s => s
        | .fault s f a ga => rvFault s h f .write a ga

/-- The CSR instructions (R256, R258). -/
def rvCsr (s : State) (h : Nat) (w : BitVec 32) (len : Word) : State :=
  let H := hartOf s h
  let n0 := (w.extractLsb' 20 12).toNat
  let n := guestCsr H n0
  let f3 := rvF3 w
  let src : Word := if 4 ≤ f3 then (rvRs1 w).setWidth 64 else hxGet H (rvRs1 w)
  let write := f3 % 4 == 1 || rvRs1 w != 0#5
  match csrCause H n0 write with
  | some c => if c = causeIllegal ∧ !isDevCsr (BitVec.ofNat 12 n0) then rvIllegal s h w else hartTrap s h c (w.setWidth 64)
  | none =>
    match csrGet s h n with
    | none => rvIllegal s h w
    | some old =>
      let new := match f3 % 4 with | 1 => src | 2 => old ||| src | _ => old &&& ~~~src
      let s := if freeCsr n then { s with freeCtr := s.freeCtr + 1 } else s
      rvDone s h len fun H => hxSet (if write then csrPut H n new else H) (rvRd w) old

/-- The hypervisor's loads and stores, made as a guest. -/
def rvHyper (s : State) (h : Nat) (w : BitVec 32) (len : Word) : State :=
  let H := hartOf s h
  let va := hxGet H (rvRs1 w)
  let f7 := rvF7 w
  let n := 2 ^ ((f7 - 0x30) / 2)
  let guest (t : State) : State :=
    setHart t h { hartOf t h with mode := if (hartCsr H 0x600).getLsbD 8 then .vs else .vu }
  let back (t : State) : State := setHart t h { hartOf t h with mode := H.mode }
  if modeGuest H.mode ∨ (H.mode = .u ∧ !(hartCsr H 0x600).getLsbD 9) then
    rvTrap s h (if modeGuest H.mode then causeVirtual else causeIllegal) (w.setWidth 64)
  else if f7 % 2 = 1 then
    match hartStore (guest s) h va (leBytes n (hxGet H (rvRs2 w)).toNat) with
    | .ok s _ => rvDone (back s) h len id
    | .transit s => back s
    | .fault s f a ga => rvFault (back s) h f .write a ga
  else
    match hartRead (guest s) h va n (if (rvRs2 w).toNat = 3 then .fetch else .read) with
    | .ok s bs =>
      let f3 := (f7 - 0x30) / 2 + if rvRs2 w = 0#5 then 0 else 4
      rvDone (back s) h len fun H => hxSet H (rvRd w) (loadValue f3 bs)
    | .transit s => back s
    | .fault s f a ga => rvFault (back s) h f .read a ga

/-- The translations that a hart holds are dropped (`sfence.vma` and its kin). -/
def dropHartTlb (s : State) (h : Nat) : State := { s with xl := { s.xl with harts := merase s.xl.harts h } }

/-- The privileged instructions: calls, returns, waits, which the model lets end at once, and translation fences. -/
def rvSystem (s : State) (h : Nat) (w : BitVec 32) (len : Word) : State :=
  let H := hartOf s h
  let f12 := (w.extractLsb' 20 12).toNat
  let virt := if modeGuest H.mode then rvTrap s h causeVirtual (w.setWidth 64) else rvIllegal s h w
  if rvF7 w = 0x09 ∨ rvF7 w = 0x0B ∨ f12 = 0x180 ∨ f12 = 0x181 then
    if H.mode = .u ∨ H.mode = .vu then virt
    else
      match (if f12 = 0x180 ∨ f12 = 0x181 then none else tvmCause H 0x180) with
      | some c => if c = causeVirtual then virt else rvIllegal s h w
      | none => rvDone (dropHartTlb s h) h len id
  else if rvF7 w = 0x11 ∨ rvF7 w = 0x31 ∨ rvF7 w = 0x13 ∨ rvF7 w = 0x33 then
    if H.mode = .s ∨ H.mode = .m then
      if rvF7 w / 32 = 1 ∧ (tvmCause H 0x680).isSome then rvIllegal s h w else rvDone (dropHartTlb s h) h len id
    else virt
  else
    match f12 with
    | 0x000 => rvTrap s h (match H.mode with | .u => 8 | .vu => 8 | .s => 9 | .vs => 10 | .m => 11) 0
    | 0x001 => rvTrap s h 3 H.pc
    | 0x102 =>
      if H.mode = .u ∨ H.mode = .vu ∨ (H.mode = .vs ∧ (hartCsr H 0x600).getLsbD 22) then virt
      else if H.mode = .s ∧ (hartCsr H 0x300).getLsbD 22 then rvIllegal s h w
      else setHart s h (rvSret H)
    | 0x302 => if H.mode = .m then setHart s h (rvMret H) else rvIllegal s h w
    | 0x105 =>
      if H.mode ≠ .m ∧ (hartCsr H 0x300).getLsbD 21 then rvIllegal s h w
      else if H.mode = .u ∨ H.mode = .vu ∨ (H.mode = .vs ∧ (hartCsr H 0x600).getLsbD 21) then virt
      else rvDone s h len id
    | 0x00D => rvDone s h len id
    | 0x01D => rvDone s h len id
    | _ => rvIllegal s h w

/-- Whether a funct7 and funct3 of the SYSTEM space is a may-be-operation, which writes 0. -/
def isMop (w : BitVec 32) : Bool :=
  w.getLsbD 31 && !w.getLsbD 29 && !w.getLsbD 28 && (w.getLsbD 25 || w.extractLsb' 22 3 == 7#3)

/-- The SYSTEM space. -/
def rvSys (s : State) (h : Nat) (w : BitVec 32) (len : Word) : State :=
  match rvF3 w with
  | 0 => rvSystem s h w len
  | 4 =>
    if 0x30 ≤ rvF7 w ∧ rvF7 w ≤ 0x37 then rvHyper s h w len
    else if isMop w then rvDone s h len fun H => hxSet H (rvRd w) 0
    else rvIllegal s h w
  | _ => rvCsr s h w len

/-- A floating-point operation: its result, and its flags gathered in `fcsr`. -/
def rvFloat (s : State) (h : Nat) (w : BitVec 32) (len : Word) : State :=
  let H := hartOf s h
  let op := (w.extractLsb' 0 7).toNat
  let fmt := rvF7 w % 4
  let frm := (H.fcsr.extractLsb' 5 3).toNat
  let fa := bget H.f (rvRs1 w)
  let fb := bget H.f (rvRs2 w)
  let r := if op = 0x53 then
      hOp (rvF7 w / 4) fmt (rvF3 w) frm (rvRs2 w).toNat (rvRs1 w).toNat fa fb (hxGet H (rvRs1 w))
    else
      hFused fmt (rvF3 w) frm (op == 0x4B || op == 0x4F) (op == 0x47 || op == 0x4F) fa fb (bget H.f (w.extractLsb' 27 5))
  if fsOff H then rvIllegal s h w
  else
    match r with
    | none => rvIllegal s h w
    | some (.x v fl) => rvDone s h len fun H => hxSet { H with fcsr := H.fcsr ||| fl.setWidth 8 } (rvRd w) v
    | some (.f v fl) => rvDone s h len fun H => hfSet { H with fcsr := H.fcsr ||| fl.setWidth 8 } (rvRd w) v

/-- A vector operation: a configuration instruction, or an arithmetic one. -/
def rvVector (s : State) (h : Nat) (w : BitVec 32) (len : Word) : State :=
  let H := hartOf s h
  if vsOff H then rvIllegal s h w
  else if rvF3 w = 7 then
    if !w.getLsbD 31 then
      let avl := if rvRs1 w ≠ 0#5 then some (hxGet H (rvRs1 w)).toNat else if rvRd w ≠ 0#5 then some (2 ^ 64) else none
      rvDone s h len fun H => vsetvl H (rvRd w) ((w.extractLsb' 20 11).setWidth 64) avl
    else if w.getLsbD 30 then
      rvDone s h len fun H => vsetvl H (rvRd w) ((w.extractLsb' 20 10).setWidth 64) (some (rvRs1 w).toNat)
    else if rvF7 w = 0x40 then
      let avl := if rvRs1 w ≠ 0#5 then some (hxGet H (rvRs1 w)).toNat else if rvRd w ≠ 0#5 then some (2 ^ 64) else none
      rvDone s h len fun H => vsetvl H (rvRd w) (hxGet H (rvRs2 w)) avl
    else rvIllegal s h w
  else
    match (vtypeOf (hartCsr H 0xC21)).bind fun sm => vArith { H := H, w := w, sew := sm.1, mul := sm.2 } with
    | none => rvIllegal s h w
    | some r => rvDone s h len fun _ => r.1

/-- Floating-point and vector loads and stores. -/
def rvFpMem (s : State) (h : Nat) (w : BitVec 32) (len : Word) (store : Bool) : State :=
  let H := hartOf s h
  let f3 := rvF3 w
  if 1 ≤ f3 ∧ f3 ≤ 3 then
    let n := 2 ^ f3
    if fsOff H then rvIllegal s h w
    else if store then
      rvStore s h (hxGet H (rvRs1 w) + immS w) (leBytes n (bget H.f (rvRs2 w)).toNat) len
    else
      rvLoad s h (hxGet H (rvRs1 w) + immI w) n (fun H bs =>
        hfSet H (rvRd w) (BitVec.ofNat 64 (2 ^ 64 - 2 ^ (8 * n) + leNat bs))) len
  else if f3 = 4 ∨ vsOff H then rvIllegal s h w
  else
    match vElems H w with
    | none => rvIllegal s h w
    | some es =>
      if store then vStore h len s es
      else vLoad h (w.extractLsb' 26 2 == 0#2 && rvRs2 w == 16#5) len s es

/-- ONE RISC-V INSTRUCTION of a hart, of `len` bytes (R256, log 14). -/
def rvStep (h : Nat) (w : BitVec 32) (len : Word) (s : State) : State :=
  let H := hartOf s h
  let a := hxGet H (rvRs1 w)
  let b := hxGet H (rvRs2 w)
  let rd := rvRd w
  match (w.extractLsb' 0 7).toNat with
  | 0x37 => rvDone s h len fun H => hxSet H rd (immU w)
  | 0x17 => rvDone s h len fun H => hxSet H rd (H.pc + immU w)
  | 0x6F => setHart s h { hxSet H rd (H.pc + len) with pc := H.pc + immJ w }
  | 0x67 =>
    if rvF3 w ≠ 0 then rvIllegal s h w
    else setHart s h { hxSet H rd (H.pc + len) with pc := (a + immI w) &&& ~~~(1 : Word) }
  | 0x63 =>
    match rvTaken (rvF3 w) a b with
    | none => rvIllegal s h w
    | some t => setHart s h { H with pc := if t then H.pc + immB w else H.pc + len }
  | 0x03 =>
    if rvF3 w = 7 then rvIllegal s h w
    else rvLoad s h (a + immI w) (2 ^ (rvF3 w % 4)) (fun H bs => hxSet H rd (loadValue (rvF3 w) bs)) len
  | 0x23 => if 4 ≤ rvF3 w then rvIllegal s h w else rvStore s h (a + immS w) (leBytes (2 ^ rvF3 w) b.toNat) len
  | 0x13 => rvResult s h len w (rvOpImm w a)
  | 0x1B => rvResult s h len w (rvOpImmW w a)
  | 0x33 => rvResult s h len w (rvOp (rvF7 w) (rvF3 w) a b)
  | 0x3B => rvResult s h len w (rvOpW (rvF7 w) (rvF3 w) a b)
  | 0x0F => rvMiscMem s h w len
  | 0x2F => rvAtomic s h w len
  | 0x73 => rvSys s h w len
  | 0x07 => rvFpMem s h w len false
  | 0x27 => rvFpMem s h w len true
  | 0x43 => rvFloat s h w len
  | 0x47 => rvFloat s h w len
  | 0x4B => rvFloat s h w len
  | 0x4F => rvFloat s h w len
  | 0x53 => rvFloat s h w len
  | 0x57 => rvVector s h w len
  | _ => rvIllegal s h w

end Sys2Proof.Machine
end

