-- ==== Sys2Proof/Machine/Homes.lean ====
section
/-!
DEFINITION. What the homes, the translation and the memory controllers do by themselves: waiters readied
(R357), overflow scans (R358), tickets reached (R307, R391), re-walks (R303), shootdowns (R304), and the end of
a format window (R300).
-/
namespace Sys2Proof.Machine
open Sys2Proof

/-! ## Waiters -/

/-- A pool waiter whose threshold an add has reached is readied, after those of its counter with a lower
sequence number (R357). `home` is the home's key, `sq` the sequence number. -/
def execWaiterReadied (home sq : Nat) (s : State) : Host.Outcome State Fault Refusal :=
  let H := homeOf s home
  match H.pool.find? fun w => w.seq == sq with
  | none => .next s
  | some w =>
    if !w.hit || H.pool.any fun v => v.hit && v.handle == w.handle && v.seq < sq then .next s
    else
      let s := modHome s home fun H => { H with pool := H.pool.filter fun v => v.seq != sq }
      .next (readyStrand s w.parcel w.rcd (ctrOf s w.handle).fut)

/-- One overflow entry: acted on when its counter is gone or its threshold reached, else left (R358). -/
def scanEntry (p home : Nat) (base : Word) (s : State) (i : Nat) : State :=
  let a := base + BitVec.ofNat 64 (32 * i)
  let s := needRead s p a 32
  let h : Word := BitVec.ofNat 64 (devNat s p a 8)
  let t : Word := BitVec.ofNat 64 (devNat s p (a + 8) 8)
  let rcd : Word := BitVec.ofNat 64 (devNat s p (a + 0x10) 8)
  if devNat s p (a + 0x18) 8 % 2 = 0 ∨ hKey h ≠ home then s
  else
    let C := ctrOf s h
    if !C.alloc || C.gen != hGen h then staleWaiter (devPut64 s p (a + 0x18) 0) p rcd h
    else if reached C.value t then readyStrand (devPut64 s p (a + 0x18) 0) p rcd C.fut
    else s

/-- A home scans a parcel's overflow list in ascending entry order (R358). -/
def execOverflowScan (parcel home : Nat) (s : State) : Host.Outcome State Fault Refusal :=
  match (parcelOf s parcel).overflow with
  | none => .next s
  | some r =>
    if (homeOf s home).spilled.contains parcel then
      .next ((List.range r.cfg.entries).foldl (scanEntry parcel home r.cfg.base) s)
    else .next s

/-! ## Tickets -/

/-- A strand or an engine whose ticket has been reached goes on: a strand held in its slot becomes ready, a held
stream retries its instruction, the copy engine retries its part. `mine` says whose tickets are meant. -/
def ticketGo (mine : Nat → Ticket → Bool) (s : State) (c : Nat) (site : HoldSite) : State :=
  let k := coreOf s c
  match site with
  | .resident sl =>
    match mget k.res sl with
    | some r =>
      match r.status with
      | .held t => if mine r.own.parcel t && ticketReached s t then modCore s c fun k => setStatus k sl .ready else s
      | _ => s
    | none => s
  | .stream xs =>
    match (strOf k xs).hold with
    | some t =>
      if mine (runParcel k) t && ticketReached s t then
        modCore s c fun k => modStr k xs fun st => { st with hold := none, stall := none }
      else s
    | none => s
  | .copy =>
    match k.eng.copyq with
    | cmd :: q =>
      match cmd.hold with
      | some t =>
        if mine cmd.own.parcel t && ticketReached s t then
          modCore s c fun k => { k with eng := { k.eng with copyq := { cmd with hold := none } :: q } }
        else s
      | none => s
    | [] => s

/-- The pager counter reaches a ticket (R307). -/
def execPagerTicketReached (core : Nat) (site : HoldSite) (s : State) : Host.Outcome State Fault Refusal :=
  .next (ticketGo (fun p t => ((parcelOf s p).pager.map fun r => r.cfg.handle == t.handle).getD false) s core site)

/-- The repair counter reaches a ticket (R391). -/
def execRepairTicketReached (core : Nat) (site : HoldSite) (s : State) : Host.Outcome State Fault Refusal :=
  .next (ticketGo (fun p t => ((parcelOf s p).fault.map fun f => f.cfg.repairHandle == t.handle).getD false) s
    core site)

/-! ## Translation -/

/-- An access that waits on an in-transit page is walked again: its stream tries the instruction anew (R303). -/
def execTransitRewalk (core : Nat) (xs : Bool) (s : State) : Host.Outcome State Fault Refusal :=
  let st := strOf (coreOf s core) xs
  if st.stall = some .other ∧ st.hold = none then
    .next (modCore s core fun k => modStr k xs fun st => { st with stall := none })
  else .next s

/-- Whether a shootdown ring holds an entry not yet applied. A ring whose counter counts the entries written
says so; for a ring with no counter the event itself does. -/
def shootdownWaits (s : State) (r : DevRing) : Bool :=
  r.cfg.handle == 0 || decide (r.head < ((ctrOf s r.cfg.handle).value - BitVec.ofNat 64 r.tail).toNat)

/-- THE NEXT SHOOTDOWN ENTRY applied (R304, R324): every L1 TLB, section TLB, walk cache and hart TLB drops the page, and
every fetch cache its code; then the completion add. -/
def execShootdownEntry (parcel : Nat) (s : State) : Host.Outcome State Fault Refusal :=
  match (parcelOf s parcel).shootdown with
  | none => .next s
  | some r =>
    if r.cfg.entries = 0 || !shootdownWaits s r then .next s
    else
      let a := r.cfg.base + BitVec.ofNat 64 (16 * (r.head % r.cfg.entries))
      let s := needRead s parcel a 16
      let w := devNat s parcel a 8
      let h : Word := BitVec.ofNat 64 (devNat s parcel (a + 8) 8)
      let vpn := w / 4096 % 2 ^ 36
      let lvl := w % 4
      let maps (f : Nat) : Bool := pageMaps s.phys vpn lvl f 4 (parcelOf s parcel).root
      let s := { s with xl := shootdown s.xl parcel vpn lvl maps }
      let s := modParcel s parcel fun P => { P with shootdown := some { r with head := r.head + 1 } }
      .next (devAdd s parcel h 1).1

/-! ## Format windows -/

/-- The key of a window (R300). -/
def windowKey (group win : Nat) : Nat := group * 64 + win

/-- A window's dirty blocks encoded back and its view lines invalidated. -/
def closeWindow (p : Phys) (w : FormatWindow) : Phys :=
  let bs := ((List.range w.blocks).filter (blockDirty p w)).map fun b => (w, b)
  let p := flushBlocks p bs
  { p with views := p.views.filter fun kb => kb.1 < w.viewPa || w.viewEnd ≤ kb.1 }

/-- The write-back and invalidation of a disabled window end: `BUSY` clears (R300). -/
def execFormatWindowDisableDone (group win : Nat) (s : State) : Host.Outcome State Fault Refusal :=
  match mget s.phys.windows (windowKey group win) with
  | none => .next s
  | some w =>
    if w.en || !w.ctl.getLsbD 62 then .next s
    else
      let p := closeWindow s.phys w
      .next { s with phys := { p with
        windows := mset p.windows (windowKey group win) { w with ctl := w.ctl &&& 0xBFFFFFFFFFFFFFFF } } }

end Sys2Proof.Machine
end

