-- ==== Sys2Proof/Machine/Edges.lean ====
section
/-!
DEFINITION. The cadastre at work (R329 to R347): rows and frames, the edge notice, the link stop, the edge with its
treatment of strands and engine commands, the scrub after it, late way groups, memory phases, and the reclaim
of a donated core (R339).
-/
namespace Sys2Proof.Machine
open Sys2Proof

/-! ## Rows (R331, R333, R340) -/

/-- A row of a table; one past the end is as the default row. -/
def rowOf (t : CadTable) (k : Nat) : CadRow :=
  t.rows.getD k { len := 256, drain := 1024, ways := [], link := [], mem := [], sects := [] }

/-- The row in force. -/
def curRow (s : State) : CadRow := rowOf s.cad.table s.cad.row

/-- The cycle E of the next edge. -/
def edgeAt (s : State) : Nat := s.cad.rowStart + 4096 * (curRow s).len

/-- Whether a pending image takes effect at the frame boundary that ends the row in force: it was accepted at or before
E − 4,096 − D (R333). -/
def isDue (s : State) (tn : CadTable × Nat) : Bool := decide (tn.2 + 4096 + (curRow s).drain ≤ edgeAt s)

/-- The image that takes effect at that boundary: the last accepted of those that are due (R333, log 40). -/
def dueTable (s : State) : Option CadTable := ((s.cad.pending.filter (isDue s)).getLast?).map (·.1)

/-- What follows the row in force: table, row, and whether the edge is a frame boundary. -/
def nextOf (s : State) : CadTable × Nat × Bool :=
  if s.cad.row + 1 < s.cad.table.rows.length then (s.cad.table, s.cad.row + 1, false)
  else ((dueTable s).getD s.cad.table, 0, true)

/-- The row that begins at the next edge. -/
def nextRow (s : State) : CadRow := rowOf (nextOf s).1 (nextOf s).2.1

/-- The section id of an index of the section map. -/
def sectAt (i : Nat) : Nat := i / 48 * 64 + i % 48

/-- The indexes, below `n`, at which two owner lists differ. -/
def changing (n : Nat) (a b : List Nat) : List Nat := (List.range n).filter fun i => a.getD i 63 != b.getD i 63

/-- The sections that change owner at the next edge (R340). -/
def changingSects (s : State) : List Nat := (changing 192 (curRow s).sects (nextRow s).sects).map sectAt

/-- The cores that change owner at the next edge. -/
def changingCores (s : State) : List Nat := (changingSects s).flatMap sectCores

/-- The way groups that change owner at the next edge. -/
def changingWays (s : State) : List Nat := changing 16 (curRow s).ways (nextRow s).ways

/-- At E − D the notice is raised on the cores of changing sections, and changing way groups begin to drain (R341,
R342, R346). -/
def execEdgeNotice (s : State) : Host.Outcome State Fault Refusal :=
  let e := edgeAt s
  if e ≤ s.cycle + (curRow s).drain then
    let t := (changingCores s).foldl (fun s c => modCore s c fun k => { k with edge := some e }) s
    .next (beginDrain t (changingWays s))
  else .next s

/-- At E − 256 injection stops for the outgoing owner of changing link phases (R341, R355). -/
def execLinkPhaseStop (s : State) : Host.Outcome State Fault Refusal :=
  if edgeAt s ≤ s.cycle + 256 && !(changing 16 (curRow s).link (nextRow s).link).isEmpty then
    .next { s with cad := { s.cad with linkStopped := true } }
  else .next s

/-! ## The strands of a changing core (R343) -/

/-- A strand to be written and listed after the edge (R345). -/
def noteActed (s : State) (c : Nat) (a : Acted) : State :=
  modCore s c fun k => { k with acted := k.acted ++ [a] }

/-- The running strand rolled back by an edge: its kept sub-tiles return, its slot is given up, its state word
is to be written. -/
def overrun (s : State) (c : Nat) : State :=
  match (coreOf s c).run with
  | none => s
  | some r =>
    let s := returnTiles s r.own.rcd r.own.launch
    let s := sweepLeaving (modCore s c fun k => setStatus (stopStrand k) r.slot (.leaving false)) c
    noteActed s c { own := r.own, rolls := 1, ready := true, once := false }

/-- A member of a gang stopped at an edge while some member has `IRV` set. -/
def gangHard (s : State) (m : Nat) : State :=
  let f : FaultCode := if ((coreOf s m).run.map fun r => r.irv).getD false then .overrunHard else .gang
  faultOne s m false f 0 (faultDetail (coreOf s m) false)

/-- THE RUNNING STRAND OF A CHANGING CORE, treated by the first matching case of R343. -/
def stopRunning (s : State) (c : Nat) : State :=
  let k := coreOf s c
  match k.run with
  | none => s
  | some r =>
    match k.a.at_, k.a.spin with
    | some (.cwaitS h t acq, _), some _ => spinStep s c r h t acq false false 0
    | _, _ =>
      let ms := gangOf s c
      if r.logsz ≠ 0#4 then
        if gangIrv s c then ms.foldl gangHard s else ms.foldl overrun s
      else if r.irv then faultOne s c false .overrunHard 0 (faultDetail k false)
      else overrun s c

/-! ## Engine commands (R344) -/

/-- A kind 4 entry, the fault counter of the command's launch, and its strand's state word to be written. -/
def cancelled (s : State) (c : Nat) (own : Owner) (addr detail : Word) (cform dform : Nat) : State :=
  let e : FaultEntry :=
    { kind := 4, code := 0, core := c, launch := own.launch, rcd := own.rcd, addr := addr, detail := detail,
      cform := cform, dform := dform }
  let s := launchFault (faultEntry s own.parcel e) own.launch
  noteActed s c { own := own, rolls := 0, ready := false, once := false }

/-- A copy cancelled. -/
def cancelCopy (c : Nat) (s : State) (x : CopyCmd) : State :=
  match x.done with
  | .none => cancelled s c x.own x.dstLow 0 0 0
  | .handle h => cancelled s c x.own x.dstLow h 1 0
  | .local_ i => cancelled s c x.own x.dstLow (i.setWidth 64) 2 0

/-- A matrix command cancelled. -/
def cancelMat (c : Nat) (s : State) (x : MatCmd) : State :=
  match x.op with
  | .mst _ => cancelled s c x.own (BitVec.ofNat 64 (tAddr x.ta)) 0 0 1
  | _ => cancelled s c x.own (x.acc.setWidth 64) 0 0 2

/-- The root's entry of a cancelled run: it ends OVERRUN (R250). -/
def cancelRoot (s : State) (key : RunKey) (bind : Slot) : State :=
  let t : TreeRun := (treeOf s key).getD
    { key := key, bind := bind, sync := [], syncAt := none, released := false, ends := [], endAt := none,
      dup := false, cancelled := false }
  setTree s { t with cancelled := true }

/-- A run cancelled. -/
def cancelRun (c : Nat) (s : State) (key : RunKey) (bind : Slot) (own : Owner) : State :=
  cancelRoot (cancelled s c own bind.addr bind.desc.resctr 1 3) key bind

/-- A sampler command cancelled. -/
def cancelSmp (c : Nat) (s : State) (x : SmpCmd) : State :=
  match x with
  | .run _ b pos pass own _ =>
    cancelRun c s { parcel := b.own.parcel, desc := b.addr, pos := pos, pass := pass } b own
  | .commit _ b _ _ own => cancelled s c own b.addr 0 0 3

/-- The engine commands of a core that satisfy a test on their owner, cancelled (R344). -/
def cancelEngines (s : State) (c : Nat) (mine : Owner → Bool) : State :=
  let g := (coreOf s c).eng
  let smpOwn (x : SmpCmd) : Owner := match x with
    | .run _ _ _ _ own _ => own
    | .commit _ _ _ _ own => own
  let s := (g.copyq.filter fun x => mine x.own).foldl (cancelCopy c) s
  let s := (g.matq.filter fun x => mine x.own).foldl (cancelMat c) s
  let s := (g.runs.filter fun x => mine x.own).foldl (fun s x => cancelRun c s x.key x.bind x.own) s
  let s := (g.smpq.filter fun x => mine (smpOwn x)).foldl (cancelSmp c) s
  let seqs : List Nat := ((g.copyq.filter fun x => mine x.own).map fun x => x.seq) ++
    ((g.matq.filter fun x => mine x.own).map fun x => x.seq) ++
    ((g.runs.filter fun x => mine x.own).map fun x => x.seq) ++
    (g.smpq.filterMap fun x => match x with
      | .run _ _ _ _ own seq => if mine own then some seq else none
      | .commit _ _ _ _ _ => none)
  let s := seqs.foldl unregister s
  modCore s c fun k => { k with eng := { k.eng with
    copyq := k.eng.copyq.filter fun x => !mine x.own, matq := k.eng.matq.filter fun x => !mine x.own,
    runs := k.eng.runs.filter fun x => !mine x.own, smpq := k.eng.smpq.filter fun x => !mine (smpOwn x),
    slots := k.eng.slots.filter fun x => !mine x.2.own } }

/-- Whether a part goes to a changing core. -/
def partInto (cs : List Nat) (p : Part) : Bool :=
  match p.dst with
  | .scratch c _ _ => cs.contains c
  | _ => false

/-- The copies of another core that have parts to a changing core lose them: no completion add, an entry, the
fault counter (R344). -/
def cutCopies (cs : List Nat) (s : State) (c : Nat) : State :=
  (coreOf s c).eng.copyq.foldl (fun s x =>
    if x.parts.any (partInto cs) then
      let s := cancelCopy c s x
      modCore s c fun k =>
        { k with acted := k.acted.dropLast,
                 eng := { k.eng with copyq := k.eng.copyq.map fun y =>
                   if y.seq = x.seq then
                     { y with failed := true, parts := y.parts.filter fun p => !partInto cs p }
                   else y } }
    else s) s

/-! ## Residents and the core (R341, R345) -/

/-- A resident strand loses its slot and window: what its state word receives (R345). -/
def actOn (r : Resident) : Option Acted :=
  match r.status with
  | .ready => some { own := r.own, rolls := 0, ready := true, once := r.once }
  | .held _ => some { own := r.own, rolls := 0, ready := true, once := r.once }
  | .parked => some { own := r.own, rolls := 0, ready := false, once := false }
  | _ => none

/-- The residents of a core that satisfy a test on their owner give up their slots. -/
def dropResidents (s : State) (c : Nat) (mine : Owner → Bool) : State :=
  let rs := (coreOf s c).res.filter fun r => mine r.2.own
  let s := rs.foldl (fun s r => match actOn r.2 with
    | some a => noteActed s c a
    | none => s) s
  modCore s c fun k =>
    let k := { k with res := k.res.filter fun r => !mine r.2.own }
    rs.foldl (fun k r => scrub k r.2.base r.2.size) k

/-- The core's registers, local counters, ports and accumulators cleared, and no dispatch until a cycle. -/
def clearCore (until_ : Nat) (k : Core) : Core :=
  { stopStrand k with accs := bfill 2 [], lcs := [], inbox := bfill 2 [], outbox := bfill 2 [],
                      edge := none, dispatchAt := until_, lent := false, borrower := none }

/-- THE EDGE ON ONE CHANGING CORE (R341, R343, R344). -/
def edgeCore (e : Nat) (s : State) (c : Nat) : State :=
  let all (_ : Owner) : Bool := true
  let s := cancelEngines (stopRunning s c) c all
  let s := modCore s c fun k => { k with eng := { k.eng with board := [] } }
  let s := dropResidents (sweepLeaving s c) c all
  modCore s c fun k => { clearCore (e + 1024) k with wipe := true, urgentRun := 0, nextSlot := 0 }

/-! ## Work queues (R347) -/

/-- A section's queue is stored with its launch, and the incoming parcel's stored queue restored. -/
def exchangeQueue (owner : Nat) (s : State) (key : Nat) : State :=
  let s := match mget s.sched.queues key with
    | none => s
    | some q =>
      let s := modLaunch s q.launch fun L => { L with stored := mset L.stored key q }
      { s with sched := { s.sched with queues := merase s.sched.queues key } }
  match s.sched.launches.find? fun kl => kl.2.parcel == owner && (mget kl.2.stored key).isSome with
  | none => s
  | some kl =>
    match mget kl.2.stored key with
    | none => s
    | some q =>
      let s := modLaunch s kl.2.id fun L => { L with stored := merase L.stored key }
      { s with sched := { s.sched with queues := mset s.sched.queues key q } }

/-- The queues of a changing section exchanged. -/
def exchangeQueues (owners : List Nat) (s : State) (i : Nat) : State :=
  ((List.range 4).map fun q => wqKey (sectAt i) q).foldl (exchangeQueue (owners.getD i 63)) s

/-! ## The edge -/

/-- A way group handed over with its lines invalidated; `LATE` counts a late one (R346). -/
def passWay (s : State) (i owner : Nat) : State :=
  let s := dropGroup s i
  let c := s.cad
  let g := (i / 4, i % 4)
  { s with cad := { c with wayOwner := c.wayOwner.set i owner, lateWays := c.lateWays.filter fun x => x != g,
                           late := if c.lateWays.contains g then min 65535 (c.late + 1) else c.late } }

/-- One changing way group at E: handed to its new owner when nothing in it is dirty; else owned by 62 until it is
(R346). -/
def handWay (nx : List Nat) (s : State) (i : Nat) : State :=
  if groupClean s.phys i then passWay s i (nx.getD i 63)
  else
    let c := s.cad
    let late := if c.lateWays.contains (i / 4, i % 4) then c.lateWays else c.lateWays ++ [(i / 4, i % 4)]
    { s with cad := { c with wayOwner := c.wayOwner.set i Config.monitorId, lateWays := late } }

/-- The changing way groups at E (R346). -/
def handWays (s : State) (nx is : List Nat) : State :=
  let s := is.foldl (handWay nx) s
  { s with cad := { s.cad with drainWays := [] } }

/-- The images still pending after a frame boundary (R333). -/
def stillPending (s : State) : List (CadTable × Nat) := s.cad.pending.filter fun tn => !isDue s tn

/-- The cores of a list changed by an edge at a cycle, and the copies of other cores that go to them (R341, R344). -/
def edgeCores (e : Nat) (cs : List Nat) (s : State) : State :=
  let others := (s.cores.map (·.1)).filter fun c => !cs.contains c
  let s := others.foldl (cutCopies cs) (cs.foldl (edgeCore e) s)
  { s with xl := clearXlat s.xl cs [] }

/-- A core whose owner stays drops what its outbox holds for a neighbour whose owner changes (R166). -/
def dropOutbox (cs : List Nat) (s : State) (c : Nat) : State :=
  if cs.contains c then s
  else
    (List.range 4).foldl (fun s d =>
      if ((neighbour c d).map cs.contains).getD false then
        modCore s c fun k => { k with outbox := bset k.outbox (BitVec.ofNat 2 d) [] }
      else s) s

/-- THE EDGE at E (R341, R343, R347): changing cores stop, queues are exchanged, owners are loaded from the row
that begins. -/
def edge (s : State) : State :=
  let e := edgeAt s
  let nx := nextOf s
  let row := nextRow s
  let is := changing 192 (curRow s).sects row.sects
  let ws := changingWays s
  let cs := changingCores s
  let s1 := (s.cores.map (·.1)).foldl (dropOutbox cs) (edgeCores e cs s)
  let s1 := handWays (is.foldl (exchangeQueues row.sects) s1) row.ways ws
  let c := s1.cad
  trimWalks { s1 with
    xl := clearXlat s1.xl [] (is.map sectAt)
    cad := { c with table := nx.1, row := nx.2.1, rowStart := e, sectOwner := row.sects, linkOwner := row.link,
                    memOwner := row.mem, linkStopped := false,
                    frames := if nx.2.2 then (c.frames + 1) % 2 ^ 32 else c.frames,
                    pending := if nx.2.2 then stillPending s else c.pending } }

/-- The edge at E (R341). -/
def execEdge (s : State) : Host.Outcome State Fault Refusal :=
  if edgeAt s ≤ s.cycle then .next (edge s) else .next s

/-! ## After the edge (R341, R345) -/

/-- A strand's state word after an edge acted on it; a READY strand joins its list. A strand that is FAULTED
keeps its record as written. -/
def writeActed (s : State) (a : Acted) : State :=
  let p := a.own.parcel
  let s := needRead s p (a.own.rcd + 0x10) 8
  let w := recWord s p a.own.rcd
  if swState w = 5 then s
  else
    let s := devPut64 s p (a.own.rcd + 0x10) (swOverrun w a.rolls (if a.ready then some .ready else none))
    if a.ready then joinList s p a.own.rcd a.once else s

/-- A core's strands written and listed. -/
def writeAllActed (s : State) (c : Nat) : State :=
  let as_ := (coreOf s c).acted
  modCore (as_.foldl writeActed s) c fun k => { k with acted := [] }

/-- A changing core's state words written and the core wiped; so are the state words of a gang's members on cores that
stay (R339, R343). One whose records wait for a page is left for a further scrub (R303, log 56). -/
def scrubCore (s : State) (c : Nat) : State :=
  if (coreOf s c).wipe then
    settled s (modCore (writeAllActed s c) c fun k => { k with scratch := [], poison := [], wipe := false })
  else if (coreOf s c).acted.isEmpty then s
  else settled s (writeAllActed s c)

/-- Between E and E + 512 the state words of the strands acted on are written and the changing cores wiped. -/
def execEdgeScrub (s : State) : Host.Outcome State Fault Refusal :=
  .next ((s.cores.map (·.1)).foldl scrubCore s)

/-- A late way group whose writeback has ended is invalidated and handed over, and `LATE` counts it (R346). -/
def execWayGroupLateHandover (die group : Nat) (s : State) : Host.Outcome State Fault Refusal :=
  let g := 4 * die + group
  if s.cad.lateWays.contains (die, group) && groupClean s.phys g then
    .next (passWay s g ((curRow s).ways.getD g 63))
  else .next s

/-- A boundary of the memory wheel at a controller group (R337): the phase that begins is noted. The model keeps
no row buffers, which change time only. -/
def execMemoryPhaseBoundary (ctl : Nat) (s : State) : Host.Outcome State Fault Refusal :=
  .next { s with cad := { s.cad with memPhase := mset s.cad.memPhase ctl (s.cycle / 64 % 16) } }

/-! ## Reclaim (R339) -/

/-- A core donated under `DCORE` is reclaimed when its owner has a strand for it, as at an edge with D = 0: the
beneficiary's strand is stopped, commands are cancelled, the core is wiped, and the owner's strand is dispatched 1,024
cycles later (R339, log 21). -/
def execCoreReclaim (core : Nat) (s : State) : Host.Outcome State Fault Refusal :=
  let k := coreOf s core
  if k.lent && k.edge.isNone && (pickCand k (ownCands s core)).isSome then .next (edgeCores s.cycle [core] s)
  else .next s

end Sys2Proof.Machine
end

