-- ==== Sys2Proof/Machine/ExecFp.lean ====
section
/-!
DEFINITION. Scalar FP32 arithmetic, comparison and conversion (R168 to R172).
-/
namespace Sys2Proof.Machine
open Sys2Proof

/-- The low 32 bits of an s register as an FP32 pattern (R15). -/
def f32Of (k : Core) (r : BitVec 5) : Nat := ((sGet k r).extractLsb' 0 32).toNat

/-- A scalar FP32 instruction of two sources (R168). -/
def fOp2 (f : Nat → Nat → FpRes) (h : Hdr) (d a b : BitVec 5) (s : State) :
    Host.Outcome State Fault Refusal :=
  xInst h (fun c s => fpDone c d (f (f32Of (coreOf s c) a) (f32Of (coreOf s c) b)) s) s
/-- A scalar FP32 instruction of one source. -/
def fOp1 (f : Nat → FpRes) (h : Hdr) (d a : BitVec 5) (s : State) : Host.Outcome State Fault Refusal :=
  xInst h (fun c s => fpDone c d (f (f32Of (coreOf s c) a)) s) s
/-- A fused scalar instruction: d is the addend (R170). -/
def fOp3 (np nc : Bool) (h : Hdr) (d a b : BitVec 5) (s : State) : Host.Outcome State Fault Refusal :=
  xInst h (fun c s =>
    let k := coreOf s c
    fpDone c d (fpFma .f32 false np nc (f32Of k a) (f32Of k b) (f32Of k d)) s) s

/-- The rounding field of `fcvt` (R54): RNE, RZ, RD, RU. -/
def fcvtMode (r : BitVec 2) : RMode :=
  match r.toNat with
  | 0 => .rne | 1 => .rz | 2 => .rd | _ => .ru

/-- A conversion instruction: `f` takes the mode and the source register (R172). -/
def cvtOp (f : RMode → Word → FpRes) (h : Hdr) (d a : BitVec 5) (r : BitVec 2) (s : State) :
    Host.Outcome State Fault Refusal :=
  xInst h (fun c s => fpDone c d (f (fcvtMode r) (sGet (coreOf s c) a)) s) s

/-- A result of an integer conversion as 64 bits. -/
def intRes (r : Int × Flags) : FpRes := ((BitVec.ofInt 64 r.1).toNat, r.2)

/-- `fcmp` on a core (R171). -/
def fcmpBody (p k : BitVec 3) (a b : BitVec 5) (c : Nat) (s : State) : Eff :=
  let K := coreOf s c
  let r := fpCmp .f32 false k (f32Of K a) (f32Of K b)
  if fpInv K r.2 then .trap s c .fpinv 0 .read else .ok (setCore s c (orFlags (pSet K p r.1) r.2))

/-- `fadd` (R168). -/
def execFadd (h : Hdr) (d a b : BitVec 5) (s : State) : Host.Outcome State Fault Refusal :=
  fOp2 (fpAdd .f32 false) h d a b s
/-- `fsub` (R168). -/
def execFsub (h : Hdr) (d a b : BitVec 5) (s : State) : Host.Outcome State Fault Refusal :=
  fOp2 (fpSub .f32 false) h d a b s
/-- `fmul` (R168). -/
def execFmul (h : Hdr) (d a b : BitVec 5) (s : State) : Host.Outcome State Fault Refusal :=
  fOp2 (fpMul .f32 false) h d a b s
/-- `fdiv` (R168). -/
def execFdiv (h : Hdr) (d a b : BitVec 5) (s : State) : Host.Outcome State Fault Refusal :=
  fOp2 (fpDiv .f32 false) h d a b s
/-- `fmin` (R168). -/
def execFmin (h : Hdr) (d a b : BitVec 5) (s : State) : Host.Outcome State Fault Refusal :=
  fOp2 (fpMinMax .f32 false false) h d a b s
/-- `fmax` (R168). -/
def execFmax (h : Hdr) (d a b : BitVec 5) (s : State) : Host.Outcome State Fault Refusal :=
  fOp2 (fpMinMax .f32 false true) h d a b s
/-- `fsgnj` (R168). -/
def execFsgnj (h : Hdr) (d a b : BitVec 5) (s : State) : Host.Outcome State Fault Refusal :=
  fOp2 (fun x y => (x % 2 ^ 31 + y / 2 ^ 31 * 2 ^ 31, 0)) h d a b s
/-- `fsqrt` (R168). -/
def execFsqrt (h : Hdr) (d a : BitVec 5) (s : State) : Host.Outcome State Fault Refusal :=
  fOp1 (fpSqrt .f32 false) h d a s
/-- `frcp` (R168). -/
def execFrcp (h : Hdr) (d a : BitVec 5) (s : State) : Host.Outcome State Fault Refusal :=
  fOp1 (fpRcp .f32 false) h d a s
/-- `frsq` (R168). -/
def execFrsq (h : Hdr) (d a : BitVec 5) (s : State) : Host.Outcome State Fault Refusal :=
  fOp1 (fpRsq .f32 false) h d a s
/-- `fabs` (R168). -/
def execFabs (h : Hdr) (d a : BitVec 5) (s : State) : Host.Outcome State Fault Refusal :=
  fOp1 (fun x => (x % 2 ^ 31, 0)) h d a s
/-- `fneg` (R168). -/
def execFneg (h : Hdr) (d a : BitVec 5) (s : State) : Host.Outcome State Fault Refusal :=
  fOp1 (fun x => (fpNeg .f32 x, 0)) h d a s
/-- `fclass` (R169). -/
def execFclass (h : Hdr) (d a : BitVec 5) (s : State) : Host.Outcome State Fault Refusal :=
  fOp1 (fun x => (fpClass .f32 x, 0)) h d a s
/-- `ffma` (R170). -/
def execFfma (h : Hdr) (d a b : BitVec 5) (s : State) : Host.Outcome State Fault Refusal :=
  fOp3 false false h d a b s
/-- `ffms` (R170). -/
def execFfms (h : Hdr) (d a b : BitVec 5) (s : State) : Host.Outcome State Fault Refusal :=
  fOp3 false true h d a b s
/-- `fnfma` (R170). -/
def execFnfma (h : Hdr) (d a b : BitVec 5) (s : State) : Host.Outcome State Fault Refusal :=
  fOp3 true false h d a b s
/-- `fnfms` (R170). -/
def execFnfms (h : Hdr) (d a b : BitVec 5) (s : State) : Host.Outcome State Fault Refusal :=
  fOp3 true true h d a b s
/-- `fcmp` (R171). -/
def execFcmp (h : Hdr) (p k : BitVec 3) (a b : BitVec 5) (s : State) : Host.Outcome State Fault Refusal :=
  xInst h (fcmpBody p k a b) s
/-- `FcvtF32S64`, a conversion of R54 (R172). -/
def execFcvtF32S64 (h : Hdr) (d a : BitVec 5) (r : BitVec 2) (s : State) : Host.Outcome State Fault Refusal :=
  cvtOp (fun m x => intToFp .f32 false m x.toInt) h d a r s
/-- `FcvtF32U64`, a conversion of R54 (R172). -/
def execFcvtF32U64 (h : Hdr) (d a : BitVec 5) (r : BitVec 2) (s : State) : Host.Outcome State Fault Refusal :=
  cvtOp (fun m x => intToFp .f32 false m (x.toNat : Int)) h d a r s
/-- `FcvtS64F32`, a conversion of R54 (R172). -/
def execFcvtS64F32 (h : Hdr) (d a : BitVec 5) (r : BitVec 2) (s : State) : Host.Outcome State Fault Refusal :=
  cvtOp (fun m x => intRes (fpToInt .f32 false m (-(2 ^ 63)) (2 ^ 63 - 1) (x.toNat % 2 ^ 32))) h d a r s
/-- `FcvtU64F32`, a conversion of R54 (R172). -/
def execFcvtU64F32 (h : Hdr) (d a : BitVec 5) (r : BitVec 2) (s : State) : Host.Outcome State Fault Refusal :=
  cvtOp (fun m x => intRes (fpToInt .f32 false m 0 (2 ^ 64 - 1) (x.toNat % 2 ^ 32))) h d a r s
/-- `FcvtBf16F32`, a conversion of R54 (R172). -/
def execFcvtBf16F32 (h : Hdr) (d a : BitVec 5) (r : BitVec 2) (s : State) : Host.Outcome State Fault Refusal :=
  cvtOp (fun m x => fpConv .f32 .bf16 false m (x.toNat % 2 ^ 32)) h d a r s
/-- `FcvtF32Bf16`, a conversion of R54 (R172). -/
def execFcvtF32Bf16 (h : Hdr) (d a : BitVec 5) (r : BitVec 2) (s : State) : Host.Outcome State Fault Refusal :=
  cvtOp (fun _ x => fpConv .bf16 .f32 false .rne (x.toNat % 2 ^ 16)) h d a r s
/-- `FcvtF16F32`, a conversion of R54 (R172). -/
def execFcvtF16F32 (h : Hdr) (d a : BitVec 5) (r : BitVec 2) (s : State) : Host.Outcome State Fault Refusal :=
  cvtOp (fun m x => fpConv .f32 .f16 false m (x.toNat % 2 ^ 32)) h d a r s
/-- `FcvtF32F16`, a conversion of R54 (R172). -/
def execFcvtF32F16 (h : Hdr) (d a : BitVec 5) (r : BitVec 2) (s : State) : Host.Outcome State Fault Refusal :=
  cvtOp (fun _ x => fpConv .f16 .f32 false .rne (x.toNat % 2 ^ 16)) h d a r s
/-- `FcvtE4m3F32`, a conversion of R54 (R172). -/
def execFcvtE4m3F32 (h : Hdr) (d a : BitVec 5) (r : BitVec 2) (s : State) : Host.Outcome State Fault Refusal :=
  cvtOp (fun m x => fpConv .f32 .e4m3 false m (x.toNat % 2 ^ 32)) h d a r s
/-- `FcvtE5m2F32`, a conversion of R54 (R172). -/
def execFcvtE5m2F32 (h : Hdr) (d a : BitVec 5) (r : BitVec 2) (s : State) : Host.Outcome State Fault Refusal :=
  cvtOp (fun m x => fpConv .f32 .e5m2 false m (x.toNat % 2 ^ 32)) h d a r s
/-- `FcvtF32E4m3`, a conversion of R54 (R172). -/
def execFcvtF32E4m3 (h : Hdr) (d a : BitVec 5) (r : BitVec 2) (s : State) : Host.Outcome State Fault Refusal :=
  cvtOp (fun _ x => fpConv .e4m3 .f32 false .rne (x.toNat % 2 ^ 8)) h d a r s
/-- `FcvtF32E5m2`, a conversion of R54 (R172). -/
def execFcvtF32E5m2 (h : Hdr) (d a : BitVec 5) (r : BitVec 2) (s : State) : Host.Outcome State Fault Refusal :=
  cvtOp (fun _ x => fpConv .e5m2 .f32 false .rne (x.toNat % 2 ^ 8)) h d a r s

end Sys2Proof.Machine
end

