-- ==== Sys2Proof/Machine/ExecInt.lean ====
section
/-!
DEFINITION. Execute-stream arithmetic, predicates, select and aligned accumulation (R163, R164, R173 to R176).
-/
namespace Sys2Proof.Machine
open Sys2Proof

/-- `add`: a + b. -/
def execXAdd (h : Hdr) (d a b : BitVec 5) (s : State) : Host.Outcome State Fault Refusal :=
  xOp2 (fun x y => x + y) h d a b s
/-- `sub`: a − b. -/
def execXSub (h : Hdr) (d a b : BitVec 5) (s : State) : Host.Outcome State Fault Refusal :=
  xOp2 (fun x y => x - y) h d a b s
/-- `and`: a & b. -/
def execXAnd (h : Hdr) (d a b : BitVec 5) (s : State) : Host.Outcome State Fault Refusal :=
  xOp2 (fun x y => x &&& y) h d a b s
/-- `or`: a | b. -/
def execXOr (h : Hdr) (d a b : BitVec 5) (s : State) : Host.Outcome State Fault Refusal :=
  xOp2 (fun x y => x ||| y) h d a b s
/-- `xor`: a xor b. -/
def execXXor (h : Hdr) (d a b : BitVec 5) (s : State) : Host.Outcome State Fault Refusal :=
  xOp2 (fun x y => x ^^^ y) h d a b s
/-- `shl`: a << b[5:0]. -/
def execXShl (h : Hdr) (d a b : BitVec 5) (s : State) : Host.Outcome State Fault Refusal :=
  xOp2 aluShl h d a b s
/-- `shr`: u64(a) >> b[5:0]. -/
def execXShr (h : Hdr) (d a b : BitVec 5) (s : State) : Host.Outcome State Fault Refusal :=
  xOp2 aluShr h d a b s
/-- `sra`: s64(a) >> b[5:0]. -/
def execXSra (h : Hdr) (d a b : BitVec 5) (s : State) : Host.Outcome State Fault Refusal :=
  xOp2 aluSra h d a b s
/-- `mul`: low 64 bits of a × b. -/
def execXMul (h : Hdr) (d a b : BitVec 5) (s : State) : Host.Outcome State Fault Refusal :=
  xOp2 (fun x y => x * y) h d a b s
/-- `mulh`: signed high product. -/
def execXMulh (h : Hdr) (d a b : BitVec 5) (s : State) : Host.Outcome State Fault Refusal :=
  xOp2 aluMulh h d a b s
/-- `mulhu`: unsigned high product. -/
def execXMulhu (h : Hdr) (d a b : BitVec 5) (s : State) : Host.Outcome State Fault Refusal :=
  xOp2 aluMulhu h d a b s
/-- `min`: signed minimum. -/
def execXMin (h : Hdr) (d a b : BitVec 5) (s : State) : Host.Outcome State Fault Refusal :=
  xOp2 aluMin h d a b s
/-- `max`: signed maximum. -/
def execXMax (h : Hdr) (d a b : BitVec 5) (s : State) : Host.Outcome State Fault Refusal :=
  xOp2 aluMax h d a b s
/-- `minu`: unsigned minimum. -/
def execXMinu (h : Hdr) (d a b : BitVec 5) (s : State) : Host.Outcome State Fault Refusal :=
  xOp2 aluMinu h d a b s
/-- `maxu`: unsigned maximum. -/
def execXMaxu (h : Hdr) (d a b : BitVec 5) (s : State) : Host.Outcome State Fault Refusal :=
  xOp2 aluMaxu h d a b s
/-- `slt`: signed set-less-than. -/
def execXSlt (h : Hdr) (d a b : BitVec 5) (s : State) : Host.Outcome State Fault Refusal :=
  xOp2 aluSlt h d a b s
/-- `sltu`: unsigned set-less-than. -/
def execXSltu (h : Hdr) (d a b : BitVec 5) (s : State) : Host.Outcome State Fault Refusal :=
  xOp2 aluSltu h d a b s
/-- `andn`: a & ~b. -/
def execXAndn (h : Hdr) (d a b : BitVec 5) (s : State) : Host.Outcome State Fault Refusal :=
  xOp2 aluAndn h d a b s
/-- `orn`: a | ~b. -/
def execXOrn (h : Hdr) (d a b : BitVec 5) (s : State) : Host.Outcome State Fault Refusal :=
  xOp2 aluOrn h d a b s
/-- `rotl`: rotate left. -/
def execXRotl (h : Hdr) (d a b : BitVec 5) (s : State) : Host.Outcome State Fault Refusal :=
  xOp2 aluRotl h d a b s
/-- `div`: signed division. -/
def execXDiv (h : Hdr) (d a b : BitVec 5) (s : State) : Host.Outcome State Fault Refusal :=
  xOp2 aluDiv h d a b s
/-- `divu`: unsigned division. -/
def execXDivu (h : Hdr) (d a b : BitVec 5) (s : State) : Host.Outcome State Fault Refusal :=
  xOp2 aluDivu h d a b s
/-- `rem`: signed remainder. -/
def execXRem (h : Hdr) (d a b : BitVec 5) (s : State) : Host.Outcome State Fault Refusal :=
  xOp2 aluRem h d a b s
/-- `remu`: unsigned remainder. -/
def execXRemu (h : Hdr) (d a b : BitVec 5) (s : State) : Host.Outcome State Fault Refusal :=
  xOp2 aluRemu h d a b s
/-- `clz`: leading zeros. -/
def execXClz (h : Hdr) (d a : BitVec 5) (s : State) : Host.Outcome State Fault Refusal :=
  xOp1 aluClz h d a s
/-- `popc`: one bits. -/
def execXPopc (h : Hdr) (d a : BitVec 5) (s : State) : Host.Outcome State Fault Refusal :=
  xOp1 aluPopc h d a s
/-- `sextw`: sext(a[31:0], 32). -/
def execXSextW (h : Hdr) (d a : BitVec 5) (s : State) : Host.Outcome State Fault Refusal :=
  xOp1 aluSextW h d a s
/-- `zextw`: a[31:0]. -/
def execXZextW (h : Hdr) (d a : BitVec 5) (s : State) : Host.Outcome State Fault Refusal :=
  xOp1 aluZextW h d a s
/-- `addi`: a + i. -/
def execXAddi (h : Hdr) (d a : BitVec 5) (im : BitVec 11) (s : State) : Host.Outcome State Fault Refusal :=
  xOp1 (fun x => x + immW im) h d a s
/-- `andi`: a & i. -/
def execXAndi (h : Hdr) (d a : BitVec 5) (im : BitVec 11) (s : State) : Host.Outcome State Fault Refusal :=
  xOp1 (fun x => x &&& immW im) h d a s
/-- `ori`: a | i. -/
def execXOri (h : Hdr) (d a : BitVec 5) (im : BitVec 11) (s : State) : Host.Outcome State Fault Refusal :=
  xOp1 (fun x => x ||| immW im) h d a s
/-- `xori`: a xor i. -/
def execXXori (h : Hdr) (d a : BitVec 5) (im : BitVec 11) (s : State) : Host.Outcome State Fault Refusal :=
  xOp1 (fun x => x ^^^ immW im) h d a s
/-- `slti`: signed a < i. -/
def execXSlti (h : Hdr) (d a : BitVec 5) (im : BitVec 11) (s : State) : Host.Outcome State Fault Refusal :=
  xOp1 (fun x => aluSlt x (immW im)) h d a s
/-- `shli`: a << imm11[5:0]. -/
def execXShli (h : Hdr) (d a : BitVec 5) (sc : BitVec 6) (s : State) : Host.Outcome State Fault Refusal :=
  xOp1 (fun x => x <<< sc) h d a s
/-- `shri`: u64(a) >> imm11[5:0]. -/
def execXShri (h : Hdr) (d a : BitVec 5) (sc : BitVec 6) (s : State) : Host.Outcome State Fault Refusal :=
  xOp1 (fun x => x >>> sc) h d a s
/-- `srai`: s64(a) >> imm11[5:0]. -/
def execXSrai (h : Hdr) (d a : BitVec 5) (sc : BitVec 6) (s : State) : Host.Outcome State Fault Refusal :=
  xOp1 (fun x => x.sshiftRight sc.toNat) h d a s
/-- `li` (R164). -/
def execXLi (h : Hdr) (d : BitVec 5) (im : BitVec 16) (s : State) : Host.Outcome State Fault Refusal :=
  xInst h (onCore (rLi true d im)) s
/-- `lih` (R164). -/
def execXLih (h : Hdr) (d : BitVec 5) (im : BitVec 16) (s : State) : Host.Outcome State Fault Refusal :=
  xInst h (onCore (rLih true d im)) s
/-- `pset` (R174). -/
def execPset (h : Hdr) (p k : BitVec 3) (a b : BitVec 5) (s : State) : Host.Outcome State Fault Refusal :=
  xInst h (onCore (qCmp true p k a b)) s
/-- `pand` (R175). -/
def execPand (h : Hdr) (d a b : BitVec 3) (s : State) : Host.Outcome State Fault Refusal :=
  xInst h (onCore (qOp2 true (fun x y => x && y) d a b)) s
/-- `por` (R175). -/
def execPor (h : Hdr) (d a b : BitVec 3) (s : State) : Host.Outcome State Fault Refusal :=
  xInst h (onCore (qOp2 true (fun x y => x || y) d a b)) s
/-- `pxor` (R175). -/
def execPxor (h : Hdr) (d a b : BitVec 3) (s : State) : Host.Outcome State Fault Refusal :=
  xInst h (onCore (qOp2 true (fun x y => x != y) d a b)) s
/-- `pandn` (R175). -/
def execPandn (h : Hdr) (d a b : BitVec 3) (s : State) : Host.Outcome State Fault Refusal :=
  xInst h (onCore (qOp2 true (fun x y => x && !y) d a b)) s
/-- `pnot` (R175). -/
def execPnot (h : Hdr) (d a : BitVec 3) (s : State) : Host.Outcome State Fault Refusal :=
  xInst h (onCore (qOp1 true (fun x => !x) d a)) s
/-- `pmov` (R175). -/
def execPmov (h : Hdr) (d a : BitVec 3) (s : State) : Host.Outcome State Fault Refusal :=
  xInst h (onCore (qOp1 true (fun x => x) d a)) s
/-- `ppack`: p0 to p7 as one byte, p0 reading true (R175). -/
def ppackBody (d : BitVec 5) (k : Core) : Core :=
  sSet k d (BitVec.ofNat 64 ((List.range 8).foldl (fun n i =>
    n + if pGet k (BitVec.ofNat 3 i) then 2 ^ i else 0) 0))
/-- `punpk`: p1 to p7 from bits 1 to 7 (R175). -/
def punpkBody (a : BitVec 5) (k : Core) : Core :=
  (List.range 8).foldl (fun k' i => pSet k' (BitVec.ofNat 3 i) ((sGet k a).getLsbD i)) k
/-- `ppack` (R175). -/
def execPpack (h : Hdr) (d : BitVec 5) (s : State) : Host.Outcome State Fault Refusal :=
  xInst h (onCore (ppackBody d)) s
/-- `punpk` (R175). -/
def execPunpk (h : Hdr) (a : BitVec 5) (s : State) : Host.Outcome State Fault Refusal :=
  xInst h (onCore (punpkBody a)) s
/-- `sel`: p ? a : b (R176). -/
def execSel (h : Hdr) (d a b : BitVec 5) (p : BitVec 3) (s : State) : Host.Outcome State Fault Refusal :=
  xInst h (onCore fun k => sSet k d (if pGet k p then sGet k a else sGet k b)) s
/-- `xaln`: the packed arrival in a added to the packed running value in d (R97, R173). -/
def xalnBody (d a : BitVec 5) (k : Core) : Core :=
  let x := unpackPair (sGet k d)
  let y := unpackPair (sGet k a)
  sSet k d (packPair (alnAdd x.1 x.2 y.1 y.2))
/-- `xaln` (R173). -/
def execXaln (h : Hdr) (d a : BitVec 5) (s : State) : Host.Outcome State Fault Refusal :=
  xInst h (onCore (xalnBody d a)) s

end Sys2Proof.Machine
end

