-- ==== Sys2Proof/Machine/ExecWin.lean ====
section
/-!
DEFINITION. The windowed integer forms (R64, R165) and the queue moves of QMOV (R167).
-/
namespace Sys2Proof.Machine
open Sys2Proof

/-! ## The issue rule of R64 -/

/-- The closed ports that a windowed instruction names fault with PORT (R24, R64). -/
def srcPort (s : State) (c : Nat) : WinSrc → Bool
  | .inbox d => portClosed s c d.toNat
  | _ => false
/-- Whether a destination names a closed port. -/
def dstPort (s : State) (c : Nat) : WinDst → Bool
  | .outbox d => portClosed s c d.toNat
  | _ => false

/-- A source taken: its value and the core without the entry, nothing while it has none. -/
def takeSrc (s : State) (k : Core) : WinSrc → Option (Word × Core)
  | .reg r => some (sGet k r, k)
  | .lq =>
    match lqHead k with
    | some e => some (e.data, lqPop s k)
    | none => none
  | .inbox d =>
    match bget k.inbox d with
    | v :: q => some (v, moved s { k with inbox := bset k.inbox d q })
    | [] => none

/-- Whether a destination has room. -/
def dstRoom (k : Core) : WinDst → Bool
  | .reg _ => true
  | .sq _ => k.sh.sq.length < 16
  | .outbox d => (bget k.outbox d).length < 4

/-- A destination written. -/
def putDst (s : State) (k : Core) (v : Word) : WinDst → Core
  | .reg r => sSet k r v
  | .sq eos => sqPush s k v eos
  | .outbox d => moved s { k with outbox := bset k.outbox d (bget k.outbox d ++ [v]) }

/-- Why a windowed instruction waits: a port it names has no entry or room, or a queue. -/
def winStall (k : Core) (a b : WinSrc) (d : WinDst) : StallKind :=
  let p : WinSrc → Bool := fun x => match x with | .inbox i => (bget k.inbox i).isEmpty | _ => false
  if p a || p b || (match d with | .outbox i => 4 ≤ (bget k.outbox i).length | _ => false) then .port
  else .queue

/-- A windowed operation: all its pops and pushes together, or none (R64). -/
def winBody (f : Word → Word → Word) (d : WinDst) (a b : WinSrc) (c : Nat) (s : State) : Eff :=
  let k := coreOf s c
  if srcPort s c a || srcPort s c b || dstPort s c d then .trap s c .port 0 .read
  else if !dstRoom k d then .wait s (winStall k a b d)
  else
    match takeSrc s k a with
    | none => .wait s (winStall k a b d)
    | some (x, k1) =>
      match takeSrc s k1 b with
      | none => .wait s (winStall k a b d)
      | some (y, k2) => .ok (setCore s c (putDst s k2 (f x y) d))

/-- A windowed instruction of two sources. -/
def wOp2 (f : Word → Word → Word) (h : Hdr) (d a b : BitVec 5) (s : State) :
    Host.Outcome State Fault Refusal := xInst h (winBody f (winDst d) (winSrc a) (winSrc b)) s
/-- A windowed instruction of one source. -/
def wOp1 (f : Word → Word) (h : Hdr) (d a : BitVec 5) (s : State) : Host.Outcome State Fault Refusal :=
  xInst h (winBody (fun x _ => f x) (winDst d) (winSrc a) (.reg 0)) s

/-! ## QMOV (R167) -/

/-- `peek`: the head of LQ, nothing popped. -/
def peekBody (d : BitVec 5) (c : Nat) (s : State) : Eff :=
  match lqHead (coreOf s c) with
  | none => .wait s .queue
  | some e => .ok (modCore s c fun k => sSet k d e.data)

/-- `pushe`: SQ with EOS. -/
def pusheBody (a : BitVec 5) (c : Nat) (s : State) : Eff :=
  let k := coreOf s c
  if 16 ≤ k.sh.sq.length then .wait s .queue else .ok (setCore s c (sqPush s k (sGet k a) true))

/-- `ppeek`: the head of an inbox, nothing popped. -/
def ppeekBody (d n : BitVec 5) (c : Nat) (s : State) : Eff :=
  if 3 < n.toNat then .trap s c .illegal 0 .read
  else if portClosed s c n.toNat then .trap s c .port 0 .read
  else
    match bget (coreOf s c).inbox (n.extractLsb' 0 2) with
    | [] => .wait s .port
    | v :: _ => .ok (modCore s c fun k => sSet k d v)

/-- `peek` (R167). -/
def execPeek (h : Hdr) (d : BitVec 5) (s : State) : Host.Outcome State Fault Refusal :=
  xInst h (peekBody d) s
/-- `pushe` (R167). -/
def execPushe (h : Hdr) (a : BitVec 5) (s : State) : Host.Outcome State Fault Refusal :=
  xInst h (pusheBody a) s
/-- `ppeek` (R167). -/
def execPpeek (h : Hdr) (d n : BitVec 5) (s : State) : Host.Outcome State Fault Refusal :=
  xInst h (ppeekBody d n) s

/-! ## XINTW -/

/-- Windowed `add`: a + b. -/
def execWAdd (h : Hdr) (d a b : BitVec 5) (s : State) : Host.Outcome State Fault Refusal :=
  wOp2 (fun x y => x + y) h d a b s
/-- Windowed `sub`: a − b. -/
def execWSub (h : Hdr) (d a b : BitVec 5) (s : State) : Host.Outcome State Fault Refusal :=
  wOp2 (fun x y => x - y) h d a b s
/-- Windowed `and`: a & b. -/
def execWAnd (h : Hdr) (d a b : BitVec 5) (s : State) : Host.Outcome State Fault Refusal :=
  wOp2 (fun x y => x &&& y) h d a b s
/-- Windowed `or`: a | b. -/
def execWOr (h : Hdr) (d a b : BitVec 5) (s : State) : Host.Outcome State Fault Refusal :=
  wOp2 (fun x y => x ||| y) h d a b s
/-- Windowed `xor`: a xor b. -/
def execWXor (h : Hdr) (d a b : BitVec 5) (s : State) : Host.Outcome State Fault Refusal :=
  wOp2 (fun x y => x ^^^ y) h d a b s
/-- Windowed `shl`: a << b[5:0]. -/
def execWShl (h : Hdr) (d a b : BitVec 5) (s : State) : Host.Outcome State Fault Refusal :=
  wOp2 aluShl h d a b s
/-- Windowed `shr`: u64(a) >> b[5:0]. -/
def execWShr (h : Hdr) (d a b : BitVec 5) (s : State) : Host.Outcome State Fault Refusal :=
  wOp2 aluShr h d a b s
/-- Windowed `sra`: s64(a) >> b[5:0]. -/
def execWSra (h : Hdr) (d a b : BitVec 5) (s : State) : Host.Outcome State Fault Refusal :=
  wOp2 aluSra h d a b s
/-- Windowed `mul`: low 64 bits of a × b. -/
def execWMul (h : Hdr) (d a b : BitVec 5) (s : State) : Host.Outcome State Fault Refusal :=
  wOp2 (fun x y => x * y) h d a b s
/-- Windowed `mulh`: signed high product. -/
def execWMulh (h : Hdr) (d a b : BitVec 5) (s : State) : Host.Outcome State Fault Refusal :=
  wOp2 aluMulh h d a b s
/-- Windowed `mulhu`: unsigned high product. -/
def execWMulhu (h : Hdr) (d a b : BitVec 5) (s : State) : Host.Outcome State Fault Refusal :=
  wOp2 aluMulhu h d a b s
/-- Windowed `min`: signed minimum. -/
def execWMin (h : Hdr) (d a b : BitVec 5) (s : State) : Host.Outcome State Fault Refusal :=
  wOp2 aluMin h d a b s
/-- Windowed `max`: signed maximum. -/
def execWMax (h : Hdr) (d a b : BitVec 5) (s : State) : Host.Outcome State Fault Refusal :=
  wOp2 aluMax h d a b s
/-- Windowed `minu`: unsigned minimum. -/
def execWMinu (h : Hdr) (d a b : BitVec 5) (s : State) : Host.Outcome State Fault Refusal :=
  wOp2 aluMinu h d a b s
/-- Windowed `maxu`: unsigned maximum. -/
def execWMaxu (h : Hdr) (d a b : BitVec 5) (s : State) : Host.Outcome State Fault Refusal :=
  wOp2 aluMaxu h d a b s
/-- Windowed `slt`: signed set-less-than. -/
def execWSlt (h : Hdr) (d a b : BitVec 5) (s : State) : Host.Outcome State Fault Refusal :=
  wOp2 aluSlt h d a b s
/-- Windowed `sltu`: unsigned set-less-than. -/
def execWSltu (h : Hdr) (d a b : BitVec 5) (s : State) : Host.Outcome State Fault Refusal :=
  wOp2 aluSltu h d a b s
/-- Windowed `andn`: a & ~b. -/
def execWAndn (h : Hdr) (d a b : BitVec 5) (s : State) : Host.Outcome State Fault Refusal :=
  wOp2 aluAndn h d a b s
/-- Windowed `orn`: a | ~b. -/
def execWOrn (h : Hdr) (d a b : BitVec 5) (s : State) : Host.Outcome State Fault Refusal :=
  wOp2 aluOrn h d a b s
/-- Windowed `rotl`: rotate left. -/
def execWRotl (h : Hdr) (d a b : BitVec 5) (s : State) : Host.Outcome State Fault Refusal :=
  wOp2 aluRotl h d a b s
/-- Windowed `div`: signed division. -/
def execWDiv (h : Hdr) (d a b : BitVec 5) (s : State) : Host.Outcome State Fault Refusal :=
  wOp2 aluDiv h d a b s
/-- Windowed `divu`: unsigned division. -/
def execWDivu (h : Hdr) (d a b : BitVec 5) (s : State) : Host.Outcome State Fault Refusal :=
  wOp2 aluDivu h d a b s
/-- Windowed `rem`: signed remainder. -/
def execWRem (h : Hdr) (d a b : BitVec 5) (s : State) : Host.Outcome State Fault Refusal :=
  wOp2 aluRem h d a b s
/-- Windowed `remu`: unsigned remainder. -/
def execWRemu (h : Hdr) (d a b : BitVec 5) (s : State) : Host.Outcome State Fault Refusal :=
  wOp2 aluRemu h d a b s
/-- Windowed `clz`: leading zeros. -/
def execWClz (h : Hdr) (d a : BitVec 5) (s : State) : Host.Outcome State Fault Refusal :=
  wOp1 aluClz h d a s
/-- Windowed `popc`: one bits. -/
def execWPopc (h : Hdr) (d a : BitVec 5) (s : State) : Host.Outcome State Fault Refusal :=
  wOp1 aluPopc h d a s
/-- Windowed `sextw`: sext(a[31:0], 32). -/
def execWSextW (h : Hdr) (d a : BitVec 5) (s : State) : Host.Outcome State Fault Refusal :=
  wOp1 aluSextW h d a s
/-- Windowed `zextw`: a[31:0]. -/
def execWZextW (h : Hdr) (d a : BitVec 5) (s : State) : Host.Outcome State Fault Refusal :=
  wOp1 aluZextW h d a s

end Sys2Proof.Machine
end

