-- ==== Sys2Proof/WellFormed.lean ====
section
/-!
DEFINITION. Well-formedness of an instruction: the field values that the formats exclude although the
field has room for them (R43, R44, R49, R55, R58 to R61, R64, R66, R67, R122, R261). The decoder
refuses a word whose fields break it.
-/
namespace Sys2Proof

/-- A window code as a source (R64): 25, 26 and 27 are illegal. -/
def windowSrcOk (c : BitVec 5) : Bool := !(c == 25#5 || c == 26#5 || c == 27#5)
/-- A window code as the destination (R64): 26 and 27 are illegal. -/
def windowDstOk (c : BitVec 5) : Bool := !(c == 26#5 || c == 27#5)
/-- The completion form of a copy (R58): with no add, c is must-be-zero. -/
def copyDoneOk (c : BitVec 5) (m : BitVec 2) : Bool := !(m == 0#2) || c == 0#5
/-- The orderings of an add (R59): relaxed, release, acq-rel. -/
def addOrderOk (o : BitVec 2) : Bool := !(o == 1#2)
/-- The orderings of a read, test or wait (R59): relaxed, acquire. -/
def readOrderOk (o : BitVec 2) : Bool := o == 0#2 || o == 1#2
/-- A fuse size (R60): log2 from 1 to 4. -/
def fuseSizeOk (b : BitVec 5) : Bool := b == 1#5 || b == 2#5 || b == 3#5 || b == 4#5
/-- A loop body length (R43, R122): not 0. -/
def lenOk (len : BitVec 12) : Bool := !(len == 0#12)

/-- The reserved-value check of each instruction. -/
def Instr.wf (i : Instr) : Bool :=
  match i with
  | .aAdd _ _ _ _ => true
  | .aSub _ _ _ _ => true
  | .aAnd _ _ _ _ => true
  | .aOr _ _ _ _ => true
  | .aXor _ _ _ _ => true
  | .aShl _ _ _ _ => true
  | .aShr _ _ _ _ => true
  | .aSra _ _ _ _ => true
  | .aMul _ _ _ _ => true
  | .aMulh _ _ _ _ => true
  | .aMulhu _ _ _ _ => true
  | .aMin _ _ _ _ => true
  | .aMax _ _ _ _ => true
  | .aMinu _ _ _ _ => true
  | .aMaxu _ _ _ _ => true
  | .aSlt _ _ _ _ => true
  | .aSltu _ _ _ _ => true
  | .aAndn _ _ _ _ => true
  | .aOrn _ _ _ _ => true
  | .aRotl _ _ _ _ => true
  | .aAddi _ _ _ _ => true
  | .aAndi _ _ _ _ => true
  | .aOri _ _ _ _ => true
  | .aXori _ _ _ _ => true
  | .aShli _ _ _ _ => true
  | .aShri _ _ _ _ => true
  | .aSrai _ _ _ _ => true
  | .aSlti _ _ _ _ => true
  | .aLi _ _ _ => true
  | .aLih _ _ _ => true
  | .cset _ _ _ _ _ => true
  | .cand _ _ _ _ => true
  | .cor _ _ _ _ => true
  | .cxor _ _ _ _ => true
  | .cnot _ _ _ => true
  | .cmov _ _ _ => true
  | .gaddrRl _ _ _ => true
  | .gaddrOwn _ _ _ => true
  | .gaddrOff _ _ _ => true
  | .idx2 _ _ _ _ _ => true
  | .ldl _ _ _ _ _ _ => true
  | .stl _ _ _ _ _ _ => true
  | .ldq _ _ _ _ _ _ => true
  | .stq _ _ _ _ _ => true
  | .ldg _ _ _ _ _ _ => true
  | .stg _ _ _ _ _ _ => true
  | .ldgq _ _ _ _ _ _ => true
  | .stgq _ _ _ _ _ => true
  | .vld _ _ _ => true
  | .vst _ _ => true
  | .cpy _ _ _ c m => copyDoneOk c m
  | .cpyg _ _ sc c m => copyDoneOk c m && !(sc == 15#4)
  | .cpys _ d _ c m => copyDoneOk c m && !(d == 15#4)
  | .cpyf _ _ _ c m => copyDoneOk c m
  | .cpyn _ _ _ c _ m => copyDoneOk c m
  | .amoWAdd _ _ _ _ _ => true
  | .amoWMin _ _ _ _ _ => true
  | .amoWMax _ _ _ _ _ => true
  | .amoWMinu _ _ _ _ _ => true
  | .amoWMaxu _ _ _ _ _ => true
  | .amoWAnd _ _ _ _ _ => true
  | .amoWOr _ _ _ _ _ => true
  | .amoWXor _ _ _ _ _ => true
  | .amoWSwap _ _ _ _ _ => true
  | .amoWCas _ _ _ _ _ => true
  | .amoDAdd _ _ _ _ _ => true
  | .amoDMin _ _ _ _ _ => true
  | .amoDMax _ _ _ _ _ => true
  | .amoDMinu _ _ _ _ _ => true
  | .amoDMaxu _ _ _ _ _ => true
  | .amoDAnd _ _ _ _ _ => true
  | .amoDOr _ _ _ _ _ => true
  | .amoDXor _ _ _ _ _ => true
  | .amoDSwap _ _ _ _ _ => true
  | .amoDCas _ _ _ _ _ => true
  | .redIaddW _ _ _ _ => true
  | .redIaddD _ _ _ _ => true
  | .redFaddF32 _ _ _ _ => true
  | .redFaddBf16x2 _ _ _ _ => true
  | .redFmaxF32 _ _ _ _ => true
  | .redImaxW _ _ _ _ => true
  | .redIminW _ _ _ _ => true
  | .cadd _ _ _ _ off => addOrderOk off
  | .caddk _ _ _ _ off => addOrderOk off
  | .cread _ _ _ off => readOrderOk off
  | .ctest _ _ _ _ off => readOrderOk off
  | .cwait _ _ _ off => readOrderOk off
  | .cwaitS _ _ _ off => readOrderOk off
  | .calloc _ _ _ => true
  | .cfree _ _ => true
  | .carm _ _ _ => true
  | .cwany _ _ off => readOrderOk off
  | .cwall _ _ off => readOrderOk off
  | .cfirst _ _ _ => true
  | .fenceAcq _ _ => true
  | .fenceRel _ _ => true
  | .fenceAr _ _ => true
  | .beq _ _ _ _ => true
  | .bne _ _ _ _ => true
  | .blt _ _ _ _ => true
  | .bge _ _ _ _ => true
  | .bltu _ _ _ _ => true
  | .bgeu _ _ _ _ => true
  | .bc _ _ _ _ => true
  | .aBq _ _ _ => true
  | .aJ _ _ => true
  | .aJal _ _ => true
  | .aJr _ _ => true
  | .aSendb _ _ _ _ => true
  | .aLoop _ _ len => lenOk len
  | .aLoops _ ex len => lenOk len && decide (ex.toNat ≤ 2)
  | .loopr _ _ _ len => lenOk len
  | .ftile _ _ _ _ => true
  | .suspS _ => true
  | .yieldS _ => true
  | .exitS _ => true
  | .commitS _ => true
  | .spawn _ _ => true
  | .aFuse _ b => fuseSizeOk b
  | .aSplit _ => true
  | .aCsrr _ _ _ => true
  | .aCsrw _ _ _ _ => true
  | .aCsrs _ _ _ _ => true
  | .aCsrc _ _ _ _ => true
  | .aTrap _ _ => true
  | .aBkpt _ _ => true
  | .fcall _ _ _ => true
  | .fcallNb _ _ _ _ => true
  | .dsc _ _ => true
  | .pref _ _ => true
  | .aTdefLo _ _ _ => true
  | .aTdefHi _ _ _ => true
  | .aTadv _ _ _ => true
  | .aTrows _ _ _ => true
  | .xAdd _ _ _ _ => true
  | .xSub _ _ _ _ => true
  | .xAnd _ _ _ _ => true
  | .xOr _ _ _ _ => true
  | .xXor _ _ _ _ => true
  | .xShl _ _ _ _ => true
  | .xShr _ _ _ _ => true
  | .xSra _ _ _ _ => true
  | .xMul _ _ _ _ => true
  | .xMulh _ _ _ _ => true
  | .xMulhu _ _ _ _ => true
  | .xMin _ _ _ _ => true
  | .xMax _ _ _ _ => true
  | .xMinu _ _ _ _ => true
  | .xMaxu _ _ _ _ => true
  | .xSlt _ _ _ _ => true
  | .xSltu _ _ _ _ => true
  | .xAndn _ _ _ _ => true
  | .xOrn _ _ _ _ => true
  | .xRotl _ _ _ _ => true
  | .xDiv _ _ _ _ => true
  | .xDivu _ _ _ _ => true
  | .xRem _ _ _ _ => true
  | .xRemu _ _ _ _ => true
  | .xClz _ _ _ => true
  | .xPopc _ _ _ => true
  | .xSextW _ _ _ => true
  | .xZextW _ _ _ => true
  | .wAdd _ d a b => windowDstOk d && windowSrcOk a && windowSrcOk b
  | .wSub _ d a b => windowDstOk d && windowSrcOk a && windowSrcOk b
  | .wAnd _ d a b => windowDstOk d && windowSrcOk a && windowSrcOk b
  | .wOr _ d a b => windowDstOk d && windowSrcOk a && windowSrcOk b
  | .wXor _ d a b => windowDstOk d && windowSrcOk a && windowSrcOk b
  | .wShl _ d a b => windowDstOk d && windowSrcOk a && windowSrcOk b
  | .wShr _ d a b => windowDstOk d && windowSrcOk a && windowSrcOk b
  | .wSra _ d a b => windowDstOk d && windowSrcOk a && windowSrcOk b
  | .wMul _ d a b => windowDstOk d && windowSrcOk a && windowSrcOk b
  | .wMulh _ d a b => windowDstOk d && windowSrcOk a && windowSrcOk b
  | .wMulhu _ d a b => windowDstOk d && windowSrcOk a && windowSrcOk b
  | .wMin _ d a b => windowDstOk d && windowSrcOk a && windowSrcOk b
  | .wMax _ d a b => windowDstOk d && windowSrcOk a && windowSrcOk b
  | .wMinu _ d a b => windowDstOk d && windowSrcOk a && windowSrcOk b
  | .wMaxu _ d a b => windowDstOk d && windowSrcOk a && windowSrcOk b
  | .wSlt _ d a b => windowDstOk d && windowSrcOk a && windowSrcOk b
  | .wSltu _ d a b => windowDstOk d && windowSrcOk a && windowSrcOk b
  | .wAndn _ d a b => windowDstOk d && windowSrcOk a && windowSrcOk b
  | .wOrn _ d a b => windowDstOk d && windowSrcOk a && windowSrcOk b
  | .wRotl _ d a b => windowDstOk d && windowSrcOk a && windowSrcOk b
  | .wDiv _ d a b => windowDstOk d && windowSrcOk a && windowSrcOk b
  | .wDivu _ d a b => windowDstOk d && windowSrcOk a && windowSrcOk b
  | .wRem _ d a b => windowDstOk d && windowSrcOk a && windowSrcOk b
  | .wRemu _ d a b => windowDstOk d && windowSrcOk a && windowSrcOk b
  | .wClz _ d a => windowDstOk d && windowSrcOk a
  | .wPopc _ d a => windowDstOk d && windowSrcOk a
  | .wSextW _ d a => windowDstOk d && windowSrcOk a
  | .wZextW _ d a => windowDstOk d && windowSrcOk a
  | .xAddi _ _ _ _ => true
  | .xAndi _ _ _ _ => true
  | .xOri _ _ _ _ => true
  | .xXori _ _ _ _ => true
  | .xShli _ _ _ _ => true
  | .xShri _ _ _ _ => true
  | .xSrai _ _ _ _ => true
  | .xSlti _ _ _ _ => true
  | .xLi _ _ _ => true
  | .xLih _ _ _ => true
  | .fadd _ _ _ _ => true
  | .fsub _ _ _ _ => true
  | .fmul _ _ _ _ => true
  | .fdiv _ _ _ _ => true
  | .fmin _ _ _ _ => true
  | .fmax _ _ _ _ => true
  | .fsqrt _ _ _ => true
  | .frcp _ _ _ => true
  | .frsq _ _ _ => true
  | .fabs _ _ _ => true
  | .fneg _ _ _ => true
  | .fsgnj _ _ _ _ => true
  | .fclass _ _ _ => true
  | .ffma _ _ _ _ => true
  | .ffms _ _ _ _ => true
  | .fnfma _ _ _ _ => true
  | .fnfms _ _ _ _ => true
  | .fcmp _ _ k _ _ => !(k == 6#3 || k == 7#3)
  | .fcvtF32S64 _ _ _ _ => true
  | .fcvtF32U64 _ _ _ _ => true
  | .fcvtS64F32 _ _ _ _ => true
  | .fcvtU64F32 _ _ _ _ => true
  | .fcvtBf16F32 _ _ _ _ => true
  | .fcvtF32Bf16 _ _ _ _ => true
  | .fcvtF16F32 _ _ _ _ => true
  | .fcvtF32F16 _ _ _ _ => true
  | .fcvtE4m3F32 _ _ _ _ => true
  | .fcvtE5m2F32 _ _ _ _ => true
  | .fcvtF32E4m3 _ _ _ _ => true
  | .fcvtF32E5m2 _ _ _ _ => true
  | .pset _ _ _ _ _ => true
  | .pand _ _ _ _ => true
  | .por _ _ _ _ => true
  | .pxor _ _ _ _ => true
  | .pandn _ _ _ _ => true
  | .pnot _ _ _ => true
  | .pmov _ _ _ => true
  | .ppack _ _ => true
  | .punpk _ _ => true
  | .peek _ _ => true
  | .pushe _ _ => true
  | .ppeek _ _ n => decide (n.toNat ≤ 3)
  | .sel _ _ _ _ _ => true
  | .xaln _ _ _ => true
  | .ldf _ _ _ _ _ _ => true
  | .stf _ _ _ _ _ _ => true
  | .bp _ _ _ _ => true
  | .xBq _ _ _ => true
  | .bst _ _ _ _ => true
  | .xJ _ _ => true
  | .xJal _ _ => true
  | .xJr _ _ => true
  | .xSendb _ _ _ _ => true
  | .xLoop _ _ len => lenOk len
  | .xLoops _ ex len => lenOk len && decide (ex.toNat ≤ 2)
  | .loopv _ _ sc len => lenOk len && decide (1 ≤ sc.toNat ∧ sc.toNat ≤ 8)
  | .enter _ _ => true
  | .leave _ _ => true
  | .xcmt _ => true
  | .xFuse _ b => fuseSizeOk b
  | .xSplit _ => true
  | .gidx _ _ => true
  | .gsize _ _ => true
  | .xCsrr _ _ _ => true
  | .xCsrw _ _ _ _ => true
  | .xCsrs _ _ _ _ => true
  | .xCsrc _ _ _ _ => true
  | .xTrap _ _ => true
  | .xBkpt _ _ => true
  | .xTdefLo _ _ _ => true
  | .xTdefHi _ _ _ => true
  | .xTadv _ _ _ => true
  | .xTrows _ _ _ => true
  | .vshape _ _ => true
  | .vgetsh _ _ => true
  | .setvc _ _ => true
  | .vpop _ _ => true
  | .vpush _ _ => true
  | .vpushEos _ _ => true
  | .vfadd _ _ _ _ _ => true
  | .vfsub _ _ _ _ _ => true
  | .vfmul _ _ _ _ _ => true
  | .vfdiv _ _ _ _ _ => true
  | .vfmin _ _ _ _ _ => true
  | .vfmax _ _ _ _ _ => true
  | .vfabs _ _ _ => true
  | .vfneg _ _ _ => true
  | .vfsqrt _ _ _ => true
  | .vfrcp _ _ _ => true
  | .vfrsq _ _ _ => true
  | .vexp2 _ _ _ => true
  | .vlog2 _ _ _ => true
  | .vtanh _ _ _ => true
  | .vffma _ _ _ _ _ => true
  | .vffms _ _ _ _ _ => true
  | .vfnfma _ _ _ _ _ => true
  | .vfnfms _ _ _ _ _ => true
  | .vmov _ _ _ => true
  | .vbcast _ _ _ => true
  | .vext _ _ _ _ => true
  | .vins _ _ _ _ => true
  | .viadd _ _ _ _ _ => true
  | .visub _ _ _ _ _ => true
  | .vimul _ _ _ _ _ => true
  | .vimin _ _ _ _ _ => true
  | .vimax _ _ _ _ _ => true
  | .viand _ _ _ _ _ => true
  | .vior _ _ _ _ _ => true
  | .vixor _ _ _ _ _ => true
  | .vishl _ _ _ _ _ => true
  | .vishr _ _ _ _ _ => true
  | .visra _ _ _ _ _ => true
  | .viadds _ _ _ _ _ => true
  | .visubs _ _ _ _ _ => true
  | .vfcmp _ _ _ _ _ k => !(k == 6#3 || k == 7#3)
  | .vicmp _ _ _ _ _ _ => true
  | .vcvt _ _ _ _ r kt => decide (kt.toNat ≤ 8) && !(r == 3#2)
  | .vbscale _ _ _ => true
  | .vquant _ _ _ _ => true
  | .vdeq _ _ _ _ => true
  | .vpackp _ _ _ _ => true
  | .vunpkp _ _ _ _ => true
  | .vrsum _ _ _ => true
  | .vrmax _ _ _ => true
  | .vrmin _ _ _ => true
  | .vrargmax _ _ _ => true
  | .vcsum _ _ _ => true
  | .vcmax _ _ _ => true
  | .vcmin _ _ _ => true
  | .vcargmax _ _ _ => true
  | .vperm _ _ _ _ => true
  | .vgath _ _ _ _ => true
  | .vrot _ _ _ _ => true
  | .vtrn _ _ _ => true
  | .mand _ _ _ _ => true
  | .mor _ _ _ _ => true
  | .mxor _ _ _ _ => true
  | .mandn _ _ _ _ => true
  | .mnot _ _ _ => true
  | .mmov _ _ _ => true
  | .mpopc _ _ _ => true
  | .mfirst _ _ _ => true
  | .vectorCommandComplete _ => true
  | .mmul _ _ _ _ _ _ => true
  | .mmulBs _ _ a b _ _ => !(a == 15#4) && !(b == 15#4)
  | .mtrans _ _ _ _ => true
  | .mperm _ _ _ _ _ => true
  | .mrsum _ _ _ _ => true
  | .mcsum _ _ _ _ => true
  | .mclr _ _ => true
  | .mstF32 _ _ _ => true
  | .mstBf16 _ _ _ => true
  | .mstI32 _ _ _ => true
  | .mstMe _ _ _ => true
  | .mld _ _ _ => true
  | .mxaln _ _ _ => true
  | .matrixCommandExecute _ => true
  | .sreg _ _ _ _ => true
  | .sqdraft _ _ _ => true
  | .srun _ _ _ => true
  | .scommit _ _ _ => true
  | .samplerRunStart _ => true
  | .lmov _ _ => true
  | .lkc _ _ => true
  | .ladd _ _ _ => true
  | .lsub _ _ _ => true
  | .lmul _ _ _ => true
  | .lmin _ _ _ => true
  | .lmax _ _ _ => true
  | .lscale _ _ _ => true
  | .lshift _ _ _ => true
  | .ltemp _ _ _ => true
  | .lcap _ _ _ => true
  | .lbias _ _ => true
  | .lrep _ _ _ => true
  | .lfreq _ _ _ _ => true
  | .lmask _ _ => true
  | .lban _ _ _ => true
  | .lminp _ _ _ => true
  | .ltopk _ k => decide (1 ≤ k.toNat ∧ k.toNat ≤ 64)
  | .lbr _ _ _ => true
  | .lbrNz _ _ _ => true
  | .lbrZ _ _ _ => true
  | .lsync _ => true
  | .lendS _ => true
  | .lendG _ => true
  | .lendF _ => true
  | .samplerRunOverrun _ _ => true
  | .lsyncGlobalMax _ => true
  | .rootEndAction _ => true
  | .samplerTreeTimeout _ => true
  | .dvCadd q len sc _ _ _ => decide (2 ≤ sc.toNat) && !(q == 1#1 && len == 0#1)
  | .dvCread _ sc _ _ => decide (2 ≤ sc.toNat)
  | .dvCtest _ sc _ _ _ => decide (2 ≤ sc.toNat)
  | .dvCwait _ sc _ _ _ => decide (2 ≤ sc.toNat)
  | .dvCwaitTimeout _ => true
  | .dvFnew _ _ => true
  | .dvFpost _ _ _ => true
  | .dvFfail _ _ _ => true
  | .dvLaunch _ _ => true
  | .hartUModeAccess _ _ => true
  | .deviceCsrWrite _ _ _ => true
  | .lqEntryFill _ _ => true
  | .vlqEntryFill _ _ => true
  | .portEntryMove _ _ => true
  | .deadlockTimeout _ => true
  | .gangFuseTimeout _ => true
  | .cwaitSSpinExpiry _ => true
  | .waiterReadied _ _ => true
  | .overflowScan _ _ => true
  | .copyCompletion _ => true
  | .pagerTicketReached _ _ => true
  | .repairTicketReached _ _ => true
  | .transitRewalk _ _ => true
  | .shootdownEntry _ => true
  | .formatWindowDisableDone _ _ => true
  | .launchStart _ => true
  | .launchEnd _ => true
  | .graphReplayStart _ => true
  | .graphReplayEnd _ => true
  | .dispatch _ => true
  | .coreReclaim _ => true
  | .edgeNotice => true
  | .linkPhaseStop => true
  | .edge => true
  | .edgeScrub => true
  | .wayGroupLateHandover _ _ => true
  | .memoryPhaseBoundary _ => true
  | .futureTimerTick => true
  | .futureReleaseNoseq _ => true
  | .remoteToolReply _ _ _ _ => true
  | .genDescriptorRegister _ _ => true
  | .commitEntry _ => true
  | .revocationPoint _ => true
  | .parityError _ => true
  | .integrityNodeFailure _ _ => true
  | .sramScrub _ => true
  | .dramPatrolScrub _ => true
  | .submitCadastreImage _ => true
  | .createParcel _ => true
  | .deleteParcel _ => true
  | .setOwner _ _ => true
  | .addGrant _ => true
  | .removeGrant _ => true
  | .setQuotas _ _ => true
  | .writeRingCheckTable _ _ => true
  | .writeFormatWindow _ _ _ => true
  | .configureFaultArea _ _ => true
  | .firmwareStage _ => true
  | .firmwareActivate _ => true
  | .firmwareCommit => true
  | .configureDeviceRings _ _ _ => true
  | .writeToolRoute _ _ _ => true
  | .bindConnection _ _ => true
  | .unbindConnection _ => true
  | .exposeCxlRange _ => true
  | .withdrawCxlRange _ => true
  | .negotiateAlgorithms _ => true
  | .challenge _ => true
  | .getMeasurements _ _ => true
  | .getCertificate _ => true
  | .setCertificate _ _ => true
  | .slotPendingTimeout _ => true
  | .bar0RegisterWrite _ _ _ => true
  | .rtail _ _ _ => true
  | .cien _ _ _ => true
  | .cithr _ _ _ => true
  | .bar2Write _ _ _ _ => true
  | .bar2Read _ _ _ => true
  | .cxlCounterWindowWrite _ _ _ => true
  | .cxlCounterWindowRead _ _ => true
  | .ringLaunch _ _ _ => true
  | .ringCopy _ _ _ _ => true
  | .ringAdd _ _ _ => true
  | .ringWait _ _ _ => true
  | .ringNop _ _ _ => true
  | .ringEntryComplete _ _ => true
  | .functionLevelReset _ => true
  | .flrComplete _ => true
  | .pfReset => true
  | .surpriseLinkLoss => true
  | .cxlLinkLoss => true
  | .gracePeriodExpiry => true
  | .linkRetrain => true
  | .hostMemRead _ _ => true
  | .hostMemWrite _ _ => true
  | .snpData _ => true
  | .snpInv _ => true
  | .peerCopy _ _ _ _ => true
  | .peerCounterMessage _ _ => true
  | .peerWaitAnswer _ _ => true
  | .connectionFailure _ => true
  | .pldmDiscovery => true
  | .pldmSensorRead _ => true
  | .pldmResetEffecter => true
  | .pldmFirmwareUpdate _ => true
  | .managementPowerUp => true
  | .packageReset => true
  | .perstRelease => true
  | .illegalInstruction _ _ _ => true
  | .instructionFetchFault _ _ => true
  | .utgenIllegalWord _ _ => true
  | .customIllegalInstruction _ _ => true
  | .hartInterrupt _ _ => true
  | .busMasterEnable _ _ => true

end Sys2Proof
end

