-- ==== Sys2Proof/Decode.lean ====
section
/-!
DEFINITION. The decoder and, after it, the encoder, both written from the encoding rules: the header
R41, the body formats R43, the two major maps R50 and R51 with the function codes R52 to R67, the
Utgen word R236 and the custom RISC-V words R261. Every reserved code, nonzero must-be-zero field and
value that `Instr.wf` excludes is refused (R49), and no word falls through to a neighbour.

The definitions that build an instruction are marked noncomputable: Lean's compiler cannot represent a
constructor past the 244th of one inductive. The kernel evaluates them on numerals like any other.
-/
namespace Sys2Proof

/-- Bits [lo+len-1:lo] of a word. -/
abbrev bits (w : BitVec 32) (lo len : Nat) : BitVec len := w.extractLsb' lo len

/-- The major opcode [26:21] (R41). -/
abbrev opOf (w : BitVec 32) : BitVec 6 := bits w 21 6
/-- The guard field [29:27] (R41). -/
abbrev gOf (w : BitVec 32) : BitVec 3 := bits w 27 3
/-- The header of a word (R41). -/
def hdrOf (w : BitVec 32) : Hdr :=
  { w := bits w 31 1 == 1#1, t := bits w 30 1 == 1#1, g := gOf w }
/-- The header of a P- or S-format word (R45). -/
def hdrPOf (w : BitVec 32) : HdrP := { w := bits w 31 1 == 1#1, t := bits w 30 1 == 1#1 }

/-- Major `0x01` of the access stream, R format: add, sub, and, or and the rest of its codes. -/
noncomputable def decA01 (h : Hdr) (d : BitVec 5) (a : BitVec 5) (b : BitVec 5) (fn : BitVec 6) : Option Instr :=
  match fn.toNat with
  | 0 => some (.aAdd h d a b)
  | 1 => some (.aSub h d a b)
  | 2 => some (.aAnd h d a b)
  | 3 => some (.aOr h d a b)
  | 4 => some (.aXor h d a b)
  | 5 => some (.aShl h d a b)
  | 6 => some (.aShr h d a b)
  | 7 => some (.aSra h d a b)
  | 8 => some (.aMul h d a b)
  | 9 => some (.aMulh h d a b)
  | 10 => some (.aMulhu h d a b)
  | 11 => some (.aMin h d a b)
  | 12 => some (.aMax h d a b)
  | 13 => some (.aMinu h d a b)
  | 14 => some (.aMaxu h d a b)
  | 15 => some (.aSlt h d a b)
  | 16 => some (.aSltu h d a b)
  | 17 => some (.aAndn h d a b)
  | 18 => some (.aOrn h d a b)
  | 19 => some (.aRotl h d a b)
  | _ => none

/-- Major `0x02` of the access stream, I format: addi. -/
noncomputable def decA02 (h : Hdr) (d : BitVec 5) (a : BitVec 5) (im : BitVec 11) : Option Instr :=
  some (.aAddi h d a im)

/-- Major `0x03` of the access stream, I format: andi. -/
noncomputable def decA03 (h : Hdr) (d : BitVec 5) (a : BitVec 5) (im : BitVec 11) : Option Instr :=
  some (.aAndi h d a im)

/-- Major `0x04` of the access stream, I format: ori. -/
noncomputable def decA04 (h : Hdr) (d : BitVec 5) (a : BitVec 5) (im : BitVec 11) : Option Instr :=
  some (.aOri h d a im)

/-- Major `0x05` of the access stream, I format: xori. -/
noncomputable def decA05 (h : Hdr) (d : BitVec 5) (a : BitVec 5) (im : BitVec 11) : Option Instr :=
  some (.aXori h d a im)

/-- Major `0x06` of the access stream, I format: shli. -/
noncomputable def decA06 (h : Hdr) (d : BitVec 5) (a : BitVec 5) (im : BitVec 11) : Option Instr :=
  if im.extractLsb' 6 5 = 0#5 then some (.aShli h d a (im.extractLsb' 0 6)) else none

/-- Major `0x07` of the access stream, I format: shri. -/
noncomputable def decA07 (h : Hdr) (d : BitVec 5) (a : BitVec 5) (im : BitVec 11) : Option Instr :=
  if im.extractLsb' 6 5 = 0#5 then some (.aShri h d a (im.extractLsb' 0 6)) else none

/-- Major `0x08` of the access stream, I format: srai. -/
noncomputable def decA08 (h : Hdr) (d : BitVec 5) (a : BitVec 5) (im : BitVec 11) : Option Instr :=
  if im.extractLsb' 6 5 = 0#5 then some (.aSrai h d a (im.extractLsb' 0 6)) else none

/-- Major `0x09` of the access stream, I format: slti. -/
noncomputable def decA09 (h : Hdr) (d : BitVec 5) (a : BitVec 5) (im : BitVec 11) : Option Instr :=
  some (.aSlti h d a im)

/-- Major `0x0A` of the access stream, L format: li. -/
noncomputable def decA0A (h : Hdr) (d : BitVec 5) (im : BitVec 16) : Option Instr :=
  some (.aLi h d im)

/-- Major `0x0B` of the access stream, L format: lih. -/
noncomputable def decA0B (h : Hdr) (d : BitVec 5) (im : BitVec 16) : Option Instr :=
  some (.aLih h d im)

/-- Major `0x0C` of the access stream, C format: cset. -/
noncomputable def decA0C (h : Hdr) (p : BitVec 3) (k : BitVec 3) (a : BitVec 5) (b : BitVec 5) (z : BitVec 5) : Option Instr :=
  if z = 0#5 then some (.cset h p k a b) else none

/-- Major `0x0D` of the access stream, R format: cand, cor, cxor, cnot and the rest of its codes. -/
noncomputable def decA0D (h : Hdr) (d : BitVec 5) (a : BitVec 5) (b : BitVec 5) (fn : BitVec 6) : Option Instr :=
  match fn.toNat with
  | 0 => if d.extractLsb' 3 2 = 0#2 ∧ a.extractLsb' 3 2 = 0#2 ∧ b.extractLsb' 3 2 = 0#2 then some (.cand h (d.extractLsb' 0 3) (a.extractLsb' 0 3) (b.extractLsb' 0 3)) else none
  | 1 => if d.extractLsb' 3 2 = 0#2 ∧ a.extractLsb' 3 2 = 0#2 ∧ b.extractLsb' 3 2 = 0#2 then some (.cor h (d.extractLsb' 0 3) (a.extractLsb' 0 3) (b.extractLsb' 0 3)) else none
  | 2 => if d.extractLsb' 3 2 = 0#2 ∧ a.extractLsb' 3 2 = 0#2 ∧ b.extractLsb' 3 2 = 0#2 then some (.cxor h (d.extractLsb' 0 3) (a.extractLsb' 0 3) (b.extractLsb' 0 3)) else none
  | 4 => if d.extractLsb' 3 2 = 0#2 ∧ a.extractLsb' 3 2 = 0#2 ∧ b = 0#5 then some (.cnot h (d.extractLsb' 0 3) (a.extractLsb' 0 3)) else none
  | 5 => if d.extractLsb' 3 2 = 0#2 ∧ a.extractLsb' 3 2 = 0#2 ∧ b = 0#5 then some (.cmov h (d.extractLsb' 0 3) (a.extractLsb' 0 3)) else none
  | _ => none

/-- Major `0x0E` of the access stream, R format: gaddr.rl, gaddr.own, gaddr.off. -/
noncomputable def decA0E (h : Hdr) (d : BitVec 5) (a : BitVec 5) (b : BitVec 5) (fn : BitVec 6) : Option Instr :=
  match fn.toNat with
  | 0 => if b = 0#5 then some (.gaddrRl h d a) else none
  | 1 => if b = 0#5 then some (.gaddrOwn h d a) else none
  | 2 => if b = 0#5 then some (.gaddrOff h d a) else none
  | _ => none

/-- Major `0x0F` of the access stream, R format: idx2. -/
noncomputable def decA0F (h : Hdr) (d : BitVec 5) (a : BitVec 5) (b : BitVec 5) (fn : BitVec 6) : Option Instr :=
  some (.idx2 h d a b fn)

/-- Major `0x10` of the access stream, M format: ldl. -/
noncomputable def decA10 (h : Hdr) (d : BitVec 5) (a : BitVec 5) (z : BitVec 2) (u : BitVec 1) (off : BitVec 8) : Option Instr :=
  some (.ldl h d a z u off)

/-- Major `0x11` of the access stream, M format: stl. -/
noncomputable def decA11 (h : Hdr) (d : BitVec 5) (a : BitVec 5) (z : BitVec 2) (u : BitVec 1) (off : BitVec 8) : Option Instr :=
  some (.stl h d a z u off)

/-- Major `0x12` of the access stream, M format: ldq. -/
noncomputable def decA12 (h : Hdr) (d : BitVec 5) (a : BitVec 5) (z : BitVec 2) (u : BitVec 1) (off : BitVec 8) : Option Instr :=
  if d.extractLsb' 1 4 = 0#4 then some (.ldq h (d.extractLsb' 0 1) a z u off) else none

/-- Major `0x13` of the access stream, M format: stq. -/
noncomputable def decA13 (h : Hdr) (d : BitVec 5) (a : BitVec 5) (z : BitVec 2) (u : BitVec 1) (off : BitVec 8) : Option Instr :=
  if d = 0#5 then some (.stq h a z u off) else none

/-- Major `0x14` of the access stream, M format: ldg. -/
noncomputable def decA14 (h : Hdr) (d : BitVec 5) (a : BitVec 5) (z : BitVec 2) (u : BitVec 1) (off : BitVec 8) : Option Instr :=
  some (.ldg h d a z u off)

/-- Major `0x15` of the access stream, M format: stg. -/
noncomputable def decA15 (h : Hdr) (d : BitVec 5) (a : BitVec 5) (z : BitVec 2) (u : BitVec 1) (off : BitVec 8) : Option Instr :=
  some (.stg h d a z u off)

/-- Major `0x16` of the access stream, M format: ldgq. -/
noncomputable def decA16 (h : Hdr) (d : BitVec 5) (a : BitVec 5) (z : BitVec 2) (u : BitVec 1) (off : BitVec 8) : Option Instr :=
  if d.extractLsb' 1 4 = 0#4 then some (.ldgq h (d.extractLsb' 0 1) a z u off) else none

/-- Major `0x17` of the access stream, M format: stgq. -/
noncomputable def decA17 (h : Hdr) (d : BitVec 5) (a : BitVec 5) (z : BitVec 2) (u : BitVec 1) (off : BitVec 8) : Option Instr :=
  if d = 0#5 then some (.stgq h a z u off) else none

/-- Major `0x18` of the access stream, Q format: vld. -/
noncomputable def decA18 (h : Hdr) (tt : BitVec 4) (ex : BitVec 1) (z : BitVec 16) : Option Instr :=
  if z = 0#16 then some (.vld h tt ex) else none

/-- Major `0x19` of the access stream, Q format: vst. -/
noncomputable def decA19 (h : Hdr) (tt : BitVec 4) (ex : BitVec 1) (z : BitVec 16) : Option Instr :=
  if ex = 0#1 ∧ z = 0#16 then some (.vst h tt) else none

/-- Major `0x1A` of the access stream, CP format: cpy. -/
noncomputable def decA1A (h : Hdr) (d : BitVec 4) (t : BitVec 4) (c : BitVec 5) (fn : BitVec 8) : Option Instr :=
  if fn.extractLsb' 2 6 = 0#6 then some (.cpy h d t c (fn.extractLsb' 0 2)) else none

/-- Major `0x1B` of the access stream, CP format: cpyg, cpys, cpyf, cpyn. -/
noncomputable def decA1B (h : Hdr) (d : BitVec 4) (t : BitVec 4) (c : BitVec 5) (fn : BitVec 8) : Option Instr :=
  match (fn.extractLsb' 4 4).toNat with
  | 0 => if fn.extractLsb' 2 2 = 0#2 then some (.cpyg h d t c (fn.extractLsb' 0 2)) else none
  | 1 => if fn.extractLsb' 2 2 = 0#2 then some (.cpys h d t c (fn.extractLsb' 0 2)) else none
  | 2 => if fn.extractLsb' 2 2 = 0#2 then some (.cpyf h d t c (fn.extractLsb' 0 2)) else none
  | 3 => some (.cpyn h d t c (fn.extractLsb' 2 2) (fn.extractLsb' 0 2))
  | _ => none

/-- Major `0x1C` of the access stream, R format: amo.w.add, amo.w.min, amo.w.max, amo.w.minu and the rest of its codes. -/
noncomputable def decA1C (h : Hdr) (d : BitVec 5) (a : BitVec 5) (b : BitVec 5) (fn : BitVec 6) : Option Instr :=
  match (fn.extractLsb' 2 4).toNat with
  | 0 => some (.amoWAdd h d a b (fn.extractLsb' 0 2))
  | 1 => some (.amoWMin h d a b (fn.extractLsb' 0 2))
  | 2 => some (.amoWMax h d a b (fn.extractLsb' 0 2))
  | 3 => some (.amoWMinu h d a b (fn.extractLsb' 0 2))
  | 4 => some (.amoWMaxu h d a b (fn.extractLsb' 0 2))
  | 5 => some (.amoWAnd h d a b (fn.extractLsb' 0 2))
  | 6 => some (.amoWOr h d a b (fn.extractLsb' 0 2))
  | 7 => some (.amoWXor h d a b (fn.extractLsb' 0 2))
  | 8 => some (.amoWSwap h d a b (fn.extractLsb' 0 2))
  | 9 => some (.amoWCas h d a b (fn.extractLsb' 0 2))
  | _ => none

/-- Major `0x1D` of the access stream, R format: amo.d.add, amo.d.min, amo.d.max, amo.d.minu and the rest of its codes. -/
noncomputable def decA1D (h : Hdr) (d : BitVec 5) (a : BitVec 5) (b : BitVec 5) (fn : BitVec 6) : Option Instr :=
  match (fn.extractLsb' 2 4).toNat with
  | 0 => some (.amoDAdd h d a b (fn.extractLsb' 0 2))
  | 1 => some (.amoDMin h d a b (fn.extractLsb' 0 2))
  | 2 => some (.amoDMax h d a b (fn.extractLsb' 0 2))
  | 3 => some (.amoDMinu h d a b (fn.extractLsb' 0 2))
  | 4 => some (.amoDMaxu h d a b (fn.extractLsb' 0 2))
  | 5 => some (.amoDAnd h d a b (fn.extractLsb' 0 2))
  | 6 => some (.amoDOr h d a b (fn.extractLsb' 0 2))
  | 7 => some (.amoDXor h d a b (fn.extractLsb' 0 2))
  | 8 => some (.amoDSwap h d a b (fn.extractLsb' 0 2))
  | 9 => some (.amoDCas h d a b (fn.extractLsb' 0 2))
  | _ => none

/-- Major `0x1E` of the access stream, R format: red.iadd.w, red.iadd.d, red.fadd.f32, red.fadd.bf16x2 and the rest of its codes. -/
noncomputable def decA1E (h : Hdr) (d : BitVec 5) (a : BitVec 5) (b : BitVec 5) (fn : BitVec 6) : Option Instr :=
  match (fn.extractLsb' 2 4).toNat with
  | 0 => if d = 0#5 then some (.redIaddW h a b (fn.extractLsb' 0 2)) else none
  | 1 => if d = 0#5 then some (.redIaddD h a b (fn.extractLsb' 0 2)) else none
  | 2 => if d = 0#5 then some (.redFaddF32 h a b (fn.extractLsb' 0 2)) else none
  | 3 => if d = 0#5 then some (.redFaddBf16x2 h a b (fn.extractLsb' 0 2)) else none
  | 4 => if d = 0#5 then some (.redFmaxF32 h a b (fn.extractLsb' 0 2)) else none
  | 5 => if d = 0#5 then some (.redImaxW h a b (fn.extractLsb' 0 2)) else none
  | 6 => if d = 0#5 then some (.redIminW h a b (fn.extractLsb' 0 2)) else none
  | _ => none

/-- Major `0x1F` of the access stream, R format: cadd, caddk, cread, ctest and the rest of its codes. -/
noncomputable def decA1F (h : Hdr) (d : BitVec 5) (a : BitVec 5) (b : BitVec 5) (fn : BitVec 6) : Option Instr :=
  match (fn.extractLsb' 0 4).toNat with
  | 0 => some (.cadd h d a b (fn.extractLsb' 4 2))
  | 1 => some (.caddk h d a b (fn.extractLsb' 4 2))
  | 2 => if b = 0#5 then some (.cread h d a (fn.extractLsb' 4 2)) else none
  | 3 => if d.extractLsb' 3 2 = 0#2 then some (.ctest h (d.extractLsb' 0 3) a b (fn.extractLsb' 4 2)) else none
  | 4 => if d = 0#5 then some (.cwait h a b (fn.extractLsb' 4 2)) else none
  | 5 => if d = 0#5 then some (.cwaitS h a b (fn.extractLsb' 4 2)) else none
  | 6 => if b = 0#5 ∧ fn.extractLsb' 4 2 = 0#2 then some (.calloc h d a) else none
  | 7 => if d = 0#5 ∧ b = 0#5 ∧ fn.extractLsb' 4 2 = 0#2 then some (.cfree h a) else none
  | 8 => if d = 0#5 ∧ fn.extractLsb' 4 2 = 0#2 then some (.carm h a b) else none
  | 9 => if d = 0#5 ∧ b = 0#5 then some (.cwany h a (fn.extractLsb' 4 2)) else none
  | 10 => if d = 0#5 ∧ b = 0#5 then some (.cwall h a (fn.extractLsb' 4 2)) else none
  | 11 => if b = 0#5 ∧ fn.extractLsb' 4 2 = 0#2 then some (.cfirst h d a) else none
  | _ => none

/-- Major `0x20` of the access stream, R format: fence.acq, fence.rel, fence.ar. -/
noncomputable def decA20 (h : Hdr) (d : BitVec 5) (a : BitVec 5) (b : BitVec 5) (fn : BitVec 6) : Option Instr :=
  match (fn.extractLsb' 2 4).toNat with
  | 4 => if d = 0#5 ∧ a = 0#5 ∧ b = 0#5 then some (.fenceAcq h (fn.extractLsb' 0 2)) else none
  | 8 => if d = 0#5 ∧ a = 0#5 ∧ b = 0#5 then some (.fenceRel h (fn.extractLsb' 0 2)) else none
  | 12 => if d = 0#5 ∧ a = 0#5 ∧ b = 0#5 then some (.fenceAr h (fn.extractLsb' 0 2)) else none
  | _ => none

/-- Major `0x21` of the access stream, I format: beq. -/
noncomputable def decA21 (h : Hdr) (d : BitVec 5) (a : BitVec 5) (im : BitVec 11) : Option Instr :=
  some (.beq h d a im)

/-- Major `0x22` of the access stream, I format: bne. -/
noncomputable def decA22 (h : Hdr) (d : BitVec 5) (a : BitVec 5) (im : BitVec 11) : Option Instr :=
  some (.bne h d a im)

/-- Major `0x23` of the access stream, I format: blt. -/
noncomputable def decA23 (h : Hdr) (d : BitVec 5) (a : BitVec 5) (im : BitVec 11) : Option Instr :=
  some (.blt h d a im)

/-- Major `0x24` of the access stream, I format: bge. -/
noncomputable def decA24 (h : Hdr) (d : BitVec 5) (a : BitVec 5) (im : BitVec 11) : Option Instr :=
  some (.bge h d a im)

/-- Major `0x25` of the access stream, I format: bltu. -/
noncomputable def decA25 (h : Hdr) (d : BitVec 5) (a : BitVec 5) (im : BitVec 11) : Option Instr :=
  some (.bltu h d a im)

/-- Major `0x26` of the access stream, I format: bgeu. -/
noncomputable def decA26 (h : Hdr) (d : BitVec 5) (a : BitVec 5) (im : BitVec 11) : Option Instr :=
  some (.bgeu h d a im)

/-- Major `0x27` of the access stream, P format: bc. -/
noncomputable def decA27 (h : HdrP) (p : BitVec 3) (n : BitVec 1) (off : BitVec 17) : Option Instr :=
  some (.bc h p n off)

/-- Major `0x28` of the access stream, P format: bq. -/
noncomputable def decA28 (h : HdrP) (p : BitVec 3) (n : BitVec 1) (off : BitVec 17) : Option Instr :=
  if p = 0#3 then some (.aBq h n off) else none

/-- Major `0x29` of the access stream, J format: j. -/
noncomputable def decA29 (h : Hdr) (off : BitVec 21) : Option Instr :=
  some (.aJ h off)

/-- Major `0x2A` of the access stream, J format: jal. -/
noncomputable def decA2A (h : Hdr) (off : BitVec 21) : Option Instr :=
  some (.aJal h off)

/-- Major `0x2B` of the access stream, R format: jr. -/
noncomputable def decA2B (h : Hdr) (d : BitVec 5) (a : BitVec 5) (b : BitVec 5) (fn : BitVec 6) : Option Instr :=
  if d = 0#5 ∧ b = 0#5 ∧ fn = 0#6 then some (.aJr h a) else none

/-- Major `0x2C` of the access stream, P format: sendb. -/
noncomputable def decA2C (h : HdrP) (p : BitVec 3) (n : BitVec 1) (off : BitVec 17) : Option Instr :=
  if off.extractLsb' 0 16 = 0#16 then some (.aSendb h p n (off.extractLsb' 16 1)) else none

/-- Major `0x2D` of the access stream, LP format: loop. -/
noncomputable def decA2D (h : Hdr) (a : BitVec 5) (ex : BitVec 4) (len : BitVec 12) : Option Instr :=
  if ex = 0#4 then some (.aLoop h a len) else none

/-- Major `0x2E` of the access stream, LP format: loops. -/
noncomputable def decA2E (h : Hdr) (a : BitVec 5) (ex : BitVec 4) (len : BitVec 12) : Option Instr :=
  if a = 0#5 then some (.aLoops h ex len) else none

/-- Major `0x2F` of the access stream, LP format: loopr. -/
noncomputable def decA2F (h : Hdr) (a : BitVec 5) (ex : BitVec 4) (len : BitVec 12) : Option Instr :=
  if ex.extractLsb' 3 1 = 0#1 then some (.loopr h a (ex.extractLsb' 0 3) len) else none

/-- Major `0x30` of the access stream, R format: ftile. -/
noncomputable def decA30 (h : Hdr) (d : BitVec 5) (a : BitVec 5) (b : BitVec 5) (fn : BitVec 6) : Option Instr :=
  if a = 0#5 ∧ b.extractLsb' 3 2 = 0#2 ∧ fn.extractLsb' 2 4 = 0#4 then some (.ftile h d (b.extractLsb' 0 3) (fn.extractLsb' 0 2)) else none

/-- Major `0x31` of the access stream, R format: susp, yield, exit, commit and the rest of its codes. -/
noncomputable def decA31 (h : Hdr) (d : BitVec 5) (a : BitVec 5) (b : BitVec 5) (fn : BitVec 6) : Option Instr :=
  match fn.toNat with
  | 0 => if d = 0#5 ∧ a = 0#5 ∧ b = 0#5 then some (.suspS h) else none
  | 1 => if d = 0#5 ∧ a = 0#5 ∧ b = 0#5 then some (.yieldS h) else none
  | 2 => if d = 0#5 ∧ a = 0#5 ∧ b = 0#5 then some (.exitS h) else none
  | 3 => if d = 0#5 ∧ a = 0#5 ∧ b = 0#5 then some (.commitS h) else none
  | 4 => if d = 0#5 ∧ b = 0#5 then some (.spawn h a) else none
  | 5 => if d = 0#5 ∧ a = 0#5 then some (.aFuse h b) else none
  | 6 => if d = 0#5 ∧ a = 0#5 ∧ b = 0#5 then some (.aSplit h) else none
  | _ => none

/-- Major `0x32` of the access stream, X format: csrr, csrw, csrs, csrc. -/
noncomputable def decA32 (h : Hdr) (d : BitVec 5) (a : BitVec 5) (o : BitVec 2) (c : BitVec 9) : Option Instr :=
  match o.toNat with
  | 0 => if a = 0#5 then some (.aCsrr h d c) else none
  | 1 => some (.aCsrw h d a c)
  | 2 => some (.aCsrs h d a c)
  | 3 => some (.aCsrc h d a c)
  | _ => none

/-- Major `0x33` of the access stream, L format: trap, bkpt. -/
noncomputable def decA33 (h : Hdr) (d : BitVec 5) (im : BitVec 16) : Option Instr :=
  match d.toNat with
  | 0 => some (.aTrap h im)
  | 1 => some (.aBkpt h im)
  | _ => none

/-- Major `0x34` of the access stream, R format: fcall, fcall.nb. -/
noncomputable def decA34 (h : Hdr) (d : BitVec 5) (a : BitVec 5) (b : BitVec 5) (fn : BitVec 6) : Option Instr :=
  match fn.toNat with
  | 0 => if d = 0#5 then some (.fcall h a b) else none
  | 1 => some (.fcallNb h d a b)
  | _ => none

/-- Major `0x35` of the access stream, CP format: dsc, pref. -/
noncomputable def decA35 (h : Hdr) (d : BitVec 4) (t : BitVec 4) (c : BitVec 5) (fn : BitVec 8) : Option Instr :=
  match fn.toNat with
  | 0 => if d = 0#4 ∧ c = 0#5 then some (.dsc h t) else none
  | 1 => if d = 0#4 ∧ c = 0#5 then some (.pref h t) else none
  | _ => none

/-- Major `0x36` of the access stream, R format: tdef.lo, tdef.hi, tadv, trows. -/
noncomputable def decA36 (h : Hdr) (d : BitVec 5) (a : BitVec 5) (b : BitVec 5) (fn : BitVec 6) : Option Instr :=
  match fn.toNat with
  | 0 => if d.extractLsb' 4 1 = 0#1 ∧ b = 0#5 then some (.aTdefLo h (d.extractLsb' 0 4) a) else none
  | 1 => if d.extractLsb' 4 1 = 0#1 ∧ b = 0#5 then some (.aTdefHi h (d.extractLsb' 0 4) a) else none
  | 2 => if d.extractLsb' 4 1 = 0#1 ∧ b = 0#5 then some (.aTadv h (d.extractLsb' 0 4) a) else none
  | 3 => if d.extractLsb' 4 1 = 0#1 ∧ b = 0#5 then some (.aTrows h (d.extractLsb' 0 4) a) else none
  | _ => none

/-- Major `0x01` of the execute stream, R format: add, sub, and, or and the rest of its codes. -/
noncomputable def decX01 (h : Hdr) (d : BitVec 5) (a : BitVec 5) (b : BitVec 5) (fn : BitVec 6) : Option Instr :=
  match fn.toNat with
  | 0 => some (.xAdd h d a b)
  | 1 => some (.xSub h d a b)
  | 2 => some (.xAnd h d a b)
  | 3 => some (.xOr h d a b)
  | 4 => some (.xXor h d a b)
  | 5 => some (.xShl h d a b)
  | 6 => some (.xShr h d a b)
  | 7 => some (.xSra h d a b)
  | 8 => some (.xMul h d a b)
  | 9 => some (.xMulh h d a b)
  | 10 => some (.xMulhu h d a b)
  | 11 => some (.xMin h d a b)
  | 12 => some (.xMax h d a b)
  | 13 => some (.xMinu h d a b)
  | 14 => some (.xMaxu h d a b)
  | 15 => some (.xSlt h d a b)
  | 16 => some (.xSltu h d a b)
  | 17 => some (.xAndn h d a b)
  | 18 => some (.xOrn h d a b)
  | 19 => some (.xRotl h d a b)
  | 20 => some (.xDiv h d a b)
  | 21 => some (.xDivu h d a b)
  | 22 => some (.xRem h d a b)
  | 23 => some (.xRemu h d a b)
  | 24 => if b = 0#5 then some (.xClz h d a) else none
  | 25 => if b = 0#5 then some (.xPopc h d a) else none
  | 26 => if b = 0#5 then some (.xSextW h d a) else none
  | 27 => if b = 0#5 then some (.xZextW h d a) else none
  | _ => none

/-- Major `0x02` of the execute stream, R format: add, sub, and, or and the rest of its codes. -/
noncomputable def decX02 (h : Hdr) (d : BitVec 5) (a : BitVec 5) (b : BitVec 5) (fn : BitVec 6) : Option Instr :=
  match fn.toNat with
  | 0 => some (.wAdd h d a b)
  | 1 => some (.wSub h d a b)
  | 2 => some (.wAnd h d a b)
  | 3 => some (.wOr h d a b)
  | 4 => some (.wXor h d a b)
  | 5 => some (.wShl h d a b)
  | 6 => some (.wShr h d a b)
  | 7 => some (.wSra h d a b)
  | 8 => some (.wMul h d a b)
  | 9 => some (.wMulh h d a b)
  | 10 => some (.wMulhu h d a b)
  | 11 => some (.wMin h d a b)
  | 12 => some (.wMax h d a b)
  | 13 => some (.wMinu h d a b)
  | 14 => some (.wMaxu h d a b)
  | 15 => some (.wSlt h d a b)
  | 16 => some (.wSltu h d a b)
  | 17 => some (.wAndn h d a b)
  | 18 => some (.wOrn h d a b)
  | 19 => some (.wRotl h d a b)
  | 20 => some (.wDiv h d a b)
  | 21 => some (.wDivu h d a b)
  | 22 => some (.wRem h d a b)
  | 23 => some (.wRemu h d a b)
  | 24 => if b = 0#5 then some (.wClz h d a) else none
  | 25 => if b = 0#5 then some (.wPopc h d a) else none
  | 26 => if b = 0#5 then some (.wSextW h d a) else none
  | 27 => if b = 0#5 then some (.wZextW h d a) else none
  | _ => none

/-- Major `0x03` of the execute stream, I format: addi. -/
noncomputable def decX03 (h : Hdr) (d : BitVec 5) (a : BitVec 5) (im : BitVec 11) : Option Instr :=
  some (.xAddi h d a im)

/-- Major `0x04` of the execute stream, I format: andi. -/
noncomputable def decX04 (h : Hdr) (d : BitVec 5) (a : BitVec 5) (im : BitVec 11) : Option Instr :=
  some (.xAndi h d a im)

/-- Major `0x05` of the execute stream, I format: ori. -/
noncomputable def decX05 (h : Hdr) (d : BitVec 5) (a : BitVec 5) (im : BitVec 11) : Option Instr :=
  some (.xOri h d a im)

/-- Major `0x06` of the execute stream, I format: xori. -/
noncomputable def decX06 (h : Hdr) (d : BitVec 5) (a : BitVec 5) (im : BitVec 11) : Option Instr :=
  some (.xXori h d a im)

/-- Major `0x07` of the execute stream, I format: shli. -/
noncomputable def decX07 (h : Hdr) (d : BitVec 5) (a : BitVec 5) (im : BitVec 11) : Option Instr :=
  if im.extractLsb' 6 5 = 0#5 then some (.xShli h d a (im.extractLsb' 0 6)) else none

/-- Major `0x08` of the execute stream, I format: shri. -/
noncomputable def decX08 (h : Hdr) (d : BitVec 5) (a : BitVec 5) (im : BitVec 11) : Option Instr :=
  if im.extractLsb' 6 5 = 0#5 then some (.xShri h d a (im.extractLsb' 0 6)) else none

/-- Major `0x09` of the execute stream, I format: srai. -/
noncomputable def decX09 (h : Hdr) (d : BitVec 5) (a : BitVec 5) (im : BitVec 11) : Option Instr :=
  if im.extractLsb' 6 5 = 0#5 then some (.xSrai h d a (im.extractLsb' 0 6)) else none

/-- Major `0x0A` of the execute stream, I format: slti. -/
noncomputable def decX0A (h : Hdr) (d : BitVec 5) (a : BitVec 5) (im : BitVec 11) : Option Instr :=
  some (.xSlti h d a im)

/-- Major `0x0B` of the execute stream, L format: li. -/
noncomputable def decX0B (h : Hdr) (d : BitVec 5) (im : BitVec 16) : Option Instr :=
  some (.xLi h d im)

/-- Major `0x0C` of the execute stream, L format: lih. -/
noncomputable def decX0C (h : Hdr) (d : BitVec 5) (im : BitVec 16) : Option Instr :=
  some (.xLih h d im)

/-- Major `0x0D` of the execute stream, R format: fadd, fsub, fmul, fdiv and the rest of its codes. -/
noncomputable def decX0D (h : Hdr) (d : BitVec 5) (a : BitVec 5) (b : BitVec 5) (fn : BitVec 6) : Option Instr :=
  match fn.toNat with
  | 0 => some (.fadd h d a b)
  | 1 => some (.fsub h d a b)
  | 2 => some (.fmul h d a b)
  | 3 => some (.fdiv h d a b)
  | 4 => some (.fmin h d a b)
  | 5 => some (.fmax h d a b)
  | 6 => if b = 0#5 then some (.fsqrt h d a) else none
  | 7 => if b = 0#5 then some (.frcp h d a) else none
  | 8 => if b = 0#5 then some (.frsq h d a) else none
  | 9 => if b = 0#5 then some (.fabs h d a) else none
  | 10 => if b = 0#5 then some (.fneg h d a) else none
  | 11 => some (.fsgnj h d a b)
  | 12 => if b = 0#5 then some (.fclass h d a) else none
  | _ => none

/-- Major `0x0E` of the execute stream, R format: ffma, ffms, fnfma, fnfms. -/
noncomputable def decX0E (h : Hdr) (d : BitVec 5) (a : BitVec 5) (b : BitVec 5) (fn : BitVec 6) : Option Instr :=
  match fn.toNat with
  | 0 => some (.ffma h d a b)
  | 1 => some (.ffms h d a b)
  | 2 => some (.fnfma h d a b)
  | 3 => some (.fnfms h d a b)
  | _ => none

/-- Major `0x0F` of the execute stream, C format: fcmp. -/
noncomputable def decX0F (h : Hdr) (p : BitVec 3) (k : BitVec 3) (a : BitVec 5) (b : BitVec 5) (z : BitVec 5) : Option Instr :=
  if z = 0#5 then some (.fcmp h p k a b) else none

/-- Major `0x10` of the execute stream, R format: fcvt.f32.s64, fcvt.f32.u64, fcvt.s64.f32, fcvt.u64.f32 and the rest of its codes. -/
noncomputable def decX10 (h : Hdr) (d : BitVec 5) (a : BitVec 5) (b : BitVec 5) (fn : BitVec 6) : Option Instr :=
  match (fn.extractLsb' 0 4).toNat with
  | 0 => if b = 0#5 then some (.fcvtF32S64 h d a (fn.extractLsb' 4 2)) else none
  | 1 => if b = 0#5 then some (.fcvtF32U64 h d a (fn.extractLsb' 4 2)) else none
  | 2 => if b = 0#5 then some (.fcvtS64F32 h d a (fn.extractLsb' 4 2)) else none
  | 3 => if b = 0#5 then some (.fcvtU64F32 h d a (fn.extractLsb' 4 2)) else none
  | 4 => if b = 0#5 then some (.fcvtBf16F32 h d a (fn.extractLsb' 4 2)) else none
  | 5 => if b = 0#5 then some (.fcvtF32Bf16 h d a (fn.extractLsb' 4 2)) else none
  | 6 => if b = 0#5 then some (.fcvtF16F32 h d a (fn.extractLsb' 4 2)) else none
  | 7 => if b = 0#5 then some (.fcvtF32F16 h d a (fn.extractLsb' 4 2)) else none
  | 8 => if b = 0#5 then some (.fcvtE4m3F32 h d a (fn.extractLsb' 4 2)) else none
  | 9 => if b = 0#5 then some (.fcvtE5m2F32 h d a (fn.extractLsb' 4 2)) else none
  | 10 => if b = 0#5 then some (.fcvtF32E4m3 h d a (fn.extractLsb' 4 2)) else none
  | 11 => if b = 0#5 then some (.fcvtF32E5m2 h d a (fn.extractLsb' 4 2)) else none
  | _ => none

/-- Major `0x11` of the execute stream, C format: pset. -/
noncomputable def decX11 (h : Hdr) (p : BitVec 3) (k : BitVec 3) (a : BitVec 5) (b : BitVec 5) (z : BitVec 5) : Option Instr :=
  if z = 0#5 then some (.pset h p k a b) else none

/-- Major `0x12` of the execute stream, R format: pand, por, pxor, pandn and the rest of its codes. -/
noncomputable def decX12 (h : Hdr) (d : BitVec 5) (a : BitVec 5) (b : BitVec 5) (fn : BitVec 6) : Option Instr :=
  match fn.toNat with
  | 0 => if d.extractLsb' 3 2 = 0#2 ∧ a.extractLsb' 3 2 = 0#2 ∧ b.extractLsb' 3 2 = 0#2 then some (.pand h (d.extractLsb' 0 3) (a.extractLsb' 0 3) (b.extractLsb' 0 3)) else none
  | 1 => if d.extractLsb' 3 2 = 0#2 ∧ a.extractLsb' 3 2 = 0#2 ∧ b.extractLsb' 3 2 = 0#2 then some (.por h (d.extractLsb' 0 3) (a.extractLsb' 0 3) (b.extractLsb' 0 3)) else none
  | 2 => if d.extractLsb' 3 2 = 0#2 ∧ a.extractLsb' 3 2 = 0#2 ∧ b.extractLsb' 3 2 = 0#2 then some (.pxor h (d.extractLsb' 0 3) (a.extractLsb' 0 3) (b.extractLsb' 0 3)) else none
  | 3 => if d.extractLsb' 3 2 = 0#2 ∧ a.extractLsb' 3 2 = 0#2 ∧ b.extractLsb' 3 2 = 0#2 then some (.pandn h (d.extractLsb' 0 3) (a.extractLsb' 0 3) (b.extractLsb' 0 3)) else none
  | 4 => if d.extractLsb' 3 2 = 0#2 ∧ a.extractLsb' 3 2 = 0#2 ∧ b = 0#5 then some (.pnot h (d.extractLsb' 0 3) (a.extractLsb' 0 3)) else none
  | 5 => if d.extractLsb' 3 2 = 0#2 ∧ a.extractLsb' 3 2 = 0#2 ∧ b = 0#5 then some (.pmov h (d.extractLsb' 0 3) (a.extractLsb' 0 3)) else none
  | 6 => if a = 0#5 ∧ b = 0#5 then some (.ppack h d) else none
  | 7 => if d = 0#5 ∧ b = 0#5 then some (.punpk h a) else none
  | _ => none

/-- Major `0x13` of the execute stream, R format: peek, pushe, ppeek. -/
noncomputable def decX13 (h : Hdr) (d : BitVec 5) (a : BitVec 5) (b : BitVec 5) (fn : BitVec 6) : Option Instr :=
  match fn.toNat with
  | 0 => if a = 0#5 ∧ b = 0#5 then some (.peek h d) else none
  | 1 => if d = 0#5 ∧ b = 0#5 then some (.pushe h a) else none
  | 2 => if b = 0#5 then some (.ppeek h d a) else none
  | _ => none

/-- Major `0x14` of the execute stream, R format: sel. -/
noncomputable def decX14 (h : Hdr) (d : BitVec 5) (a : BitVec 5) (b : BitVec 5) (fn : BitVec 6) : Option Instr :=
  if fn.extractLsb' 3 3 = 0#3 then some (.sel h d a b (fn.extractLsb' 0 3)) else none

/-- Major `0x15` of the execute stream, R format: xaln. -/
noncomputable def decX15 (h : Hdr) (d : BitVec 5) (a : BitVec 5) (b : BitVec 5) (fn : BitVec 6) : Option Instr :=
  if b = 0#5 ∧ fn = 0#6 then some (.xaln h d a) else none

/-- Major `0x16` of the execute stream, M format: ldf. -/
noncomputable def decX16 (h : Hdr) (d : BitVec 5) (a : BitVec 5) (z : BitVec 2) (u : BitVec 1) (off : BitVec 8) : Option Instr :=
  some (.ldf h d a z u off)

/-- Major `0x17` of the execute stream, M format: stf. -/
noncomputable def decX17 (h : Hdr) (d : BitVec 5) (a : BitVec 5) (z : BitVec 2) (u : BitVec 1) (off : BitVec 8) : Option Instr :=
  some (.stf h d a z u off)

/-- Major `0x18` of the execute stream, P format: bp. -/
noncomputable def decX18 (h : HdrP) (p : BitVec 3) (n : BitVec 1) (off : BitVec 17) : Option Instr :=
  some (.bp h p n off)

/-- Major `0x19` of the execute stream, P format: bq. -/
noncomputable def decX19 (h : HdrP) (p : BitVec 3) (n : BitVec 1) (off : BitVec 17) : Option Instr :=
  if p = 0#3 then some (.xBq h n off) else none

/-- Major `0x1A` of the execute stream, S format: bst. -/
noncomputable def decX1A (h : HdrP) (st : BitVec 4) (n : BitVec 1) (off : BitVec 16) : Option Instr :=
  some (.bst h st n off)

/-- Major `0x1B` of the execute stream, J format: j. -/
noncomputable def decX1B (h : Hdr) (off : BitVec 21) : Option Instr :=
  some (.xJ h off)

/-- Major `0x1C` of the execute stream, J format: jal. -/
noncomputable def decX1C (h : Hdr) (off : BitVec 21) : Option Instr :=
  some (.xJal h off)

/-- Major `0x1D` of the execute stream, R format: jr. -/
noncomputable def decX1D (h : Hdr) (d : BitVec 5) (a : BitVec 5) (b : BitVec 5) (fn : BitVec 6) : Option Instr :=
  if d = 0#5 ∧ b = 0#5 ∧ fn = 0#6 then some (.xJr h a) else none

/-- Major `0x1E` of the execute stream, P format: sendb. -/
noncomputable def decX1E (h : HdrP) (p : BitVec 3) (n : BitVec 1) (off : BitVec 17) : Option Instr :=
  if off.extractLsb' 0 16 = 0#16 then some (.xSendb h p n (off.extractLsb' 16 1)) else none

/-- Major `0x1F` of the execute stream, LP format: loop. -/
noncomputable def decX1F (h : Hdr) (a : BitVec 5) (ex : BitVec 4) (len : BitVec 12) : Option Instr :=
  if ex = 0#4 then some (.xLoop h a len) else none

/-- Major `0x20` of the execute stream, LP format: loops. -/
noncomputable def decX20 (h : Hdr) (a : BitVec 5) (ex : BitVec 4) (len : BitVec 12) : Option Instr :=
  if a = 0#5 then some (.xLoops h ex len) else none

/-- Major `0x21` of the execute stream, LP format: loopv. -/
noncomputable def decX21 (h : Hdr) (a : BitVec 5) (ex : BitVec 4) (len : BitVec 12) : Option Instr :=
  some (.loopv h a ex len)

/-- Major `0x22` of the execute stream, L format: enter, leave. -/
noncomputable def decX22 (h : Hdr) (d : BitVec 5) (im : BitVec 16) : Option Instr :=
  match d.toNat with
  | 0 => if im.extractLsb' 0 4 = 0#4 then some (.enter h (im.extractLsb' 4 12)) else none
  | 1 => if im.extractLsb' 0 4 = 0#4 then some (.leave h (im.extractLsb' 4 12)) else none
  | _ => none

/-- Major `0x24` of the execute stream, R format: xcmt, fuse, split, gidx and the rest of its codes. -/
noncomputable def decX24 (h : Hdr) (d : BitVec 5) (a : BitVec 5) (b : BitVec 5) (fn : BitVec 6) : Option Instr :=
  match fn.toNat with
  | 0 => if d = 0#5 ∧ a = 0#5 ∧ b = 0#5 then some (.xcmt h) else none
  | 1 => if d = 0#5 ∧ a = 0#5 then some (.xFuse h b) else none
  | 2 => if d = 0#5 ∧ a = 0#5 ∧ b = 0#5 then some (.xSplit h) else none
  | 3 => if a = 0#5 ∧ b = 0#5 then some (.gidx h d) else none
  | 4 => if a = 0#5 ∧ b = 0#5 then some (.gsize h d) else none
  | _ => none

/-- Major `0x25` of the execute stream, X format: csrr, csrw, csrs, csrc. -/
noncomputable def decX25 (h : Hdr) (d : BitVec 5) (a : BitVec 5) (o : BitVec 2) (c : BitVec 9) : Option Instr :=
  match o.toNat with
  | 0 => if a = 0#5 then some (.xCsrr h d c) else none
  | 1 => some (.xCsrw h d a c)
  | 2 => some (.xCsrs h d a c)
  | 3 => some (.xCsrc h d a c)
  | _ => none

/-- Major `0x26` of the execute stream, L format: trap, bkpt. -/
noncomputable def decX26 (h : Hdr) (d : BitVec 5) (im : BitVec 16) : Option Instr :=
  match d.toNat with
  | 0 => some (.xTrap h im)
  | 1 => some (.xBkpt h im)
  | _ => none

/-- Major `0x27` of the execute stream, R format: vshape, vgetsh, setvc. -/
noncomputable def decX27 (h : Hdr) (d : BitVec 5) (a : BitVec 5) (b : BitVec 5) (fn : BitVec 6) : Option Instr :=
  match fn.toNat with
  | 0 => if d = 0#5 ∧ b = 0#5 then some (.vshape h a) else none
  | 1 => if a = 0#5 ∧ b = 0#5 then some (.vgetsh h d) else none
  | 2 => if d = 0#5 ∧ b = 0#5 then some (.setvc h a) else none
  | _ => none

/-- Major `0x28` of the execute stream, R format: vpop, vpush, vpush.eos. -/
noncomputable def decX28 (h : Hdr) (d : BitVec 5) (a : BitVec 5) (b : BitVec 5) (fn : BitVec 6) : Option Instr :=
  match fn.toNat with
  | 0 => if a = 0#5 ∧ b = 0#5 then some (.vpop h d) else none
  | 1 => if d = 0#5 ∧ b = 0#5 then some (.vpush h a) else none
  | 2 => if d = 0#5 ∧ b = 0#5 then some (.vpushEos h a) else none
  | _ => none

/-- Major `0x29` of the execute stream, R format: vfadd, vfsub, vfmul, vfdiv and the rest of its codes. -/
noncomputable def decX29 (h : Hdr) (d : BitVec 5) (a : BitVec 5) (b : BitVec 5) (fn : BitVec 6) : Option Instr :=
  match (fn.extractLsb' 0 5).toNat with
  | 0 => some (.vfadd h d a b (fn.extractLsb' 5 1))
  | 1 => some (.vfsub h d a b (fn.extractLsb' 5 1))
  | 2 => some (.vfmul h d a b (fn.extractLsb' 5 1))
  | 3 => some (.vfdiv h d a b (fn.extractLsb' 5 1))
  | 4 => some (.vfmin h d a b (fn.extractLsb' 5 1))
  | 5 => some (.vfmax h d a b (fn.extractLsb' 5 1))
  | 6 => if b = 0#5 ∧ fn.extractLsb' 5 1 = 0#1 then some (.vfabs h d a) else none
  | 7 => if b = 0#5 ∧ fn.extractLsb' 5 1 = 0#1 then some (.vfneg h d a) else none
  | 8 => if b = 0#5 ∧ fn.extractLsb' 5 1 = 0#1 then some (.vfsqrt h d a) else none
  | 9 => if b = 0#5 ∧ fn.extractLsb' 5 1 = 0#1 then some (.vfrcp h d a) else none
  | 10 => if b = 0#5 ∧ fn.extractLsb' 5 1 = 0#1 then some (.vfrsq h d a) else none
  | 11 => if b = 0#5 ∧ fn.extractLsb' 5 1 = 0#1 then some (.vexp2 h d a) else none
  | 12 => if b = 0#5 ∧ fn.extractLsb' 5 1 = 0#1 then some (.vlog2 h d a) else none
  | 13 => if b = 0#5 ∧ fn.extractLsb' 5 1 = 0#1 then some (.vtanh h d a) else none
  | _ => none

/-- Major `0x2A` of the execute stream, R format: vffma, vffms, vfnfma, vfnfms. -/
noncomputable def decX2A (h : Hdr) (d : BitVec 5) (a : BitVec 5) (b : BitVec 5) (fn : BitVec 6) : Option Instr :=
  match (fn.extractLsb' 0 5).toNat with
  | 0 => some (.vffma h d a b (fn.extractLsb' 5 1))
  | 1 => some (.vffms h d a b (fn.extractLsb' 5 1))
  | 2 => some (.vfnfma h d a b (fn.extractLsb' 5 1))
  | 3 => some (.vfnfms h d a b (fn.extractLsb' 5 1))
  | _ => none

/-- Major `0x2B` of the execute stream, R format: vmov, vbcast, vext, vins. -/
noncomputable def decX2B (h : Hdr) (d : BitVec 5) (a : BitVec 5) (b : BitVec 5) (fn : BitVec 6) : Option Instr :=
  match fn.toNat with
  | 0 => if b = 0#5 then some (.vmov h d a) else none
  | 1 => if b = 0#5 then some (.vbcast h d a) else none
  | 2 => some (.vext h d a b)
  | 3 => some (.vins h d a b)
  | _ => none

/-- Major `0x2C` of the execute stream, R format: viadd, visub, vimul, vimin and the rest of its codes. -/
noncomputable def decX2C (h : Hdr) (d : BitVec 5) (a : BitVec 5) (b : BitVec 5) (fn : BitVec 6) : Option Instr :=
  match (fn.extractLsb' 0 5).toNat with
  | 0 => some (.viadd h d a b (fn.extractLsb' 5 1))
  | 1 => some (.visub h d a b (fn.extractLsb' 5 1))
  | 2 => some (.vimul h d a b (fn.extractLsb' 5 1))
  | 3 => some (.vimin h d a b (fn.extractLsb' 5 1))
  | 4 => some (.vimax h d a b (fn.extractLsb' 5 1))
  | 5 => some (.viand h d a b (fn.extractLsb' 5 1))
  | 6 => some (.vior h d a b (fn.extractLsb' 5 1))
  | 7 => some (.vixor h d a b (fn.extractLsb' 5 1))
  | 8 => some (.vishl h d a b (fn.extractLsb' 5 1))
  | 9 => some (.vishr h d a b (fn.extractLsb' 5 1))
  | 10 => some (.visra h d a b (fn.extractLsb' 5 1))
  | 11 => some (.viadds h d a b (fn.extractLsb' 5 1))
  | 12 => some (.visubs h d a b (fn.extractLsb' 5 1))
  | _ => none

/-- Major `0x2D` of the execute stream, R format: vfcmp, vicmp. -/
noncomputable def decX2D (h : Hdr) (d : BitVec 5) (a : BitVec 5) (b : BitVec 5) (fn : BitVec 6) : Option Instr :=
  match (fn.extractLsb' 3 2).toNat with
  | 0 => if d.extractLsb' 3 2 = 0#2 then some (.vfcmp h (d.extractLsb' 0 3) a b (fn.extractLsb' 5 1) (fn.extractLsb' 0 3)) else none
  | 1 => if d.extractLsb' 3 2 = 0#2 then some (.vicmp h (d.extractLsb' 0 3) a b (fn.extractLsb' 5 1) (fn.extractLsb' 0 3)) else none
  | _ => none

/-- Major `0x2E` of the execute stream, R format: vcvt. -/
noncomputable def decX2E (h : Hdr) (d : BitVec 5) (a : BitVec 5) (b : BitVec 5) (fn : BitVec 6) : Option Instr :=
  some (.vcvt h d a b (fn.extractLsb' 4 2) (fn.extractLsb' 0 4))

/-- Major `0x2F` of the execute stream, R format: vbscale, vquant, vdeq, vpackp and the rest of its codes. -/
noncomputable def decX2F (h : Hdr) (d : BitVec 5) (a : BitVec 5) (b : BitVec 5) (fn : BitVec 6) : Option Instr :=
  match fn.toNat with
  | 0 => if b = 0#5 then some (.vbscale h d a) else none
  | 1 => some (.vquant h d a b)
  | 2 => some (.vdeq h d a b)
  | 3 => some (.vpackp h d a b)
  | 4 => some (.vunpkp h d a b)
  | _ => none

/-- Major `0x30` of the execute stream, R format: vrsum, vrmax, vrmin, vrargmax and the rest of its codes. -/
noncomputable def decX30 (h : Hdr) (d : BitVec 5) (a : BitVec 5) (b : BitVec 5) (fn : BitVec 6) : Option Instr :=
  match fn.toNat with
  | 0 => if b = 0#5 then some (.vrsum h d a) else none
  | 1 => if b = 0#5 then some (.vrmax h d a) else none
  | 2 => if b = 0#5 then some (.vrmin h d a) else none
  | 3 => if b = 0#5 then some (.vrargmax h d a) else none
  | 16 => if b = 0#5 then some (.vcsum h d a) else none
  | 17 => if b = 0#5 then some (.vcmax h d a) else none
  | 18 => if b = 0#5 then some (.vcmin h d a) else none
  | 19 => if b = 0#5 then some (.vcargmax h d a) else none
  | _ => none

/-- Major `0x31` of the execute stream, R format: vperm, vgath, vrot, vtrn. -/
noncomputable def decX31 (h : Hdr) (d : BitVec 5) (a : BitVec 5) (b : BitVec 5) (fn : BitVec 6) : Option Instr :=
  match fn.toNat with
  | 0 => some (.vperm h d a b)
  | 1 => some (.vgath h d a b)
  | 2 => some (.vrot h d a b)
  | 3 => if b = 0#5 then some (.vtrn h d a) else none
  | _ => none

/-- Major `0x32` of the execute stream, R format: mand, mor, mxor, mandn and the rest of its codes. -/
noncomputable def decX32 (h : Hdr) (d : BitVec 5) (a : BitVec 5) (b : BitVec 5) (fn : BitVec 6) : Option Instr :=
  match fn.toNat with
  | 0 => if d.extractLsb' 3 2 = 0#2 ∧ a.extractLsb' 3 2 = 0#2 ∧ b.extractLsb' 3 2 = 0#2 then some (.mand h (d.extractLsb' 0 3) (a.extractLsb' 0 3) (b.extractLsb' 0 3)) else none
  | 1 => if d.extractLsb' 3 2 = 0#2 ∧ a.extractLsb' 3 2 = 0#2 ∧ b.extractLsb' 3 2 = 0#2 then some (.mor h (d.extractLsb' 0 3) (a.extractLsb' 0 3) (b.extractLsb' 0 3)) else none
  | 2 => if d.extractLsb' 3 2 = 0#2 ∧ a.extractLsb' 3 2 = 0#2 ∧ b.extractLsb' 3 2 = 0#2 then some (.mxor h (d.extractLsb' 0 3) (a.extractLsb' 0 3) (b.extractLsb' 0 3)) else none
  | 3 => if d.extractLsb' 3 2 = 0#2 ∧ a.extractLsb' 3 2 = 0#2 ∧ b.extractLsb' 3 2 = 0#2 then some (.mandn h (d.extractLsb' 0 3) (a.extractLsb' 0 3) (b.extractLsb' 0 3)) else none
  | 4 => if d.extractLsb' 3 2 = 0#2 ∧ a.extractLsb' 3 2 = 0#2 ∧ b = 0#5 then some (.mnot h (d.extractLsb' 0 3) (a.extractLsb' 0 3)) else none
  | 5 => if d.extractLsb' 3 2 = 0#2 ∧ a.extractLsb' 3 2 = 0#2 ∧ b = 0#5 then some (.mmov h (d.extractLsb' 0 3) (a.extractLsb' 0 3)) else none
  | 6 => if a.extractLsb' 3 2 = 0#2 ∧ b = 0#5 then some (.mpopc h d (a.extractLsb' 0 3)) else none
  | 7 => if a.extractLsb' 3 2 = 0#2 ∧ b = 0#5 then some (.mfirst h d (a.extractLsb' 0 3)) else none
  | _ => none

/-- Major `0x33` of the execute stream, MX format: mmul, mmul.bs. -/
noncomputable def decX33 (h : Hdr) (c : BitVec 2) (a : BitVec 4) (b : BitVec 4) (p : BitVec 3) (q : BitVec 3) (fn : BitVec 5) : Option Instr :=
  match fn.toNat with
  | 0 => some (.mmul h c a b p q)
  | 1 => some (.mmulBs h c a b p q)
  | _ => none

/-- Major `0x34` of the execute stream, MX format: mtrans, mperm, mrsum, mcsum. -/
noncomputable def decX34 (h : Hdr) (c : BitVec 2) (a : BitVec 4) (b : BitVec 4) (p : BitVec 3) (q : BitVec 3) (fn : BitVec 5) : Option Instr :=
  match fn.toNat with
  | 0 => if b = 0#4 ∧ q = 0#3 then some (.mtrans h c a p) else none
  | 1 => if q = 0#3 then some (.mperm h c a b p) else none
  | 2 => if b = 0#4 ∧ q = 0#3 then some (.mrsum h c a p) else none
  | 3 => if b = 0#4 ∧ q = 0#3 then some (.mcsum h c a p) else none
  | _ => none

/-- Major `0x35` of the execute stream, MX format: mclr, mst.f32, mst.bf16, mst.i32 and the rest of its codes. -/
noncomputable def decX35 (h : Hdr) (c : BitVec 2) (a : BitVec 4) (b : BitVec 4) (p : BitVec 3) (q : BitVec 3) (fn : BitVec 5) : Option Instr :=
  match fn.toNat with
  | 0 => if a = 0#4 ∧ b = 0#4 ∧ p = 0#3 ∧ q = 0#3 then some (.mclr h c) else none
  | 1 => if b = 0#4 ∧ p = 0#3 ∧ q = 0#3 then some (.mstF32 h c a) else none
  | 5 => if b = 0#4 ∧ p = 0#3 ∧ q = 0#3 then some (.mstBf16 h c a) else none
  | 9 => if b = 0#4 ∧ p = 0#3 ∧ q = 0#3 then some (.mstI32 h c a) else none
  | 13 => if b = 0#4 ∧ p = 0#3 ∧ q = 0#3 then some (.mstMe h c a) else none
  | 2 => if b = 0#4 ∧ p = 0#3 ∧ q = 0#3 then some (.mld h c a) else none
  | 3 => if b = 0#4 ∧ p = 0#3 ∧ q = 0#3 then some (.mxaln h c a) else none
  | _ => none

/-- Major `0x36` of the execute stream, R format: sreg, sqdraft, srun, scommit. -/
noncomputable def decX36 (h : Hdr) (d : BitVec 5) (a : BitVec 5) (b : BitVec 5) (fn : BitVec 6) : Option Instr :=
  match fn.toNat with
  | 0 => some (.sreg h d a b)
  | 1 => if d = 0#5 then some (.sqdraft h a b) else none
  | 2 => if d = 0#5 then some (.srun h a b) else none
  | 3 => if d = 0#5 then some (.scommit h a b) else none
  | _ => none

/-- Major `0x37` of the execute stream, R format: tdef.lo, tdef.hi, tadv, trows. -/
noncomputable def decX37 (h : Hdr) (d : BitVec 5) (a : BitVec 5) (b : BitVec 5) (fn : BitVec 6) : Option Instr :=
  match fn.toNat with
  | 0 => if d.extractLsb' 4 1 = 0#1 ∧ b = 0#5 then some (.xTdefLo h (d.extractLsb' 0 4) a) else none
  | 1 => if d.extractLsb' 4 1 = 0#1 ∧ b = 0#5 then some (.xTdefHi h (d.extractLsb' 0 4) a) else none
  | 2 => if d.extractLsb' 4 1 = 0#1 ∧ b = 0#5 then some (.xTadv h (d.extractLsb' 0 4) a) else none
  | 3 => if d.extractLsb' 4 1 = 0#1 ∧ b = 0#5 then some (.xTrows h (d.extractLsb' 0 4) a) else none
  | _ => none

/-- The access-stream map before the reserved-value check (R50). -/
noncomputable def rawAccess (w : BitVec 32) : Option Instr :=
  match (opOf w).toNat with
  | 1 => decA01 (hdrOf w) (bits w 16 5) (bits w 11 5) (bits w 6 5) (bits w 0 6)
  | 2 => decA02 (hdrOf w) (bits w 16 5) (bits w 11 5) (bits w 0 11)
  | 3 => decA03 (hdrOf w) (bits w 16 5) (bits w 11 5) (bits w 0 11)
  | 4 => decA04 (hdrOf w) (bits w 16 5) (bits w 11 5) (bits w 0 11)
  | 5 => decA05 (hdrOf w) (bits w 16 5) (bits w 11 5) (bits w 0 11)
  | 6 => decA06 (hdrOf w) (bits w 16 5) (bits w 11 5) (bits w 0 11)
  | 7 => decA07 (hdrOf w) (bits w 16 5) (bits w 11 5) (bits w 0 11)
  | 8 => decA08 (hdrOf w) (bits w 16 5) (bits w 11 5) (bits w 0 11)
  | 9 => decA09 (hdrOf w) (bits w 16 5) (bits w 11 5) (bits w 0 11)
  | 10 => decA0A (hdrOf w) (bits w 16 5) (bits w 0 16)
  | 11 => decA0B (hdrOf w) (bits w 16 5) (bits w 0 16)
  | 12 => decA0C (hdrOf w) (bits w 18 3) (bits w 15 3) (bits w 10 5) (bits w 5 5) (bits w 0 5)
  | 13 => decA0D (hdrOf w) (bits w 16 5) (bits w 11 5) (bits w 6 5) (bits w 0 6)
  | 14 => decA0E (hdrOf w) (bits w 16 5) (bits w 11 5) (bits w 6 5) (bits w 0 6)
  | 15 => decA0F (hdrOf w) (bits w 16 5) (bits w 11 5) (bits w 6 5) (bits w 0 6)
  | 16 => decA10 (hdrOf w) (bits w 16 5) (bits w 11 5) (bits w 9 2) (bits w 8 1) (bits w 0 8)
  | 17 => decA11 (hdrOf w) (bits w 16 5) (bits w 11 5) (bits w 9 2) (bits w 8 1) (bits w 0 8)
  | 18 => decA12 (hdrOf w) (bits w 16 5) (bits w 11 5) (bits w 9 2) (bits w 8 1) (bits w 0 8)
  | 19 => decA13 (hdrOf w) (bits w 16 5) (bits w 11 5) (bits w 9 2) (bits w 8 1) (bits w 0 8)
  | 20 => decA14 (hdrOf w) (bits w 16 5) (bits w 11 5) (bits w 9 2) (bits w 8 1) (bits w 0 8)
  | 21 => decA15 (hdrOf w) (bits w 16 5) (bits w 11 5) (bits w 9 2) (bits w 8 1) (bits w 0 8)
  | 22 => decA16 (hdrOf w) (bits w 16 5) (bits w 11 5) (bits w 9 2) (bits w 8 1) (bits w 0 8)
  | 23 => decA17 (hdrOf w) (bits w 16 5) (bits w 11 5) (bits w 9 2) (bits w 8 1) (bits w 0 8)
  | 24 => decA18 (hdrOf w) (bits w 17 4) (bits w 16 1) (bits w 0 16)
  | 25 => decA19 (hdrOf w) (bits w 17 4) (bits w 16 1) (bits w 0 16)
  | 26 => decA1A (hdrOf w) (bits w 17 4) (bits w 13 4) (bits w 8 5) (bits w 0 8)
  | 27 => decA1B (hdrOf w) (bits w 17 4) (bits w 13 4) (bits w 8 5) (bits w 0 8)
  | 28 => decA1C (hdrOf w) (bits w 16 5) (bits w 11 5) (bits w 6 5) (bits w 0 6)
  | 29 => decA1D (hdrOf w) (bits w 16 5) (bits w 11 5) (bits w 6 5) (bits w 0 6)
  | 30 => decA1E (hdrOf w) (bits w 16 5) (bits w 11 5) (bits w 6 5) (bits w 0 6)
  | 31 => decA1F (hdrOf w) (bits w 16 5) (bits w 11 5) (bits w 6 5) (bits w 0 6)
  | 32 => decA20 (hdrOf w) (bits w 16 5) (bits w 11 5) (bits w 6 5) (bits w 0 6)
  | 33 => decA21 (hdrOf w) (bits w 16 5) (bits w 11 5) (bits w 0 11)
  | 34 => decA22 (hdrOf w) (bits w 16 5) (bits w 11 5) (bits w 0 11)
  | 35 => decA23 (hdrOf w) (bits w 16 5) (bits w 11 5) (bits w 0 11)
  | 36 => decA24 (hdrOf w) (bits w 16 5) (bits w 11 5) (bits w 0 11)
  | 37 => decA25 (hdrOf w) (bits w 16 5) (bits w 11 5) (bits w 0 11)
  | 38 => decA26 (hdrOf w) (bits w 16 5) (bits w 11 5) (bits w 0 11)
  | 39 => if gOf w = 0#3 then decA27 (hdrPOf w) (bits w 18 3) (bits w 17 1) (bits w 0 17) else none
  | 40 => if gOf w = 0#3 then decA28 (hdrPOf w) (bits w 18 3) (bits w 17 1) (bits w 0 17) else none
  | 41 => decA29 (hdrOf w) (bits w 0 21)
  | 42 => decA2A (hdrOf w) (bits w 0 21)
  | 43 => decA2B (hdrOf w) (bits w 16 5) (bits w 11 5) (bits w 6 5) (bits w 0 6)
  | 44 => if gOf w = 0#3 then decA2C (hdrPOf w) (bits w 18 3) (bits w 17 1) (bits w 0 17) else none
  | 45 => decA2D (hdrOf w) (bits w 16 5) (bits w 12 4) (bits w 0 12)
  | 46 => decA2E (hdrOf w) (bits w 16 5) (bits w 12 4) (bits w 0 12)
  | 47 => decA2F (hdrOf w) (bits w 16 5) (bits w 12 4) (bits w 0 12)
  | 48 => decA30 (hdrOf w) (bits w 16 5) (bits w 11 5) (bits w 6 5) (bits w 0 6)
  | 49 => decA31 (hdrOf w) (bits w 16 5) (bits w 11 5) (bits w 6 5) (bits w 0 6)
  | 50 => decA32 (hdrOf w) (bits w 16 5) (bits w 11 5) (bits w 9 2) (bits w 0 9)
  | 51 => decA33 (hdrOf w) (bits w 16 5) (bits w 0 16)
  | 52 => decA34 (hdrOf w) (bits w 16 5) (bits w 11 5) (bits w 6 5) (bits w 0 6)
  | 53 => decA35 (hdrOf w) (bits w 17 4) (bits w 13 4) (bits w 8 5) (bits w 0 8)
  | 54 => decA36 (hdrOf w) (bits w 16 5) (bits w 11 5) (bits w 6 5) (bits w 0 6)
  | _ => none

/-- The execute-stream map before the reserved-value check (R51). -/
noncomputable def rawExecute (w : BitVec 32) : Option Instr :=
  match (opOf w).toNat with
  | 1 => decX01 (hdrOf w) (bits w 16 5) (bits w 11 5) (bits w 6 5) (bits w 0 6)
  | 2 => decX02 (hdrOf w) (bits w 16 5) (bits w 11 5) (bits w 6 5) (bits w 0 6)
  | 3 => decX03 (hdrOf w) (bits w 16 5) (bits w 11 5) (bits w 0 11)
  | 4 => decX04 (hdrOf w) (bits w 16 5) (bits w 11 5) (bits w 0 11)
  | 5 => decX05 (hdrOf w) (bits w 16 5) (bits w 11 5) (bits w 0 11)
  | 6 => decX06 (hdrOf w) (bits w 16 5) (bits w 11 5) (bits w 0 11)
  | 7 => decX07 (hdrOf w) (bits w 16 5) (bits w 11 5) (bits w 0 11)
  | 8 => decX08 (hdrOf w) (bits w 16 5) (bits w 11 5) (bits w 0 11)
  | 9 => decX09 (hdrOf w) (bits w 16 5) (bits w 11 5) (bits w 0 11)
  | 10 => decX0A (hdrOf w) (bits w 16 5) (bits w 11 5) (bits w 0 11)
  | 11 => decX0B (hdrOf w) (bits w 16 5) (bits w 0 16)
  | 12 => decX0C (hdrOf w) (bits w 16 5) (bits w 0 16)
  | 13 => decX0D (hdrOf w) (bits w 16 5) (bits w 11 5) (bits w 6 5) (bits w 0 6)
  | 14 => decX0E (hdrOf w) (bits w 16 5) (bits w 11 5) (bits w 6 5) (bits w 0 6)
  | 15 => decX0F (hdrOf w) (bits w 18 3) (bits w 15 3) (bits w 10 5) (bits w 5 5) (bits w 0 5)
  | 16 => decX10 (hdrOf w) (bits w 16 5) (bits w 11 5) (bits w 6 5) (bits w 0 6)
  | 17 => decX11 (hdrOf w) (bits w 18 3) (bits w 15 3) (bits w 10 5) (bits w 5 5) (bits w 0 5)
  | 18 => decX12 (hdrOf w) (bits w 16 5) (bits w 11 5) (bits w 6 5) (bits w 0 6)
  | 19 => decX13 (hdrOf w) (bits w 16 5) (bits w 11 5) (bits w 6 5) (bits w 0 6)
  | 20 => decX14 (hdrOf w) (bits w 16 5) (bits w 11 5) (bits w 6 5) (bits w 0 6)
  | 21 => decX15 (hdrOf w) (bits w 16 5) (bits w 11 5) (bits w 6 5) (bits w 0 6)
  | 22 => decX16 (hdrOf w) (bits w 16 5) (bits w 11 5) (bits w 9 2) (bits w 8 1) (bits w 0 8)
  | 23 => decX17 (hdrOf w) (bits w 16 5) (bits w 11 5) (bits w 9 2) (bits w 8 1) (bits w 0 8)
  | 24 => if gOf w = 0#3 then decX18 (hdrPOf w) (bits w 18 3) (bits w 17 1) (bits w 0 17) else none
  | 25 => if gOf w = 0#3 then decX19 (hdrPOf w) (bits w 18 3) (bits w 17 1) (bits w 0 17) else none
  | 26 => if gOf w = 0#3 then decX1A (hdrPOf w) (bits w 17 4) (bits w 16 1) (bits w 0 16) else none
  | 27 => decX1B (hdrOf w) (bits w 0 21)
  | 28 => decX1C (hdrOf w) (bits w 0 21)
  | 29 => decX1D (hdrOf w) (bits w 16 5) (bits w 11 5) (bits w 6 5) (bits w 0 6)
  | 30 => if gOf w = 0#3 then decX1E (hdrPOf w) (bits w 18 3) (bits w 17 1) (bits w 0 17) else none
  | 31 => decX1F (hdrOf w) (bits w 16 5) (bits w 12 4) (bits w 0 12)
  | 32 => decX20 (hdrOf w) (bits w 16 5) (bits w 12 4) (bits w 0 12)
  | 33 => decX21 (hdrOf w) (bits w 16 5) (bits w 12 4) (bits w 0 12)
  | 34 => decX22 (hdrOf w) (bits w 16 5) (bits w 0 16)
  | 36 => decX24 (hdrOf w) (bits w 16 5) (bits w 11 5) (bits w 6 5) (bits w 0 6)
  | 37 => decX25 (hdrOf w) (bits w 16 5) (bits w 11 5) (bits w 9 2) (bits w 0 9)
  | 38 => decX26 (hdrOf w) (bits w 16 5) (bits w 0 16)
  | 39 => decX27 (hdrOf w) (bits w 16 5) (bits w 11 5) (bits w 6 5) (bits w 0 6)
  | 40 => decX28 (hdrOf w) (bits w 16 5) (bits w 11 5) (bits w 6 5) (bits w 0 6)
  | 41 => decX29 (hdrOf w) (bits w 16 5) (bits w 11 5) (bits w 6 5) (bits w 0 6)
  | 42 => decX2A (hdrOf w) (bits w 16 5) (bits w 11 5) (bits w 6 5) (bits w 0 6)
  | 43 => decX2B (hdrOf w) (bits w 16 5) (bits w 11 5) (bits w 6 5) (bits w 0 6)
  | 44 => decX2C (hdrOf w) (bits w 16 5) (bits w 11 5) (bits w 6 5) (bits w 0 6)
  | 45 => decX2D (hdrOf w) (bits w 16 5) (bits w 11 5) (bits w 6 5) (bits w 0 6)
  | 46 => decX2E (hdrOf w) (bits w 16 5) (bits w 11 5) (bits w 6 5) (bits w 0 6)
  | 47 => decX2F (hdrOf w) (bits w 16 5) (bits w 11 5) (bits w 6 5) (bits w 0 6)
  | 48 => decX30 (hdrOf w) (bits w 16 5) (bits w 11 5) (bits w 6 5) (bits w 0 6)
  | 49 => decX31 (hdrOf w) (bits w 16 5) (bits w 11 5) (bits w 6 5) (bits w 0 6)
  | 50 => decX32 (hdrOf w) (bits w 16 5) (bits w 11 5) (bits w 6 5) (bits w 0 6)
  | 51 => decX33 (hdrOf w) (bits w 19 2) (bits w 15 4) (bits w 11 4) (bits w 8 3) (bits w 5 3) (bits w 0 5)
  | 52 => decX34 (hdrOf w) (bits w 19 2) (bits w 15 4) (bits w 11 4) (bits w 8 3) (bits w 5 3) (bits w 0 5)
  | 53 => decX35 (hdrOf w) (bits w 19 2) (bits w 15 4) (bits w 11 4) (bits w 8 3) (bits w 5 3) (bits w 0 5)
  | 54 => decX36 (hdrOf w) (bits w 16 5) (bits w 11 5) (bits w 6 5) (bits w 0 6)
  | 55 => decX37 (hdrOf w) (bits w 16 5) (bits w 11 5) (bits w 6 5) (bits w 0 6)
  | _ => none

/-- The Utgen fields by op (R236). -/
noncomputable def decU (op : BitVec 5) (d a b : BitVec 4) (x : BitVec 15) : Option Instr :=
  match op.toNat with
  | 1 => if b = 0#4 ∧ x = 0#15 then some (.lmov d a) else none
  | 2 => if a = 0#4 ∧ b = 0#4 ∧ x.extractLsb' 4 11 = 0#11 then some (.lkc d (x.extractLsb' 0 4)) else none
  | 3 => if x = 0#15 then some (.ladd d a b) else none
  | 4 => if x = 0#15 then some (.lsub d a b) else none
  | 5 => if x = 0#15 then some (.lmul d a b) else none
  | 6 => if x = 0#15 then some (.lmin d a b) else none
  | 7 => if x = 0#15 then some (.lmax d a b) else none
  | 8 => if d.extractLsb' 2 2 = 0#2 ∧ a.extractLsb' 2 2 = 0#2 ∧ x = 0#15 then some (.lscale (d.extractLsb' 0 2) (a.extractLsb' 0 2) b) else none
  | 9 => if d.extractLsb' 2 2 = 0#2 ∧ a.extractLsb' 2 2 = 0#2 ∧ x = 0#15 then some (.lshift (d.extractLsb' 0 2) (a.extractLsb' 0 2) b) else none
  | 10 => if d.extractLsb' 2 2 = 0#2 ∧ a.extractLsb' 2 2 = 0#2 ∧ x = 0#15 then some (.ltemp (d.extractLsb' 0 2) (a.extractLsb' 0 2) b) else none
  | 11 => if d.extractLsb' 2 2 = 0#2 ∧ a.extractLsb' 2 2 = 0#2 ∧ x = 0#15 then some (.lcap (d.extractLsb' 0 2) (a.extractLsb' 0 2) b) else none
  | 12 => if d.extractLsb' 2 2 = 0#2 ∧ a.extractLsb' 2 2 = 0#2 ∧ b = 0#4 ∧ x = 0#15 then some (.lbias (d.extractLsb' 0 2) (a.extractLsb' 0 2)) else none
  | 13 => if d.extractLsb' 2 2 = 0#2 ∧ a.extractLsb' 2 2 = 0#2 ∧ x = 0#15 then some (.lrep (d.extractLsb' 0 2) (a.extractLsb' 0 2) b) else none
  | 14 => if d.extractLsb' 2 2 = 0#2 ∧ a.extractLsb' 2 2 = 0#2 ∧ x.extractLsb' 4 11 = 0#11 then some (.lfreq (d.extractLsb' 0 2) (a.extractLsb' 0 2) b (x.extractLsb' 0 4)) else none
  | 15 => if d.extractLsb' 2 2 = 0#2 ∧ a.extractLsb' 2 2 = 0#2 ∧ b = 0#4 ∧ x = 0#15 then some (.lmask (d.extractLsb' 0 2) (a.extractLsb' 0 2)) else none
  | 16 => if d.extractLsb' 2 2 = 0#2 ∧ a.extractLsb' 2 2 = 0#2 ∧ x = 0#15 then some (.lban (d.extractLsb' 0 2) (a.extractLsb' 0 2) b) else none
  | 17 => if d.extractLsb' 2 2 = 0#2 ∧ a.extractLsb' 2 2 = 0#2 ∧ x = 0#15 then some (.lminp (d.extractLsb' 0 2) (a.extractLsb' 0 2) b) else none
  | 18 => if d = 0#4 ∧ a.extractLsb' 2 2 = 0#2 ∧ b = 0#4 ∧ x.extractLsb' 7 8 = 0#8 then some (.ltopk (a.extractLsb' 0 2) (x.extractLsb' 0 7)) else none
  | 19 => if d = 0#4 then some (.lbr a b x) else if d = 1#4 then some (.lbrNz a b x) else if d = 2#4 then some (.lbrZ a b x) else none
  | 20 => if d = 0#4 ∧ a.extractLsb' 2 2 = 0#2 ∧ b = 0#4 ∧ x = 0#15 then some (.lsync (a.extractLsb' 0 2)) else none
  | 21 => if d = 0#4 ∧ a.extractLsb' 2 2 = 0#2 ∧ b = 0#4 ∧ x = 0#15 then some (.lendS (a.extractLsb' 0 2)) else none
  | 22 => if d = 0#4 ∧ a.extractLsb' 2 2 = 0#2 ∧ b = 0#4 ∧ x = 0#15 then some (.lendG (a.extractLsb' 0 2)) else none
  | 23 => if d = 0#4 ∧ b = 0#4 ∧ x = 0#15 then some (.lendF a) else none
  | _ => none

/-- A Utgen word before the reserved-value check (R236). -/
noncomputable def rawUtgen (w : BitVec 32) : Option Instr :=
  decU (bits w 27 5) (bits w 23 4) (bits w 19 4) (bits w 15 4) (bits w 0 15)

/-- The custom-0 and custom-1 fields (R261). -/
noncomputable def decD (q l : BitVec 1) (sc : BitVec 2) (z : BitVec 3) (rs2 a : BitVec 5) (f3 : BitVec 3)
    (d : BitVec 5) (opc : BitVec 7) : Option Instr :=
  match opc.toNat, f3.toNat with
  | 11, 0 => if z = 0#3 then some (.dvCadd q l sc rs2 a d) else none
  | 11, 1 => if l = 0#1 ∧ z = 0#3 ∧ rs2 = 0#5 then some (.dvCread q sc a d) else none
  | 11, 2 => if l = 0#1 ∧ z = 0#3 then some (.dvCtest q sc rs2 a d) else none
  | 11, 3 => if l = 0#1 ∧ z = 0#3 then some (.dvCwait q sc rs2 a d) else none
  | 43, 0 => if q = 0#1 ∧ l = 0#1 ∧ sc = 0#2 ∧ z = 0#3 ∧ rs2 = 0#5 then some (.dvFnew a d) else none
  | 43, 1 => if q = 0#1 ∧ l = 0#1 ∧ sc = 0#2 ∧ z = 0#3 then some (.dvFpost rs2 a d) else none
  | 43, 2 => if q = 0#1 ∧ l = 0#1 ∧ sc = 0#2 ∧ z = 0#3 then some (.dvFfail rs2 a d) else none
  | 43, 3 => if q = 0#1 ∧ l = 0#1 ∧ sc = 0#2 ∧ z = 0#3 ∧ rs2 = 0#5 then some (.dvLaunch a d) else none
  | _, _ => none

/-- A RISC-V custom word before the reserved-value check (R261). -/
noncomputable def rawCustom (w : BitVec 32) : Option Instr :=
  decD (bits w 31 1) (bits w 30 1) (bits w 28 2) (bits w 25 3) (bits w 20 5) (bits w 15 5)
    (bits w 12 3) (bits w 7 5) (bits w 0 7)

/-- The four maps a word is read in: the fetching stream's (R41), the sampler's (R236), the hart's
custom space (R261). -/
inductive IsaMap where
  | access | execute | utgen | custom
  deriving DecidableEq, Repr

/-- Why a word is refused (R49, R239, R261). -/
inductive DecodeError where
  /-- Fewer than four bytes. -/
  | truncated
  /-- The major opcode is 0 (R49). -/
  | opZero
  /-- A major, code or must-be-zero field that the map reserves (R49). -/
  | reserved
  /-- A field value that the format names as a constant and excludes (R44, R49). -/
  | badValue
  deriving DecidableEq, Repr

/-- The word in a map, before the reserved-value check. -/
noncomputable def rawDecode (m : IsaMap) (w : BitVec 32) : Option Instr :=
  match m with
  | .access => rawAccess w
  | .execute => rawExecute w
  | .utgen => rawUtgen w
  | .custom => rawCustom w

/-- Decoding a word in a map, total, refusing by name. -/
noncomputable def decode (m : IsaMap) (w : BitVec 32) : Except DecodeError Instr :=
  match rawDecode m w with
  | some i => if i.wf then .ok i else .error .badValue
  | none => if opOf w = 0#6 then .error .opZero else .error .reserved

/-- The little-endian word of four bytes (R3, R41). -/
def wordOfBytes (b0 b1 b2 b3 : Byte) : BitVec 32 := b3 ++ b2 ++ b1 ++ b0

/-- Decoding the first word of a list of bytes: the instruction and the rest of the list. -/
noncomputable def decodeBytes (m : IsaMap) (bs : List Byte) : Except DecodeError (Instr × List Byte) :=
  match bs with
  | b0 :: b1 :: b2 :: b3 :: rest =>
    match decode m (wordOfBytes b0 b1 b2 b3) with
    | .ok i => .ok (i, rest)
    | .error e => .error e
  | _ => .error .truncated

/-- The instruction a word stands for in a map, if any. -/
noncomputable def decode? (m : IsaMap) (w : BitVec 32) : Option Instr :=
  match decode m w with
  | .ok i => some i
  | .error _ => none

/-- A word of the R format (R41, R43). -/
def wordR (h : Hdr) (op : BitVec 6) (d : BitVec 5) (a : BitVec 5) (b : BitVec 5) (fn : BitVec 6) :
    BitVec 32 := bitOf h.w ++ bitOf h.t ++ h.g ++ op ++ d ++ a ++ b ++ fn

/-- A word of the I and B formats (R41, R43). -/
def wordI (h : Hdr) (op : BitVec 6) (d : BitVec 5) (a : BitVec 5) (im : BitVec 11) :
    BitVec 32 := bitOf h.w ++ bitOf h.t ++ h.g ++ op ++ d ++ a ++ im

/-- A word of the L format (R41, R43). -/
def wordL (h : Hdr) (op : BitVec 6) (d : BitVec 5) (im : BitVec 16) :
    BitVec 32 := bitOf h.w ++ bitOf h.t ++ h.g ++ op ++ d ++ im

/-- A word of the M format (R41, R43). -/
def wordM (h : Hdr) (op : BitVec 6) (d : BitVec 5) (a : BitVec 5) (z : BitVec 2) (u : BitVec 1) (off : BitVec 8) :
    BitVec 32 := bitOf h.w ++ bitOf h.t ++ h.g ++ op ++ d ++ a ++ z ++ u ++ off

/-- A word of the X format (R41, R43). -/
def wordX (h : Hdr) (op : BitVec 6) (d : BitVec 5) (a : BitVec 5) (o : BitVec 2) (c : BitVec 9) :
    BitVec 32 := bitOf h.w ++ bitOf h.t ++ h.g ++ op ++ d ++ a ++ o ++ c

/-- A word of the P format (R41, R43). -/
def wordP (h : HdrP) (op : BitVec 6) (p : BitVec 3) (n : BitVec 1) (off : BitVec 17) :
    BitVec 32 := bitOf h.w ++ bitOf h.t ++ 0#3 ++ op ++ p ++ n ++ off

/-- A word of the S format (R41, R43). -/
def wordS (h : HdrP) (op : BitVec 6) (st : BitVec 4) (n : BitVec 1) (off : BitVec 16) :
    BitVec 32 := bitOf h.w ++ bitOf h.t ++ 0#3 ++ op ++ st ++ n ++ off

/-- A word of the J format (R41, R43). -/
def wordJ (h : Hdr) (op : BitVec 6) (off : BitVec 21) :
    BitVec 32 := bitOf h.w ++ bitOf h.t ++ h.g ++ op ++ off

/-- A word of the C format (R41, R43). -/
def wordC (h : Hdr) (op : BitVec 6) (p : BitVec 3) (k : BitVec 3) (a : BitVec 5) (b : BitVec 5) (z : BitVec 5) :
    BitVec 32 := bitOf h.w ++ bitOf h.t ++ h.g ++ op ++ p ++ k ++ a ++ b ++ z

/-- A word of the LP format (R41, R43). -/
def wordLP (h : Hdr) (op : BitVec 6) (a : BitVec 5) (ex : BitVec 4) (len : BitVec 12) :
    BitVec 32 := bitOf h.w ++ bitOf h.t ++ h.g ++ op ++ a ++ ex ++ len

/-- A word of the MX format (R41, R43). -/
def wordMX (h : Hdr) (op : BitVec 6) (c : BitVec 2) (a : BitVec 4) (b : BitVec 4) (p : BitVec 3) (q : BitVec 3) (fn : BitVec 5) :
    BitVec 32 := bitOf h.w ++ bitOf h.t ++ h.g ++ op ++ c ++ a ++ b ++ p ++ q ++ fn

/-- A word of the CP format (R41, R43). -/
def wordCP (h : Hdr) (op : BitVec 6) (d : BitVec 4) (t : BitVec 4) (c : BitVec 5) (fn : BitVec 8) :
    BitVec 32 := bitOf h.w ++ bitOf h.t ++ h.g ++ op ++ d ++ t ++ c ++ fn

/-- A word of the Q format (R41, R43). -/
def wordQ (h : Hdr) (op : BitVec 6) (tt : BitVec 4) (ex : BitVec 1) (z : BitVec 16) :
    BitVec 32 := bitOf h.w ++ bitOf h.t ++ h.g ++ op ++ tt ++ ex ++ z

/-- A Utgen word (R236). -/
def wordU (op : BitVec 5) (d a b : BitVec 4) (x : BitVec 15) : BitVec 32 := op ++ d ++ a ++ b ++ x

/-- A custom RISC-V word (R261). -/
def wordD (q l : BitVec 1) (sc : BitVec 2) (z : BitVec 3) (rs2 a : BitVec 5) (f3 : BitVec 3)
    (d : BitVec 5) (opc : BitVec 7) : BitVec 32 := q ++ l ++ sc ++ z ++ rs2 ++ a ++ f3 ++ d ++ opc

/-- The encoder: the word of an encoded instruction, `none` for an event (R41 to R67, R236, R261). -/
def encode (i : Instr) : Option (BitVec 32) :=
  match i with
  | .aAdd h d a b => some (wordR h 1#6 d a b 0#6)
  | .aSub h d a b => some (wordR h 1#6 d a b 1#6)
  | .aAnd h d a b => some (wordR h 1#6 d a b 2#6)
  | .aOr h d a b => some (wordR h 1#6 d a b 3#6)
  | .aXor h d a b => some (wordR h 1#6 d a b 4#6)
  | .aShl h d a b => some (wordR h 1#6 d a b 5#6)
  | .aShr h d a b => some (wordR h 1#6 d a b 6#6)
  | .aSra h d a b => some (wordR h 1#6 d a b 7#6)
  | .aMul h d a b => some (wordR h 1#6 d a b 8#6)
  | .aMulh h d a b => some (wordR h 1#6 d a b 9#6)
  | .aMulhu h d a b => some (wordR h 1#6 d a b 10#6)
  | .aMin h d a b => some (wordR h 1#6 d a b 11#6)
  | .aMax h d a b => some (wordR h 1#6 d a b 12#6)
  | .aMinu h d a b => some (wordR h 1#6 d a b 13#6)
  | .aMaxu h d a b => some (wordR h 1#6 d a b 14#6)
  | .aSlt h d a b => some (wordR h 1#6 d a b 15#6)
  | .aSltu h d a b => some (wordR h 1#6 d a b 16#6)
  | .aAndn h d a b => some (wordR h 1#6 d a b 17#6)
  | .aOrn h d a b => some (wordR h 1#6 d a b 18#6)
  | .aRotl h d a b => some (wordR h 1#6 d a b 19#6)
  | .aAddi h d a im => some (wordI h 2#6 d a im)
  | .aAndi h d a im => some (wordI h 3#6 d a im)
  | .aOri h d a im => some (wordI h 4#6 d a im)
  | .aXori h d a im => some (wordI h 5#6 d a im)
  | .aShli h d a sc => some (wordI h 6#6 d a (0#5 ++ sc))
  | .aShri h d a sc => some (wordI h 7#6 d a (0#5 ++ sc))
  | .aSrai h d a sc => some (wordI h 8#6 d a (0#5 ++ sc))
  | .aSlti h d a im => some (wordI h 9#6 d a im)
  | .aLi h d im => some (wordL h 10#6 d im)
  | .aLih h d im => some (wordL h 11#6 d im)
  | .cset h p k a b => some (wordC h 12#6 p k a b 0#5)
  | .cand h d a b => some (wordR h 13#6 (0#2 ++ d) (0#2 ++ a) (0#2 ++ b) 0#6)
  | .cor h d a b => some (wordR h 13#6 (0#2 ++ d) (0#2 ++ a) (0#2 ++ b) 1#6)
  | .cxor h d a b => some (wordR h 13#6 (0#2 ++ d) (0#2 ++ a) (0#2 ++ b) 2#6)
  | .cnot h d a => some (wordR h 13#6 (0#2 ++ d) (0#2 ++ a) 0#5 4#6)
  | .cmov h d a => some (wordR h 13#6 (0#2 ++ d) (0#2 ++ a) 0#5 5#6)
  | .gaddrRl h d a => some (wordR h 14#6 d a 0#5 0#6)
  | .gaddrOwn h d a => some (wordR h 14#6 d a 0#5 1#6)
  | .gaddrOff h d a => some (wordR h 14#6 d a 0#5 2#6)
  | .idx2 h d a b sc => some (wordR h 15#6 d a b sc)
  | .ldl h d a z u off => some (wordM h 16#6 d a z u off)
  | .stl h d a z u off => some (wordM h 17#6 d a z u off)
  | .ldq h ex a z u off => some (wordM h 18#6 (0#4 ++ ex) a z u off)
  | .stq h a z u off => some (wordM h 19#6 0#5 a z u off)
  | .ldg h d a z u off => some (wordM h 20#6 d a z u off)
  | .stg h d a z u off => some (wordM h 21#6 d a z u off)
  | .ldgq h ex a z u off => some (wordM h 22#6 (0#4 ++ ex) a z u off)
  | .stgq h a z u off => some (wordM h 23#6 0#5 a z u off)
  | .vld h tt ex => some (wordQ h 24#6 tt ex 0#16)
  | .vst h tt => some (wordQ h 25#6 tt 0#1 0#16)
  | .cpy h d sc c m => some (wordCP h 26#6 d sc c (0#6 ++ m))
  | .cpyg h d sc c m => some (wordCP h 27#6 d sc c (0#6 ++ m))
  | .cpys h d sc c m => some (wordCP h 27#6 d sc c (4#6 ++ m))
  | .cpyf h d n c m => some (wordCP h 27#6 d n c (8#6 ++ m))
  | .cpyn h d sc c r m => some (wordCP h 27#6 d sc c (3#4 ++ r ++ m))
  | .amoWAdd h d a b sc => some (wordR h 28#6 d a b (0#4 ++ sc))
  | .amoWMin h d a b sc => some (wordR h 28#6 d a b (1#4 ++ sc))
  | .amoWMax h d a b sc => some (wordR h 28#6 d a b (2#4 ++ sc))
  | .amoWMinu h d a b sc => some (wordR h 28#6 d a b (3#4 ++ sc))
  | .amoWMaxu h d a b sc => some (wordR h 28#6 d a b (4#4 ++ sc))
  | .amoWAnd h d a b sc => some (wordR h 28#6 d a b (5#4 ++ sc))
  | .amoWOr h d a b sc => some (wordR h 28#6 d a b (6#4 ++ sc))
  | .amoWXor h d a b sc => some (wordR h 28#6 d a b (7#4 ++ sc))
  | .amoWSwap h d a b sc => some (wordR h 28#6 d a b (8#4 ++ sc))
  | .amoWCas h d a b sc => some (wordR h 28#6 d a b (9#4 ++ sc))
  | .amoDAdd h d a b sc => some (wordR h 29#6 d a b (0#4 ++ sc))
  | .amoDMin h d a b sc => some (wordR h 29#6 d a b (1#4 ++ sc))
  | .amoDMax h d a b sc => some (wordR h 29#6 d a b (2#4 ++ sc))
  | .amoDMinu h d a b sc => some (wordR h 29#6 d a b (3#4 ++ sc))
  | .amoDMaxu h d a b sc => some (wordR h 29#6 d a b (4#4 ++ sc))
  | .amoDAnd h d a b sc => some (wordR h 29#6 d a b (5#4 ++ sc))
  | .amoDOr h d a b sc => some (wordR h 29#6 d a b (6#4 ++ sc))
  | .amoDXor h d a b sc => some (wordR h 29#6 d a b (7#4 ++ sc))
  | .amoDSwap h d a b sc => some (wordR h 29#6 d a b (8#4 ++ sc))
  | .amoDCas h d a b sc => some (wordR h 29#6 d a b (9#4 ++ sc))
  | .redIaddW h a b sc => some (wordR h 30#6 0#5 a b (0#4 ++ sc))
  | .redIaddD h a b sc => some (wordR h 30#6 0#5 a b (1#4 ++ sc))
  | .redFaddF32 h a b sc => some (wordR h 30#6 0#5 a b (2#4 ++ sc))
  | .redFaddBf16x2 h a b sc => some (wordR h 30#6 0#5 a b (3#4 ++ sc))
  | .redFmaxF32 h a b sc => some (wordR h 30#6 0#5 a b (4#4 ++ sc))
  | .redImaxW h a b sc => some (wordR h 30#6 0#5 a b (5#4 ++ sc))
  | .redIminW h a b sc => some (wordR h 30#6 0#5 a b (6#4 ++ sc))
  | .cadd h d a b off => some (wordR h 31#6 d a b (off ++ 0#4))
  | .caddk h d a k off => some (wordR h 31#6 d a k (off ++ 1#4))
  | .cread h d a off => some (wordR h 31#6 d a 0#5 (off ++ 2#4))
  | .ctest h d a b off => some (wordR h 31#6 (0#2 ++ d) a b (off ++ 3#4))
  | .cwait h a b off => some (wordR h 31#6 0#5 a b (off ++ 4#4))
  | .cwaitS h a b off => some (wordR h 31#6 0#5 a b (off ++ 5#4))
  | .calloc h d a => some (wordR h 31#6 d a 0#5 6#6)
  | .cfree h a => some (wordR h 31#6 0#5 a 0#5 7#6)
  | .carm h a b => some (wordR h 31#6 0#5 a b 8#6)
  | .cwany h a off => some (wordR h 31#6 0#5 a 0#5 (off ++ 9#4))
  | .cwall h a off => some (wordR h 31#6 0#5 a 0#5 (off ++ 10#4))
  | .cfirst h d a => some (wordR h 31#6 d a 0#5 11#6)
  | .fenceAcq h sc => some (wordR h 32#6 0#5 0#5 0#5 (4#4 ++ sc))
  | .fenceRel h sc => some (wordR h 32#6 0#5 0#5 0#5 (8#4 ++ sc))
  | .fenceAr h sc => some (wordR h 32#6 0#5 0#5 0#5 (12#4 ++ sc))
  | .beq h a b off => some (wordI h 33#6 a b off)
  | .bne h a b off => some (wordI h 34#6 a b off)
  | .blt h a b off => some (wordI h 35#6 a b off)
  | .bge h a b off => some (wordI h 36#6 a b off)
  | .bltu h a b off => some (wordI h 37#6 a b off)
  | .bgeu h a b off => some (wordI h 38#6 a b off)
  | .bc h p n off => some (wordP h 39#6 p n off)
  | .aBq h n off => some (wordP h 40#6 0#3 n off)
  | .aJ h off => some (wordJ h 41#6 off)
  | .aJal h off => some (wordJ h 42#6 off)
  | .aJr h a => some (wordR h 43#6 0#5 a 0#5 0#6)
  | .aSendb h p n ex => some (wordP h 44#6 p n (ex ++ 0#16))
  | .aLoop h a len => some (wordLP h 45#6 a 0#4 len)
  | .aLoops h ex len => some (wordLP h 46#6 0#5 ex len)
  | .loopr h a f len => some (wordLP h 47#6 a (0#1 ++ f) len)
  | .ftile h d c q => some (wordR h 48#6 d 0#5 (0#2 ++ c) (0#4 ++ q))
  | .suspS h => some (wordR h 49#6 0#5 0#5 0#5 0#6)
  | .yieldS h => some (wordR h 49#6 0#5 0#5 0#5 1#6)
  | .exitS h => some (wordR h 49#6 0#5 0#5 0#5 2#6)
  | .commitS h => some (wordR h 49#6 0#5 0#5 0#5 3#6)
  | .spawn h a => some (wordR h 49#6 0#5 a 0#5 4#6)
  | .aFuse h b => some (wordR h 49#6 0#5 0#5 b 5#6)
  | .aSplit h => some (wordR h 49#6 0#5 0#5 0#5 6#6)
  | .aCsrr h d c => some (wordX h 50#6 d 0#5 0#2 c)
  | .aCsrw h d a c => some (wordX h 50#6 d a 1#2 c)
  | .aCsrs h d a c => some (wordX h 50#6 d a 2#2 c)
  | .aCsrc h d a c => some (wordX h 50#6 d a 3#2 c)
  | .aTrap h n => some (wordL h 51#6 0#5 n)
  | .aBkpt h n => some (wordL h 51#6 1#5 n)
  | .fcall h a b => some (wordR h 52#6 0#5 a b 0#6)
  | .fcallNb h d a b => some (wordR h 52#6 d a b 1#6)
  | .dsc h sc => some (wordCP h 53#6 0#4 sc 0#5 0#8)
  | .pref h sc => some (wordCP h 53#6 0#4 sc 0#5 1#8)
  | .aTdefLo h d a => some (wordR h 54#6 (0#1 ++ d) a 0#5 0#6)
  | .aTdefHi h d a => some (wordR h 54#6 (0#1 ++ d) a 0#5 1#6)
  | .aTadv h d a => some (wordR h 54#6 (0#1 ++ d) a 0#5 2#6)
  | .aTrows h d a => some (wordR h 54#6 (0#1 ++ d) a 0#5 3#6)
  | .xAdd h d a b => some (wordR h 1#6 d a b 0#6)
  | .xSub h d a b => some (wordR h 1#6 d a b 1#6)
  | .xAnd h d a b => some (wordR h 1#6 d a b 2#6)
  | .xOr h d a b => some (wordR h 1#6 d a b 3#6)
  | .xXor h d a b => some (wordR h 1#6 d a b 4#6)
  | .xShl h d a b => some (wordR h 1#6 d a b 5#6)
  | .xShr h d a b => some (wordR h 1#6 d a b 6#6)
  | .xSra h d a b => some (wordR h 1#6 d a b 7#6)
  | .xMul h d a b => some (wordR h 1#6 d a b 8#6)
  | .xMulh h d a b => some (wordR h 1#6 d a b 9#6)
  | .xMulhu h d a b => some (wordR h 1#6 d a b 10#6)
  | .xMin h d a b => some (wordR h 1#6 d a b 11#6)
  | .xMax h d a b => some (wordR h 1#6 d a b 12#6)
  | .xMinu h d a b => some (wordR h 1#6 d a b 13#6)
  | .xMaxu h d a b => some (wordR h 1#6 d a b 14#6)
  | .xSlt h d a b => some (wordR h 1#6 d a b 15#6)
  | .xSltu h d a b => some (wordR h 1#6 d a b 16#6)
  | .xAndn h d a b => some (wordR h 1#6 d a b 17#6)
  | .xOrn h d a b => some (wordR h 1#6 d a b 18#6)
  | .xRotl h d a b => some (wordR h 1#6 d a b 19#6)
  | .xDiv h d a b => some (wordR h 1#6 d a b 20#6)
  | .xDivu h d a b => some (wordR h 1#6 d a b 21#6)
  | .xRem h d a b => some (wordR h 1#6 d a b 22#6)
  | .xRemu h d a b => some (wordR h 1#6 d a b 23#6)
  | .xClz h d a => some (wordR h 1#6 d a 0#5 24#6)
  | .xPopc h d a => some (wordR h 1#6 d a 0#5 25#6)
  | .xSextW h d a => some (wordR h 1#6 d a 0#5 26#6)
  | .xZextW h d a => some (wordR h 1#6 d a 0#5 27#6)
  | .wAdd h d a b => some (wordR h 2#6 d a b 0#6)
  | .wSub h d a b => some (wordR h 2#6 d a b 1#6)
  | .wAnd h d a b => some (wordR h 2#6 d a b 2#6)
  | .wOr h d a b => some (wordR h 2#6 d a b 3#6)
  | .wXor h d a b => some (wordR h 2#6 d a b 4#6)
  | .wShl h d a b => some (wordR h 2#6 d a b 5#6)
  | .wShr h d a b => some (wordR h 2#6 d a b 6#6)
  | .wSra h d a b => some (wordR h 2#6 d a b 7#6)
  | .wMul h d a b => some (wordR h 2#6 d a b 8#6)
  | .wMulh h d a b => some (wordR h 2#6 d a b 9#6)
  | .wMulhu h d a b => some (wordR h 2#6 d a b 10#6)
  | .wMin h d a b => some (wordR h 2#6 d a b 11#6)
  | .wMax h d a b => some (wordR h 2#6 d a b 12#6)
  | .wMinu h d a b => some (wordR h 2#6 d a b 13#6)
  | .wMaxu h d a b => some (wordR h 2#6 d a b 14#6)
  | .wSlt h d a b => some (wordR h 2#6 d a b 15#6)
  | .wSltu h d a b => some (wordR h 2#6 d a b 16#6)
  | .wAndn h d a b => some (wordR h 2#6 d a b 17#6)
  | .wOrn h d a b => some (wordR h 2#6 d a b 18#6)
  | .wRotl h d a b => some (wordR h 2#6 d a b 19#6)
  | .wDiv h d a b => some (wordR h 2#6 d a b 20#6)
  | .wDivu h d a b => some (wordR h 2#6 d a b 21#6)
  | .wRem h d a b => some (wordR h 2#6 d a b 22#6)
  | .wRemu h d a b => some (wordR h 2#6 d a b 23#6)
  | .wClz h d a => some (wordR h 2#6 d a 0#5 24#6)
  | .wPopc h d a => some (wordR h 2#6 d a 0#5 25#6)
  | .wSextW h d a => some (wordR h 2#6 d a 0#5 26#6)
  | .wZextW h d a => some (wordR h 2#6 d a 0#5 27#6)
  | .xAddi h d a im => some (wordI h 3#6 d a im)
  | .xAndi h d a im => some (wordI h 4#6 d a im)
  | .xOri h d a im => some (wordI h 5#6 d a im)
  | .xXori h d a im => some (wordI h 6#6 d a im)
  | .xShli h d a sc => some (wordI h 7#6 d a (0#5 ++ sc))
  | .xShri h d a sc => some (wordI h 8#6 d a (0#5 ++ sc))
  | .xSrai h d a sc => some (wordI h 9#6 d a (0#5 ++ sc))
  | .xSlti h d a im => some (wordI h 10#6 d a im)
  | .xLi h d im => some (wordL h 11#6 d im)
  | .xLih h d im => some (wordL h 12#6 d im)
  | .fadd h d a b => some (wordR h 13#6 d a b 0#6)
  | .fsub h d a b => some (wordR h 13#6 d a b 1#6)
  | .fmul h d a b => some (wordR h 13#6 d a b 2#6)
  | .fdiv h d a b => some (wordR h 13#6 d a b 3#6)
  | .fmin h d a b => some (wordR h 13#6 d a b 4#6)
  | .fmax h d a b => some (wordR h 13#6 d a b 5#6)
  | .fsqrt h d a => some (wordR h 13#6 d a 0#5 6#6)
  | .frcp h d a => some (wordR h 13#6 d a 0#5 7#6)
  | .frsq h d a => some (wordR h 13#6 d a 0#5 8#6)
  | .fabs h d a => some (wordR h 13#6 d a 0#5 9#6)
  | .fneg h d a => some (wordR h 13#6 d a 0#5 10#6)
  | .fsgnj h d a b => some (wordR h 13#6 d a b 11#6)
  | .fclass h d a => some (wordR h 13#6 d a 0#5 12#6)
  | .ffma h d a b => some (wordR h 14#6 d a b 0#6)
  | .ffms h d a b => some (wordR h 14#6 d a b 1#6)
  | .fnfma h d a b => some (wordR h 14#6 d a b 2#6)
  | .fnfms h d a b => some (wordR h 14#6 d a b 3#6)
  | .fcmp h p k a b => some (wordC h 15#6 p k a b 0#5)
  | .fcvtF32S64 h d a r => some (wordR h 16#6 d a 0#5 (r ++ 0#4))
  | .fcvtF32U64 h d a r => some (wordR h 16#6 d a 0#5 (r ++ 1#4))
  | .fcvtS64F32 h d a r => some (wordR h 16#6 d a 0#5 (r ++ 2#4))
  | .fcvtU64F32 h d a r => some (wordR h 16#6 d a 0#5 (r ++ 3#4))
  | .fcvtBf16F32 h d a r => some (wordR h 16#6 d a 0#5 (r ++ 4#4))
  | .fcvtF32Bf16 h d a r => some (wordR h 16#6 d a 0#5 (r ++ 5#4))
  | .fcvtF16F32 h d a r => some (wordR h 16#6 d a 0#5 (r ++ 6#4))
  | .fcvtF32F16 h d a r => some (wordR h 16#6 d a 0#5 (r ++ 7#4))
  | .fcvtE4m3F32 h d a r => some (wordR h 16#6 d a 0#5 (r ++ 8#4))
  | .fcvtE5m2F32 h d a r => some (wordR h 16#6 d a 0#5 (r ++ 9#4))
  | .fcvtF32E4m3 h d a r => some (wordR h 16#6 d a 0#5 (r ++ 10#4))
  | .fcvtF32E5m2 h d a r => some (wordR h 16#6 d a 0#5 (r ++ 11#4))
  | .pset h p k a b => some (wordC h 17#6 p k a b 0#5)
  | .pand h d a b => some (wordR h 18#6 (0#2 ++ d) (0#2 ++ a) (0#2 ++ b) 0#6)
  | .por h d a b => some (wordR h 18#6 (0#2 ++ d) (0#2 ++ a) (0#2 ++ b) 1#6)
  | .pxor h d a b => some (wordR h 18#6 (0#2 ++ d) (0#2 ++ a) (0#2 ++ b) 2#6)
  | .pandn h d a b => some (wordR h 18#6 (0#2 ++ d) (0#2 ++ a) (0#2 ++ b) 3#6)
  | .pnot h d a => some (wordR h 18#6 (0#2 ++ d) (0#2 ++ a) 0#5 4#6)
  | .pmov h d a => some (wordR h 18#6 (0#2 ++ d) (0#2 ++ a) 0#5 5#6)
  | .ppack h d => some (wordR h 18#6 d 0#5 0#5 6#6)
  | .punpk h a => some (wordR h 18#6 0#5 a 0#5 7#6)
  | .peek h d => some (wordR h 19#6 d 0#5 0#5 0#6)
  | .pushe h a => some (wordR h 19#6 0#5 a 0#5 1#6)
  | .ppeek h d n => some (wordR h 19#6 d n 0#5 2#6)
  | .sel h d a b p => some (wordR h 20#6 d a b (0#3 ++ p))
  | .xaln h d a => some (wordR h 21#6 d a 0#5 0#6)
  | .ldf h d a z u off => some (wordM h 22#6 d a z u off)
  | .stf h d a z u off => some (wordM h 23#6 d a z u off)
  | .bp h p n off => some (wordP h 24#6 p n off)
  | .xBq h n off => some (wordP h 25#6 0#3 n off)
  | .bst h sc n off => some (wordS h 26#6 sc n off)
  | .xJ h off => some (wordJ h 27#6 off)
  | .xJal h off => some (wordJ h 28#6 off)
  | .xJr h a => some (wordR h 29#6 0#5 a 0#5 0#6)
  | .xSendb h p n ex => some (wordP h 30#6 p n (ex ++ 0#16))
  | .xLoop h a len => some (wordLP h 31#6 a 0#4 len)
  | .xLoops h ex len => some (wordLP h 32#6 0#5 ex len)
  | .loopv h a sc len => some (wordLP h 33#6 a sc len)
  | .enter h n => some (wordL h 34#6 0#5 (n ++ 0#4))
  | .leave h n => some (wordL h 34#6 1#5 (n ++ 0#4))
  | .xcmt h => some (wordR h 36#6 0#5 0#5 0#5 0#6)
  | .xFuse h b => some (wordR h 36#6 0#5 0#5 b 1#6)
  | .xSplit h => some (wordR h 36#6 0#5 0#5 0#5 2#6)
  | .gidx h d => some (wordR h 36#6 d 0#5 0#5 3#6)
  | .gsize h d => some (wordR h 36#6 d 0#5 0#5 4#6)
  | .xCsrr h d c => some (wordX h 37#6 d 0#5 0#2 c)
  | .xCsrw h d a c => some (wordX h 37#6 d a 1#2 c)
  | .xCsrs h d a c => some (wordX h 37#6 d a 2#2 c)
  | .xCsrc h d a c => some (wordX h 37#6 d a 3#2 c)
  | .xTrap h n => some (wordL h 38#6 0#5 n)
  | .xBkpt h n => some (wordL h 38#6 1#5 n)
  | .vshape h a => some (wordR h 39#6 0#5 a 0#5 0#6)
  | .vgetsh h d => some (wordR h 39#6 d 0#5 0#5 1#6)
  | .setvc h a => some (wordR h 39#6 0#5 a 0#5 2#6)
  | .vpop h d => some (wordR h 40#6 d 0#5 0#5 0#6)
  | .vpush h a => some (wordR h 40#6 0#5 a 0#5 1#6)
  | .vpushEos h a => some (wordR h 40#6 0#5 a 0#5 2#6)
  | .vfadd h d a b x => some (wordR h 41#6 d a b (x ++ 0#5))
  | .vfsub h d a b x => some (wordR h 41#6 d a b (x ++ 1#5))
  | .vfmul h d a b x => some (wordR h 41#6 d a b (x ++ 2#5))
  | .vfdiv h d a b x => some (wordR h 41#6 d a b (x ++ 3#5))
  | .vfmin h d a b x => some (wordR h 41#6 d a b (x ++ 4#5))
  | .vfmax h d a b x => some (wordR h 41#6 d a b (x ++ 5#5))
  | .vfabs h d a => some (wordR h 41#6 d a 0#5 6#6)
  | .vfneg h d a => some (wordR h 41#6 d a 0#5 7#6)
  | .vfsqrt h d a => some (wordR h 41#6 d a 0#5 8#6)
  | .vfrcp h d a => some (wordR h 41#6 d a 0#5 9#6)
  | .vfrsq h d a => some (wordR h 41#6 d a 0#5 10#6)
  | .vexp2 h d a => some (wordR h 41#6 d a 0#5 11#6)
  | .vlog2 h d a => some (wordR h 41#6 d a 0#5 12#6)
  | .vtanh h d a => some (wordR h 41#6 d a 0#5 13#6)
  | .vffma h d a b x => some (wordR h 42#6 d a b (x ++ 0#5))
  | .vffms h d a b x => some (wordR h 42#6 d a b (x ++ 1#5))
  | .vfnfma h d a b x => some (wordR h 42#6 d a b (x ++ 2#5))
  | .vfnfms h d a b x => some (wordR h 42#6 d a b (x ++ 3#5))
  | .vmov h d a => some (wordR h 43#6 d a 0#5 0#6)
  | .vbcast h d a => some (wordR h 43#6 d a 0#5 1#6)
  | .vext h d a b => some (wordR h 43#6 d a b 2#6)
  | .vins h d a b => some (wordR h 43#6 d a b 3#6)
  | .viadd h d a b x => some (wordR h 44#6 d a b (x ++ 0#5))
  | .visub h d a b x => some (wordR h 44#6 d a b (x ++ 1#5))
  | .vimul h d a b x => some (wordR h 44#6 d a b (x ++ 2#5))
  | .vimin h d a b x => some (wordR h 44#6 d a b (x ++ 3#5))
  | .vimax h d a b x => some (wordR h 44#6 d a b (x ++ 4#5))
  | .viand h d a b x => some (wordR h 44#6 d a b (x ++ 5#5))
  | .vior h d a b x => some (wordR h 44#6 d a b (x ++ 6#5))
  | .vixor h d a b x => some (wordR h 44#6 d a b (x ++ 7#5))
  | .vishl h d a b x => some (wordR h 44#6 d a b (x ++ 8#5))
  | .vishr h d a b x => some (wordR h 44#6 d a b (x ++ 9#5))
  | .visra h d a b x => some (wordR h 44#6 d a b (x ++ 10#5))
  | .viadds h d a b x => some (wordR h 44#6 d a b (x ++ 11#5))
  | .visubs h d a b x => some (wordR h 44#6 d a b (x ++ 12#5))
  | .vfcmp h d a b x k => some (wordR h 45#6 (0#2 ++ d) a b (x ++ 0#2 ++ k))
  | .vicmp h d a b x k => some (wordR h 45#6 (0#2 ++ d) a b (x ++ 1#2 ++ k))
  | .vcvt h d a b r kt => some (wordR h 46#6 d a b (r ++ kt))
  | .vbscale h d a => some (wordR h 47#6 d a 0#5 0#6)
  | .vquant h d a b => some (wordR h 47#6 d a b 1#6)
  | .vdeq h d a b => some (wordR h 47#6 d a b 2#6)
  | .vpackp h d a b => some (wordR h 47#6 d a b 3#6)
  | .vunpkp h d a b => some (wordR h 47#6 d a b 4#6)
  | .vrsum h d a => some (wordR h 48#6 d a 0#5 0#6)
  | .vrmax h d a => some (wordR h 48#6 d a 0#5 1#6)
  | .vrmin h d a => some (wordR h 48#6 d a 0#5 2#6)
  | .vrargmax h d a => some (wordR h 48#6 d a 0#5 3#6)
  | .vcsum h d a => some (wordR h 48#6 d a 0#5 16#6)
  | .vcmax h d a => some (wordR h 48#6 d a 0#5 17#6)
  | .vcmin h d a => some (wordR h 48#6 d a 0#5 18#6)
  | .vcargmax h d a => some (wordR h 48#6 d a 0#5 19#6)
  | .vperm h d a b => some (wordR h 49#6 d a b 0#6)
  | .vgath h d a b => some (wordR h 49#6 d a b 1#6)
  | .vrot h d a b => some (wordR h 49#6 d a b 2#6)
  | .vtrn h d a => some (wordR h 49#6 d a 0#5 3#6)
  | .mand h d a b => some (wordR h 50#6 (0#2 ++ d) (0#2 ++ a) (0#2 ++ b) 0#6)
  | .mor h d a b => some (wordR h 50#6 (0#2 ++ d) (0#2 ++ a) (0#2 ++ b) 1#6)
  | .mxor h d a b => some (wordR h 50#6 (0#2 ++ d) (0#2 ++ a) (0#2 ++ b) 2#6)
  | .mandn h d a b => some (wordR h 50#6 (0#2 ++ d) (0#2 ++ a) (0#2 ++ b) 3#6)
  | .mnot h d a => some (wordR h 50#6 (0#2 ++ d) (0#2 ++ a) 0#5 4#6)
  | .mmov h d a => some (wordR h 50#6 (0#2 ++ d) (0#2 ++ a) 0#5 5#6)
  | .mpopc h d a => some (wordR h 50#6 d (0#2 ++ a) 0#5 6#6)
  | .mfirst h d a => some (wordR h 50#6 d (0#2 ++ a) 0#5 7#6)
  | .mmul h c a b p q => some (wordMX h 51#6 c a b p q 0#5)
  | .mmulBs h c a b p q => some (wordMX h 51#6 c a b p q 1#5)
  | .mtrans h c a p => some (wordMX h 52#6 c a 0#4 p 0#3 0#5)
  | .mperm h c a b p => some (wordMX h 52#6 c a b p 0#3 1#5)
  | .mrsum h c a p => some (wordMX h 52#6 c a 0#4 p 0#3 2#5)
  | .mcsum h c a p => some (wordMX h 52#6 c a 0#4 p 0#3 3#5)
  | .mclr h c => some (wordMX h 53#6 c 0#4 0#4 0#3 0#3 0#5)
  | .mstF32 h c a => some (wordMX h 53#6 c a 0#4 0#3 0#3 1#5)
  | .mstBf16 h c a => some (wordMX h 53#6 c a 0#4 0#3 0#3 5#5)
  | .mstI32 h c a => some (wordMX h 53#6 c a 0#4 0#3 0#3 9#5)
  | .mstMe h c a => some (wordMX h 53#6 c a 0#4 0#3 0#3 13#5)
  | .mld h c a => some (wordMX h 53#6 c a 0#4 0#3 0#3 2#5)
  | .mxaln h c a => some (wordMX h 53#6 c a 0#4 0#3 0#3 3#5)
  | .sreg h d a b => some (wordR h 54#6 d a b 0#6)
  | .sqdraft h a b => some (wordR h 54#6 0#5 a b 1#6)
  | .srun h a b => some (wordR h 54#6 0#5 a b 2#6)
  | .scommit h a b => some (wordR h 54#6 0#5 a b 3#6)
  | .xTdefLo h d a => some (wordR h 55#6 (0#1 ++ d) a 0#5 0#6)
  | .xTdefHi h d a => some (wordR h 55#6 (0#1 ++ d) a 0#5 1#6)
  | .xTadv h d a => some (wordR h 55#6 (0#1 ++ d) a 0#5 2#6)
  | .xTrows h d a => some (wordR h 55#6 (0#1 ++ d) a 0#5 3#6)
  | .lmov d a => some (wordU 1#5 d a 0#4 0#15)
  | .lkc d im => some (wordU 2#5 d 0#4 0#4 (0#11 ++ im))
  | .ladd d a b => some (wordU 3#5 d a b 0#15)
  | .lsub d a b => some (wordU 4#5 d a b 0#15)
  | .lmul d a b => some (wordU 5#5 d a b 0#15)
  | .lmin d a b => some (wordU 6#5 d a b 0#15)
  | .lmax d a b => some (wordU 7#5 d a b 0#15)
  | .lscale d a b => some (wordU 8#5 (0#2 ++ d) (0#2 ++ a) b 0#15)
  | .lshift d a b => some (wordU 9#5 (0#2 ++ d) (0#2 ++ a) b 0#15)
  | .ltemp d a b => some (wordU 10#5 (0#2 ++ d) (0#2 ++ a) b 0#15)
  | .lcap d a b => some (wordU 11#5 (0#2 ++ d) (0#2 ++ a) b 0#15)
  | .lbias d a => some (wordU 12#5 (0#2 ++ d) (0#2 ++ a) 0#4 0#15)
  | .lrep d a b => some (wordU 13#5 (0#2 ++ d) (0#2 ++ a) b 0#15)
  | .lfreq d a b c => some (wordU 14#5 (0#2 ++ d) (0#2 ++ a) b (0#11 ++ c))
  | .lmask d a => some (wordU 15#5 (0#2 ++ d) (0#2 ++ a) 0#4 0#15)
  | .lban d a b => some (wordU 16#5 (0#2 ++ d) (0#2 ++ a) b 0#15)
  | .lminp d a b => some (wordU 17#5 (0#2 ++ d) (0#2 ++ a) b 0#15)
  | .ltopk a k => some (wordU 18#5 0#4 (0#2 ++ a) 0#4 (0#8 ++ k))
  | .lbr a b off => some (wordU 19#5 0#4 a b off)
  | .lbrNz a b off => some (wordU 19#5 1#4 a b off)
  | .lbrZ a b off => some (wordU 19#5 2#4 a b off)
  | .lsync a => some (wordU 20#5 0#4 (0#2 ++ a) 0#4 0#15)
  | .lendS a => some (wordU 21#5 0#4 (0#2 ++ a) 0#4 0#15)
  | .lendG a => some (wordU 22#5 0#4 (0#2 ++ a) 0#4 0#15)
  | .lendF a => some (wordU 23#5 0#4 a 0#4 0#15)
  | .dvCadd q len sc rs2 a d => some (wordD q len sc 0#3 rs2 a 0#3 d 11#7)
  | .dvCread q sc a d => some (wordD q 0#1 sc 0#3 0#5 a 1#3 d 11#7)
  | .dvCtest q sc rs2 a d => some (wordD q 0#1 sc 0#3 rs2 a 2#3 d 11#7)
  | .dvCwait q sc rs2 a d => some (wordD q 0#1 sc 0#3 rs2 a 3#3 d 11#7)
  | .dvFnew a d => some (wordD 0#1 0#1 0#2 0#3 0#5 a 0#3 d 43#7)
  | .dvFpost rs2 a d => some (wordD 0#1 0#1 0#2 0#3 rs2 a 1#3 d 43#7)
  | .dvFfail rs2 a d => some (wordD 0#1 0#1 0#2 0#3 rs2 a 2#3 d 43#7)
  | .dvLaunch a d => some (wordD 0#1 0#1 0#2 0#3 0#5 a 3#3 d 43#7)
  | .vectorCommandComplete _ => none
  | .matrixCommandExecute _ => none
  | .samplerRunStart _ => none
  | .samplerRunOverrun _ _ => none
  | .lsyncGlobalMax _ => none
  | .rootEndAction _ => none
  | .samplerTreeTimeout _ => none
  | .dvCwaitTimeout _ => none
  | .hartUModeAccess _ _ => none
  | .deviceCsrWrite _ _ _ => none
  | .lqEntryFill _ _ => none
  | .vlqEntryFill _ _ => none
  | .portEntryMove _ _ => none
  | .deadlockTimeout _ => none
  | .gangFuseTimeout _ => none
  | .cwaitSSpinExpiry _ => none
  | .waiterReadied _ _ => none
  | .overflowScan _ _ => none
  | .copyCompletion _ => none
  | .pagerTicketReached _ _ => none
  | .repairTicketReached _ _ => none
  | .transitRewalk _ _ => none
  | .shootdownEntry _ => none
  | .formatWindowDisableDone _ _ => none
  | .launchStart _ => none
  | .launchEnd _ => none
  | .graphReplayStart _ => none
  | .graphReplayEnd _ => none
  | .dispatch _ => none
  | .coreReclaim _ => none
  | .edgeNotice => none
  | .linkPhaseStop => none
  | .edge => none
  | .edgeScrub => none
  | .wayGroupLateHandover _ _ => none
  | .memoryPhaseBoundary _ => none
  | .futureTimerTick => none
  | .futureReleaseNoseq _ => none
  | .remoteToolReply _ _ _ _ => none
  | .genDescriptorRegister _ _ => none
  | .commitEntry _ => none
  | .revocationPoint _ => none
  | .parityError _ => none
  | .integrityNodeFailure _ _ => none
  | .sramScrub _ => none
  | .dramPatrolScrub _ => none
  | .submitCadastreImage _ => none
  | .createParcel _ => none
  | .deleteParcel _ => none
  | .setOwner _ _ => none
  | .addGrant _ => none
  | .removeGrant _ => none
  | .setQuotas _ _ => none
  | .writeRingCheckTable _ _ => none
  | .writeFormatWindow _ _ _ => none
  | .configureFaultArea _ _ => none
  | .firmwareStage _ => none
  | .firmwareActivate _ => none
  | .firmwareCommit => none
  | .configureDeviceRings _ _ _ => none
  | .writeToolRoute _ _ _ => none
  | .bindConnection _ _ => none
  | .unbindConnection _ => none
  | .exposeCxlRange _ => none
  | .withdrawCxlRange _ => none
  | .negotiateAlgorithms _ => none
  | .challenge _ => none
  | .getMeasurements _ _ => none
  | .getCertificate _ => none
  | .setCertificate _ _ => none
  | .slotPendingTimeout _ => none
  | .bar0RegisterWrite _ _ _ => none
  | .rtail _ _ _ => none
  | .cien _ _ _ => none
  | .cithr _ _ _ => none
  | .bar2Write _ _ _ _ => none
  | .bar2Read _ _ _ => none
  | .cxlCounterWindowWrite _ _ _ => none
  | .cxlCounterWindowRead _ _ => none
  | .ringLaunch _ _ _ => none
  | .ringCopy _ _ _ _ => none
  | .ringAdd _ _ _ => none
  | .ringWait _ _ _ => none
  | .ringNop _ _ _ => none
  | .ringEntryComplete _ _ => none
  | .functionLevelReset _ => none
  | .flrComplete _ => none
  | .pfReset => none
  | .surpriseLinkLoss => none
  | .cxlLinkLoss => none
  | .gracePeriodExpiry => none
  | .linkRetrain => none
  | .hostMemRead _ _ => none
  | .hostMemWrite _ _ => none
  | .snpData _ => none
  | .snpInv _ => none
  | .peerCopy _ _ _ _ => none
  | .peerCounterMessage _ _ => none
  | .peerWaitAnswer _ _ => none
  | .connectionFailure _ => none
  | .pldmDiscovery => none
  | .pldmSensorRead _ => none
  | .pldmResetEffecter => none
  | .pldmFirmwareUpdate _ => none
  | .managementPowerUp => none
  | .packageReset => none
  | .perstRelease => none
  | .illegalInstruction _ _ _ => none
  | .instructionFetchFault _ _ => none
  | .utgenIllegalWord _ _ => none
  | .customIllegalInstruction _ _ => none
  | .hartInterrupt _ _ => none
  | .busMasterEnable _ _ => none

/-- The map an instruction belongs to; an event belongs to none. -/
def Instr.map? (i : Instr) : Option IsaMap :=
  match i with
  | .aAdd _ _ _ _ => some .access
  | .aSub _ _ _ _ => some .access
  | .aAnd _ _ _ _ => some .access
  | .aOr _ _ _ _ => some .access
  | .aXor _ _ _ _ => some .access
  | .aShl _ _ _ _ => some .access
  | .aShr _ _ _ _ => some .access
  | .aSra _ _ _ _ => some .access
  | .aMul _ _ _ _ => some .access
  | .aMulh _ _ _ _ => some .access
  | .aMulhu _ _ _ _ => some .access
  | .aMin _ _ _ _ => some .access
  | .aMax _ _ _ _ => some .access
  | .aMinu _ _ _ _ => some .access
  | .aMaxu _ _ _ _ => some .access
  | .aSlt _ _ _ _ => some .access
  | .aSltu _ _ _ _ => some .access
  | .aAndn _ _ _ _ => some .access
  | .aOrn _ _ _ _ => some .access
  | .aRotl _ _ _ _ => some .access
  | .aAddi _ _ _ _ => some .access
  | .aAndi _ _ _ _ => some .access
  | .aOri _ _ _ _ => some .access
  | .aXori _ _ _ _ => some .access
  | .aShli _ _ _ _ => some .access
  | .aShri _ _ _ _ => some .access
  | .aSrai _ _ _ _ => some .access
  | .aSlti _ _ _ _ => some .access
  | .aLi _ _ _ => some .access
  | .aLih _ _ _ => some .access
  | .cset _ _ _ _ _ => some .access
  | .cand _ _ _ _ => some .access
  | .cor _ _ _ _ => some .access
  | .cxor _ _ _ _ => some .access
  | .cnot _ _ _ => some .access
  | .cmov _ _ _ => some .access
  | .gaddrRl _ _ _ => some .access
  | .gaddrOwn _ _ _ => some .access
  | .gaddrOff _ _ _ => some .access
  | .idx2 _ _ _ _ _ => some .access
  | .ldl _ _ _ _ _ _ => some .access
  | .stl _ _ _ _ _ _ => some .access
  | .ldq _ _ _ _ _ _ => some .access
  | .stq _ _ _ _ _ => some .access
  | .ldg _ _ _ _ _ _ => some .access
  | .stg _ _ _ _ _ _ => some .access
  | .ldgq _ _ _ _ _ _ => some .access
  | .stgq _ _ _ _ _ => some .access
  | .vld _ _ _ => some .access
  | .vst _ _ => some .access
  | .cpy _ _ _ _ _ => some .access
  | .cpyg _ _ _ _ _ => some .access
  | .cpys _ _ _ _ _ => some .access
  | .cpyf _ _ _ _ _ => some .access
  | .cpyn _ _ _ _ _ _ => some .access
  | .amoWAdd _ _ _ _ _ => some .access
  | .amoWMin _ _ _ _ _ => some .access
  | .amoWMax _ _ _ _ _ => some .access
  | .amoWMinu _ _ _ _ _ => some .access
  | .amoWMaxu _ _ _ _ _ => some .access
  | .amoWAnd _ _ _ _ _ => some .access
  | .amoWOr _ _ _ _ _ => some .access
  | .amoWXor _ _ _ _ _ => some .access
  | .amoWSwap _ _ _ _ _ => some .access
  | .amoWCas _ _ _ _ _ => some .access
  | .amoDAdd _ _ _ _ _ => some .access
  | .amoDMin _ _ _ _ _ => some .access
  | .amoDMax _ _ _ _ _ => some .access
  | .amoDMinu _ _ _ _ _ => some .access
  | .amoDMaxu _ _ _ _ _ => some .access
  | .amoDAnd _ _ _ _ _ => some .access
  | .amoDOr _ _ _ _ _ => some .access
  | .amoDXor _ _ _ _ _ => some .access
  | .amoDSwap _ _ _ _ _ => some .access
  | .amoDCas _ _ _ _ _ => some .access
  | .redIaddW _ _ _ _ => some .access
  | .redIaddD _ _ _ _ => some .access
  | .redFaddF32 _ _ _ _ => some .access
  | .redFaddBf16x2 _ _ _ _ => some .access
  | .redFmaxF32 _ _ _ _ => some .access
  | .redImaxW _ _ _ _ => some .access
  | .redIminW _ _ _ _ => some .access
  | .cadd _ _ _ _ _ => some .access
  | .caddk _ _ _ _ _ => some .access
  | .cread _ _ _ _ => some .access
  | .ctest _ _ _ _ _ => some .access
  | .cwait _ _ _ _ => some .access
  | .cwaitS _ _ _ _ => some .access
  | .calloc _ _ _ => some .access
  | .cfree _ _ => some .access
  | .carm _ _ _ => some .access
  | .cwany _ _ _ => some .access
  | .cwall _ _ _ => some .access
  | .cfirst _ _ _ => some .access
  | .fenceAcq _ _ => some .access
  | .fenceRel _ _ => some .access
  | .fenceAr _ _ => some .access
  | .beq _ _ _ _ => some .access
  | .bne _ _ _ _ => some .access
  | .blt _ _ _ _ => some .access
  | .bge _ _ _ _ => some .access
  | .bltu _ _ _ _ => some .access
  | .bgeu _ _ _ _ => some .access
  | .bc _ _ _ _ => some .access
  | .aBq _ _ _ => some .access
  | .aJ _ _ => some .access
  | .aJal _ _ => some .access
  | .aJr _ _ => some .access
  | .aSendb _ _ _ _ => some .access
  | .aLoop _ _ _ => some .access
  | .aLoops _ _ _ => some .access
  | .loopr _ _ _ _ => some .access
  | .ftile _ _ _ _ => some .access
  | .suspS _ => some .access
  | .yieldS _ => some .access
  | .exitS _ => some .access
  | .commitS _ => some .access
  | .spawn _ _ => some .access
  | .aFuse _ _ => some .access
  | .aSplit _ => some .access
  | .aCsrr _ _ _ => some .access
  | .aCsrw _ _ _ _ => some .access
  | .aCsrs _ _ _ _ => some .access
  | .aCsrc _ _ _ _ => some .access
  | .aTrap _ _ => some .access
  | .aBkpt _ _ => some .access
  | .fcall _ _ _ => some .access
  | .fcallNb _ _ _ _ => some .access
  | .dsc _ _ => some .access
  | .pref _ _ => some .access
  | .aTdefLo _ _ _ => some .access
  | .aTdefHi _ _ _ => some .access
  | .aTadv _ _ _ => some .access
  | .aTrows _ _ _ => some .access
  | .xAdd _ _ _ _ => some .execute
  | .xSub _ _ _ _ => some .execute
  | .xAnd _ _ _ _ => some .execute
  | .xOr _ _ _ _ => some .execute
  | .xXor _ _ _ _ => some .execute
  | .xShl _ _ _ _ => some .execute
  | .xShr _ _ _ _ => some .execute
  | .xSra _ _ _ _ => some .execute
  | .xMul _ _ _ _ => some .execute
  | .xMulh _ _ _ _ => some .execute
  | .xMulhu _ _ _ _ => some .execute
  | .xMin _ _ _ _ => some .execute
  | .xMax _ _ _ _ => some .execute
  | .xMinu _ _ _ _ => some .execute
  | .xMaxu _ _ _ _ => some .execute
  | .xSlt _ _ _ _ => some .execute
  | .xSltu _ _ _ _ => some .execute
  | .xAndn _ _ _ _ => some .execute
  | .xOrn _ _ _ _ => some .execute
  | .xRotl _ _ _ _ => some .execute
  | .xDiv _ _ _ _ => some .execute
  | .xDivu _ _ _ _ => some .execute
  | .xRem _ _ _ _ => some .execute
  | .xRemu _ _ _ _ => some .execute
  | .xClz _ _ _ => some .execute
  | .xPopc _ _ _ => some .execute
  | .xSextW _ _ _ => some .execute
  | .xZextW _ _ _ => some .execute
  | .wAdd _ _ _ _ => some .execute
  | .wSub _ _ _ _ => some .execute
  | .wAnd _ _ _ _ => some .execute
  | .wOr _ _ _ _ => some .execute
  | .wXor _ _ _ _ => some .execute
  | .wShl _ _ _ _ => some .execute
  | .wShr _ _ _ _ => some .execute
  | .wSra _ _ _ _ => some .execute
  | .wMul _ _ _ _ => some .execute
  | .wMulh _ _ _ _ => some .execute
  | .wMulhu _ _ _ _ => some .execute
  | .wMin _ _ _ _ => some .execute
  | .wMax _ _ _ _ => some .execute
  | .wMinu _ _ _ _ => some .execute
  | .wMaxu _ _ _ _ => some .execute
  | .wSlt _ _ _ _ => some .execute
  | .wSltu _ _ _ _ => some .execute
  | .wAndn _ _ _ _ => some .execute
  | .wOrn _ _ _ _ => some .execute
  | .wRotl _ _ _ _ => some .execute
  | .wDiv _ _ _ _ => some .execute
  | .wDivu _ _ _ _ => some .execute
  | .wRem _ _ _ _ => some .execute
  | .wRemu _ _ _ _ => some .execute
  | .wClz _ _ _ => some .execute
  | .wPopc _ _ _ => some .execute
  | .wSextW _ _ _ => some .execute
  | .wZextW _ _ _ => some .execute
  | .xAddi _ _ _ _ => some .execute
  | .xAndi _ _ _ _ => some .execute
  | .xOri _ _ _ _ => some .execute
  | .xXori _ _ _ _ => some .execute
  | .xShli _ _ _ _ => some .execute
  | .xShri _ _ _ _ => some .execute
  | .xSrai _ _ _ _ => some .execute
  | .xSlti _ _ _ _ => some .execute
  | .xLi _ _ _ => some .execute
  | .xLih _ _ _ => some .execute
  | .fadd _ _ _ _ => some .execute
  | .fsub _ _ _ _ => some .execute
  | .fmul _ _ _ _ => some .execute
  | .fdiv _ _ _ _ => some .execute
  | .fmin _ _ _ _ => some .execute
  | .fmax _ _ _ _ => some .execute
  | .fsqrt _ _ _ => some .execute
  | .frcp _ _ _ => some .execute
  | .frsq _ _ _ => some .execute
  | .fabs _ _ _ => some .execute
  | .fneg _ _ _ => some .execute
  | .fsgnj _ _ _ _ => some .execute
  | .fclass _ _ _ => some .execute
  | .ffma _ _ _ _ => some .execute
  | .ffms _ _ _ _ => some .execute
  | .fnfma _ _ _ _ => some .execute
  | .fnfms _ _ _ _ => some .execute
  | .fcmp _ _ _ _ _ => some .execute
  | .fcvtF32S64 _ _ _ _ => some .execute
  | .fcvtF32U64 _ _ _ _ => some .execute
  | .fcvtS64F32 _ _ _ _ => some .execute
  | .fcvtU64F32 _ _ _ _ => some .execute
  | .fcvtBf16F32 _ _ _ _ => some .execute
  | .fcvtF32Bf16 _ _ _ _ => some .execute
  | .fcvtF16F32 _ _ _ _ => some .execute
  | .fcvtF32F16 _ _ _ _ => some .execute
  | .fcvtE4m3F32 _ _ _ _ => some .execute
  | .fcvtE5m2F32 _ _ _ _ => some .execute
  | .fcvtF32E4m3 _ _ _ _ => some .execute
  | .fcvtF32E5m2 _ _ _ _ => some .execute
  | .pset _ _ _ _ _ => some .execute
  | .pand _ _ _ _ => some .execute
  | .por _ _ _ _ => some .execute
  | .pxor _ _ _ _ => some .execute
  | .pandn _ _ _ _ => some .execute
  | .pnot _ _ _ => some .execute
  | .pmov _ _ _ => some .execute
  | .ppack _ _ => some .execute
  | .punpk _ _ => some .execute
  | .peek _ _ => some .execute
  | .pushe _ _ => some .execute
  | .ppeek _ _ _ => some .execute
  | .sel _ _ _ _ _ => some .execute
  | .xaln _ _ _ => some .execute
  | .ldf _ _ _ _ _ _ => some .execute
  | .stf _ _ _ _ _ _ => some .execute
  | .bp _ _ _ _ => some .execute
  | .xBq _ _ _ => some .execute
  | .bst _ _ _ _ => some .execute
  | .xJ _ _ => some .execute
  | .xJal _ _ => some .execute
  | .xJr _ _ => some .execute
  | .xSendb _ _ _ _ => some .execute
  | .xLoop _ _ _ => some .execute
  | .xLoops _ _ _ => some .execute
  | .loopv _ _ _ _ => some .execute
  | .enter _ _ => some .execute
  | .leave _ _ => some .execute
  | .xcmt _ => some .execute
  | .xFuse _ _ => some .execute
  | .xSplit _ => some .execute
  | .gidx _ _ => some .execute
  | .gsize _ _ => some .execute
  | .xCsrr _ _ _ => some .execute
  | .xCsrw _ _ _ _ => some .execute
  | .xCsrs _ _ _ _ => some .execute
  | .xCsrc _ _ _ _ => some .execute
  | .xTrap _ _ => some .execute
  | .xBkpt _ _ => some .execute
  | .xTdefLo _ _ _ => some .execute
  | .xTdefHi _ _ _ => some .execute
  | .xTadv _ _ _ => some .execute
  | .xTrows _ _ _ => some .execute
  | .vshape _ _ => some .execute
  | .vgetsh _ _ => some .execute
  | .setvc _ _ => some .execute
  | .vpop _ _ => some .execute
  | .vpush _ _ => some .execute
  | .vpushEos _ _ => some .execute
  | .vfadd _ _ _ _ _ => some .execute
  | .vfsub _ _ _ _ _ => some .execute
  | .vfmul _ _ _ _ _ => some .execute
  | .vfdiv _ _ _ _ _ => some .execute
  | .vfmin _ _ _ _ _ => some .execute
  | .vfmax _ _ _ _ _ => some .execute
  | .vfabs _ _ _ => some .execute
  | .vfneg _ _ _ => some .execute
  | .vfsqrt _ _ _ => some .execute
  | .vfrcp _ _ _ => some .execute
  | .vfrsq _ _ _ => some .execute
  | .vexp2 _ _ _ => some .execute
  | .vlog2 _ _ _ => some .execute
  | .vtanh _ _ _ => some .execute
  | .vffma _ _ _ _ _ => some .execute
  | .vffms _ _ _ _ _ => some .execute
  | .vfnfma _ _ _ _ _ => some .execute
  | .vfnfms _ _ _ _ _ => some .execute
  | .vmov _ _ _ => some .execute
  | .vbcast _ _ _ => some .execute
  | .vext _ _ _ _ => some .execute
  | .vins _ _ _ _ => some .execute
  | .viadd _ _ _ _ _ => some .execute
  | .visub _ _ _ _ _ => some .execute
  | .vimul _ _ _ _ _ => some .execute
  | .vimin _ _ _ _ _ => some .execute
  | .vimax _ _ _ _ _ => some .execute
  | .viand _ _ _ _ _ => some .execute
  | .vior _ _ _ _ _ => some .execute
  | .vixor _ _ _ _ _ => some .execute
  | .vishl _ _ _ _ _ => some .execute
  | .vishr _ _ _ _ _ => some .execute
  | .visra _ _ _ _ _ => some .execute
  | .viadds _ _ _ _ _ => some .execute
  | .visubs _ _ _ _ _ => some .execute
  | .vfcmp _ _ _ _ _ _ => some .execute
  | .vicmp _ _ _ _ _ _ => some .execute
  | .vcvt _ _ _ _ _ _ => some .execute
  | .vbscale _ _ _ => some .execute
  | .vquant _ _ _ _ => some .execute
  | .vdeq _ _ _ _ => some .execute
  | .vpackp _ _ _ _ => some .execute
  | .vunpkp _ _ _ _ => some .execute
  | .vrsum _ _ _ => some .execute
  | .vrmax _ _ _ => some .execute
  | .vrmin _ _ _ => some .execute
  | .vrargmax _ _ _ => some .execute
  | .vcsum _ _ _ => some .execute
  | .vcmax _ _ _ => some .execute
  | .vcmin _ _ _ => some .execute
  | .vcargmax _ _ _ => some .execute
  | .vperm _ _ _ _ => some .execute
  | .vgath _ _ _ _ => some .execute
  | .vrot _ _ _ _ => some .execute
  | .vtrn _ _ _ => some .execute
  | .mand _ _ _ _ => some .execute
  | .mor _ _ _ _ => some .execute
  | .mxor _ _ _ _ => some .execute
  | .mandn _ _ _ _ => some .execute
  | .mnot _ _ _ => some .execute
  | .mmov _ _ _ => some .execute
  | .mpopc _ _ _ => some .execute
  | .mfirst _ _ _ => some .execute
  | .mmul _ _ _ _ _ _ => some .execute
  | .mmulBs _ _ _ _ _ _ => some .execute
  | .mtrans _ _ _ _ => some .execute
  | .mperm _ _ _ _ _ => some .execute
  | .mrsum _ _ _ _ => some .execute
  | .mcsum _ _ _ _ => some .execute
  | .mclr _ _ => some .execute
  | .mstF32 _ _ _ => some .execute
  | .mstBf16 _ _ _ => some .execute
  | .mstI32 _ _ _ => some .execute
  | .mstMe _ _ _ => some .execute
  | .mld _ _ _ => some .execute
  | .mxaln _ _ _ => some .execute
  | .sreg _ _ _ _ => some .execute
  | .sqdraft _ _ _ => some .execute
  | .srun _ _ _ => some .execute
  | .scommit _ _ _ => some .execute
  | .lmov _ _ => some .utgen
  | .lkc _ _ => some .utgen
  | .ladd _ _ _ => some .utgen
  | .lsub _ _ _ => some .utgen
  | .lmul _ _ _ => some .utgen
  | .lmin _ _ _ => some .utgen
  | .lmax _ _ _ => some .utgen
  | .lscale _ _ _ => some .utgen
  | .lshift _ _ _ => some .utgen
  | .ltemp _ _ _ => some .utgen
  | .lcap _ _ _ => some .utgen
  | .lbias _ _ => some .utgen
  | .lrep _ _ _ => some .utgen
  | .lfreq _ _ _ _ => some .utgen
  | .lmask _ _ => some .utgen
  | .lban _ _ _ => some .utgen
  | .lminp _ _ _ => some .utgen
  | .ltopk _ _ => some .utgen
  | .lbr _ _ _ => some .utgen
  | .lbrNz _ _ _ => some .utgen
  | .lbrZ _ _ _ => some .utgen
  | .lsync _ => some .utgen
  | .lendS _ => some .utgen
  | .lendG _ => some .utgen
  | .lendF _ => some .utgen
  | .dvCadd _ _ _ _ _ _ => some .custom
  | .dvCread _ _ _ _ => some .custom
  | .dvCtest _ _ _ _ _ => some .custom
  | .dvCwait _ _ _ _ _ => some .custom
  | .dvFnew _ _ => some .custom
  | .dvFpost _ _ _ => some .custom
  | .dvFfail _ _ _ => some .custom
  | .dvLaunch _ _ => some .custom
  | .vectorCommandComplete _ => none
  | .matrixCommandExecute _ => none
  | .samplerRunStart _ => none
  | .samplerRunOverrun _ _ => none
  | .lsyncGlobalMax _ => none
  | .rootEndAction _ => none
  | .samplerTreeTimeout _ => none
  | .dvCwaitTimeout _ => none
  | .hartUModeAccess _ _ => none
  | .deviceCsrWrite _ _ _ => none
  | .lqEntryFill _ _ => none
  | .vlqEntryFill _ _ => none
  | .portEntryMove _ _ => none
  | .deadlockTimeout _ => none
  | .gangFuseTimeout _ => none
  | .cwaitSSpinExpiry _ => none
  | .waiterReadied _ _ => none
  | .overflowScan _ _ => none
  | .copyCompletion _ => none
  | .pagerTicketReached _ _ => none
  | .repairTicketReached _ _ => none
  | .transitRewalk _ _ => none
  | .shootdownEntry _ => none
  | .formatWindowDisableDone _ _ => none
  | .launchStart _ => none
  | .launchEnd _ => none
  | .graphReplayStart _ => none
  | .graphReplayEnd _ => none
  | .dispatch _ => none
  | .coreReclaim _ => none
  | .edgeNotice => none
  | .linkPhaseStop => none
  | .edge => none
  | .edgeScrub => none
  | .wayGroupLateHandover _ _ => none
  | .memoryPhaseBoundary _ => none
  | .futureTimerTick => none
  | .futureReleaseNoseq _ => none
  | .remoteToolReply _ _ _ _ => none
  | .genDescriptorRegister _ _ => none
  | .commitEntry _ => none
  | .revocationPoint _ => none
  | .parityError _ => none
  | .integrityNodeFailure _ _ => none
  | .sramScrub _ => none
  | .dramPatrolScrub _ => none
  | .submitCadastreImage _ => none
  | .createParcel _ => none
  | .deleteParcel _ => none
  | .setOwner _ _ => none
  | .addGrant _ => none
  | .removeGrant _ => none
  | .setQuotas _ _ => none
  | .writeRingCheckTable _ _ => none
  | .writeFormatWindow _ _ _ => none
  | .configureFaultArea _ _ => none
  | .firmwareStage _ => none
  | .firmwareActivate _ => none
  | .firmwareCommit => none
  | .configureDeviceRings _ _ _ => none
  | .writeToolRoute _ _ _ => none
  | .bindConnection _ _ => none
  | .unbindConnection _ => none
  | .exposeCxlRange _ => none
  | .withdrawCxlRange _ => none
  | .negotiateAlgorithms _ => none
  | .challenge _ => none
  | .getMeasurements _ _ => none
  | .getCertificate _ => none
  | .setCertificate _ _ => none
  | .slotPendingTimeout _ => none
  | .bar0RegisterWrite _ _ _ => none
  | .rtail _ _ _ => none
  | .cien _ _ _ => none
  | .cithr _ _ _ => none
  | .bar2Write _ _ _ _ => none
  | .bar2Read _ _ _ => none
  | .cxlCounterWindowWrite _ _ _ => none
  | .cxlCounterWindowRead _ _ => none
  | .ringLaunch _ _ _ => none
  | .ringCopy _ _ _ _ => none
  | .ringAdd _ _ _ => none
  | .ringWait _ _ _ => none
  | .ringNop _ _ _ => none
  | .ringEntryComplete _ _ => none
  | .functionLevelReset _ => none
  | .flrComplete _ => none
  | .pfReset => none
  | .surpriseLinkLoss => none
  | .cxlLinkLoss => none
  | .gracePeriodExpiry => none
  | .linkRetrain => none
  | .hostMemRead _ _ => none
  | .hostMemWrite _ _ => none
  | .snpData _ => none
  | .snpInv _ => none
  | .peerCopy _ _ _ _ => none
  | .peerCounterMessage _ _ => none
  | .peerWaitAnswer _ _ => none
  | .connectionFailure _ => none
  | .pldmDiscovery => none
  | .pldmSensorRead _ => none
  | .pldmResetEffecter => none
  | .pldmFirmwareUpdate _ => none
  | .managementPowerUp => none
  | .packageReset => none
  | .perstRelease => none
  | .illegalInstruction _ _ _ => none
  | .instructionFetchFault _ _ => none
  | .utgenIllegalWord _ _ => none
  | .customIllegalInstruction _ _ => none
  | .hartInterrupt _ _ => none
  | .busMasterEnable _ _ => none

/-- The map in which the host's opcode-table words are read: the access stream's where the word means
something there, else the execute stream's, else the hart's custom space, else Utgen. -/
noncomputable def tableMap (w : BitVec 32) : IsaMap :=
  if (decode? .access w).isSome then .access
  else if (decode? .execute w).isSome then .execute
  else if (decode? .custom w).isSome then .custom
  else .utgen

/-- The bytes of a word as the hardware stores it, first word at the lowest address (R3). -/
def bytesOfWord (w : BitVec 32) : List Byte :=
  [w.extractLsb' 0 8, w.extractLsb' 8 8, w.extractLsb' 16 8, w.extractLsb' 24 8]

/-- The instruction the decoder reads from a word numbered as the opcode table numbers it; every
instruction of this hardware is one 32-bit word. -/
noncomputable def decodeTableWord (nbits w : Nat) : Option Instr :=
  let v := BitVec.ofNat 32 (w % 2 ^ nbits)
  match decodeBytes (tableMap v) (bytesOfWord v) with
  | .ok (i, _) => some i
  | .error _ => none

end Sys2Proof
end

