-- ==== Sys2Proof/Machine/Generation.lean ====
section
/-!
DEFINITION. The commit hardware of the generation loop (R370 to R385): registration of a generation descriptor,
commit entries, tool calls, release records, the revocation point, and the zeroing of revoked sequences.
-/
namespace Sys2Proof.Machine
open Sys2Proof

/-! ## Registration (R370) -/

/-- Whether a number is a power of two within bounds. -/
def pow2In (n lo hi : Nat) : Bool := (List.range 33).any (fun i => n == 2 ^ i) && lo ≤ n && n ≤ hi

/-- Whether a handle names a counter of a scope that a parcel owns. -/
def ownsCounter (s : State) (p scope : Nat) (h : Word) : Bool :=
  hScope h == scope && hLow h == 0 && !isLocalShort h && homeExists h && (ctrOf s h).alloc &&
    (ctrOf s h).gen == hGen h && (ctrOf s h).owner == p

/-- The commit entry number that waits to be processed, if `CDOOR` covers it (R378, R379). -/
def commitWaits (s : State) (g : Gen) : Bool :=
  reached (ctrOf s g.cdoor).value (BitVec.ofNat 64 (g.next + 1))

/-- An entry of a release table from its 32 bytes. -/
def parseRel (bs : List Byte) : RelEnt :=
  { base := BitVec.ofNat 64 (fieldAt bs 0 8), n := fieldAt bs 8 4, handle := BitVec.ofNat 64 (fieldAt bs 0x10 8) }

/-- Whether an entry of a release table obeys R370; the handle of a function that is not served names nothing. -/
def relOk (s : State) (p : Nat) (bs : List Byte) : Bool :=
  let r := parseRel bs
  alignedTo r.base 16 && (r.n == 0 || pow2In r.n 256 (2 ^ 20)) && fieldAt bs 0x0C 4 == 0 && fieldAt bs 0x18 8 == 0 &&
    (r.n == 0 || ownsCounter s p 3 r.handle)

/-- The entries of a release table, 32 bytes each. -/
def relEnts (bs : List Byte) : List (List Byte) := (List.range 129).map fun f => (bs.drop (32 * f)).take 32

/-- A descriptor's bytes, with its release table's, as the commit hardware keeps them; nothing when they break R370. -/
def parseGen (s : State) (p : Nat) (bs rel : List Byte) : Option Gen :=
  let w (o : Nat) : Word := BitVec.ofNat 64 (fieldAt bs o 8)
  let nseq := fieldAt bs 0x08 4
  let crsize := fieldAt bs 0x0C 4
  if alignedTo (w 0) 64 && 1 ≤ nseq && nseq ≤ 4096 && pow2In crsize 64 65536 && alignedTo (w 0x10) 64 &&
      ownsCounter s p 2 (w 0x18) && ownsCounter s p 2 (w 0x20) && allZero (bs.drop 0x30) &&
      (relEnts rel).all (relOk s p) then
    some { seqtab := w 0, nseq := nseq, crsize := crsize, cring := w 0x10, cdoor := w 0x18, cdone := w 0x20,
           reltab := w 0x28, rel := (relEnts rel).map parseRel, next := 0, written := [], discards := [] }
  else none

/-- A registration: refused, or replacing the descriptor in force while no entry waits (R370). The release
records written so far go on counting. -/
def execGenDescriptorRegister (parcel : Nat) (addr : Word) (s : State) : Host.Outcome State Fault Refusal :=
  match readArea (unitRead parcel) s addr 1 with
  | .error (.fault s .xlate va) => .next (blockedBy s parcel va false (.miss parcel va false))
  | .ok (s, bs) =>
    let tab : Word := BitVec.ofNat 64 (fieldAt bs 0x28 8)
    let s := needRange s parcel tab (32 * 129)
    match parseGen s parcel bs (devArea s parcel tab (32 * 129)) with
    | none => .next s
    | some g =>
      let put (g : Gen) : State := { s with commit := { s.commit with gens := mset s.commit.gens parcel g } }
      match mget s.commit.gens parcel with
      | none => .next (put g)
      | some old => if commitWaits s old then .next s else .next (put { g with written := old.written })
  | _ => .next s

/-! ## Sequence fields (R371) -/

/-- A sequence being worked on: parcel, entry address, function, and records written for it. -/
structure SeqRef where
  p : Nat
  e : Word
  fn : Nat
  n : Nat

/-- A field of a sequence entry. -/
def sqGet (s : State) (q : SeqRef) (off : Word) (n : Nat) : Nat := devNat s q.p (q.e + off) n
/-- A field of a sequence entry written. -/
def sqPut (s : State) (q : SeqRef) (off : Word) (n v : Nat) : State := devWrite s q.p (q.e + off) (leBytes n v)

/-- The registered descriptor of a sequence's parcel changed. -/
def modGen (s : State) (p : Nat) (f : Gen → Gen) : State :=
  match mget s.commit.gens p with
  | some g => { s with commit := { s.commit with gens := mset s.commit.gens p (f g) } }
  | none => s

/-- The entry of a function in its parcel's release table; one with no records where it is not served, or where its ring
is closed by the revocation point of a reset (R370, R381, R384). -/
def relRing (s : State) (p fn : Nat) : RelEnt :=
  let nothing : RelEnt := { base := 0, n := 0, handle := 0 }
  if s.commit.closed.contains fn then nothing
  else ((mget s.commit.gens p).bind fun g => g.rel[fn]?).getD nothing

/-- A release record written (R381). -/
def relRecord (s : State) (q : SeqRef) (tok pos kind code : Nat) : State × SeqRef :=
  let r := relRing s q.p q.fn
  if r.n = 0 then (s, q)
  else
    let k := ((mget s.commit.gens q.p).map fun g => mgetD g.written q.fn 0).getD 0
    let bs := leBytes 4 (sqGet s q 0 4) ++ leBytes 4 tok ++ leBytes 4 pos ++ leBytes 1 kind ++ leBytes 1 code ++
      leBytes 2 0
    let s := devWrite s q.p (r.base + BitVec.ofNat 64 (16 * (k % r.n))) bs
    (modGen s q.p fun g => { g with written := mset g.written q.fn (k + 1) }, { q with n := q.n + 1 })

/-- `end(S, c)` (R379). -/
def endSeq (s : State) (q : SeqRef) (code : Nat) : State × SeqRef :=
  let s := if 128 ≤ sqGet s q 0x0E 1 then
      seqPutSlots s q.p q.e (seqSlots s q.p q.e &&& ~~~(slotBit (sqGet s q 0x0F 1)))
    else s
  let s := sqPut (sqPut (sqPut s q 0x0E 1 0) q 0x06 1 3) q 0x07 1 code
  relRecord s q 0xFFFFFFFF (sqGet s q 0x08 4) 1 code

/-! ## Tool calls (R372, R380, R419) -/

/-- An entry of a tool table. -/
structure Tool where
  open_ : Nat
  close : Nat
  tool : Nat
  remote : Bool
  async : Bool
  tmo : Nat

/-- Entry i of a sequence's tool table. -/
def toolAt (s : State) (q : SeqRef) (i : Nat) : Tool :=
  let a : Word := BitVec.ofNat 64 (sqGet s q 0x18 8 + 16 * i)
  let kind := devNat s q.p (a + 0x0A) 1
  { open_ := devNat s q.p a 4, close := devNat s q.p (a + 4) 4, tool := devNat s q.p (a + 8) 2,
    remote := kind % 2 == 1, async := kind / 2 % 2 == 1, tmo := devNat s q.p (a + 0x0C) 4 }

/-- The entries of a tool table are read, from entry `i` to its end. -/
def needTools (q : SeqRef) (s : State) : Nat → Nat → State
  | 0, _ => s
  | n + 1, i =>
    let s := needRead s q.p (BitVec.ofNat 64 (sqGet s q 0x18 8 + 16 * i)) 16
    if (toolAt s q i).open_ = 0xFFFFFFFF then s else needTools q s n (i + 1)

/-- The tool table up to its end. -/
def toolTable (s : State) (q : SeqRef) : List Tool :=
  ((List.range 16).map (toolAt s q)).takeWhile fun t => t.open_ != 0xFFFFFFFF

/-- The route of a remote tool: connection and remote tool number, when the connection is bound to the parcel
(R419). -/
def routeOf (s : State) (p tool : Nat) : Option ToolRoute :=
  match mget (parcelOf s p).routes (tool % 256) with
  | none => none
  | some r => if ((mget s.host.conns r.conn).map fun C => C.parcel == p).getD false then some r else none

/-- The request of a remote call sent, or, with no valid route, the future ended as ERROR (R419). -/
def sendCall (s : State) (q : SeqRef) (t : Tool) (id : Nat) (f : Future) : State :=
  match routeOf s q.p t.tool with
  | none => completeFuture (deliverFrom s id f 0x38) id f .error
  | some r =>
    let s := needRange s q.p f.argAddr f.argLen
    let args := (List.range (f.argLen / 4)).map fun i =>
      BitVec.ofNat 32 (devNat s q.p (f.argAddr + BitVec.ofNat 64 (4 * i)) 4)
    sendUp s (.toolRequest r.conn id f.nonce f.tag r.tool args)

/-- `open_call` (R380): false when the sequence ended with NOFUTURE. -/
def openCall (s : State) (q : SeqRef) (t : Tool) : State × SeqRef × Bool :=
  let k := sqGet s q 0x0F 1
  let conn := ((routeOf s q.p t.tool).map fun r => r.conn).getD 0
  let req : FutReq :=
    { parcel := q.p, tag := BitVec.ofNat 32 (sqGet s q 0 4), tool := BitVec.ofNat 16 t.tool,
      origin := if t.remote then 2 else 1, replyAddr := BitVec.ofNat 64 (sqGet s q 0x28 8 + 65600 * k),
      replyLen := 65600, tmo := BitVec.ofNat 32 t.tmo, argAddr := BitVec.ofNat 64 (sqGet s q 0x20 8 + 4096 * k),
      argLen := 4 * sqGet s q 0x10 2, conn := conn, st := if t.remote then .running else .armed }
  match createFuture s req with
  | none =>
    let (s, q) := endSeq s q 2
    (s, q, false)
  | some (s, id, f) =>
    let s := sqPut s q 0x0E 1 0
    let (s, q) := relRecord s q id (sqGet s q 0x08 4) 2 0
    let s := if t.async then s else sqPut (sqPut s q 0x06 1 2) q 0x14 4 id
    (if t.remote then sendCall s q t id f else s, q, true)

/-! ## Commit entries (R378, R379) -/

/-- A committed token: released, counted, captured or opening a capture; true when the rest are dropped. -/
def commitToken (s : State) (q : SeqRef) (t : Nat) : State × SeqRef × Bool :=
  let len := sqGet s q 0x08 4
  let (s, q) := relRecord s q t len 0 0
  let s := sqPut s q 0x08 4 (len + 1)
  let capt := sqGet s q 0x0E 1
  let s := needTools q s 16 0
  if 128 ≤ capt then
    let e := toolAt s q (capt % 16)
    if t = e.close then
      let (s, q, ok) := openCall s q e
      (s, q, !ok || !e.async)
    else
      let n := sqGet s q 0x10 2
      if n = 1024 then
        let (s, q) := endSeq s q 3
        (s, q, true)
      else
        let a : Word := BitVec.ofNat 64 (sqGet s q 0x20 8 + 4096 * sqGet s q 0x0F 1 + 4 * n)
        (sqPut (devPut32 s q.p a (BitVec.ofNat 32 t)) q 0x10 2 (n + 1), q, false)
  else
    match (toolTable s q).findIdx? fun e => e.open_ == t with
    | none => (s, q, false)
    | some e =>
      let slots := seqSlots s q.p q.e
      match (List.range 16).find? fun k => !slots.getLsbD k with
      | none =>
        let (s, q) := endSeq s q 2
        (s, q, true)
      | some k =>
        let s := seqPutSlots s q.p q.e (slots ||| slotBit k)
        (sqPut (sqPut (sqPut s q 0x0F 1 k) q 0x0E 1 (128 + e)) q 0x10 2 0, q, false)

/-- Committed tokens in order, until one of them ends the entry's work. -/
def commitTokens (s : State) (q : SeqRef) : List Nat → State × SeqRef
  | [] => (s, q)
  | t :: ts =>
    match commitToken s q t with
    | (s, q, true) => (s, q)
    | (s, q, false) => commitTokens s q ts

/-- Replies consumed by a plat: ring head, slot, release of the future, and a CALLING sequence woken. -/
def takeReplies (s : State) (q : SeqRef) : Nat → State
  | 0 => s
  | n + 1 =>
    let head := sqGet s q 0x12 1 % 16
    let id := sqGet s q (0x80 + BitVec.ofNat 64 (4 * head)) 4
    let s := sqPut s q 0x12 1 ((head + 1) % 16)
    let s := sqPut s q 0x13 1 (sqGet s q 0x13 1 - 1)
    let k := replySlot (seqReplyBase s q.p q.e) (futOf s id).replyAddr
    let s := seqPutSlots s q.p q.e (seqSlots s q.p q.e &&& ~~~(slotBit k))
    let s := releaseFuture s id
    let s := if id = sqGet s q 0x14 4 then sqPut (sqPut s q 0x14 4 0xFFFFFFFF) q 0x06 1 1 else s
    takeReplies s q n

/-- A commit entry (R378). -/
structure CommitEnt where
  iter : Nat
  seq : Nat
  tag : Nat
  npre : Nat
  ntok : Nat
  fl : Nat
  toks : List Nat
  zero : Bool

/-- `PFTAKE` of an entry. -/
def CommitEnt.pftake (x : CommitEnt) : Nat := x.fl / 2 % 32

/-- Commit entry `k` of a ring. -/
def readCommit (s : State) (p : Nat) (g : Gen) (k : Nat) : CommitEnt :=
  let a := g.cring + BitVec.ofNat 64 (64 * (k % g.crsize))
  let bs := (devRead s p a 64).getD []
  let toks := (List.range 9).map fun i => fieldAt bs (0x14 + 4 * i) 4
  let ntok := fieldAt bs 0x12 1
  { iter := fieldAt bs 0 8, seq := fieldAt bs 8 4, tag := fieldAt bs 0x0C 4, npre := fieldAt bs 0x10 2,
    ntok := ntok, fl := fieldAt bs 0x13 1, toks := toks.take ntok,
    zero := fieldAt bs 0x13 1 < 64 && fieldAt bs 0x38 8 == 0 && (toks.drop ntok).all fun t => t == 0 }

/-- Whether the replies an entry consumes include the one a CALLING sequence waits for. -/
def wakesSeq (s : State) (q : SeqRef) (n : Nat) : Bool :=
  (List.range n).any fun i =>
    sqGet s q (0x80 + BitVec.ofNat 64 (4 * ((sqGet s q 0x12 1 + i) % 16))) 4 == sqGet s q 0x14 4

/-- The discard tests of R379. -/
def discards (s : State) (g : Gen) (q : SeqRef) (x : CommitEnt) : Bool :=
  let st := sqGet s q 0x06 1
  decide (g.nseq ≤ x.seq) || sqGet s q 0 4 != x.tag || st == 0 || st == 3 || st == 4 ||
    decide ((x.iter + 1) % 2 ^ 64 ≤ sqGet s q 0x48 8) || decide (sqGet s q 0x13 1 < x.pftake) || decide (9 < x.ntok) ||
    !x.zero || (st == 2 && !wakesSeq s q x.pftake)

/-- The effect of an entry that is not discarded (R379). -/
def applyCommit (s : State) (q : SeqRef) (x : CommitEnt) : State :=
  let s := sqPut s q 0x48 8 ((x.iter + 1) % 2 ^ 64)
  let s := takeReplies s q x.pftake
  let s := sqPut s q 0x08 4 (sqGet s q 0x08 4 + x.npre)
  let (s, q) := commitTokens s q x.toks
  let (s, q) := if x.fl % 2 = 1 ∧ sqGet s q 0x06 1 = 1 then endSeq s q 1 else (s, q)
  if q.n = 0 then s else (devAdd s q.p (relRing s q.p q.fn).handle (BitVec.ofNat 64 q.n)).1

/-- The KV pages of a sequence zeroed, then its entry FREE (R385). -/
def zeroSeq (s : State) (p : Nat) (e : Word) : State :=
  let s := needRange s p e 192
  let kv : Word := BitVec.ofNat 64 (devNat s p (e + 0x40) 8)
  let s := needRead s p kv 4
  let n := devNat s p kv 4
  let s := needRange s p (kv + 8) (8 * n)
  let page (s : State) (i : Nat) : State :=
    let a : Word := BitVec.ofNat 64 (devNat s p (kv + BitVec.ofNat 64 (8 + 8 * i)) 8)
    devWrite s p a (List.replicate 4096 0)
  seqPut8 ((List.range n).foldl page s) p e 0x06 0

/-- The revoked sequences of a parcel that wait for an end record (R385). -/
def endRecord (s : State) (p : Nat) : State :=
  let mine := s.commit.toZero.filter fun x => x.1 == p
  let s := mine.foldl (fun s x => zeroSeq s p x.2) s
  { s with commit := { s.commit with toZero := s.commit.toZero.filter fun x => x.1 != p } }

/-- ONE COMMIT ENTRY of a parcel, one indivisible operation (R379). -/
def execCommitEntry (parcel : Nat) (s : State) : Host.Outcome State Fault Refusal :=
  match mget s.commit.gens parcel with
  | none => .next s
  | some g =>
    if s.host.quiesced || !commitWaits s g then .next s
    else
      let s := needRead s parcel (g.cring + BitVec.ofNat 64 (64 * (g.next % g.crsize))) 64
      let x := readCommit s parcel g g.next
      let e := g.seqtab + BitVec.ofNat 64 (192 * x.seq)
      let s := if x.seq < g.nseq then needRange s parcel e 192 else s
      let q : SeqRef := { p := parcel, e := e, fn := devNat s parcel (e + 4) 2, n := 0 }
      let s1 :=
        if x.seq = 0xFFFFFFFF then endRecord s parcel
        else if discards s g q x then modGen s parcel fun g => { g with discards := g.discards ++ [g.next] }
        else applyCommit s q x
      .next (modGen (devAdd s1 parcel g.cdone 1).1 parcel fun g => { g with next := g.next + 1 })

/-! ## Revocation (R384) -/

/-- A sequence of the function revoked. -/
def revokeSeq (fn p : Nat) (g : Gen) (s : State) (i : Nat) : State :=
  let e := g.seqtab + BitVec.ofNat 64 (192 * i)
  if devNat s p (e + 4) 2 ≠ fn ∨ devNat s p (e + 6) 1 = 0 then s
  else
    let tag : BitVec 32 := BitVec.ofNat 32 (devNat s p e 4)
    let s := cancelTag s tag
    let s := seqPut8 (seqPut8 s p e 0x06 4) p e 0x07 4
    let c := s.commit
    { s with commit := { c with
        revoked := if c.revoked.contains tag then c.revoked else c.revoked ++ [tag],
        toZero := if c.toZero.contains (p, e) then c.toZero else c.toZero ++ [(p, e)] } }

/-- The revocation of a function's sequences in one parcel's table. -/
def revokeTable (fn : Nat) (s : State) (kg : Nat × Gen) : State :=
  (List.range kg.2.nseq).foldl (revokeSeq fn kg.1 kg.2) (needTable s kg.1)

/-- THE REVOCATION of a function's sequences in every parcel's table, one operation; where a table's page is in transit or
missing it waits, and nothing of it is done (R303, R384, log 56). Then the function's ring receives no further record. -/
def revokeFn (s : State) (fn : Nat) : State :=
  let t := s.commit.gens.foldl (revokeTable fn) s
  let u := settled s t
  let c := u.commit
  if t.blocked.isSome then { u with commit := { c with awaited := insertNat fn c.awaited } }
  else
    { u with commit := { c with closed := if c.closed.contains fn then c.closed else c.closed ++ [fn],
                                awaited := c.awaited.filter fun f => f != fn } }

/-- The revocation point of a function in reset (R384). -/
def execRevocationPoint (fn : Nat) (s : State) : Host.Outcome State Fault Refusal :=
  if (fnOf s fn).inreset then .next (revokeFn s fn) else .next s

end Sys2Proof.Machine
end

