-- ==== Sys2Proof/Machine/Integrity.lean ====
section
/-!
DEFINITION. Errors found in the package's own storage: parity (R390), reads and scrubs (R396), hand-offs (R395) and the
integrity tree (R398, R399).
-/
namespace Sys2Proof.Machine
open Sys2Proof

/-- A parity error in a core's registers or queues: POISON terminates the running strand (R390). -/
def execParityError (core : Nat) (s : State) : Host.Outcome State Fault Refusal :=
  .next (strandFault s core false .poison (BitVec.allOnes 64))

/-! ## Scrubs (R396) -/

/-- The parcel that owns a place found by a scrub. -/
def placeOwner (s : State) : ScrubPlace → Option Nat
  | .scratchpad c _ => some (coreOwner s c)
  | .physical pa =>
    match region pa with
    | .vault sc off => some (partOwner s sc off)
    | _ => some (frameOwner s pa)
  | .counterSram home idx => some (mgetD (homeOf s home).entries idx Ctr.init).owner

/-- A parcel, if an owner names one. -/
def ifParcel (s : State) (p : Option Nat) (f : Parcel → Parcel) : State :=
  match p with
  | some p => if p < Config.numParcels then modParcel s p f else s
  | none => s

/-- A counter entry poisoned: it stays so until it is written whole, and its value is free (R396, log 3). -/
def poisonCtr (s : State) (home idx : Nat) : State :=
  let C := mgetD (homeOf s home).entries idx Ctr.init
  let s := modHome s home fun H => { H with entries := mset H.entries idx { C with value := Config.freeWord s.freeCtr } }
  let bad := s.phys.ctrPoison
  { s with freeCtr := s.freeCtr + 1,
           phys := { s.phys with ctrPoison := if bad.contains (home, idx) then bad else (home, idx) :: bad } }

/-- A place poisoned at its granule; a block of a parcel's frame counts in `POISCNT` once (R393). -/
def poisonPlace (s : State) : ScrubPlace → State
  | .scratchpad c off => modCore s c fun k => scratchPoisonAt k off
  | .physical pa =>
    let s' := { s with phys := poisonAt s.phys pa }
    match region pa with
    | .hbm _ | .lpddr =>
      if poisoned s.phys pa then s' else ifParcel s' (some (frameOwner s pa)) fun P => { P with poiscnt := P.poiscnt + 1 }
    | _ => s'
  | .counterSram home idx => poisonCtr s home idx

/-- The line of a clean L2 granule at a place, when the L2 holds it and it is not dirty. -/
def cleanLine (s : State) : ScrubPlace → Option Nat
  | .physical pa =>
    if (heldLine s.phys pa).isSome && !lineDirty s.phys (pa / 128) then some (pa / 128) else none
  | _ => none

/-- One error: corrected in place and counted; in a clean L2 granule, its line invalidated and so read again from memory
without poison; in any other place, poisoned and logged (R396). -/
def scrubHit (s : State) (h : ScrubHit) : State :=
  if h.correctable then ifParcel s (placeOwner s h.place) fun P => { P with corrcnt := P.corrcnt + 1 }
  else
    match if h.cleanL2 then cleanLine s h.place else none with
    | some line => evictLine s line
    | none => logEv (poisonPlace s h.place) .uncorrectable

/-- Whether a place lies in an SRAM array: scratchpad, vault, L2 or counter SRAM. -/
def inSram (h : ScrubHit) : Bool :=
  match h.place with
  | .physical pa => match region pa with
    | .hole => false
    | _ => true
  | .scratchpad c off => coreExists c && off < Config.scratchSize
  | .counterSram _ _ => true

/-- Whether a place lies in DRAM. -/
def inDram (h : ScrubHit) : Bool :=
  match h.place with
  | .physical pa => match region pa with
    | .hbm _ | .lpddr => true
    | _ => false
  | _ => false

/-- An error that the read of a granule finds, in SRAM or DRAM alike (R396). -/
def foundError (s : State) (h : ScrubHit) : State := if inSram h then scrubHit s h else s

/-! ## Hand-offs (R395, R402) -/

/-- The next message of the mesh fails its check (R402). An error that the sender's check corrects changes no value, for
the receiver keeps the corrected one (R395); one that it detects and cannot correct is a failure of the body. -/
def meshFails (s : State) (f : MeshFail) : State := { s with mesh := { s.mesh with fail := some f } }

/-- A scrub of every SRAM array and what it found (R396). -/
def execSramScrub (hits : List ScrubHit) (s : State) : Host.Outcome State Fault Refusal :=
  .next ((hits.filter inSram).foldl scrubHit s)

/-- A patrol scrub of DRAM and what it found (R396). -/
def execDramPatrolScrub (hits : List ScrubHit) (s : State) : Host.Outcome State Fault Refusal :=
  .next ((hits.filter inDram).foldl scrubHit s)

/-! ## The integrity tree (R398, R399) -/

/-- Bytes a node of a level covers (R398). -/
def nodeBytes (level : Nat) : Nat := 512 * 8 ^ level

/-- Bytes of memory under a node: the root of a stack covers more than the stack holds. -/
def nodeSpan (base level : Nat) : Nat :=
  match treeOfPa base with
  | some (lo, size, _) => min (nodeBytes level) (lo + size - base)
  | none => 0

/-- Whether a node exists in the tree of its controller group: no level lies above the root, and a node begins at a
multiple of its coverage from the start of the group's memory (R398). -/
def nodeOk (base level : Nat) : Bool :=
  match treeOfPa base with
  | some (lo, _, top) => decide (level ≤ top) && (base - lo) % nodeBytes level == 0
  | none => false

/-- The 64-byte blocks of a node's range that lie in frames of a parcel. -/
def nodeBlocks (s : State) (base level p : Nat) : Nat :=
  ((List.range (nodeSpan base level / 64)).filter fun i => frameOwner s (base + 64 * i) == p).length

/-- The parcels that own a frame of a node's range. -/
def nodeOwners (s : State) (base level : Nat) : List Nat :=
  (List.range Config.numParcels).filter fun p => nodeBlocks s base level p != 0

/-- A parcel's notice of a node's failure: `POISCNT` and one kind 7 entry. -/
def nodeNotice (base level : Nat) (s : State) (p : Nat) : State :=
  let n := BitVec.ofNat 64 (nodeBlocks s base level p)
  let s := modParcel s p fun P => { P with poiscnt := P.poiscnt + n }
  faultEntry s p (fent 7 0 0xFFFF 0 0 (BitVec.ofNat 64 base) (BitVec.ofNat 64 (9 + 3 * level)))

/-- A node rebuilt: the counters of its eight children begin in an epoch that no node has had (R399). -/
def rebuildNode (p : Phys) (base level : Nat) : Phys :=
  match treeOfPa base with
  | none => p
  | some (lo, _, _) =>
    { p with epoch := p.epoch + 1,
             tree := (List.range 8).foldl (fun t i =>
               mset t (treeKey level (treeChild lo level base + i)) { epoch := p.epoch, n := 0 }) p.tree }

/-- The ranges of a list that a poisoned range does not meet. -/
def stillCovered (lo n : Nat) (rs : List (Nat × Nat)) : List (Nat × Nat) :=
  rs.filter fun r => lo + n ≤ r.1 || r.1 + r.2 ≤ lo

/-- The parts that copies in progress wrote into a range before it was poisoned are poisoned with their blocks and cover
nothing (R399). -/
def uncover (s : State) (lo n : Nat) : State :=
  let keep := stillCovered lo n
  let core (k : Core) : Core :=
    { k with eng := { k.eng with copyq := k.eng.copyq.map fun x => { x with covered := keep x.covered } } }
  let ring (R : Ring) : Ring := { R with begun := R.begun.map fun b => { b with covered := keep b.covered } }
  { s with cores := s.cores.map fun (ck : Nat × Core) => (ck.1, core ck.2),
           host := { s.host with fns := s.host.fns.map fun (kf : Nat × Fn) =>
             (kf.1, { kf.2 with rings := kf.2.rings.map fun (kr : Nat × Ring) => (kr.1, ring kr.2) }) } }

/-- A NODE OF THE INTEGRITY TREE FAILS, one operation at its controller (R399): every block under it is poisoned, the node
is rebuilt, and each owner is told. -/
def execIntegrityNodeFailure (base level : Nat) (s : State) : Host.Outcome State Fault Refusal :=
  if !nodeOk base level then .next s
  else
    let owners := nodeOwners s base level
    let p := (List.range (nodeSpan base level / 64)).foldl (fun p i => poisonAt p (base + 64 * i)) s.phys
    let s := uncover { s with phys := rebuildNode p base level } base (nodeSpan base level)
    .next (owners.foldl (nodeNotice base level) s)

end Sys2Proof.Machine
end

