-- ==== Sys2Proof/Machine/Monitor.lean ====
section
/-!
DEFINITION. The datum monitor's services (R403): the cadastre image (R329 to R333), parcels (R401), owners
(R400), grants (R359), quotas, check tables (R413, R414), format windows (R300), fault areas (R386), firmware
(R404, R405), device rings, tool routes (R419), connections (R418) and CXL ranges (R417). Each answers its
mailbox status.
-/
namespace Sys2Proof.Machine
open Sys2Proof

/-- Whether the mailbox is served: service firmware runs, which alone uses it, and the security core responds (R403,
R404, R425). -/
def mailboxOpen (s : State) : Bool := s.mgmt.running.isSome && s.mgmt.secUp

/-- A request answered with a status and the state it leaves; without service firmware there is no request. -/
def answer (s t : State) (code : Nat) : Host.Outcome State Fault Refusal :=
  if mailboxOpen s then .next (sendUp t (.mailbox code)) else .next s

/-- The reply of a service: DONE with its effect, or REFUSED with none (R403). -/
def reply (s : State) (r : Option State) : Host.Outcome State Fault Refusal :=
  match r with
  | some t => answer s t 0
  | none => answer s s 1

/-- A request block as the monitor finds it: one that is not 64 bytes, or whose service number no row defines, is
MALFORMED (R403). A request of a service that is defined arrives as the event of that service, for no rule gives the
layout of its arguments. -/
def request (s : State) (block : List Byte) : State :=
  let n := fieldAt block 0 4
  if mailboxOpen s && (block.length != 64 || n == 0 || decide (15 < n)) then sendUp s (.mailbox 3) else s

/-- Some state when a condition holds. -/
def whenOk (b : Bool) (t : State) : Option State := if b then some t else none

/-- Whether a parcel has been created. -/
def parcelExists (s : State) (p : Nat) : Bool := p < Config.numParcels && (parcelOf s p).exists_

/-! ## The cadastre image (R329 to R333) -/

/-- A parcel entry of an image (R330). -/
def parseCadParcel (bs : List Byte) (p : Nat) : CadParcel :=
  let o := 0x40 + 16 * p
  let b0 := fieldAt bs o 1
  { active := b0 % 2 == 1, dphase := b0 / 2 % 2 == 1, dcore := b0 / 4 % 2 == 1,
    group := BitVec.ofNat 4 (fieldAt bs (o + 1) 1),
    benef := ((List.range 8).map fun i => fieldAt bs (o + 8 + i) 1).filter fun b => b != 0xFF }

/-- The zero fields of a parcel entry (R330). -/
def cadParcelZero (bs : List Byte) (p : Nat) : Bool :=
  let o := 0x40 + 16 * p
  fieldAt bs o 1 < 8 && fieldAt bs (o + 1) 1 < 16 && fieldAt bs (o + 2) 6 == 0

/-- A row of an image (R331). -/
def parseRow (bs : List Byte) (k : Nat) : CadRow :=
  let o := 0x300 + 256 * k
  let bytes (off n : Nat) : List Nat := (List.range n).map fun i => fieldAt bs (o + off + i) 1
  { len := fieldAt bs o 2, drain := fieldAt bs (o + 4) 4, ways := bytes 0x10 16, link := bytes 0x20 16,
    mem := bytes 0x30 16, sects := bytes 0x40 192 }

/-- The zero fields of a row (R331). -/
def rowZero (bs : List Byte) (k : Nat) : Bool :=
  let o := 0x300 + 256 * k
  fieldAt bs (o + 2) 2 == 0 && fieldAt bs (o + 8) 8 == 0

/-- The table of an image. -/
def parseTable (bs : List Byte) : CadTable :=
  { serial := fieldAt bs 8 8, parcels := (List.range 40).map (parseCadParcel bs),
    rows := (List.range (fieldAt bs 0 4)).map (parseRow bs), image := bs }

/-- Whether an owner byte names an active parcel, the monitor or FREE (R329, R332). -/
def ownerOk (t : CadTable) (b : Nat) : Bool :=
  b == 62 || b == 63 || (b < 40 && (t.parcels.getD b CadParcel.none).active)

/-- The beneficiaries of a parcel entry (R332). -/
def benefOk (t : CadTable) (p : Nat) (P : CadParcel) : Bool :=
  P.benef.all fun b =>
    let B := t.parcels.getD b CadParcel.none
    b < 40 && b != p && B.active && B.group == P.group && P.group != 0

/-- The greatest number of way groups of one die that differ between two rows. -/
def wayChange (a b : CadRow) : Nat :=
  ((List.range 4).map fun q =>
    ((List.range 4).filter fun g => a.ways.getD (4 * q + g) 63 != b.ways.getD (4 * q + g) 63).length).foldl max 0

/-- The drain window of a row, given the row after it (R332). -/
def drainOk (r nx : CadRow) : Bool :=
  1024 ≤ r.drain && r.drain + 1024 ≤ 4096 * r.len && 1024 + 8192 * wayChange r nx ≤ r.drain

/-- The checks of R332. -/
def imageOk (s : State) (bs : List Byte) (t : CadTable) : Bool :=
  let n := t.rows.length
  1 ≤ n && n ≤ 32 && fieldAt bs 4 4 == 0 && allZero ((bs.drop 0x10).take 48) &&
    decide (s.cad.table.serial < t.serial) && (List.range 40).all (cadParcelZero bs) &&
    (List.range n).all (rowZero bs) &&
    (t.parcels.zipIdx.all fun x => benefOk t x.2 x.1) &&
    (t.rows.all fun r => 1 ≤ r.len && r.len ≤ 4096 &&
      (r.ways ++ r.link ++ r.mem ++ r.sects).all (ownerOk t)) &&
    (List.range n).all fun k => drainOk (rowOf t k) (rowOf t ((k + 1) % n))

/-- Service 0x01: a cadastre image accepted or refused (R332); one whose length is not that of its rows is malformed. It
takes effect at a later frame boundary (R333). -/
def execSubmitCadastreImage (img : List (BitVec 8)) (s : State) : Host.Outcome State Fault Refusal :=
  let n := fieldAt img 0 4
  if img.length < 0x300 then answer s s 3
  else if n = 0 ∨ 32 < n then reply s none
  else if img.length ≠ 0x300 + 256 * n then answer s s 3
  else
    let t := parseTable img
    reply s (whenOk (imageOk s img t) { s with cad := { s.cad with pending := s.cad.pending ++ [(t, s.cycle)] } })

/-! ## Parcels, owners, grants, quotas -/

/-- A key from the security core's random source (R401). -/
def freshKey (n : Nat) : BitVec 256 :=
  Config.freeWord n ++ Config.freeWord (n + 1) ++ Config.freeWord (n + 2) ++ Config.freeWord (n + 3)

/-- The three keys of a parcel, generated when it is created (R401). -/
def freshKeys (n : Nat) : Keys := { mesh := freshKey n, memory := freshKey (n + 4), mac := freshKey (n + 8) }

/-- Service 0x02: a parcel created with its keys (R401). -/
def execCreateParcel (parcel : Nat) (s : State) : Host.Outcome State Fault Refusal :=
  let P : Parcel := { Parcel.init with exists_ := true, root := Config.parcelRoot parcel }
  reply s (whenOk (parcel < Config.numParcels && !parcelExists s parcel)
    { s with freeCtr := s.freeCtr + 12, parcels := mset s.parcels parcel P,
             mgmt := { s.mgmt with keys := mset s.mgmt.keys parcel (freshKeys s.freeCtr) } })

/-- Whether any owner register holds a parcel (R400). -/
def ownsAnything (s : State) (p : Nat) : Bool :=
  s.phys.frames.any (fun x => x.2 == p) || s.phys.vaultOwner.any (fun x => x.2 == p) ||
    s.harts.any (fun x => x.2.owner == p) || s.host.fns.any (fun x => x.2.check.parcel.toNat == p) ||
    s.cad.sectOwner.contains p || s.cad.wayOwner.contains p || s.cad.linkOwner.contains p ||
    s.cad.memOwner.contains p || s.futures.any (fun x => x.2.owner == p) ||
    s.homes.any fun x => x.2.entries.any fun e => e.2.owner == p

/-- Service 0x03: a parcel deleted once nothing is owned by it; its keys are destroyed (R401). -/
def execDeleteParcel (parcel : Nat) (s : State) : Host.Outcome State Fault Refusal :=
  reply s (whenOk (parcelExists s parcel && !ownsAnything s parcel)
    { s with parcels := merase s.parcels parcel,
             mgmt := { s.mgmt with keys := merase s.mgmt.keys parcel } })

/-- Whether an owner id may be set: an existing parcel, the monitor or FREE. -/
def ownerIdOk (s : State) (p : Nat) : Bool := p == 62 || p == 63 || parcelExists s p

/-- A frame written with zeros under its new owner's keys (R401). -/
def zeroFrame (p : Phys) (pa : Nat) : Phys := physStore p pa (List.replicate 4096 0)

/-- An owner kept in a map in which FREE is unlisted. -/
def putOwner (m : Map Nat) (k p : Nat) : Map Nat := if p = 63 then merase m k else mset m k p

/-- Whether an address lies in memory whose frames have owners (R397). -/
def isDram (pa : Nat) : Bool :=
  match region pa with
  | .hbm _ | .lpddr => true
  | _ => false

/-- The tiers that a quota is set for: HBM4E, LPDDR6, vault partitions (R303, R304). -/
def tierOf (pa : Nat) : Nat :=
  match region pa with
  | .hbm _ => 0
  | .lpddr => 1
  | _ => 2

/-- The 4 KiB pages that a parcel holds in a tier. -/
def tierPages (s : State) (p t : Nat) : Nat :=
  if t = 2 then 64 * (s.phys.vaultOwner.filter fun x => x.2 == p).length
  else (s.phys.frames.filter fun x => x.2 == p && tierOf (4096 * x.1) == t).length

/-- Whether pages may be added to what a parcel holds in a tier: an allocation beyond its quota is refused (R304). -/
def tierRoom (s : State) (p t pages : Nat) : Bool :=
  match (parcelOf s p).quotas.tiers[t]? with
  | some q => decide (tierPages s p t + pages ≤ q)
  | none => true

/-- A monitor-loaded owner set (R304, R400, R401). -/
def setOwner (s : State) (res : OwnedRes) (p : Nat) : Option State :=
  match res with
  | .vaultPart sc q =>
    let had := mgetD s.phys.vaultOwner (sc * 16 + q) 63 == p
    whenOk (sectExists sc && q < 16 && (had || tierRoom s p 2 64))
      { s with phys := { s.phys with vaultOwner := putOwner s.phys.vaultOwner (sc * 16 + q) p } }
  | .frame pfn =>
    let pa := 4096 * pfn
    let ph := zeroFrame s.phys pa
    whenOk (isDram pa && (frameOwner s pa == p || tierRoom s p (tierOf pa) 1))
      { s with phys := { ph with frames := putOwner ph.frames pfn p } }
  | .hart h pol =>
    match (match pol with
      | none => some Policy.system
      | some b => if b = 0#2 then some .system else if b = 1#2 then some .trap
        else if b = 2#2 then some .clamp else none) with
    | none => none
    | some q => whenOk (h < Config.numHarts) (setHart s h { hartOf s h with owner := p, policy := q })
  | .function f =>
    whenOk (f ≤ 128) (modFn s f fun g => { g with check := { g.check with parcel := BitVec.ofNat 6 p } })

/-- Service 0x04: an owner set. -/
def execSetOwner (res : OwnedRes) (parcel : BitVec 6) (s : State) : Host.Outcome State Fault Refusal :=
  reply s (if ownerIdOk s parcel.toNat then setOwner s res parcel.toNat else none)

/-- Service 0x05: a grant that the counter's owner has asked for, while the table of 1,024 has room (R359). -/
def execAddGrant (grant : Grant) (s : State) : Host.Outcome State Fault Refusal :=
  reply s (whenOk (grant.asked && s.grants.length < 1024) { s with grants := s.grants ++ [grant] })

/-- Whether two grants name the same handle and grantee. -/
def sameGrant (a b : Grant) : Bool := a.handle == b.handle && a.who == b.who

/-- Service 0x06: a grant removed (R359). -/
def execRemoveGrant (grant : Grant) (s : State) : Host.Outcome State Fault Refusal :=
  reply s (whenOk (s.grants.any (sameGrant grant))
    { s with grants := s.grants.filter fun g => !sameGrant grant g })

/-- Every number of a request for quotas. -/
def quotaNumbers (q : Quotas) : List Nat :=
  q.section_.toList ++ q.device.toList ++ q.system.toList ++ q.launches.toList ++ q.futures.toList ++
    q.pools.map (·.2) ++ q.tiers

/-- Service 0x07: quotas and pool shares within the monitor's fixed bounds (R403). -/
def execSetQuotas (parcel : Nat) (q : Quotas) (s : State) : Host.Outcome State Fault Refusal :=
  reply s (whenOk (parcelExists s parcel && (quotaNumbers q).all Config.quotaOk)
    (modParcel s parcel fun P => { P with quotas := q }))

/-! ## Check tables (R413, R414) -/

/-- Whether a live launch records a function. -/
def fnHasLaunch (s : State) (f : Nat) : Bool := s.sched.launches.any fun kl => kl.2.fn == some f

/-- Service 0x08: a function's check table entry and scope policy; the entry names the function's own parcel (R403). -/
def execWriteRingCheckTable (fn : Nat) (ent : CheckEntry) (s : State) : Host.Outcome State Fault Refusal :=
  let old := (fnOf s fn).check
  let ok := decide (fn ≤ 128) && ent.parcel == old.parcel && ownerIdOk s ent.parcel.toNat && ent.policy != 3#2 &&
    (fn != 0 || ent.policy == 0#2) && (ent.policy == old.policy || !fnHasLaunch s fn)
  reply s (whenOk ok (modFn s fn fun g => { g with check := ent }))

/-! ## Format windows (R300) -/

/-- Whether an address lies in a controller group's memory: 0 to 7 the stacks, 8 LPDDR6. -/
def inGroup (g pa : Nat) : Bool :=
  match region pa with
  | .hbm k => k == g
  | .lpddr => g == 8
  | _ => false

/-- The window's registers with reserved bits 0. -/
def cleanWindow (w : FormatWindow) : FormatWindow :=
  { src := w.src &&& 0x000FFFFFFFFFFFFF, scl := w.scl &&& 0x000FFFFFFFFFFFFF,
    view := w.view &&& 0x000FFFFFFFFFFFFF, ctl := w.ctl &&& 0x800FFFFFFFFF0F0F }

/-- Whether the view of a window overlaps that of another enabled one. -/
def viewOverlaps (s : State) (key : Nat) (w : FormatWindow) : Bool :=
  s.phys.windows.any fun kw =>
    kw.1 != key && (kw.2.en || kw.2.ctl.getLsbD 62) && decide (kw.2.viewPa < w.viewEnd) &&
      decide (w.viewPa < kw.2.viewEnd)

/-- Whether a window may be enabled. -/
def windowOk (s : State) (group key : Nat) (w : FormatWindow) : Bool :=
  w.valid && w.srcPa % 4096 == 0 && inGroup group w.srcPa && w.viewPa % 4096 == 0 &&
    decide (0x20000000000 ≤ w.viewPa) && decide (w.viewEnd ≤ 0x30000000000) && !viewOverlaps s key w

/-- Service 0x09: a format window written; a refusal is logged (R300). -/
def execWriteFormatWindow (group win : Nat) (fw : FormatWindow) (s : State) : Host.Outcome State Fault Refusal :=
  let key := windowKey group win
  let w := cleanWindow fw
  let old := mgetD s.phys.windows key { src := 0, scl := 0, view := 0, ctl := 0 }
  let put (x : FormatWindow) : State := { s with phys := { s.phys with windows := mset s.phys.windows key x } }
  if 8 < group ∨ 63 < win then reply s none
  else if old.ctl.getLsbD 62 then answer s s 2
  else if old.en then
    if w = old then reply s (some s)
    else if w = { old with ctl := old.ctl &&& 0x7FFFFFFFFFFFFFFF } then
      reply s (some (put { w with ctl := w.ctl ||| 0x4000000000000000 }))
    else answer s (logEv s .windowRefused) 1
  else if w.valid && !viewOverlaps s key w && (!w.en || windowOk s group key w) then reply s (some (put w))
  else answer s (logEv s .windowRefused) 1

/-! ## Fault areas and device rings (R386, R391, R403) -/

/-- Service 0x0A: a fault area configured. -/
def execConfigureFaultArea (parcel : Nat) (cfg : FaultAreaCfg) (s : State) : Host.Outcome State Fault Refusal :=
  let ok := parcelExists s parcel && alignedTo cfg.base 64 && pow2In cfg.entries 64 65536 &&
    ownsCounter s parcel 2 cfg.handle && (!cfg.repair || ownsCounter s parcel 2 cfg.repairHandle)
  let fa : FaultArea :=
    { cfg := cfg, seq := 0, repairBase := (ctrOf s cfg.repairHandle).value, repairs := 0 }
  reply s (whenOk ok (modParcel s parcel fun P => { P with fault := some fa }))

/-- Bytes of an entry of a device ring. -/
def ringEntryBytes : DeviceRing → Nat
  | .pager => 32 | .shootdown => 16 | .overflow => 32 | .lateReply => 16

/-- Whether every page of an area is writable by a parcel in frames it owns. -/
def areaOwned (s : State) (p : Nat) (base : Word) (n : Nat) : Bool :=
  (List.range ((base.toNat % 4096 + n + 4095) / 4096)).all fun i =>
    match translate s .device p ((base &&& ~~~(0xFFF : Word)) + BitVec.ofNat 64 (4096 * i)) .write with
    | .ok pa _ => endpointOk s p pa && isDram pa
    | _ => false

/-- An area whose pages are in transit keeps the monitor waiting (R303, log 56). -/
def awaitArea (s : State) (p : Nat) (base : Word) (n : Nat) : State :=
  (List.range ((base.toNat % 4096 + n + 4095) / 4096)).foldl (fun s i =>
    let va := (base &&& ~~~(0xFFF : Word)) + BitVec.ofNat 64 (4096 * i)
    match translate s .device p va .write with
    | .transit => blockedBy s p va true .transit
    | _ => s) s

/-- A parcel's ring of a kind. -/
def ringOf (P : Parcel) : DeviceRing → Option DevRing
  | .pager => P.pager | .shootdown => P.shootdown | .overflow => P.overflow | .lateReply => P.lateRing

/-- Whether a ring is empty, so that it may be replaced. -/
def ringEmpty (s : State) (p : Nat) (which : DeviceRing) : Bool :=
  match ringOf (parcelOf s p) which with
  | none => true
  | some r =>
    let used := ((ctrOf s r.cfg.handle).value - BitVec.ofNat 64 r.tail).toNat
    match which with
    | .overflow => (List.range r.cfg.entries).all fun i =>
        devNat s p (r.cfg.base + BitVec.ofNat 64 (32 * i + 24)) 8 % 2 == 0
    | .shootdown => r.cfg.handle == 0 || used ≤ r.head
    | _ => r.cfg.handle == 0 || r.head ≤ used

/-- Service 0x0C: a device ring set. One of more than 65,536 entries is refused (log 71). -/
def execConfigureDeviceRings (parcel : Nat) (which : DeviceRing) (cfg : RingCfg) (s : State) :
    Host.Outcome State Fault Refusal :=
  let s := awaitArea s parcel cfg.base (ringEntryBytes which * cfg.entries)
  let s := match which, (parcelOf s parcel).overflow with
    | .overflow, some r => needRange s parcel r.cfg.base (32 * r.cfg.entries)
    | _, _ => s
  let ok := parcelExists s parcel && areaOwned s parcel cfg.base (ringEntryBytes which * cfg.entries) &&
    (if cfg.handle = 0 then which != .pager else ownsCounter s parcel 2 cfg.handle) &&
    decide (cfg.entries ≤ 65536) && decide (0 < cfg.entries) && ringEmpty s parcel which
  let r : DevRing := { cfg := cfg, head := 0, tail := (ctrOf s cfg.handle).value.toNat }
  reply s (whenOk ok (modParcel s parcel fun P =>
    match which with
    | .pager => { P with pager := some r }
    | .shootdown => { P with shootdown := some r }
    | .overflow => { P with overflow := some r }
    | .lateReply => { P with lateRing := some r }))

/-! ## Firmware (R404, R405) -/

/-- The header fields that an image's signature covers (R404). -/
def imageHeader (i : FwImage) : List Byte :=
  leBytes 4 i.magic.toNat ++ leBytes 4 i.svn.toNat ++ leBytes 8 i.code.length ++ leBytes 32 i.digest.toNat

/-- The monitor's test of an image at boot: its signature verifies and its SVN is at least the fuses'. -/
def bootable (m : Mgmt) (i : FwImage) : Bool := Config.signatureOk (imageHeader i) i.sig && decide (m.fuse ≤ i.svn.toNat)

/-- The image the monitor boots: the active slot's, else the other's, else none (R404). -/
def bootImage (m : Mgmt) : Option FwImage :=
  match (mget m.slots m.active).filter (bootable m) with
  | some i => some i
  | none => (mget m.slots (1 - m.active)).filter (bootable m)

/-- An image staged in the inactive slot; what lacks the magic is no image. -/
def stageImage (s : State) (img : FwImage) : Option State :=
  whenOk (img.magic == 0xD4F05F01#32)
    { s with mgmt := { s.mgmt with slots := mset s.mgmt.slots (1 - s.mgmt.active) img } }

/-- Service 0x0B, stage: an image put in the inactive slot. -/
def execFirmwareStage (img : FwImage) (s : State) : Host.Outcome State Fault Refusal :=
  reply s (stageImage s img)

/-- Service 0x0B, activate: a slot that holds an image marked active. -/
def execFirmwareActivate (slot : Nat) (s : State) : Host.Outcome State Fault Refusal :=
  reply s (whenOk (slot < 2 && (mget s.mgmt.slots slot).isSome) { s with mgmt := { s.mgmt with active := slot } })

/-- Service 0x0B, commit: fuses blown up to the booted image's SVN, of 128 (R405). -/
def execFirmwareCommit (s : State) : Host.Outcome State Fault Refusal :=
  match s.mgmt.running with
  | none => reply s none
  | some i => reply s (some { s with mgmt := { s.mgmt with fuse := max s.mgmt.fuse (min i.svn.toNat 128) } })

/-! ## Routes, connections, ranges -/

/-- Whether a connection is bound to a parcel. -/
def connBound (s : State) (conn p : Nat) : Bool := ((mget s.host.conns conn).map fun C => C.parcel == p).getD false

/-- An entry of a route table made valid or invalid. -/
def putRoute (m : Map ToolRoute) (idx : Nat) : Option ToolRoute → Map ToolRoute
  | some r => mset m idx r
  | none => merase m idx

/-- Service 0x0D: an entry of a tool route table (R419). -/
def execWriteToolRoute (parcel idx : Nat) (route : Option ToolRoute) (s : State) :
    Host.Outcome State Fault Refusal :=
  let ok := parcelExists s parcel && idx < 256 &&
    (match route with
     | some r => connBound s r.conn parcel
     | none => true)
  reply s (whenOk ok (modParcel s parcel fun P => { P with routes := (putRoute P.routes idx route) }))

/-- A connection ended: nothing is added anywhere (R418). -/
def endConn (s : State) (conn : Nat) : State :=
  { s with host := { s.host with conns := merase s.host.conns conn } }

/-- A connection's record written. -/
def setConn (s : State) (conn : Nat) (c : Conn) : State :=
  { s with host := { s.host with conns := mset s.host.conns conn c } }

/-- Service 0x0E: a connection bound to a parcel (R418). -/
def execBindConnection (conn parcel : Nat) (s : State) : Host.Outcome State Fault Refusal :=
  reply s (whenOk (conn < 4096 && parcelExists s parcel && (mget s.host.conns conn).isNone)
    (setConn s conn { parcel := parcel, applied := [], waits := [] }))

/-- Service 0x0E: a connection unbound, as a transport failure ends it (R403). -/
def execUnbindConnection (conn : Nat) (s : State) : Host.Outcome State Fault Refusal :=
  reply s (whenOk (mget s.host.conns conn).isSome (endConn s conn))

/-- Whether a range is of whole frames of one parcel in HBM4E (R292, R417). -/
def rangeOk (s : State) (r : CxlRange) : Bool :=
  r.base % 4096 == 0 && decide (0 < r.frames) && r.parcel < Config.numParcels &&
    (List.range r.frames).all fun i =>
      frameOwner s (r.base + 4096 * i) == r.parcel &&
        (match region (r.base + 4096 * i) with
         | .hbm _ => true
         | _ => false)

/-- Service 0x0F: a CXL.mem range exposed, of at most 64 (R417). -/
def execExposeCxlRange (range : CxlRange) (s : State) : Host.Outcome State Fault Refusal :=
  reply s (whenOk (rangeOk s range && s.host.cxl.length < 64)
    { s with host := { s.host with cxl := s.host.cxl ++ [range] } })

/-- Service 0x0F: a range withdrawn. -/
def execWithdrawCxlRange (range : CxlRange) (s : State) : Host.Outcome State Fault Refusal :=
  reply s (whenOk (s.host.cxl.contains range)
    { s with host := { s.host with cxl := s.host.cxl.filter fun r => r != range } })

/-! ## Pages that system software maps read-only (R362, R393) -/

/-- The status page of a parcel, as far as R393 gives it. -/
def statusPage (P : Parcel) : List Byte :=
  leBytes 8 P.scopeclamp.toNat ++ leBytes 8 P.violcnt.toNat ++ leBytes 8 P.corrcnt.toNat ++ leBytes 8 P.poiscnt.toNat ++
    leBytes 8 P.lateDrops.toNat ++ leBytes 24 0

/-- The 64 bytes that a mapped page shows software of a parcel. -/
def mappedBytes (s : State) (p : Nat) : MappedPage → List Byte
  | .status => statusPage (parcelOf s p)
  | .future id => futureView s (some p) id

/-- A load of 8 bytes of a mapped page by a hart in S mode: no rule gives the page an address (log 70). -/
def mappedRead (s : State) (h : Nat) (rd : BitVec 5) (page : MappedPage) (off : Nat) : State :=
  let H := hartOf s h
  if H.mode ≠ .s ∨ H.waitSince.isSome ∨ 64 < off + 8 then s
  else rvDone s h 4 fun H => hxSet H rd (BitVec.ofNat 64 (fieldAt (mappedBytes s H.owner page) off 8))

end Sys2Proof.Machine
end

