-- ==== Sys2Proof/Machine/Reset.lean ====
section
/-!
DEFINITION. The ends that come from outside: the terminations of launches (R421, R424), function-level and PF reset
(R421, R422), link loss (R423, R424), power-up, package reset and PERST# (R404, R426).
-/
namespace Sys2Proof.Machine
open Sys2Proof

/-! ## Strands terminated from outside (R421) -/

/-- A strand that does not run terminated: its record FAULTED, a kind 1 entry, the fault counter, the live
count. -/
def endStrand (s : State) (L : Launch) (f : FaultCode) (rcd : Word) : State :=
  let p := L.parcel
  let s := needRead s p (rcd + 0x10) 8
  let w := recWord s p rcd
  if swState w = 4 ∨ swState w = 5 ∨ swLaunch w ≠ L.id then s
  else
    let s := devPut64 s p (rcd + 0x18) 0
    let s := devPut64 s p (rcd + 0x20) 0
    let s := devPut64 s p (rcd + 0x10) (swWrite w false false .faulted f.code)
    let s := faultEntry s p (fent 1 f.code 0xFFFF L.id rcd 0 0)
    launchMinus (launchFault s L.id) L.id

/-- The strand that runs on a core terminated, when it is of the launch (R31). -/
def endRunning (id : BitVec 28) (f : FaultCode) (s : State) (c : Nat) : State :=
  match (coreOf s c).run with
  | none => s
  | some r => if r.own.launch = id then faultOne s c false f 0 (faultDetail (coreOf s c) false) else s

/-- The engine commands of a launch on a core, as R344 treats them; the strands' records are FAULTED, so no state
word is to be written. -/
def endEngines (id : BitVec 28) (s : State) (c : Nat) : State :=
  modCore (cancelEngines s c fun o => o.launch == id) c fun k =>
    { k with acted := k.acted.filter fun a => a.own.launch != id }

/-- The windows and slots of a launch on a core given up. -/
def endResidents (id : BitVec 28) (k : Core) : Core :=
  let rs := k.res.filter fun r => r.2.own.launch == id
  rs.foldl (fun k r => scrub k r.2.base r.2.size)
    { k with res := k.res.filter fun r => r.2.own.launch != id }

/-- The record addresses of the strands of a launch: the array's, those spawned into it, the residents', the listed
ones', the waiters'. -/
def launchRecords (s : State) (L : Launch) : List Word :=
  let array := (List.range L.count).map fun i => L.desc.recaddr + BitVec.ofNat 64 (64 * i)
  let res := s.cores.flatMap fun (ck : Nat × Core) =>
    (ck.2.res.filter fun r => r.2.own.launch == L.id).map fun r => r.2.own.rcd
  let listed := (s.sched.lists.filter fun e => e.own.launch == L.id).map fun e => e.own.rcd
  let waiting := s.homes.flatMap fun (kh : Nat × Home) =>
    (kh.2.pool.filter fun w => w.parcel == L.parcel).map fun w => w.rcd
  array ++ L.spawned ++ res ++ listed ++ waiting

/-- The waiters of ended strands leave the pools. -/
def dropWaiters (s : State) (p : Nat) (rs : List Word) : State :=
  { s with homes := s.homes.map fun (kh : Nat × Home) =>
      (kh.1, { kh.2 with pool := kh.2.pool.filter fun w => !(w.parcel == p && rs.contains w.rcd) }) }

/-- Their entries on the parcel's overflow list become invalid. -/
def dropOverflow (s : State) (p : Nat) (rs : List Word) : State :=
  match (parcelOf s p).overflow with
  | none => s
  | some r =>
    let s := needRange s p r.cfg.base (32 * r.cfg.entries)
    (List.range r.cfg.entries).foldl (fun s i =>
      let va := r.cfg.base + BitVec.ofNat 64 (32 * i)
      if rs.contains (BitVec.ofNat 64 (devNat s p (va + 16) 8)) && devNat s p (va + 24) 8 % 2 == 1 then
        devPut64 s p (va + 24) 0
      else s) s

/-- EVERY STRAND OF A LAUNCH TERMINATED with a code (R421, R424). -/
def terminate (f : FaultCode) (s : State) (L : Launch) : State :=
  let s := (launchRecords s L).foldl (fun s r => needRead s L.parcel (r + 0x10) 8) s
  let rs := (launchRecords s L).filter fun r => swLaunch (recWord s L.parcel r) == L.id
  let cs := s.cores.map (·.1)
  let s := cs.foldl (endEngines L.id) (cs.foldl (endRunning L.id f) s)
  let s := rs.foldl (fun s r => endStrand s L f r) s
  let s := cs.foldl (fun s c => modCore s c (endResidents L.id)) s
  let s := { s with sched := { s.sched with lists := s.sched.lists.filter fun e => e.own.launch != L.id } }
  dropOverflow (dropWaiters s L.parcel rs) L.parcel rs

/-- The launches in use. -/
def launches (s : State) : List (Nat × Launch) := s.sched.launches

/-- A launch ended from outside: a started one by its strands, a waiting one at once. -/
def endFromOutside (f : FaultCode) (s : State) (el : Nat × Launch) : State :=
  if el.2.st == .live then terminate f s el.2 else endLaunch s el.1 el.2

/-! ## Host calls (R156, R421, R423) -/

/-- One call slot, posted or taken, completed with a status; the result word, to which no rule gives a value, is
free. -/
def endCall (p : Nat) (f : FaultCode) (s : State) (va : Word) : State :=
  let s := needRead s p va 64
  let w := devNat s p va 8
  if w % 16 = 1 ∨ w % 16 = 2 then
    let s := devPut64 s p (va + 0x20) (Config.freeWord s.freeCtr)
    let s := { s with freeCtr := s.freeCtr + 1 }
    let s := devPut64 s p (va + 0x28) (f.code.setWidth 64)
    let s := devPut64 s p va (BitVec.ofNat 64 (w / 16 * 16 + 3))
    (devAdd s p (BitVec.ofNat 64 (devNat s p (va + 0x30) 8)) 1).1
  else s

/-- The call slots of a launch. -/
def endCalls (f : FaultCode) (s : State) (L : Launch) : State :=
  if L.desc.callarea = 0 then s
  else (List.range L.count).foldl (fun s i => endCall L.parcel f s (L.desc.callarea + BitVec.ofNat 64 (64 * i))) s

/-- Whether the calls of a launch are served by the host: it came through a ring (R415). -/
def hostServed (L : Launch) : Bool := L.fn.isSome

/-! ## Function-level reset (R421, R422) -/

/-- A ring stopped: what it began ends with no `STATUS` and no add. -/
def stopRing (R : Ring) : Ring := { R with en := false, begun := [] }

/-- The rings of a function stopped. -/
def stopRings (s : State) (f : Nat) : State :=
  modFn s f fun g => { g with rings := g.rings.map fun (ir : Nat × Ring) => (ir.1, stopRing ir.2) }

/-- The replays of a function that have not started are dropped. -/
def dropReplays (s : State) (f : Nat) : State :=
  let rs := s.sched.replays.filter fun kr => !(kr.2.fn == some f && !kr.2.started)
  { s with sched := { s.sched with replays := rs } }

/-- THE RESET OF A FUNCTION BEGINS (R421); one already in reset ignores it (R422). -/
def beginReset (s : State) (f : Nat) : State :=
  if (fnOf s f).inreset then s
  else
    let s := modFn s f fun g => { g with inreset := true, ready := false, resetAt := some s.cycle }
    let s := stopRings (revokeFn s f) f
    let mine := (launches s).filter fun el => el.2.fn == some f
    let s := mine.foldl (fun s el => endCalls .revoked s el.2) s
    dropReplays (mine.foldl (endFromOutside .revoked) s) f

/-- The reset of a function completes: BAR0 registers, counter interrupts and MSI-X table at reset values. Its release
rings take records again (R384). -/
def endReset (s : State) (f : Nat) : State :=
  let s := modFn s f fun g =>
    { g with rings := [], ints := [], msix := [], msixWaits := [], inreset := false, ready := true, resetAt := none }
  { s with commit := { s.commit with closed := s.commit.closed.filter fun g => g != f } }

/-- The function-level reset of a function. -/
def execFunctionLevelReset (fn : Nat) (s : State) : Host.Outcome State Fault Refusal :=
  if 1 ≤ fn ∧ fn ≤ 128 then .next (beginReset s fn) else .next s

/-- A function-level reset completes, once its revocation point has come (R384, R421). -/
def execFlrComplete (fn : Nat) (s : State) : Host.Outcome State Fault Refusal :=
  if (fnOf s fn).inreset && !s.commit.awaited.contains fn then .next (endReset s fn) else .next s

/-- The functions of the package: the physical one and 128 virtual ones (R408). -/
def allFns : List Nat := List.range 129

/-- A PF reset: every function, the service firmware restarted, the CXL port retrained (R422). Each function is in
reset until its `FLR_COMPLETE`; one already in reset, the physical function itself too, ignores the request. -/
def execPfReset (s : State) : Host.Outcome State Fault Refusal :=
  if (fnOf s 0).inreset then .next s
  else
    let s := allFns.foldl beginReset s
    .next { s with mgmt := { s.mgmt with running := bootImage s.mgmt }, host := { s.host with cxlUp := true } }

/-! ## Link loss (R423, R424) -/

/-- A surprise loss: host-bound writes stop, the rings stop, host-served calls end with LINK, and the event is
logged and raised. -/
def execSurpriseLinkLoss (s : State) : Host.Outcome State Fault Refusal :=
  if !s.host.pcieUp then .next s
  else
    let s := { s with host := { s.host with pcieUp := false, lossAt := some s.cycle } }
    let s := allFns.foldl (fun s f => modFn (stopRings s f) f fun g => { g with lost := true }) s
    let s := ((launches s).filter fun el => hostServed el.2).foldl (fun s el => endCalls .link s el.2) s
    .next (sendUp (logEv s .linkLoss) (.pldm [1]))

/-- The CXL link is lost. -/
def execCxlLinkLoss (s : State) : Host.Outcome State Fault Refusal :=
  if !s.host.cxlUp then .next s
  else .next (logEv { s with host := { s.host with cxlUp := false } } .cxlLoss)

/-- The service firmware sets the grace period, of 0 to 2^32 µs (R424). -/
def setGrace (s : State) (us : Nat) : State :=
  if s.mgmt.running.isSome && decide (us ≤ 2 ^ 32) then { s with host := { s.host with grace := us } } else s

/-- The grace period ends: every strand of every live launch is terminated with LINK, and the device quiesces. -/
def execGracePeriodExpiry (s : State) : Host.Outcome State Fault Refusal :=
  match s.host.lossAt with
  | none => .next s
  | some t =>
    if s.host.quiesced || !(t + 1100 * s.host.grace ≤ s.cycle : Bool) then .next s
    else
      let s := { s with host := { s.host with quiesced := true } }
      .next (((launches s).filter fun el => el.2.st == .live).foldl (fun s el => terminate .link s el.2) s)

/-- The link trains again: every function presents itself as after a PF reset. -/
def execLinkRetrain (s : State) : Host.Outcome State Fault Refusal :=
  if s.host.pcieUp then .next s
  else
    let s := { s with host := { s.host with pcieUp := true, lossAt := none } }
    .next (allFns.foldl (fun s f => modFn (endReset s f) f fun g => { g with lost := false }) s)

/-! ## Power-up and package reset (R426) -/

/-- The management controller starts. -/
def execManagementPowerUp (s : State) : Host.Outcome State Fault Refusal :=
  .next { s with mgmt := { s.mgmt with up := true } }

/-- What the package holds outside its own state: the host's memory, without what the L2 held dirty of it. -/
def hostMemory (p : Phys) : Phys :=
  let lost := p.backing.filter fun kb => region kb.1 == .host
  let m := lost.foldl (fun m kb => memSet m kb.1 kb.2) p.mem
  { Phys.init with mem := m.filter fun c => region c.1 == .host }

/-- PACKAGE RESET: every state cleared but the fuses, the flash slots, the management controller and what is outside
the package; the monitor boots the service firmware and loads the default cadastre. -/
def packageReset (s : State) : State :=
  let m := s.mgmt
  { State.reset with
      agenda := s.agenda, freeCtr := s.freeCtr, phys := hostMemory s.phys
      host := { HostIf.init with up := s.host.up }
      mgmt := { Mgmt.init with slots := m.slots, active := m.active, fuse := m.fuse, log := m.log,
                               controllerImages := m.controllerImages, controllerActive := m.controllerActive,
                               up := m.up, running := bootImage m } }

/-- Package reset released, once the management controller has started (R426). -/
def execPackageReset (s : State) : Host.Outcome State Fault Refusal :=
  .next (if s.mgmt.up then packageReset s else s)

/-- PERST# released: the port answers, with a retry status until it is ready (R426). -/
def execPerstRelease (s : State) : Host.Outcome State Fault Refusal :=
  .next { s with host := { s.host with answering := true } }

/-- The port is ready to answer configuration requests (R426). -/
def portReady (s : State) : State :=
  if s.host.answering then { s with host := { s.host with portReady := true } } else s

/-- The security core stops responding, or responds again (R425). -/
def securityCore (s : State) (up : Bool) : State := { s with mgmt := { s.mgmt with secUp := up } }

end Sys2Proof.Machine
end

