-- ==== Sys2Proof/Machine/Manage.lean ====
section
/-!
DEFINITION. Attestation over SPDM (R406, R407) and the management controller's PLDM services (R425). The responses
carry the contents that the rules give; their framing is SPDM's and PLDM's own.
-/
namespace Sys2Proof.Machine
open Sys2Proof

/-! ## Measurements (R406) -/

/-- The bytes of a digest. -/
def digestBytes (bs : List Byte) : List Byte := leBytes 32 (Config.digest bs).toNat

/-- The parcel entries of a table as an image holds them (R330). -/
def parcelBytes (P : CadParcel) : List Byte :=
  let b0 := (if P.active then 1 else 0) + (if P.dphase then 2 else 0) + (if P.dcore then 4 else 0)
  leBytes 1 b0 ++ leBytes 1 P.group.toNat ++ leBytes 6 0 ++
    ((List.range 8).map fun i => BitVec.ofNat 8 (P.benef.getD i 0xFF))

/-- Owner bytes. -/
def ownerBytes (l : List Nat) : List Byte := l.map (BitVec.ofNat 8)

/-- Owners kept by number. -/
def ownerPairs (m : List (Nat × Nat)) : List Byte := m.flatMap fun x => leBytes 8 x.1 ++ leBytes 1 x.2

/-- A row of the default table as an image would hold it (R331). -/
def rowBytes (r : CadRow) : List Byte :=
  leBytes 2 r.len ++ leBytes 2 0 ++ leBytes 4 r.drain ++ leBytes 8 0 ++ ownerBytes r.ways ++ ownerBytes r.link ++
    ownerBytes r.mem ++ ownerBytes r.sects

/-- The image of the table in force: as submitted; of the default table, which none was submitted for, as R329 would lay
it out. -/
def tableBytes (t : CadTable) : List Byte :=
  if t.image.isEmpty then
    leBytes 4 t.rows.length ++ leBytes 4 0 ++ leBytes 8 t.serial ++ leBytes 48 0 ++
      t.parcels.flatMap parcelBytes ++ leBytes 64 0 ++ t.rows.flatMap rowBytes
  else t.image

/-- The parcel entries and owner assignments in force (R400), in an order of the model's own: sections, way groups, link
and memory phases; vault partitions, frames, harts, functions, counter and future entries. -/
def ownersInForce (s : State) : List Byte :=
  s.cad.table.parcels.flatMap parcelBytes ++ ownerBytes s.cad.sectOwner ++ ownerBytes s.cad.wayOwner ++
    ownerBytes s.cad.linkOwner ++ ownerBytes s.cad.memOwner ++ ownerPairs s.phys.vaultOwner ++
    ownerPairs s.phys.frames ++ ownerPairs (s.harts.map fun x => (x.1, x.2.owner)) ++
    ownerPairs (s.host.fns.map fun x => (x.1, x.2.check.parcel.toNat)) ++
    (s.homes.flatMap fun x => leBytes 8 x.1 ++ ownerPairs (x.2.entries.map fun e => (e.1, e.2.owner))) ++
    ownerPairs (s.futures.map fun x => (x.1, x.2.owner))

/-- The five measurement blocks. -/
def measurements (s : State) : List Byte :=
  digestBytes Config.romCode ++ digestBytes ((s.mgmt.running.map fun i => i.code).getD []) ++
    leBytes 4 s.mgmt.fuse ++ digestBytes (tableBytes s.cad.table) ++ digestBytes (ownersInForce s)

/-! ## Certificates and requests (R406, R407) -/

/-- The chain of a certificate slot: slot 0's was written at manufacture. -/
def chainOf (m : Mgmt) (slot : Nat) : Option (List Byte) :=
  if slot = 0 then some Config.identityChain else mget m.certs slot

/-- Two seconds in cycles. -/
def twoSeconds : Nat := 2200000000

/-- Whether a slot is pending: a request that names it has not been answered, and 2 s have not passed since its receipt
(R407). -/
def slotPending (m : Mgmt) (now slot : Nat) : Bool :=
  m.asked.any fun a => a.live && a.slot == slot && decide (now < a.since + twoSeconds)

/-- What an SPDM request comes to: ERROR Busy while the security core does not respond (R425). -/
def spdm (s t : State) : Host.Outcome State Fault Refusal :=
  if s.mgmt.secUp then .next t else .next (sendUp s (.spdmError .busy))

/-- The contents of an ALGORITHMS response (R406), in the widths of SPDM's own fields: SHA-256 as the base hash, no base
asymmetric algorithm, and where it is selected the extended one: the PCI-SIG registry, Dvorfen's vendor id, algorithm
1 (log 17). -/
def algorithms (extAsym : Bool) : List Byte :=
  leBytes 4 1 ++ leBytes 4 0 ++ (if extAsym then leBytes 1 3 ++ leBytes 2 Config.vendorId.toNat ++ leBytes 2 1 else [])

/-- `NEGOTIATE_ALGORITHMS`: the extended algorithm is selected when the requester lists it, else the selection is
empty (R406). -/
def execNegotiateAlgorithms (extAsym : Bool) (s : State) : Host.Outcome State Fault Refusal :=
  let t := { s with mgmt := { s.mgmt with extAsym := extAsym } }
  spdm s (sendUp t (.spdm (algorithms extAsym)))

/-- A signed request of a slot: UnsupportedRequest without the algorithm, else the slot is pending until the
response (R406, R407). -/
def askSigned (s : State) (slot : Nat) (meas : Bool) : State :=
  if !s.mgmt.extAsym then sendUp s (.spdmError .unsupportedRequest)
  else
    match chainOf s.mgmt slot with
    | none => sendUp s (.spdmError .refused)
    | some _ =>
      { s with mgmt := { s.mgmt with
        asked := s.mgmt.asked ++ [{ slot := slot, meas := meas, since := s.cycle, live := true }] } }

/-- `CHALLENGE`. -/
def execChallenge (slot : Nat) (s : State) : Host.Outcome State Fault Refusal := spdm s (askSigned s slot false)

/-- `GET_MEASUREMENTS`: unsigned ones are served at once. -/
def execGetMeasurements (slot : Nat) (signed : Bool) (s : State) : Host.Outcome State Fault Refusal :=
  spdm s (if signed then askSigned s slot true else sendUp s (.spdm (measurements s)))

/-- The response to the oldest signed request, with the chain as it stands now. -/
def respond (s : State) : State :=
  match if s.mgmt.secUp then s.mgmt.asked else [] with
  | [] => s
  | a :: rest =>
    let chain := (chainOf s.mgmt a.slot).getD []
    let body := if a.meas then measurements s else digestBytes chain ++ measurements s
    let s := { s with mgmt := { s.mgmt with asked := rest } }
    sendUp s (.spdm (body ++ Config.sign a.slot (chain ++ body)))

/-- `GET_CERTIFICATE`. -/
def execGetCertificate (slot : Nat) (s : State) : Host.Outcome State Fault Refusal :=
  match chainOf s.mgmt slot with
  | some c => spdm s (sendUp s (.spdm c))
  | none => spdm s (sendUp s (.spdmError .refused))

/-- `SET_CERTIFICATE`: slot 0 is refused, a pending slot is Busy (R406, R407). -/
def execSetCertificate (slot : Nat) (chain : List (BitVec 8)) (s : State) : Host.Outcome State Fault Refusal :=
  if slot = 0 ∨ 7 < slot then spdm s (sendUp s (.spdmError .refused))
  else if slotPending s.mgmt s.cycle slot then spdm s (sendUp s (.spdmError .busy))
  else
    let t := { s with mgmt := { s.mgmt with certs := mset s.mgmt.certs slot chain } }
    spdm s (sendUp t (.spdm []))

/-- A request that no longer keeps its slot pending. -/
def expire (now slot : Nat) (a : SpdmReq) : SpdmReq :=
  if a.slot = slot ∧ a.since + twoSeconds ≤ now then { a with live := false } else a

/-- A slot stops being pending 2 s after the receipt of a request that names it (R407). -/
def execSlotPendingTimeout (slot : Nat) (s : State) : Host.Outcome State Fault Refusal :=
  .next { s with mgmt := { s.mgmt with asked := s.mgmt.asked.map (expire s.cycle slot) } }

/-! ## PLDM (R425) -/

/-- What the controller answers once it has started. -/
def pldm (s : State) (t : State) (bs : List Byte) : Host.Outcome State Fault Refusal :=
  if s.mgmt.up then .next (sendUp t (.pldm bs)) else .next s

/-- What the controller answers where it needs the security core: not ready while that does not respond. -/
def pldmSec (s : State) (t : State) (bs : List Byte) : Host.Outcome State Fault Refusal :=
  if !s.mgmt.up then .next s
  else if s.mgmt.secUp then .next (sendUp t (.pldm bs))
  else .next (sendUp s .pldmNotReady)

/-- Discovery: the types that the controller serves. -/
def execPldmDiscovery (s : State) : Host.Outcome State Fault Refusal := pldm s s [0, 2, 5]

/-- `CADSTAT` (R334). -/
def cadstat (s : State) : Word :=
  BitVec.ofNat 32 s.cad.frames ++ BitVec.ofNat 5 s.cad.row ++ bitOf (!s.cad.pending.isEmpty) ++ 0#10 ++
    BitVec.ofNat 16 s.cad.late

/-- What a sensor reads: a physical quantity is free. -/
def sensor (s : State) : Sensor → Word
  | .dieTemp _ => Config.sensorValue s.freeCtr
  | .hbmTemp _ => Config.sensorValue s.freeCtr
  | .power => Config.sensorValue s.freeCtr
  | .linkState => 0#62 ++ bitOf s.host.cxlUp ++ bitOf s.host.pcieUp
  | .cadstat => cadstat s
  | .violcnt p => (parcelOf s p).violcnt
  | .poiscnt p => (parcelOf s p).poiscnt

/-- Whether the package has a sensor: five dies, eight stacks, 40 parcels. -/
def sensorExists : Sensor → Bool
  | .dieTemp i => i < 5
  | .hbmTemp i => i < 8
  | .violcnt p => p < Config.numParcels
  | .poiscnt p => p < Config.numParcels
  | .power => true
  | .linkState => true
  | .cadstat => true

/-- Whether a sensor's value is the security core's (R403). -/
def sensorSec : Sensor → Bool
  | .cadstat => true
  | .violcnt _ => true
  | .poiscnt _ => true
  | _ => false

/-- A sensor read. -/
def execPldmSensorRead (sensor : Sensor) (s : State) : Host.Outcome State Fault Refusal :=
  if sensorExists sensor then
    (if sensorSec sensor then pldmSec else pldm) s { s with freeCtr := s.freeCtr + 1 }
      (leBytes 8 (Sys2Proof.Machine.sensor s sensor).toNat)
  else .next s

/-- The effecter for package reset. -/
def execPldmResetEffecter (s : State) : Host.Outcome State Fault Refusal := pldm s (packageReset s) [0]

/-- An update of the service firmware's inactive slot or of the controller's inactive image (R404). -/
def execPldmFirmwareUpdate (target : UpdateTarget) (s : State) : Host.Outcome State Fault Refusal :=
  match target with
  | .service i => pldmSec s ((stageImage s i).getD s) [if (stageImage s i).isSome then 0 else 1]
  | .controller bs =>
    let m := s.mgmt
    pldm s { s with mgmt := { m with controllerImages := mset m.controllerImages (1 - m.controllerActive) bs } } [0]

end Sys2Proof.Machine
end

