-- ==== Sys2Proof/Machine/HostPort.lean ====
section
/-!
DEFINITION. The host's side of the package: BAR0, counter interrupts and the counter windows (R360, R408 to R410),
submission rings (R411 to R413), CXL.mem (R417) and the snoops of host lines (R438).
-/
namespace Sys2Proof.Machine
open Sys2Proof

/-- Nothing but what a host access that is refused leaves: a log entry. -/
def malformed (s : State) : State := logEv s .malformed

/-- Whether the PCI Express port answers: the link is up, PERST# is released, service firmware runs (R404). -/
def portUp (s : State) : Bool := s.host.answering && s.host.pcieUp && s.mgmt.running.isSome

/-- Whether a function's registers take writes (R409, R421). -/
def fnLive (s : State) (f : Nat) : Bool := f ≤ 128 && portUp s && (fnOf s f).ready && !(fnOf s f).lost

/-! ## BAR0 (R409) -/

/-- A ring of a function. -/
def fnRing (g : Fn) (r : Nat) : Ring := mgetD g.rings r Ring.init
/-- A ring of a function changed. -/
def modRing (s : State) (f r : Nat) (u : Ring → Ring) : State :=
  modFn s f fun g => { g with rings := mset g.rings r (u (fnRing g r)) }
/-- A counter interrupt of a function. -/
def fnInt (g : Fn) (v : Nat) : CtrInt := mgetD g.ints v CtrInt.init

/-- A register of a ring written: `RBASE` and `RSIZE`, whose reserved bits stay 0, while it is not enabled, `EN`, which
counts from zero when it rises (R5, R409). -/
def ringWrite (R : Ring) (off : Nat) (v : Word) : Ring :=
  if off = 0 then (if R.en then R else { R with rbase := v })
  else if off = 8 then (if R.en then R else { R with rsize := v &&& 0x1FFFF })
  else if off = 16 then
    if v.getLsbD 0 then (if R.en then R else { R with en := true, rhead := 0, rtail := 0, begun := [] })
    else { R with en := false }
  else R

/-- What a register of a ring reads; `RTAIL` reads zero (R5, R409). -/
def ringRead (R : Ring) (off : Nat) : Option Word :=
  if off = 0 then some R.rbase
  else if off = 8 then some R.rsize
  else if off = 16 then some (0#63 ++ bitOf R.en)
  else if off = 24 then some (0#32 ++ R.rhead)
  else if off = 32 then some 0
  else none

/-- The function's identity register (R409). -/
def fnWord (g : Fn) : Word := 0#56 ++ g.check.parcel ++ bitOf g.inreset ++ bitOf g.ready

/-- A counter interrupt's registers. -/
def intRead (ci : CtrInt) (off : Nat) : Word := if off = 0 then bitOf ci.cien ++ 0#47 ++ ci.cidx else ci.cithr

/-- The value of a BAR0 register, where one lies at the offset (R409). -/
def bar0Value (g : Fn) (reg : Nat) : Option Word :=
  if reg = 0 then some (fnWord g)
  else if 0x100 ≤ reg ∧ reg < 0x300 then ringRead (fnRing g ((reg - 0x100) / 64)) ((reg - 0x100) % 64)
  else if 0x800 ≤ reg ∧ reg < 0xC00 then some (intRead (fnInt g ((reg - 0x800) / 16)) (reg % 16))
  else none

/-- A BAR0 read: all ones unless it is of 8 aligned bytes; while the function is in reset all ones but for `INRESET` and
`READY`; a free value where no register lies (R409, R421, log 69). -/
def bar0Read (s : State) (f reg size : Nat) : State :=
  let g := fnOf s f
  if 128 < f || !portUp s then s
  else if size ≠ 8 ∨ reg % 8 ≠ 0 then sendUp s (.readData (List.replicate size 0xFF))
  else if !g.ready || g.lost then
    sendUp s (.readData (leBytes 8 (if reg = 0 then BitVec.allOnes 62 ++ bitOf g.inreset ++ bitOf g.ready
                                    else BitVec.allOnes 64 : Word).toNat))
  else
    match bar0Value g reg with
    | some v => sendUp s (.readData (leBytes 8 v.toNat))
    | none => sendUp { s with freeCtr := s.freeCtr + 1 } (.readData (leBytes 8 (Config.freeWord s.freeCtr).toNat))

/-! ## Configuration space and the MSI-X table (R408, R426) -/

/-- The capabilities of a function: the physical one has SR-IOV (R408). -/
def pciCaps (f : Nat) : PciCaps :=
  { totalVfs := if f = 0 then 128 else 0, vfStride := if f = 0 then 1 else 0, msixVectors := 64, maxPayload := 512,
    maxRead := 4096, aer := true, acs := true, flr := true, bar0 := 16384, bar2 := 524288 }

/-- A configuration request: retry status until the port is ready, else the identity (R408, R426). -/
def configRead (s : State) (f : Nat) : State :=
  if 128 < f || !portUp s then s
  else if !s.host.portReady then sendUp s (.configAns f .retry)
  else sendUp s (.configAns f (.identity Config.vendorId (if f = 0 then 0x0404 else 0x0405) (fnOf s f).bme (pciCaps f)))

/-- An entry of the MSI-X table written by the host: 64 vectors. One that waits is sent once it is not masked (R408,
log 69). -/
def msixWrite (s : State) (f v : Nat) (e : MsixEnt) : State :=
  if fnLive s f && v < 64 then
    let t := modFn s f fun g => { g with msix := mset g.msix v e }
    if !e.masked && (fnOf s f).msixWaits.contains v then
      signal (modFn t f fun g => { g with msixWaits := g.msixWaits.filter fun x => x != v }) f v
    else t
  else s

/-- A BAR0 write of 8 bytes at `reg` to a ring register without behaviour of its own. Other addresses have rows of
their own or are read-only. -/
def execBar0RegisterWrite (fn reg : Nat) (v : Word) (s : State) : Host.Outcome State Fault Refusal :=
  if fnLive s fn && reg % 8 == 0 && decide (0x100 ≤ reg) && decide (reg < 0x300) then
    .next (modRing s fn ((reg - 0x100) / 64) fun R => ringWrite R ((reg - 0x100) % 64) v)
  else .next s

/-- `RSIZE` of a ring; 0 where it disables the ring. -/
def ringSize (R : Ring) : Nat :=
  let n := (R.rsize.extractLsb' 0 17).toNat
  if pow2In n 64 65536 then n else 0

/-- The doorbell: a count further ahead than the ring holds is discarded and logged (R411). -/
def execRtail (fn ring : Nat) (v : BitVec 32) (s : State) : Host.Outcome State Fault Refusal :=
  if !fnLive s fn || 8 ≤ ring then .next s
  else
    let R := fnRing (fnOf s fn) ring
    if ringSize R < (v - R.rhead).toNat then .next (malformed s)
    else .next (modRing s fn ring fun R => { R with rtail := v })

/-- A counter interrupt written and evaluated (R410). -/
def writeInt (s : State) (f v : Nat) (u : CtrInt → CtrInt) : State :=
  evalInt (modFn s f fun g => { g with ints := mset g.ints v (u (fnInt g v)) }) f v

/-- `CIEN` and `CIDX` written. -/
def execCien (fn vec : Nat) (v : Word) (s : State) : Host.Outcome State Fault Refusal :=
  if fnLive s fn && vec < 64 then
    .next (writeInt s fn vec fun c => { c with cien := v.getLsbD 63, cidx := v.extractLsb' 0 16 })
  else .next s

/-- `CITHR` written. -/
def execCithr (fn vec : Nat) (v : Word) (s : State) : Host.Outcome State Fault Refusal :=
  if fnLive s fn && vec < 64 then .next (writeInt s fn vec fun c => { c with cithr := v }) else .next s

/-- Bus Master Enable written in configuration space (R408). -/
def execBusMasterEnable (fn : Nat) (on : Bool) (s : State) : Host.Outcome State Fault Refusal :=
  if fn ≤ 128 && portUp s then .next (modFn s fn fun g => { g with bme := on }) else .next s

/-! ## The counter windows (R360) -/

/-- The handle of the system counter that holds an index now. -/
def indexHandle (s : State) (i : Nat) : Word :=
  mkHandle 3 (mgetD (homeOf s (homeKey 3 0)).entries i Ctr.init).gen 0 i

/-- The counter at a window offset, when the function may use it. -/
def windowCtr (s : State) (f : Nat) (reg : Nat) (r : Right) : Option Word :=
  let g := fnOf s f
  let h := indexHandle s (reg / 8)
  if g.check.bar2 && reg < 0x80000 && (homeCheck s h g.check.parcel.toNat (.parcel g.check.parcel.toNat) r).isNone
  then some h else none

/-- A write through a window: an add, or discarded and logged. -/
def windowWrite (s : State) (f reg size : Nat) (v : Word) : State :=
  let x : Word := if size = 4 then v &&& 0xFFFFFFFF else v
  if reg % 8 = 0 ∧ (size = 4 ∨ size = 8) ∧ x.toNat < 2 ^ 32 then
    match windowCtr s f reg .add with
    | some h => (meshAdd s .device (noOwner (fnOf s f).check.parcel.toNat) 0xFFFF h x).2
    | none => malformed s
  else malformed s

/-- A read through a window: the value or a half of it, or all ones. -/
def windowRead (s : State) (f reg size : Nat) : List Byte :=
  let ones : List Byte := List.replicate size 0xFF
  if reg % 8 = 0 ∧ size = 8 ∨ reg % 4 = 0 ∧ size = 4 then
    match windowCtr s f (reg / 8 * 8) .read with
    | some h => ((leBytes 8 (ctrOf s h).value.toNat).drop (reg % 8)).take size
    | none => ones
  else ones

/-- A BAR2 write (R288, R360). -/
def execBar2Write (fn reg size : Nat) (v : Word) (s : State) : Host.Outcome State Fault Refusal :=
  if fnLive s fn then .next (windowWrite s fn reg size v) else .next s

/-- A BAR2 read; all ones while the function is in reset (R360, R421). -/
def execBar2Read (fn reg size : Nat) (s : State) : Host.Outcome State Fault Refusal :=
  if 128 < fn || !portUp s then .next s
  else
    .next (sendUp s (.readData (if fnLive s fn then windowRead s fn reg size else List.replicate size 0xFF)))

/-- Whether the CXL port answers: its link is up and service firmware runs (R404). -/
def cxlPort (s : State) : Bool := s.host.cxlUp && s.mgmt.running.isSome

/-- A write through the CXL port's window, which acts for the physical function. -/
def execCxlCounterWindowWrite (reg size : Nat) (v : Word) (s : State) : Host.Outcome State Fault Refusal :=
  if cxlPort s then .next (windowWrite s 0 reg size v) else .next s

/-- A read through the CXL port's window. -/
def execCxlCounterWindowRead (reg size : Nat) (s : State) : Host.Outcome State Fault Refusal :=
  if cxlPort s then .next (sendUp s (.readData (windowRead s 0 reg size))) else .next s

/-! ## Spans of device memory -/

/-- A byte list at an address in pieces that do not cross a page. -/
def spanPieces (va : Word) (bs : List Byte) : List (Word × List Byte) :=
  (pagePieces va bs.length).map fun an => (an.1, (bs.drop (an.1 - va).toNat).take an.2)

/-- A span written piece by piece; the first fault ends it. -/
def writeSpan (p : Nat) : State → List (Word × List Byte) → WRes
  | s, [] => .ok s
  | s, (va, bs) :: rest =>
    match writeG s .device p (noOwner p) va bs with
    | .ok s => writeSpan p s rest
    | r => r

/-- A span read piece by piece. -/
def readSpan (p : Nat) : State → List (Word × List Byte) → GRes
  | s, [] => .ok s []
  | s, (va, bs) :: rest =>
    match readG s .device p va bs.length .read with
    | .ok s b =>
      match readSpan p s rest with
      | .ok s b' => .ok s (b ++ b')
      | r => r
    | r => r

/-- The physical ranges of pieces written, each once its endpoint has taken it. -/
def pieceRanges (s : State) (p : Nat) (ps : List (Word × List Byte)) : List (Nat × Nat) :=
  ps.filterMap fun x => match translate s .device p x.1 .write with
    | .ok pa _ => if endpointOk s p pa && !linkLost s pa && s.mesh.fail.isNone then some (pa, x.2.length) else none
    | _ => none

/-! ## Beginning an entry (R411 to R413) -/

/-- The index of the entry to be begun next. -/
def nextIndex (R : Ring) : BitVec 32 := R.rhead + BitVec.ofNat 32 R.begun.length

/-- Whether a ring takes entries (R408, R409). -/
def ringTakes (s : State) (f r : Nat) : Bool :=
  let g := fnOf s f
  fnLive s f && r < 8 && g.bme && (fnRing g r).en && ringSize (fnRing g r) != 0

/-- Whether an entry may begin: one is there, no WAIT holds the ring, and a FENCE or a WAIT finds every earlier
entry complete (R412). -/
def mayBegin (R : Ring) (e : RingEntry) : Bool :=
  R.rtail != nextIndex R && !(R.begun.any fun b => b.ent.opc == 4#8) &&
    ((!e.efl.getLsbD 0 && e.opc != 4#8) || R.begun.isEmpty)

/-- The length of a COPY and whether it goes to the host. -/
def copyLen (e : RingEntry) : Nat := (e.arg2.extractLsb' 0 32).toNat
def copyOut (e : RingEntry) : Bool := e.arg2.getLsbD 32

/-- Whether a COPY's operands are as R411 gives them. -/
def copyOk (e : RingEntry) : Bool :=
  e.arg2.toNat < 2 ^ 33 && copyLen e % 16 == 0 && 16 ≤ copyLen e && copyLen e ≤ 2 ^ 31

/-- The refusal of an entry by its form or by the check unit (R411, R413). -/
def entryRefusal (s : State) (f : Nat) (e : RingEntry) : Option FaultCode :=
  let n := e.opc.toNat
  if n = 0 ∨ 5 < n ∨ 1 < e.efl.toNat ∨ e.zero2 ≠ 0 ∨ e.zero28 ≠ 0 ∨ e.zero38 ≠ 0 then some .illegal
  else if !(fnOf s f).check.opMask.getLsbD n then some .foreign
  else if n = 2 ∧ !copyOk e then some .illegal
  else none

/-- An entry noted as begun. -/
def noteBegun (s : State) (f r : Nat) (e : RingEntry) (result : BitVec 32) (status : BitVec 8)
    (data : List Byte) (left : List Nat) : State :=
  modRing s f r fun R =>
    { R with begun := R.begun ++ [{ idx := nextIndex R, ent := e, result := result, status := status, data := data,
                                    left := left }] }

/-- THE NEXT ENTRY OF A RING BEGUN: a refusal becomes its status, else it acts; nothing happens when it may not
begin. -/
def takeEntry (fn ring : Nat) (e : RingEntry) (mine : Bool) (act : State → State) (s : State) :
    Host.Outcome State Fault Refusal :=
  if mine && ringTakes s fn ring && mayBegin (fnRing (fnOf s fn) ring) e then
    match entryRefusal s fn e with
    | some f => .next (noteBegun s fn ring e 0 f.code [] [])
    | none => .next (act s)
  else .next s

/-- The scope policy of a function (R414). -/
def fnPolicy (s : State) (f : Nat) : Policy :=
  let b := (fnOf s f).check.policy
  if b = 0#2 then .system else if b = 2#2 then .clamp else .trap

/-- The parcel of a function. -/
def fnParcel (s : State) (f : Nat) : Nat := (fnOf s f).check.parcel.toNat

/-- LAUNCH (R268, R411). A page of the descriptor that is missing is asked for first (R306, log 56). -/
def launchEntry (fn ring : Nat) (e : RingEntry) (s : State) : State :=
  let p := fnParcel s fn
  if e.arg0.toNat % 64 ≠ 0 then noteBegun s fn ring e 0 FaultCode.align.code [] []
  else
    match submitLaunch s (deviceSubmitter p (some fn) (fnPolicy s fn)) e.arg0 with
    | .ok s id => noteBegun s fn ring e (id.setWidth 32) 0 [] []
    | .full s => noteBegun s fn ring e 0 FaultCode.noentry.code [] []
    | .refused s f => noteBegun s fn ring e 0 f.code [] []
    | .unread t .xlate va =>
      noteBegun (blockedBy t p va false (.miss p va false)) fn ring e 0 FaultCode.xlate.code [] []
    | .unread s f _ => noteBegun s fn ring e 0 f.code [] []
    | .cap _ => s
    | .transit => blockedBy s p e.arg0 false .transit

/-- A ring LAUNCH. -/
def execRingLaunch (fn ring : Nat) (ent : RingEntry) (s : State) : Host.Outcome State Fault Refusal :=
  takeEntry fn ring ent (ent.opc == 1#8) (launchEntry fn ring ent) s

/-- A ring COPY begins: its parts move one by one. `data` is what the host's memory holds. -/
def execRingCopy (fn ring : Nat) (ent : RingEntry) (data : List (BitVec 8)) (s : State) :
    Host.Outcome State Fault Refusal :=
  takeEntry fn ring ent (ent.opc == 2#8 && (copyOut ent || decide (copyLen ent ≤ data.length)))
    (fun s => noteBegun s fn ring ent 0 0 (if copyOut ent then [] else data) (List.range (copyLen ent / 16))) s

/-- What the scope policy makes of a ring's counter operation (R141, R290): the code of the status, and the state in
which the operation then takes place. -/
def ringPolicy (s : State) (f : Nat) (h : Word) : BitVec 8 × State :=
  if hScope h = 3 then
    match fnPolicy s f with
    | .trap => (FaultCode.scope.code, s)
    | .clamp => (0, clamped s (fnParcel s f))
    | .system => (0, s)
  else (0, s)

/-- What an ADD comes to once it is made, as `cadd.rel`: its status, and the state after it (R141, R142, R411). -/
def ringAdd (s : State) (fn : Nat) (e : RingEntry) : State × BitVec 8 :=
  match hartHandle s (fnParcel s fn) e.arg0 .add with
  | some f => (s, f.code)
  | none =>
    if 2 ^ 32 ≤ e.arg1.toNat then (s, FaultCode.illegal.code)
    else
      let (st, s) := ringPolicy s fn e.arg0
      ((meshAdd s .device (noOwner (fnParcel s fn)) 0xFFFF e.arg0 e.arg1).2, st)

/-- A ring ADD begins. It is a release: it is made when every earlier entry has completed (R142, R412). -/
def execRingAdd (fn ring : Nat) (ent : RingEntry) (s : State) : Host.Outcome State Fault Refusal :=
  takeEntry fn ring ent (ent.opc == 3#8) (fun s => noteBegun s fn ring ent 0 0 [] []) s

/-- WAIT begins (R411). Under the TRAP policy it holds the ring too, and its status is then SCOPE (R141, log 30). -/
def waitEntry (fn ring : Nat) (e : RingEntry) (s : State) : State :=
  match hartHandle s (fnParcel s fn) e.arg0 .wait with
  | some f => noteBegun s fn ring e 0 f.code [] []
  | none =>
    let (st, s) := ringPolicy s fn e.arg0
    noteBegun s fn ring e 0 st [] []

/-- A ring WAIT: the ring is held until the entry completes. -/
def execRingWait (fn ring : Nat) (ent : RingEntry) (s : State) : Host.Outcome State Fault Refusal :=
  takeEntry fn ring ent (ent.opc == 4#8) (waitEntry fn ring ent) s

/-- A ring NOP, or an entry of no type. -/
def execRingNop (fn ring : Nat) (ent : RingEntry) (s : State) : Host.Outcome State Fault Refusal :=
  takeEntry fn ring ent (ent.opc.toNat == 0 || 5 ≤ ent.opc.toNat) (fun s => noteBegun s fn ring ent 0 0 [] []) s

/-! ## Parts of a COPY and completion (R411, R412) -/

/-- A begun entry of a ring changed. -/
def modBegun (s : State) (f r : Nat) (idx : BitVec 32) (u : Begun → Begun) : State :=
  modRing s f r fun R => { R with begun := R.begun.map fun b => if b.idx = idx then u b else b }

/-- A COPY that met a fault moves nothing more. -/
def failCopy (s : State) (f r : Nat) (idx : BitVec 32) (e : FaultCode) : State :=
  modBegun s f r idx fun b => { b with status := e.code, left := [] }

/-- One 16-byte part of a COPY moves, in no stated order. -/
def ringPart (s : State) (f r : Nat) (idx : BitVec 32) (k : Nat) : State :=
  match (fnRing (fnOf s f) r).begun.find? fun b => b.idx == idx && b.left.contains k with
  | none => s
  | some b =>
    if !(fnLive s f && (fnOf s f).bme) then s
    else
      let p := fnParcel s f
      let va := b.ent.arg1 + BitVec.ofNat 64 (16 * k)
      let fin (cl : List (Nat × Nat)) (s : State) : State := modBegun s f r idx fun b =>
        { b with left := b.left.filter fun j => j != k, covered := cl ++ b.covered }
      let miss (s : State) (e : FaultCode) : State :=
        let t := failCopy s f r idx e
        if e = .xlate then blockedBy t p va (!copyOut b.ent) (.miss p va (!copyOut b.ent)) else t
      if copyOut b.ent then
        match readSpan p s (spanPieces va (List.replicate 16 0)) with
        | .ok s bs => fin [] (sendUp s (.hostWrite f (b.ent.arg0 + BitVec.ofNat 64 (16 * k)) bs))
        | .fault s e => miss s e
        | .transit s => s
      else
        let ps := spanPieces va ((b.data.drop (16 * k)).take 16)
        match writeSpan p s ps with
        | .ok t => fin (pieceRanges s p ps) t
        | .fault e => miss s e
        | .transit t => t

/-- Whether a begun entry is done, as its counter stands: a WAIT whose handle fails its check ends with the code. -/
def entryDone (s : State) (f : Nat) (b : Begun) : Option (BitVec 8) :=
  if b.ent.opc = 4#8 ∧ (b.status = 0#8 ∨ b.status = FaultCode.scope.code) then
    match hartHandle s (fnParcel s f) b.ent.arg0 .wait with
    | some e => some e.code
    | none => if reached (ctrOf s b.ent.arg0).value b.ent.arg1 then some b.status else none
  else if b.status ≠ 0#8 then some b.status
  else if b.left.isEmpty then some 0
  else none

/-- The entry that completes next: the oldest begun one, once it is done (R412, R422; log 32). -/
def firstDone (s : State) (f : Nat) (bs : List Begun) : Option (Begun × BitVec 8) :=
  bs.head?.bind fun b => (entryDone s f b).map fun st => (b, st)

/-- AN ENTRY COMPLETES: `RESULT` and `STATUS`, the `DONEH` add when it was not refused, `RHEAD` (R412). -/
def execRingEntryComplete (fn ring : Nat) (s : State) : Host.Outcome State Fault Refusal :=
  let R := fnRing (fnOf s fn) ring
  if !(fnLive s fn && (fnOf s fn).bme) then .next s
  else
    match firstDone s fn R.begun with
    | none => .next s
    | some (b, st) =>
      let p := fnParcel s fn
      let at_ := (R.rbase &&& ~~~(63 : Word)) + BitVec.ofNat 64 (64 * (b.idx.toNat % ringSize R))
      let s := if st = 0#8 then { s with phys := clearCovered s.phys b.covered } else s
      let (s, st) := if b.ent.opc = 3#8 ∧ st = 0#8 then ringAdd s fn b.ent else (s, st)
      let s := sendUp s (.hostWrite fn (at_ + 0x30) (leBytes 4 b.result.toNat))
      let s := sendUp s (.hostWrite fn (at_ + 0x34) (leBytes 4 st.toNat))
      let s := if st = 0#8 then (devAdd s p b.ent.doneh 1).1 else s
      .next (modRing s fn ring fun R =>
        { R with rhead := R.rhead + 1, begun := R.begun.filter fun x => x.idx != b.idx })

/-! ## CXL.mem and host lines (R417, R438) -/

/-- The exposed range that holds `n` bytes, while its frames are still the parcel's. -/
def rangeAt (s : State) (pa n : Nat) : Option CxlRange :=
  s.host.cxl.find? fun r =>
    decide (r.base ≤ pa) && decide (pa + n ≤ r.base + 4096 * r.frames) &&
      (List.range n).all fun i => frameOwner s (pa + i) == r.parcel

/-- Whether the host's caches keep a copy of what it reads is the host's affair: a free choice for each half (R286,
log 3). -/
def hostKeeps (s : State) (pa n : Nat) : State :=
  (halvesOf pa n).foldl (fun s h =>
    let keep := Config.freeBool s.freeCtr
    { s with freeCtr := s.freeCtr + 1,
             phys := if keep then { s.phys with held := insertNat h s.phys.held } else s.phys }) s

/-- A host read of device memory: data with the poison indication, or all ones and a log entry. -/
def hostMemRead (s : State) (pa size : Nat) : State :=
  if !cxlPort s then s
  else
    match rangeAt s pa size with
    | some _ => sendUp (hostKeeps s pa size) (.memData (physBytes s.phys pa size) (anyPoison s.phys pa size))
    | none => sendUp (logEv s .cxlOutside) (.memData (List.replicate size 0xFF) false)

/-- A host read of device memory. -/
def execHostMemRead (pa size : Nat) (s : State) : Host.Outcome State Fault Refusal := .next (hostMemRead s pa size)

/-- A host write of device memory in a range with write access; discarded and logged otherwise. -/
def hostMemWrite (s : State) (pa : Nat) (data : List Byte) : State :=
  if !cxlPort s then s
  else if ((rangeAt s pa data.length).map fun r => r.write).getD false then
    { s with phys := physStore s.phys pa data }
  else logEv s .cxlOutside

/-- A host write of device memory. -/
def execHostMemWrite (pa : Nat) (data : List (BitVec 8)) (s : State) : Host.Outcome State Fault Refusal :=
  .next (hostMemWrite s pa data)

/-- One of the two HDM decoders programmed (R416). -/
def hdmWrite (s : State) (i : Nat) (d : HdmDec) : State :=
  if i < 2 && cxlPort s then { s with host := { s.host with hdm := mset s.host.hdm i d } } else s

/-- The device address that a decoder gives a range of host addresses, if one covers it (R416). -/
def hdmPa (s : State) (hpa n : Nat) : Option Nat :=
  (s.host.hdm.find? fun kd => decide (kd.2.base ≤ hpa ∧ hpa + n ≤ kd.2.base + kd.2.size)).map fun kd =>
    kd.2.dpa + (hpa - kd.2.base)

/-- A host read through the decoders; an address that none decodes is not the device's. -/
def hdmRead (s : State) (hpa n : Nat) : State := ((hdmPa s hpa n).map fun pa => hostMemRead s pa n).getD s

/-- A host write through the decoders. -/
def hdmStore (s : State) (hpa : Nat) (bs : List Byte) : State :=
  ((hdmPa s hpa bs.length).map fun pa => hostMemWrite s pa bs).getD s

/-- The host's caches drop their copy of a half of device memory (R286). -/
def hostDrop (s : State) (half : Nat) : State :=
  { s with phys := { s.phys with held := s.phys.held.filter fun h => h != half } }

/-- The data a snoop gets: those of a half held in M. -/
def snoopAnswer (s : State) (pa : Nat) : Option (List Byte) :=
  if lineSt s.phys pa = .m then some (physBytes s.phys (pa / 64 * 64) 64) else none

/-- The sectors of a half leave their line; a line with none left leaves the L2. -/
def dropHalf (p : Phys) (half : Nat) : Phys :=
  match mget p.l2 (half / 2) with
  | none => p
  | some L =>
    let v := L.valid &&& (if half % 2 = 0 then 12#4 else 3#4)
    { p with l2 := if v = 0#4 then merase p.l2 (half / 2) else mset p.l2 (half / 2) { L with valid := v } }

/-- A snoop of a host half-line: the answer, with the poison indication where the half holds poison (R394), and its state
after it. What was dirty is the host's again. -/
def snoop (s : State) (pa : Nat) (st : LineSt) : State :=
  let ans := snoopAnswer s pa
  let bad := ans.isSome && anyPoison s.phys (pa / 64 * 64) 64
  let p := setLine s.phys pa st
  let p := if ans.isSome then { p with backing := p.backing.filter fun kb => kb.1 / 64 != pa / 64 } else p
  let p := if st = .i then breakReservations (dropHalf p (pa / 64)) pa 1 else p
  sendUp { s with phys := p } (.snoopData ans bad)

/-- Whether a snoop can arrive: of host memory, at a CXL port that answers. -/
def snoopable (s : State) (pa : Nat) : Bool := cxlPort s && region pa == .host

/-- SnpData: M or E become S, S stays. -/
def execSnpData (pa : Nat) (s : State) : Host.Outcome State Fault Refusal :=
  if snoopable s pa then .next (snoop s pa (if lineSt s.phys pa = .i then .i else .s)) else .next s

/-- SnpInv: any state becomes I. -/
def execSnpInv (pa : Nat) (s : State) : Host.Outcome State Fault Refusal :=
  if snoopable s pa then .next (snoop s pa .i) else .next s

/-- Whether the host may change bytes of its own memory without a snoop: the L2 holds no half of them (R438). -/
def hostFree (s : State) (pa n : Nat) : Bool :=
  (List.range n).all fun i => region (pa + i) == .host && lineSt s.phys (pa + i) == .i

/-- The host stores to its own memory, in halves that the L2 does not hold (R287, R438). -/
def hostStore (s : State) (pa : Nat) (bs : List Byte) : State :=
  if hostFree s pa bs.length then
    { s with phys := clearCovered { s.phys with mem := memSetList s.phys.mem pa bs } [(pa, bs.length)] }
  else s

/-- A half of the host's memory becomes poisoned at the host: its next arrival carries the indication (R394). -/
def hostPoison (s : State) (pa : Nat) : State :=
  if hostFree s (pa / 64 * 64) 64 then { s with phys := poisonAt s.phys pa } else s

end Sys2Proof.Machine
end

