-- ==== Sys2Proof/Machine/Peers.lean ====
section
/-!
DEFINITION. Peer devices over Ultra Ethernet (R289, R361, R418, R420).
-/
namespace Sys2Proof.Machine
open Sys2Proof

/-- The check of a peer's counter operation, in which the connection is the agent and needs a grant (R354, R361). -/
def peerCheck (s : State) (conn : Nat) (h : Word) (r : Right) : Option FaultCode :=
  if hLow h ≠ 0 ∨ hScope h ≠ 3 then some .illegal
  else if !homeExists h then some .stale
  else homeCheck s h 64 (.connection conn) r

/-- The pieces of a peer copy written; true when each one was. A piece without write permission is dropped with a
kind 8 entry (R386, R420). -/
def peerWrites (p : Nat) : State → List (Word × List Byte) → State × Bool
  | s, [] => (s, true)
  | s, (va, bs) :: rest =>
    match translate s .device p va .write with
    | .ok pa _ =>
      let s1 := match writeG s .device p (noOwner p) va bs with
        | .ok t => t
        | _ => s
      let (s2, ok) := peerWrites p s1 rest
      (s2, ok && endpointOk s p pa && !linkLost s pa && s.mesh.fail != some .request)
    | _ =>
      let pa := mappedPa s .device p va
      let s1 := faultEntry (missWalk s .device p va) p (fent 8 0 0xFFFF 0 0 va (BitVec.ofNat 64 pa))
      ((peerWrites p s1 rest).1, false)

/-- A piece in a page that is in transit or missing keeps the copy waiting (R303, R306, log 56). -/
def awaitPieces (s : State) (p : Nat) (ps : List (Word × List Byte)) : State :=
  ps.foldl (fun s x => match translate s .device p x.1 .write with
    | .transit => blockedBy s p x.1 true .transit
    | .fault .xlate => blockedBy s p x.1 true (.miss p x.1 true)
    | _ => s) s

/-- A PEER COPY with its completion add, which covers its writes (R289, R420). -/
def execPeerCopy (conn : Nat) (va : Word) (data : List (BitVec 8)) (ctr : Option Word) (s : State) :
    Host.Outcome State Fault Refusal :=
  match mget s.host.conns conn with
  | none => .next s
  | some C =>
    let ps := spanPieces va data
    let s := awaitPieces s C.parcel ps
    if s.blocked.isSome then .next s
    else
      let (s, ok) := peerWrites C.parcel s ps
      match ctr with
      | none => .next s
      | some h =>
        if !ok then .next s
        else
          match peerCheck s conn h .add with
          | some _ => .next (logEv s (.refusedPeer conn))
          | none => .next (meshAdd s .device (noOwner C.parcel) 0xFFFF h 1).2

/-- The right that a peer message needs. -/
def peerRight : PeerOp → Right
  | .add => .add | .read => .read | .wait => .wait

/-- The refusal of a peer message (R361); a read or wait whose message to the home fails its check is answered as a refused
one (R402). -/
def peerRefusal (s : State) (conn : Nat) (m : PeerMsg) : Option FaultCode :=
  match peerCheck s conn m.handle (peerRight m.op) with
  | some f => some f
  | none =>
    if m.op = .add ∧ 2 ^ 32 ≤ m.amount.toNat then some .illegal
    else if m.op ≠ .add ∧ s.mesh.fail = some .request then some .foreign
    else none

/-- A request id noted, so that a duplicate is not applied again. -/
def noteReq (C : Conn) (req : BitVec 32) : Conn := { C with applied := C.applied ++ [req] }

/-- A PEER COUNTER MESSAGE (R361). -/
def execPeerCounterMessage (conn : Nat) (msg : PeerMsg) (s : State) : Host.Outcome State Fault Refusal :=
  match mget s.host.conns conn with
  | none => .next s
  | some C =>
    if C.applied.contains msg.req then .next s
    else
      match peerRefusal s conn msg with
      | some f =>
        let s := if msg.op ≠ .add ∧ s.mesh.fail = some .request then meshSpent s else s
        .next (sendUp (logEv s (.refusedPeer conn)) (.peerNak conn msg.req f))
      | none =>
        let s := setConn s conn (noteReq C msg.req)
        match msg.op with
        | .add =>
          let (old, s) := meshAdd s .device (noOwner C.parcel) 0xFFFF msg.handle msg.amount
          .next (sendUp s (.peerAck conn msg.req old))
        | .read =>
          let s := homeMsg s .device C.parcel msg.handle
          .next (sendUp s (.peerAck conn msg.req (ctrOf s msg.handle).value))
        | .wait =>
          let C := noteReq C msg.req
          let s := homeMsg s .device C.parcel msg.handle
          .next (setConn s conn { C with waits := C.waits ++ [(msg.req, msg.handle, msg.amount)] })

/-- A wait of a connection removed. -/
def dropWait (s : State) (conn : Nat) (C : Conn) (req : BitVec 32) : State :=
  setConn s conn { C with waits := C.waits.filter fun w => w.1 != req }

/-- A peer wait answered once its threshold is reached; one whose counter was freed is refused (R361). -/
def execPeerWaitAnswer (conn : Nat) (req : BitVec 32) (s : State) : Host.Outcome State Fault Refusal :=
  match mget s.host.conns conn with
  | none => .next s
  | some C =>
    match C.waits.find? fun w => w.1 == req with
    | none => .next s
    | some w =>
      match peerCheck s conn w.2.1 .wait with
      | some f => .next (sendUp (logEv (dropWait s conn C req) (.refusedPeer conn)) (.peerNak conn req f))
      | none =>
        if reached (ctrOf s w.2.1).value w.2.2 then
          .next (sendUp (dropWait s conn C req) (.peerAck conn req (ctrOf s w.2.1).value))
        else .next s

/-- The transport gives up (R418). -/
def execConnectionFailure (conn : Nat) (s : State) : Host.Outcome State Fault Refusal := .next (endConn s conn)

end Sys2Proof.Machine
end

