-- ==== Sys2Proof/Machine/Fetch.lean ====
section
/-!
DEFINITION. Fetching and scheduling: what the agent whose turn it is does next (R42, R49, R235, R239, R256), what the
moves of the agenda do (log 1), the faults of a fetch and of an illegal word, and where a word is placed so that the
next step runs it.
-/
namespace Sys2Proof.Machine
open Sys2Proof

/-! ## Fetching -/

/-- The little-endian word of four bytes. -/
def fetchedWord (bs : List Byte) : BitVec 32 := BitVec.ofNat 32 (leNat bs)

/-- The result of fetching an instruction word. -/
inductive Fetched where
  | word (s : State) (w : BitVec 32)
  | fault (s : State) (f : FaultCode)
  | transit (s : State)

/-- A line put in the fetch cache of a core's section with what it was filled from; one that holds poison is not kept
(R324). -/
def fillCode (s t : State) (c p : Nat) (va : Word) (pa : Nat) : State :=
  let at_ := pa / 64 * 64
  if anyPoison s.phys at_ 64 then t
  else
    holdCode t (sectOf c)
      { parcel := p, line := pa / 64, vpn := vaOf va / 4096, bytes := physBytes s.phys at_ 64 }

/-- The word at a virtual address of a parcel, for a stream of a core (R42): from the line that its section's fetch cache
holds, whatever has been stored since, or from memory (R324). -/
def fetchWord (s : State) (c p : Nat) (va : Word) : Fetched :=
  match translate s (.core c) p va .fetch with
  | .transit => .transit (missWalk s (.core c) p va)
  | .fault f => .fault s f
  | .ok pa l =>
    match codeFind s.xl (sectOf c) p (pa / 64) with
    | some bs =>
      .word (settleRetry (walked s (.core c) p (parcelOf s p).root (vaOf va) l false) (.core c) va)
        (fetchedWord ((bs.drop (pa % 64)).take 4))
    | none =>
      match readX s (.core c) p va 4 (.ok pa l) with
      | .ok t bs => .word (fillCode s t c p va pa) (fetchedWord bs)
      | .fault t f => .fault t f
      | .transit t => .transit t

/-- The word fetched is noted for the record of a fault, in every member of the gang (R32, R186). -/
def noteWord (s : State) (c : Nat) (xs : Bool) (w : BitVec 32) : State :=
  (gangOf s c).foldl (fun s m => modCore s m fun k => modStr k xs fun st => { st with ir := w }) s

/-- An illegal Cuvos word faults with ILLEGAL whatever its guard (R49). That the word is illegal is what the event
says: a step takes it only of a word that the decoder refuses. -/
def execIllegalInstruction (core : Nat) (xs : Bool) (word : BitVec 32) (s : State) :
    Host.Outcome State Fault Refusal :=
  if (coreOf s core).run.isNone then .next s
  else .next (strandFault (noteWord s core xs word) core xs .illegal 0)

/-- A failed fetch faults at its address; the word that the record logs is then free, for there is none (R32,
R42). -/
def execInstructionFetchFault (core : Nat) (xs : Bool) (s : State) : Host.Outcome State Fault Refusal :=
  let k := coreOf s core
  match k.run with
  | none => .next s
  | some r =>
    match fetchWord s core r.own.parcel (strOf k xs).pc with
    | .fault s f =>
      let w := (Config.freeWord s.freeCtr).extractLsb' 0 32
      let s := noteWord { s with freeCtr := s.freeCtr + 1 } core xs w
      .next (takeFault s core xs f (strOf k xs).pc .fetch)
    | _ => .next s

/-! ## The work of an agent -/

/-- What a step has to do: an instruction or event from a state, nothing more, or an agent that does not exist. -/
inductive Work where
  | instr (i : Instr) (s : State)
  | idle (s : State)
  | noAgent

/-- Whether a stream waits before it fetches: for a ticket, or to post a token (R23, R307, R391). -/
def fetchWaits (s : State) (k : Core) (xs : Bool) : Bool :=
  ((strOf k xs).hold.map fun t => !ticketReached s t).getD false ||
    ((strOf k xs).pendT.isSome && tokens k (!xs) == 15#4)

/-- The work of a stream of a core. A member of a gang that does not lead it fetches nothing (R186). -/
noncomputable def streamWork (xs : Bool) (c : Nat) (s : State) : Work :=
  let k := coreOf s c
  match k.run with
  | none => .idle s
  | some r =>
    if r.logsz ≠ 0#4 ∧ r.member ≠ 0#4 then .idle s
    else if fetchWaits s k xs then
      .idle (markWait s c xs (if (strOf k xs).pendT.isSome then .token else .other))
    else
      match fetchWord s c r.own.parcel (strOf k xs).pc with
      | .transit s => .idle (markWait s c xs .other)
      | .fault _ _ => .instr (.instructionFetchFault c xs) s
      | .word s w =>
        match decode? (if xs then .execute else .access) w with
        | some i => .instr i (noteWord s c xs w)
        | none => .instr (.illegalInstruction c xs w) s

/-- The work of a sampler sequencer: the parameters of its run, or the run's next word (R235, R239). -/
noncomputable def samplerWork (c : Nat) (s : State) : Work :=
  let rs := (coreOf s c).eng.runs
  match rs.find? fun r => r.st != .atSync && r.free s with
  | none => .idle s
  | some r =>
    if r.st = .loading then .idle (loadParams s c r)
    else
      match utFetch s c r with
      | .trap t => .idle (runFault t c r)
      | .miss va => .idle (holdRun s c r va)
      | .wait s => .idle s
      | .word s w =>
        match decode? .utgen w with
        | some i => .instr i s
        | none => .instr (.utgenIllegalWord c (rs.findIdx fun x => x.seq == r.seq)) s

/-- A fetched word of a hart: one of the custom spaces, or RISC-V's (log 14). -/
noncomputable def hartWord (h : Nat) (w : BitVec 32) (s : State) : Work :=
  let s := setHart s h { hartOf s h with ir := w }
  if !isCustom w then .idle (rvStep h w 4 s)
  else
    match decode? .custom w with
    | some i => .instr i s
    | none => .instr (.customIllegalInstruction h w) s

/-- A fetched halfword of a hart that is a compressed instruction (log 14). -/
def hartHalf (h : Nat) (c : BitVec 16) (s : State) : State :=
  match expandC c with
  | some w => rvStep h w 2 s
  | none => rvIllegal s h (c.setWidth 32)

/-- The work of a hart: an interrupt, or its next instruction; one that waits in a `dv.cwait` carries on with it
(R265). -/
noncomputable def hartWork (h : Nat) (s : State) : Work :=
  let H := hartOf s h
  match dueInt s H with
  | some i => .idle (takeInt s h i)
  | none =>
    if H.waitSince.isSome then hartWord h H.ir s
    else
      match hartRead s h H.pc 2 .fetch with
      | .transit s => .idle s
      | .fault s f a ga => .idle (rvFault s h f .fetch a ga)
      | .ok s lo =>
        if leNat lo % 4 ≠ 3 then .idle (hartHalf h (BitVec.ofNat 16 (leNat lo)) s)
        else
          match hartRead s h (H.pc + 2) 2 .fetch with
          | .transit s => .idle s
          | .fault s f a ga => .idle (rvFault s h f .fetch a ga)
          | .ok s hi => hartWord h (fetchedWord (lo ++ hi)) s

/-- The work of the agent whose turn it is. -/
noncomputable def agentWork (s : State) : Work :=
  match s.turn with
  | .acc c => if coreExists c then streamWork false c s else .noAgent
  | .exe c => if coreExists c then streamWork true c s else .noAgent
  | .smp c => if coreExists c then samplerWork c s else .noAgent
  | .hart h => if h < Config.numHarts then hartWork h s else .noAgent

/-- Whether an event can happen on its own: an encoded instruction comes only from a fetch, and an illegal word is
one that the decoder refuses. -/
noncomputable def eventOk (i : Instr) : Bool :=
  match i with
  | .illegalInstruction _ xs w => (decode? (if xs then .execute else .access) w).isNone
  | i => i.map?.isNone

/-- What a move of the environment does (log 1). -/
def moveEffect (s : State) : Move → State
  | .idle n => { s with cycle := s.cycle + n }
  | .copyPart c k => copyPart s c k
  | .writeBack l => { s with phys := writeBackLine s.phys l }
  | .evict l => evictLine s l
  | .forget k u i => { s with xl := forget s.xl k u i }
  | .foundError h => foundError s h
  | .meshFail f => meshFails s f
  | .hostStore pa bs => hostStore s pa bs
  | .hostPoison pa => hostPoison s pa
  | .ringPart f r idx k => ringPart s f r idx k
  | .respond => respond s
  | .mappedRead h rd page off => mappedRead s h rd page off
  | .request bs => request s bs
  | .setGrace us => setGrace s us
  | .bar0Read f reg n => bar0Read s f reg n
  | .msixWrite f v e => msixWrite s f v e
  | .configRead f => configRead s f
  | .portReady => portReady s
  | .hdmWrite i d => hdmWrite s i d
  | .hdmRead hpa n => hdmRead s hpa n
  | .hdmStore hpa bs => hdmStore s hpa bs
  | .hostDrop h => hostDrop s h
  | .securityCore up => securityCore s up
  | .hartLines h v => hartLines s h v
  | .run _ => s
  | .event _ => s

/-- The work of a move (log 1). -/
noncomputable def moveWork (m : Move) (s : State) : Work :=
  match m with
  | .run a => agentWork { s with turn := a }
  | .event i => if eventOk i then .instr i s else .idle s
  | m => .idle (moveEffect s m)

/-- The state without the agenda's first move. -/
def popped (s : State) : State := { s with agenda := s.agenda.tail }

/-- What the next step does: the agenda's first move, or the agent whose turn it is. -/
noncomputable def nextWork (s : State) : Work :=
  match s.agenda with
  | [] => agentWork s
  | m :: ms => moveWork m { s with agenda := ms }

/-- One cycle passes. -/
def tick (s : State) : State := { s with cycle := s.cycle + 1 }

/-! ## Placing a word -/

/-- Where `withFetchWord` places the page table, the word and its address in both streams. -/
def placeRoot : Nat := 0x1000
/-- The address of the placed word, virtual and physical. -/
def placeAt : Nat := 0x2000
/-- A leaf over the lowest 512 GiB with every right. -/
def placePte : Nat := 0xDF

/-- Memory with the page table and a word in it. -/
def placeMem (m : Memory) (w : BitVec 32) : Memory :=
  memSetList (memSetList m placeRoot (leBytes 8 placePte)) placeAt (bytesOfWord w)

/-- The strand that runs the placed word. -/
def placedOwner : Owner := { parcel := 0, launch := 0, rcd := 0x3000 }

/-- Its identity on core 0: a window of 4,096 bytes. -/
def placeRun : Running :=
  { slot := 0, own := placedOwner, lbase := 0, lsize := 4096, coord := 0, levels := bfill 3 0, irv := false, logsz := 0,
    member := 0 }

/-- A stream at the placed word. -/
def placeStr (st : Stream) : Stream := { st with pc := BitVec.ofNat 64 placeAt, hold := none, pendT := none }

/-- Core 0 with a strand at the placed word. -/
def placeCore (k : Core) : Core :=
  modStr (modStr { k with run := some placeRun } false placeStr) true placeStr

/-- A sampler slot whose program is the placed word. -/
def placeSlot : Slot :=
  { own := placedOwner, addr := 0,
    desc := { seed := 0, vocab := 0, slen := 0, prog := 0, budget := 65536, fallback := 0, forcetok := 0, biasaddr := 0,
              biascnt := 0, tag := 0, maskaddr := 0, paramaddr := 0, resaddr := 0, resctr := 0, candaddr := 0 },
    slice := 0, w0 := 0, ws := 0, countAddr := 0, logitAddr := BitVec.ofNat 64 placeAt, drafts := [], draftSet := 0 }

/-- A run at the placed word. -/
def placeSmpRun : Run :=
  { slot := 0, bind := placeSlot, key := { parcel := 0, desc := 0, pos := 0, pass := 0 }, pc := 0, g := bfill 4 0,
    phase := 1, charged := 0, st := .running, own := placedOwner, seq := 0, hold := none }

/-- A state in which parcel 0 exists, owns section 0 and the frames used, and finds the word. -/
def placeBase (s : State) (w : BitVec 32) : State :=
  { s with agenda := [],
           parcels := mset s.parcels 0 { parcelOf s 0 with exists_ := true, root := placeRoot },
           cad := { s.cad with sectOwner := s.cad.sectOwner.set 0 0 },
           phys := { s.phys with mem := placeMem s.phys.mem w, l2 := [], windows := [], views := [], backing := [],
                                 poison := [], frames := mset (mset s.phys.frames 1 0) 2 0 },
           xl := Xlat.init, mesh := { s.mesh with fail := none }, blocked := none, devMiss := [] }

/-- A state whose next step fetches a word in the map that the table reads it in. -/
noncomputable def placeWord (s : State) (w : BitVec 32) : State :=
  let s := placeBase s w
  match tableMap w with
  | .access => { setCore s 0 (placeCore (coreOf s 0)) with turn := .acc 0 }
  | .execute => { setCore s 0 (placeCore (coreOf s 0)) with turn := .exe 0 }
  | .utgen =>
    { modCore s 0 fun k => { k with eng := { k.eng with runs := [placeSmpRun] } } with turn := .smp 0 }
  | .custom =>
    { setHart s 0 { hartOf s 0 with pc := BitVec.ofNat 64 placeAt, mode := .m, owner := 0, waitSince := none,
                                    csr := resetCsrs } with
      turn := .hart 0 }

end Sys2Proof.Machine
end

