-- ==== Sys2Proof/Machine/Vector.lean ====
section
/-!
DEFINITION. The vector unit: elements, activity and the command queue (R189 to R193), and every vector
instruction (R195 to R209). Results are computed at issue; the queue holds what has not completed (log 8).
-/
namespace Sys2Proof.Machine
open Sys2Proof

/-! ## Elements and activity (R16, R189, R190) -/

/-- The shape an instruction reads at issue. -/
structure Shape where
  nr : Nat
  nc : Nat
  kind : Nat
  w : Nat
  deriving DecidableEq, Repr

/-- The shape in force on a core. -/
def shapeOf (k : Core) : Shape :=
  { nr := shRows k.vec.shape, nc := shCols k.vec.shape, kind := shKind k.vec.shape,
    w := kindSize (shKind k.vec.shape) }

/-- The `w` bytes at a byte offset of a register. -/
def elemAt (x : VBits) (off w : Nat) : Nat := (x.extractLsb' (8 * off) (8 * w)).toNat

/-- The `w` bytes at a byte offset replaced. -/
def setElem (x : VBits) (off w v : Nat) : VBits :=
  (x &&& ~~~(BitVec.ofNat 16384 (2 ^ (8 * w) - 1) <<< (8 * off))) |||
    (BitVec.ofNat 16384 (v % 2 ^ (8 * w)) <<< (8 * off))

/-- Whether row `i` is not gated (R28). -/
def rowOn (k : Core) (i : Nat) : Bool := i < k.vec.vcnt.toNat

/-- Whether a position is active under a guard mask (R190). -/
def active (k : Core) (h : Hdr) (sh : Shape) (e : Nat) : Bool :=
  rowOn k (e / sh.nc) && (mGet k h.g).getLsbD e

/-- A register with the positions that `on` allows written by `f`: offset, value and flags of each, over
`n` positions; the flags are ORed (R84). -/
def mapElems (old : VBits) (w n : Nat) (on : Nat → Bool) (off : Nat → Nat) (f : Nat → FpRes) :
    VBits × Flags :=
  (List.range n).foldl (fun (acc : VBits × Flags) e =>
    if on e then (setElem acc.1 (off e) w (f e).1, acc.2 ||| (f e).2) else acc) (old, 0)

/-- The scalar or vector operand b of an elementwise instruction (R191). -/
def opB (k : Core) (sh : Shape) (b : BitVec 5) (x : BitVec 1) (e : Nat) : Nat :=
  if x = 1#1 then (sGet k b).toNat % 2 ^ (8 * sh.w) else elemAt (vGet k b) (e * sh.w) sh.w

/-- A vector instruction enters the unit's queue with its results and flags made, unless it faults with
FPINV or the queue is full (R192, R193). -/
def vecDone (h : Hdr) (c : Nat) (s : State) (r : Core × Flags) : Eff :=
  if fpInv (coreOf s c) r.2 then .trap s c .fpinv 0 .read
  else if 8 ≤ (coreOf s c).vec.vq.length then .wait s .other
  else
    let k := orFlags r.1 r.2
    .done (setCore s c { k with vec := { k.vec with vq := k.vec.vq ++ [{ tok := h.t, pc := k.x.str.pc }] } }) .seq false

/-- A vector instruction that accepts some kinds; under others it is ILLEGAL (R189). -/
def vecInst (kinds : Nat → Bool) (f : Core → Shape → Core × Flags) (h : Hdr) (c : Nat) (s : State) : Eff :=
  let k := coreOf s c
  let sh := shapeOf k
  if !kinds sh.kind then .trap s c .illegal 0 .read else vecDone h c s (f k sh)

/-- The kinds accepted (R189). -/
def kFloat (n : Nat) : Bool := n == 1 || n == 2 || n == 3
def kF32 (n : Nat) : Bool := n == 1
def kInt (n : Nat) : Bool := n == 4 || n == 5 || n == 6 || n == 0
def kFcmp (n : Nat) : Bool := kFloat n || n == 7 || n == 8
def kI8 (n : Nat) : Bool := n == 6 || n == 0
def kAll (n : Nat) : Bool := n ≤ 8
/-- Whether a kind is a floating-point kind. -/
def isFloat (n : Nat) : Bool := kFcmp n

/-- The format of a floating-point kind. -/
def fmtOf (n : Nat) : Fmt :=
  match n with
  | 2 => .bf16 | 3 => .f16 | 7 => .e4m3 | 8 => .e5m2 | _ => .f32

/-- An elementwise result of the shape's kind. -/
def elementwise (h : Hdr) (d : BitVec 5) (f : Core → Shape → Nat → FpRes) (k : Core) (sh : Shape) :
    Core × Flags :=
  let r := mapElems (vGet k d) sh.w (sh.nr * sh.nc) (active k h sh) (fun e => e * sh.w) (f k sh)
  (vSet k d r.1, r.2)

/-- An elementwise FP instruction of two sources (R196). -/
def vf2 (f : Fmt → Nat → Nat → FpRes) (h : Hdr) (d a b : BitVec 5) (x : BitVec 1) (s : State) :
    Host.Outcome State Fault Refusal :=
  vInst h (vecInst kFloat (elementwise h d fun k sh e =>
    f (fmtOf sh.kind) (elemAt (vGet k a) (e * sh.w) sh.w) (opB k sh b x e)) h) s
/-- An elementwise FP instruction of one source. -/
def vf1 (kinds : Nat → Bool) (f : Fmt → Nat → FpRes) (h : Hdr) (d a : BitVec 5) (s : State) :
    Host.Outcome State Fault Refusal :=
  vInst h (vecInst kinds (elementwise h d fun k sh e =>
    f (fmtOf sh.kind) (elemAt (vGet k a) (e * sh.w) sh.w)) h) s
/-- A fused elementwise instruction: d is the addend (R197). -/
def vf3 (np nc : Bool) (h : Hdr) (d a b : BitVec 5) (x : BitVec 1) (s : State) :
    Host.Outcome State Fault Refusal :=
  vInst h (vecInst kFloat (elementwise h d fun k sh e =>
    fpFma (fmtOf sh.kind) true np nc (elemAt (vGet k a) (e * sh.w) sh.w) (opB k sh b x e)
      (elemAt (vGet k d) (e * sh.w) sh.w)) h) s

/-! ## Queue moves (R195) -/

/-- `vpop`. -/
def vpopBody (h : Hdr) (d : BitVec 5) (c : Nat) (s : State) : Eff :=
  let k := coreOf s c
  match vlqHead k with
  | none => .wait s .queue
  | some e => vecDone h c s (vSet (vlqPop s k) d e.data, 0)
/-- `vpush` and `vpush.eos`. -/
def vpushBody (h : Hdr) (a : BitVec 5) (eos : Bool) (c : Nat) (s : State) : Eff :=
  let k := coreOf s c
  if 4 ≤ k.sh.vsq.length then .wait s .queue else vecDone h c s (vsqPush s k (vGet k a) eos, 0)

/-- `vpop` (R195). -/
def execVpop (h : Hdr) (d : BitVec 5) (s : State) : Host.Outcome State Fault Refusal :=
  xInst h (vpopBody h d) s
/-- `vpush` (R195). -/
def execVpush (h : Hdr) (a : BitVec 5) (s : State) : Host.Outcome State Fault Refusal :=
  xInst h (vpushBody h a false) s
/-- `vpush.eos` (R195). -/
def execVpushEos (h : Hdr) (a : BitVec 5) (s : State) : Host.Outcome State Fault Refusal :=
  xInst h (vpushBody h a true) s

/-! ## VFP and VFMA (R196, R197) -/

/-- `vfadd` (R196). -/
def execVfadd (h : Hdr) (d a b : BitVec 5) (x : BitVec 1) (s : State) : Host.Outcome State Fault Refusal :=
  vf2 (fun f => fpAdd f true) h d a b x s
/-- `vfsub` (R196). -/
def execVfsub (h : Hdr) (d a b : BitVec 5) (x : BitVec 1) (s : State) : Host.Outcome State Fault Refusal :=
  vf2 (fun f => fpSub f true) h d a b x s
/-- `vfmul` (R196). -/
def execVfmul (h : Hdr) (d a b : BitVec 5) (x : BitVec 1) (s : State) : Host.Outcome State Fault Refusal :=
  vf2 (fun f => fpMul f true) h d a b x s
/-- `vfdiv` (R196). -/
def execVfdiv (h : Hdr) (d a b : BitVec 5) (x : BitVec 1) (s : State) : Host.Outcome State Fault Refusal :=
  vf2 (fun f => fpDiv f true) h d a b x s
/-- `vfmin` (R196). -/
def execVfmin (h : Hdr) (d a b : BitVec 5) (x : BitVec 1) (s : State) : Host.Outcome State Fault Refusal :=
  vf2 (fun f => fpMinMax f true false) h d a b x s
/-- `vfmax` (R196). -/
def execVfmax (h : Hdr) (d a b : BitVec 5) (x : BitVec 1) (s : State) : Host.Outcome State Fault Refusal :=
  vf2 (fun f => fpMinMax f true true) h d a b x s
/-- `vfabs`: input flush, then the sign cleared (R82, R196). -/
def execVfabs (h : Hdr) (d a : BitVec 5) (s : State) : Host.Outcome State Fault Refusal :=
  vf1 kFloat (fun f x => (flushIn f x % 2 ^ (f.width - 1), 0)) h d a s
/-- `vfneg`: input flush, then the sign inverted (R82, R196). -/
def execVfneg (h : Hdr) (d a : BitVec 5) (s : State) : Host.Outcome State Fault Refusal :=
  vf1 kFloat (fun f x => (fpNeg f (flushIn f x), 0)) h d a s
/-- `vfsqrt` (R196). -/
def execVfsqrt (h : Hdr) (d a : BitVec 5) (s : State) : Host.Outcome State Fault Refusal :=
  vf1 kFloat (fun f => fpSqrt f true) h d a s
/-- `vfrcp` (R196). -/
def execVfrcp (h : Hdr) (d a : BitVec 5) (s : State) : Host.Outcome State Fault Refusal :=
  vf1 kFloat (fun f => fpRcp f true) h d a s
/-- `vfrsq` (R196). -/
def execVfrsq (h : Hdr) (d a : BitVec 5) (s : State) : Host.Outcome State Fault Refusal :=
  vf1 kFloat (fun f => fpRsq f true) h d a s
/-- `vexp2` (R196). -/
def execVexp2 (h : Hdr) (d a : BitVec 5) (s : State) : Host.Outcome State Fault Refusal :=
  vf1 kF32 (fun _ => exp2t) h d a s
/-- `vlog2` (R196). -/
def execVlog2 (h : Hdr) (d a : BitVec 5) (s : State) : Host.Outcome State Fault Refusal :=
  vf1 kF32 (fun _ => log2t) h d a s
/-- `vtanh` (R196). -/
def execVtanh (h : Hdr) (d a : BitVec 5) (s : State) : Host.Outcome State Fault Refusal :=
  vf1 kF32 (fun _ => tanht) h d a s
/-- `vffma` (R197). -/
def execVffma (h : Hdr) (d a b : BitVec 5) (x : BitVec 1) (s : State) : Host.Outcome State Fault Refusal :=
  vf3 false false h d a b x s
/-- `vffms` (R197). -/
def execVffms (h : Hdr) (d a b : BitVec 5) (x : BitVec 1) (s : State) : Host.Outcome State Fault Refusal :=
  vf3 false true h d a b x s
/-- `vfnfma` (R197). -/
def execVfnfma (h : Hdr) (d a b : BitVec 5) (x : BitVec 1) (s : State) : Host.Outcome State Fault Refusal :=
  vf3 true false h d a b x s
/-- `vfnfms` (R197). -/
def execVfnfms (h : Hdr) (d a b : BitVec 5) (x : BitVec 1) (s : State) : Host.Outcome State Fault Refusal :=
  vf3 true true h d a b x s

/-! ## VTR (R198) -/

/-- `vext` on a core: nothing where the index is outside or its position inactive. -/
def vextBody (h : Hdr) (d a b : BitVec 5) (k : Core) (sh : Shape) : Core × Flags :=
  let i := (sGet k b).toNat
  (if i < sh.nr * sh.nc ∧ active k h sh i then sSet k d (BitVec.ofNat 64 (elemAt (vGet k a) (i * sh.w) sh.w))
   else k, 0)
/-- `vins` on a core. -/
def vinsBody (h : Hdr) (d a b : BitVec 5) (k : Core) (sh : Shape) : Core × Flags :=
  let i := (sGet k b).toNat
  (if i < sh.nr * sh.nc ∧ active k h sh i then vSet k d (setElem (vGet k d) (i * sh.w) sh.w (sGet k a).toNat)
   else k, 0)

/-- `vmov` (R198). -/
def execVmov (h : Hdr) (d a : BitVec 5) (s : State) : Host.Outcome State Fault Refusal :=
  vInst h (vecInst kAll (elementwise h d fun k sh e => (elemAt (vGet k a) (e * sh.w) sh.w, 0)) h) s
/-- `vbcast` (R198). -/
def execVbcast (h : Hdr) (d a : BitVec 5) (s : State) : Host.Outcome State Fault Refusal :=
  vInst h (vecInst kAll (elementwise h d fun k _ _ => ((sGet k a).toNat, 0)) h) s
/-- `vext` (R198). -/
def execVext (h : Hdr) (d a b : BitVec 5) (s : State) : Host.Outcome State Fault Refusal :=
  vInst h (vecInst kAll (vextBody h d a b) h) s
/-- `vins` (R198). -/
def execVins (h : Hdr) (d a b : BitVec 5) (s : State) : Host.Outcome State Fault Refusal :=
  vInst h (vecInst kAll (vinsBody h d a b) h) s

/-! ## VINT and VCMP (R199, R200) -/

/-- The signed value of `n` bits. -/
def sgn (n x : Nat) : Int := signExt n x
/-- A signed value as `n` bits. -/
def toBits (n : Nat) (x : Int) : Nat := (x % 2 ^ n).toNat
/-- A signed value saturated to `n` bits. -/
def satBits (n : Nat) (x : Int) : Nat :=
  toBits n (if x < -(2 ^ (n - 1)) then -(2 ^ (n - 1)) else if 2 ^ (n - 1) - 1 < x then 2 ^ (n - 1) - 1 else x)

/-- An elementwise integer instruction: `f` takes the width in bits (R199). -/
def vi2 (f : Nat → Nat → Nat → Nat) (h : Hdr) (d a b : BitVec 5) (x : BitVec 1) (s : State) :
    Host.Outcome State Fault Refusal :=
  vInst h (vecInst kInt (elementwise h d fun k sh e =>
    (f (8 * sh.w) (elemAt (vGet k a) (e * sh.w) sh.w) (opB k sh b x e), 0)) h) s

/-- `viadd` (R199). -/
def execViadd (h : Hdr) (d a b : BitVec 5) (x : BitVec 1) (s : State) : Host.Outcome State Fault Refusal :=
  vi2 (fun n p q => (p + q) % 2 ^ n) h d a b x s
/-- `visub` (R199). -/
def execVisub (h : Hdr) (d a b : BitVec 5) (x : BitVec 1) (s : State) : Host.Outcome State Fault Refusal :=
  vi2 (fun n p q => (p + 2 ^ n - q) % 2 ^ n) h d a b x s
/-- `vimul` (R199). -/
def execVimul (h : Hdr) (d a b : BitVec 5) (x : BitVec 1) (s : State) : Host.Outcome State Fault Refusal :=
  vi2 (fun n p q => p * q % 2 ^ n) h d a b x s
/-- `vimin` (R199). -/
def execVimin (h : Hdr) (d a b : BitVec 5) (x : BitVec 1) (s : State) : Host.Outcome State Fault Refusal :=
  vi2 (fun n p q => if sgn n p < sgn n q then p else q) h d a b x s
/-- `vimax` (R199). -/
def execVimax (h : Hdr) (d a b : BitVec 5) (x : BitVec 1) (s : State) : Host.Outcome State Fault Refusal :=
  vi2 (fun n p q => if sgn n p < sgn n q then q else p) h d a b x s
/-- `viand` (R199). -/
def execViand (h : Hdr) (d a b : BitVec 5) (x : BitVec 1) (s : State) : Host.Outcome State Fault Refusal :=
  vi2 (fun _ p q => p &&& q) h d a b x s
/-- `vior` (R199). -/
def execVior (h : Hdr) (d a b : BitVec 5) (x : BitVec 1) (s : State) : Host.Outcome State Fault Refusal :=
  vi2 (fun _ p q => p ||| q) h d a b x s
/-- `vixor` (R199). -/
def execVixor (h : Hdr) (d a b : BitVec 5) (x : BitVec 1) (s : State) : Host.Outcome State Fault Refusal :=
  vi2 (fun _ p q => p ^^^ q) h d a b x s
/-- `vishl` (R199). -/
def execVishl (h : Hdr) (d a b : BitVec 5) (x : BitVec 1) (s : State) : Host.Outcome State Fault Refusal :=
  vi2 (fun n p q => p * 2 ^ (q % n) % 2 ^ n) h d a b x s
/-- `vishr` (R199). -/
def execVishr (h : Hdr) (d a b : BitVec 5) (x : BitVec 1) (s : State) : Host.Outcome State Fault Refusal :=
  vi2 (fun n p q => p / 2 ^ (q % n)) h d a b x s
/-- `visra` (R199). -/
def execVisra (h : Hdr) (d a b : BitVec 5) (x : BitVec 1) (s : State) : Host.Outcome State Fault Refusal :=
  vi2 (fun n p q => toBits n (sgn n p / 2 ^ (q % n))) h d a b x s
/-- `viadds` (R199). -/
def execViadds (h : Hdr) (d a b : BitVec 5) (x : BitVec 1) (s : State) : Host.Outcome State Fault Refusal :=
  vi2 (fun n p q => satBits n (sgn n p + sgn n q)) h d a b x s
/-- `visubs` (R199). -/
def execVisubs (h : Hdr) (d a b : BitVec 5) (x : BitVec 1) (s : State) : Host.Outcome State Fault Refusal :=
  vi2 (fun n p q => satBits n (sgn n p - sgn n q)) h d a b x s

/-- A mask with the positions that `on` allows set to the result of `f`. -/
def mapMask (old : MBits) (n : Nat) (on : Nat → Bool) (f : Nat → Bool × Flags) : MBits × Flags :=
  (List.range n).foldl (fun (acc : MBits × Flags) e =>
    if on e then
      let bit := BitVec.ofNat 2048 1 <<< e
      (if (f e).1 then acc.1 ||| bit else acc.1 &&& ~~~bit, acc.2 ||| (f e).2)
    else acc) (old, 0)

/-- A comparison into a mask register (R200). -/
def vcmp (h : Hdr) (d : BitVec 3) (f : Core → Shape → Nat → Bool × Flags) (k : Core) (sh : Shape) :
    Core × Flags :=
  let r := mapMask (mGet k d) (sh.nr * sh.nc) (active k h sh) (f k sh)
  (mSet k d r.1, r.2)

/-- The integer conditions of R55 at a width. -/
def intCondW (n : Nat) (cond : BitVec 3) (a b : Nat) : Bool :=
  match cond.toNat with
  | 0 => a == b
  | 1 => a != b
  | 2 => decide (sgn n a < sgn n b)
  | 3 => !decide (sgn n a < sgn n b)
  | 4 => decide (a < b)
  | 5 => !decide (a < b)
  | 6 => (a &&& b) != 0
  | _ => (a &&& b) == 0

/-- `vfcmp` (R200). -/
def execVfcmp (h : Hdr) (d : BitVec 3) (a b : BitVec 5) (x : BitVec 1) (k : BitVec 3) (s : State) :
    Host.Outcome State Fault Refusal :=
  vInst h (vecInst kFcmp (vcmp h d fun K sh e =>
    fpCmp (fmtOf sh.kind) true k (elemAt (vGet K a) (e * sh.w) sh.w) (opB K sh b x e)) h) s
/-- `vicmp` (R200). -/
def execVicmp (h : Hdr) (d : BitVec 3) (a b : BitVec 5) (x : BitVec 1) (k : BitVec 3) (s : State) :
    Host.Outcome State Fault Refusal :=
  vInst h (vecInst kInt (vcmp h d fun K sh e =>
    (intCondW (8 * sh.w) k (elemAt (vGet K a) (e * sh.w) sh.w) (opB K sh b x e), 0)) h) s

/-! ## MASK (R201) -/

/-- A mask instruction on a core, under an instruction guard. -/
def maskInst (f : Core → Core) (h : Hdr) (s : State) : Host.Outcome State Fault Refusal :=
  xInst h (fun c s => vecDone h c s (f (coreOf s c), 0)) s
/-- The set bits of a mask within the shape and the row count. -/
def maskBits (k : Core) (a : BitVec 3) : List Nat :=
  let sh := shapeOf k
  (List.range (sh.nr * sh.nc)).filter fun e => (mGet k a).getLsbD e && rowOn k (e / sh.nc)

/-- `mand` (R201). -/
def execMand (h : Hdr) (d a b : BitVec 3) (s : State) : Host.Outcome State Fault Refusal :=
  maskInst (fun k => mSet k d (mGet k a &&& mGet k b)) h s
/-- `mor` (R201). -/
def execMor (h : Hdr) (d a b : BitVec 3) (s : State) : Host.Outcome State Fault Refusal :=
  maskInst (fun k => mSet k d (mGet k a ||| mGet k b)) h s
/-- `mxor` (R201). -/
def execMxor (h : Hdr) (d a b : BitVec 3) (s : State) : Host.Outcome State Fault Refusal :=
  maskInst (fun k => mSet k d (mGet k a ^^^ mGet k b)) h s
/-- `mandn` (R201). -/
def execMandn (h : Hdr) (d a b : BitVec 3) (s : State) : Host.Outcome State Fault Refusal :=
  maskInst (fun k => mSet k d (mGet k a &&& ~~~(mGet k b))) h s
/-- `mnot` (R201). -/
def execMnot (h : Hdr) (d a : BitVec 3) (s : State) : Host.Outcome State Fault Refusal :=
  maskInst (fun k => mSet k d (~~~(mGet k a))) h s
/-- `mmov` (R201). -/
def execMmov (h : Hdr) (d a : BitVec 3) (s : State) : Host.Outcome State Fault Refusal :=
  maskInst (fun k => mSet k d (mGet k a)) h s
/-- `mpopc` (R201). -/
def execMpopc (h : Hdr) (d : BitVec 5) (a : BitVec 3) (s : State) : Host.Outcome State Fault Refusal :=
  maskInst (fun k => sSet k d (BitVec.ofNat 64 (maskBits k a).length)) h s
/-- `mfirst` (R201). -/
def execMfirst (h : Hdr) (d : BitVec 5) (a : BitVec 3) (s : State) : Host.Outcome State Fault Refusal :=
  maskInst (fun k => sSet k d (((maskBits k a).head?.map fun e => BitVec.ofNat 64 e).getD
    (BitVec.allOnes 64))) h s

/-! ## Conversion (R90 to R92, R202) -/

/-- The rounding of a position under a 2-bit mode: stochastic rounding uses the position's word (R90). -/
def posMode (k : Core) (c : Nat) (r e : Nat) : RMode :=
  match r with
  | 0 => .rne
  | 1 => .rz
  | _ => .sr (srWord (srBlock c k.vec.prngkey (k.vec.prngctr + BitVec.ofNat 64 (e / 8))) (e % 8))

/-- `PRNGCTR` after the draws of a stochastic instruction (R90). -/
def afterDraws (k : Core) (sh : Shape) (r : Nat) : Core :=
  if r = 2 then { k with vec := { k.vec with
    prngctr := k.vec.prngctr + BitVec.ofNat 64 ((sh.nr * sh.nc + 7) / 8) } } else k

/-- One element converted from a kind to a kind (R202). -/
def cvtElem (src dst : Nat) (m : RMode) (x : Nat) : FpRes :=
  let sw := 8 * kindSize src
  let dw := 8 * kindSize dst
  if isFloat src then
    if isFloat dst then fpConv (fmtOf src) (fmtOf dst) true m x
    else
      let r := fpToInt (fmtOf src) true m (-(2 ^ (dw - 1))) (2 ^ (dw - 1) - 1) x
      (toBits dw r.1, r.2)
  else if isFloat dst then intToFp (fmtOf dst) true m (sgn sw x)
  else (satBits dw (sgn sw x), 0)

/-- A source element as an FP32 pattern, flushed and widened (R92, R208). -/
def widen (kind x : Nat) : FpRes := fpConv (fmtOf kind) .f32 true .rne x

/-- `amax_update` (R92) over the active elements. -/
def amaxUpdate (k : Core) (h : Hdr) (sh : Shape) (a : BitVec 5) (old : Word) : Word :=
  let m0 := old.toNat % 2 ^ 31
  let bad := 0x7F800000 < m0
  let r := (List.range (sh.nr * sh.nc)).foldl (fun (acc : Nat × Bool) e =>
    if active k h sh e then
      let x := (widen sh.kind (elemAt (vGet k a) (e * sh.w) sh.w)).1
      if (unpack .f32 x).isNan then (acc.1, true)
      else if acc.1 < x % 2 ^ 31 then (x % 2 ^ 31, acc.2) else acc
    else acc) (if bad then 0 else m0, bad || old.getLsbD 32)
  BitVec.ofNat 64 ((if r.2 then 2 ^ 32 else 0) + r.1)

/-- `vcvt` (R202). -/
def vcvtBody (h : Hdr) (d a b : BitVec 5) (r : BitVec 2) (kt : BitVec 4) (c : Nat) (s : State) : Eff :=
  let k := coreOf s c
  let sh := shapeOf k
  let wt := kindSize kt.toNat
  if !kAll sh.kind || 2048 < sh.nr * sh.nc * wt || (b != 0#5 && !isFloat sh.kind) then .trap s c .illegal 0 .read
  else
    let x := mapElems (vGet k d) wt (sh.nr * sh.nc) (active k h sh) (fun e => e * wt) fun e =>
      cvtElem sh.kind kt.toNat (posMode k c r.toNat e) (elemAt (vGet k a) (e * sh.w) sh.w)
    let k' := vSet (afterDraws k sh r.toNat) d x.1
    let k' := if b = 0#5 then k' else sSet k' b (amaxUpdate k h sh a (sGet k b))
    vecDone h c s (k', x.2)

/-- `vcvt` (R202). -/
def execVcvt (h : Hdr) (d a b : BitVec 5) (r : BitVec 2) (kt : BitVec 4) (s : State) :
    Host.Outcome State Fault Refusal := vInst h (vcvtBody h d a b r kt) s

/-! ## Quantisation (R203 to R207) -/

/-- Fields of the control word (R203). -/
def qNpl (w : Word) : Nat := (w.extractLsb' 0 4).toNat
def qRead (w : Word) : Nat := (w.extractLsb' 4 4).toNat
def qRnd (w : Word) : Nat := (w.extractLsb' 8 2).toNat
/-- Whether a control word is valid where `rnd` and `read` say which fields are used. -/
def ctlOk (w : Word) (rnd read : Bool) : Bool :=
  w.toNat < 1024 && 2 ≤ qNpl w && qNpl w ≤ 8 && (if rnd then qRnd w ≤ 2 else qRnd w == 0) &&
    (if read then qRead w ≤ qNpl w else qRead w == 0)

/-- A quantisation instruction: kinds, a rule on the columns, then its effect. -/
def vqInst (kinds : Nat → Bool) (ok : Core → Shape → Bool) (f : Core → Shape → Core × Flags) (h : Hdr)
    (c : Nat) (s : State) : Eff :=
  let k := coreOf s c
  let sh := shapeOf k
  if !kinds sh.kind || !ok k sh then .trap s c .illegal 0 .read else vecDone h c s (f k sh)

/-- The value of an element that a mask may hide, flushed (R204). -/
def shownVal (k : Core) (h : Hdr) (sh : Shape) (a : BitVec 5) (e : Nat) : Fp :=
  if (mGet k h.g).getLsbD e then operand (fmtOf sh.kind) true (elemAt (vGet k a) (e * sh.w) sh.w)
  else .fin false 0 0

/-- `vbscale` on a core (R204). -/
def vbscaleBody (h : Hdr) (d a : BitVec 5) (k : Core) (sh : Shape) : Core × Flags :=
  let nb := sh.nc / 32
  let r := mapElems (vGet k d) 1 (sh.nr * nb) (fun x => rowOn k (x / nb)) (fun x => x) fun x =>
    ((blockScale ((List.range 32).map fun j => shownVal k h sh a (x / nb * sh.nc + x % nb * 32 + j))).toNat, 0)
  (vSet k d r.1, r.2)

/-- The scale byte of a position, from a scale register (R205). -/
def scaleOf (x : VBits) (sh : Shape) (e : Nat) : Nat :=
  elemAt x (e / sh.nc * (sh.nc / 32) + e % sh.nc / 32) 1

/-- `vquant` on a core (R205). -/
def vquantBody (h : Hdr) (d a b : BitVec 5) (c : Nat) (k : Core) (sh : Shape) : Core × Flags :=
  let ctl := sGet k b
  let sc := vGet k (a + 1)
  let r := mapElems (vGet k d) 1 (sh.nr * sh.nc) (active k h sh) (fun e => e) fun e =>
    let q := quantise (posMode k c (qRnd ctl) e) (qNpl ctl) (scaleOf sc sh e)
      (operand (fmtOf sh.kind) true (elemAt (vGet k a) (e * sh.w) sh.w))
    (toBits 8 q.1, q.2)
  (vSet (afterDraws k sh (qRnd ctl)) d r.1, r.2)

/-- One dequantised element (R206). -/
def deqElem (n S : Nat) (v : Int) : FpRes :=
  if S = 255 then (Fmt.nan .f32, 0)
  else if v = 0 then (0, 0)
  else finish .f32 .rne true (v < 0) v.natAbs ((S : Int) - 127 - (n - 1))

/-- `vdeq` on a core (R206). -/
def vdeqBody (h : Hdr) (d a b : BitVec 5) (k : Core) (sh : Shape) : Core × Flags :=
  let n := qNpl (sGet k b)
  let sc := vGet k (a + 1)
  let r := mapElems (vGet k d) 4 (sh.nr * sh.nc) (active k h sh) (fun e => 4 * e) fun e =>
    deqElem n (scaleOf sc sh e) (sgn 8 (elemAt (vGet k a) e 1))
  (vSet k d r.1, r.2)

/-- `vpackp` on a core (R207). -/
def vpackpBody (h : Hdr) (d a b : BitVec 5) (k : Core) (sh : Shape) : Core × Flags :=
  let n := qNpl (sGet k b)
  let P := sh.nc / 128 * n * 16
  let r := mapElems (vGet k d) 1 (sh.nr * P) (fun x => rowOn k (x / P)) (fun x => x) fun x =>
    let i := x / P
    let g := x % P / 16 / n
    let j := x % P / 16 % n
    let c0 := g * 128 + x % 16 * 8
    ((byteOfBits fun t =>
      let e := i * sh.nc + c0 + t
      (mGet k h.g).getLsbD e && (elemAt (vGet k a) e 1).testBit (n - 1 - j)).toNat, 0)
  (vSet k d r.1, r.2)

/-- `vunpkp` on a core (R207). -/
def vunpkpBody (h : Hdr) (d a b : BitVec 5) (k : Core) (sh : Shape) : Core × Flags :=
  let n := qNpl (sGet k b)
  let kp := if qRead (sGet k b) = 0 then n else qRead (sGet k b)
  let P := sh.nc / 128 * n * 16
  let r := mapElems (vGet k d) 1 (sh.nr * sh.nc) (active k h sh) (fun e => e) fun e =>
    (toBits 8 (planeRead n kp (rowElem n kp (e % sh.nc) fun o =>
      BitVec.ofNat 8 (elemAt (vGet k a) (e / sh.nc * P + o) 1))), 0)
  (vSet k d r.1, r.2)

/-- `vbscale` (R204). A column count that is no multiple of 32 takes ILLEGAL, which R204 does not name: the model's
choice (log 74). -/
def execVbscale (h : Hdr) (d a : BitVec 5) (s : State) : Host.Outcome State Fault Refusal :=
  vInst h (vqInst kFloat (fun _ sh => sh.nc % 32 == 0) (vbscaleBody h d a) h) s
/-- `vquant` (R205). -/
def execVquant (h : Hdr) (d a b : BitVec 5) (s : State) : Host.Outcome State Fault Refusal :=
  vInst h (fun c s => vqInst kFloat
    (fun k sh => sh.nc % 32 == 0 && a != 31#5 && ctlOk (sGet k b) true false) (vquantBody h d a b c) h c s) s
/-- `vdeq` (R206). A shape whose result passes 2,048 bytes takes ILLEGAL, which R206 does not name: the model's choice
(log 74). -/
def execVdeq (h : Hdr) (d a b : BitVec 5) (s : State) : Host.Outcome State Fault Refusal :=
  vInst h (vqInst kI8 (fun k sh => sh.nc % 32 == 0 && sh.nr * sh.nc * 4 ≤ 2048 && a != 31#5 &&
    ctlOk (sGet k b) false false) (vdeqBody h d a b) h) s
/-- `vpackp` (R207). -/
def execVpackp (h : Hdr) (d a b : BitVec 5) (s : State) : Host.Outcome State Fault Refusal :=
  vInst h (vqInst kI8 (fun k sh => sh.nc % 128 == 0 && ctlOk (sGet k b) false false) (vpackpBody h d a b) h) s
/-- `vunpkp` (R207). -/
def execVunpkp (h : Hdr) (d a b : BitVec 5) (s : State) : Host.Outcome State Fault Refusal :=
  vInst h (vqInst kI8 (fun k sh => sh.nc % 128 == 0 && ctlOk (sGet k b) false true) (vunpkpBody h d a b) h) s

/-! ## Reductions (R208) -/

/-- The reductions. -/
inductive RedOp where
  | sum | max | min | argmax
  deriving DecidableEq, Repr

/-- A reduction of FP32 patterns, nothing for an inactive element. -/
def redFloat (op : RedOp) (xs : List (Option Nat)) : FpRes :=
  match op with
  | .sum => treeSum .f32 (xs.map fun x => x.getD 0)
  | .max => treeMinMax .f32 true (xs.map fun x => x.getD (Fmt.nan .f32))
  | .min => treeMinMax .f32 false (xs.map fun x => x.getD (Fmt.nan .f32))
  | .argmax => argmax .f32 xs

/-- The lowest index, from `i`, of an active element with a value. -/
def idxOfVal (m : Int) : Nat → List (Option Int) → Nat
  | _, [] => 0xFFFFFFFF
  | i, x :: xs => if x = some m then i else idxOfVal m (i + 1) xs

/-- A reduction of signed integers of `n` bits. -/
def redInt (op : RedOp) (n : Nat) (xs : List (Option Int)) : Nat :=
  let act := xs.filterMap fun x => x
  let mx := act.foldl max (-(2 ^ (n - 1)))
  match op with
  | .sum => toBits 32 (sgn n (toBits n (act.foldl (· + ·) 0)))
  | .max => toBits 32 mx
  | .min => toBits 32 (act.foldl min (2 ^ (n - 1) - 1))
  | .argmax => if act.isEmpty then 0xFFFFFFFF else idxOfVal mx 0 xs

/-- One result over a list of positions, with the flags of its active elements. -/
def reduce (op : RedOp) (h : Hdr) (k : Core) (sh : Shape) (a : BitVec 5) (ps : List Nat) : FpRes :=
  let el := fun e => elemAt (vGet k a) (e * sh.w) sh.w
  if isFloat sh.kind then
    let ws := ps.map fun e => if active k h sh e then some (widen sh.kind (el e)) else none
    let fl := ws.foldl (fun f x => f ||| (x.map (·.2)).getD 0) (0 : Flags)
    let r := redFloat op (ws.map fun x => x.map (·.1))
    (r.1, r.2 ||| fl)
  else
    (redInt op (8 * sh.w) (ps.map fun e => if active k h sh e then some (sgn (8 * sh.w) (el e)) else none), 0)

/-- A reduction of rows or columns on a core. -/
def vredBody (op : RedOp) (col : Bool) (h : Hdr) (d a : BitVec 5) (k : Core) (sh : Shape) : Core × Flags :=
  let n := if col then sh.nc else sh.nr
  let r := mapElems (vGet k d) 4 n (fun r => col || rowOn k r) (fun r => 4 * r) fun r =>
    reduce op h k sh a (if col then (List.range sh.nr).map fun i => i * sh.nc + r
                        else (List.range sh.nc).map fun j => r * sh.nc + j)
  (vSet k d r.1, r.2)

/-- A reduction instruction: more than 512 results are ILLEGAL. -/
def vred (op : RedOp) (col : Bool) (h : Hdr) (d a : BitVec 5) (s : State) :
    Host.Outcome State Fault Refusal :=
  vInst h (vqInst kAll (fun _ sh => (if col then sh.nc else sh.nr) ≤ 512) (vredBody op col h d a) h) s

/-- `vrsum` (R208). -/
def execVrsum (h : Hdr) (d a : BitVec 5) (s : State) : Host.Outcome State Fault Refusal :=
  vred .sum false h d a s
/-- `vrmax` (R208). -/
def execVrmax (h : Hdr) (d a : BitVec 5) (s : State) : Host.Outcome State Fault Refusal :=
  vred .max false h d a s
/-- `vrmin` (R208). -/
def execVrmin (h : Hdr) (d a : BitVec 5) (s : State) : Host.Outcome State Fault Refusal :=
  vred .min false h d a s
/-- `vrargmax` (R208). -/
def execVrargmax (h : Hdr) (d a : BitVec 5) (s : State) : Host.Outcome State Fault Refusal :=
  vred .argmax false h d a s
/-- `vcsum` (R208). -/
def execVcsum (h : Hdr) (d a : BitVec 5) (s : State) : Host.Outcome State Fault Refusal :=
  vred .sum true h d a s
/-- `vcmax` (R208). -/
def execVcmax (h : Hdr) (d a : BitVec 5) (s : State) : Host.Outcome State Fault Refusal :=
  vred .max true h d a s
/-- `vcmin` (R208). -/
def execVcmin (h : Hdr) (d a : BitVec 5) (s : State) : Host.Outcome State Fault Refusal :=
  vred .min true h d a s
/-- `vcargmax` (R208). -/
def execVcargmax (h : Hdr) (d a : BitVec 5) (s : State) : Host.Outcome State Fault Refusal :=
  vred .argmax true h d a s

/-! ## Permutations and gathers (R209) -/

/-- `vperm` (R209). More than 1,024 rows take ILLEGAL, which R209 does not name: the model's choice (log 74). -/
def execVperm (h : Hdr) (d a b : BitVec 5) (s : State) : Host.Outcome State Fault Refusal :=
  vInst h (vqInst kAll (fun _ sh => sh.nr ≤ 1024) (elementwise h d fun k sh e =>
    let x := elemAt (vGet k b) (2 * (e / sh.nc)) 2
    (if x < sh.nr then elemAt (vGet k a) ((x * sh.nc + e % sh.nc) * sh.w) sh.w else 0, 0)) h) s
/-- `vgath` (R209). -/
def execVgath (h : Hdr) (d a b : BitVec 5) (s : State) : Host.Outcome State Fault Refusal :=
  vInst h (vqInst (fun n => kAll n && 2 ≤ kindSize n) (fun _ _ => true) (elementwise h d fun k sh e =>
    let x := elemAt (vGet k b) (2 * e) 2
    (if x < sh.nr * sh.nc then elemAt (vGet k a) (x * sh.w) sh.w else 0, 0)) h) s
/-- `vrot` (R209). -/
def execVrot (h : Hdr) (d a b : BitVec 5) (s : State) : Host.Outcome State Fault Refusal :=
  vInst h (vecInst kAll (elementwise h d fun k sh e =>
    (elemAt (vGet k a) ((e / sh.nc * sh.nc + (e % sh.nc + (sGet k b).toNat % sh.nc) % sh.nc) * sh.w) sh.w, 0))
    h) s
/-- `vtrn` on a core: the element (i, j) goes to position j × nr + i. -/
def vtrnBody (h : Hdr) (d a : BitVec 5) (k : Core) (sh : Shape) : Core × Flags :=
  let r := mapElems (vGet k d) sh.w (sh.nr * sh.nc)
    (fun x => rowOn k (x % sh.nr) && (mGet k h.g).getLsbD x) (fun x => x * sh.w) fun x =>
      (elemAt (vGet k a) ((x % sh.nr * sh.nc + x / sh.nr) * sh.w) sh.w, 0)
  (vSet k d r.1, r.2)
/-- `vtrn` (R209). -/
def execVtrn (h : Hdr) (d a : BitVec 5) (s : State) : Host.Outcome State Fault Refusal :=
  vInst h (vecInst kAll (vtrnBody h d a) h) s

/-! ## Completion (R192) -/

/-- The oldest vector instruction completes: its token is posted, unless the count is 15 (R23, R192). -/
def execVectorCommandComplete (core : Nat) (s : State) : Host.Outcome State Fault Refusal :=
  let k := coreOf s core
  match k.vec.vq with
  | [] => .next s
  | v :: q =>
    if v.tok && k.sh.tokA == 15#4 then .next s
    else
      let k := { k with vec := { k.vec with vq := q } }
      .next (setCore s core (if v.tok then moved s (setTokens k false (k.sh.tokA + 1)) else k))

end Sys2Proof.Machine
end

