-- ==== Sys2Proof/Machine/Dispatch.lean ====
section
/-!
DEFINITION. What each instruction and event does: one arm per constructor of `Instr`, a direct call of its
meaning.
-/
namespace Sys2Proof.Machine
open Sys2Proof

/-- The meaning of an instruction. -/
def exec (i : Instr) (s : State) : Host.Outcome State Fault Refusal :=
  match i with
  | .aAdd h d a b => Sys2Proof.Machine.execAAdd h d a b s
  | .aSub h d a b => Sys2Proof.Machine.execASub h d a b s
  | .aAnd h d a b => Sys2Proof.Machine.execAAnd h d a b s
  | .aOr h d a b => Sys2Proof.Machine.execAOr h d a b s
  | .aXor h d a b => Sys2Proof.Machine.execAXor h d a b s
  | .aShl h d a b => Sys2Proof.Machine.execAShl h d a b s
  | .aShr h d a b => Sys2Proof.Machine.execAShr h d a b s
  | .aSra h d a b => Sys2Proof.Machine.execASra h d a b s
  | .aMul h d a b => Sys2Proof.Machine.execAMul h d a b s
  | .aMulh h d a b => Sys2Proof.Machine.execAMulh h d a b s
  | .aMulhu h d a b => Sys2Proof.Machine.execAMulhu h d a b s
  | .aMin h d a b => Sys2Proof.Machine.execAMin h d a b s
  | .aMax h d a b => Sys2Proof.Machine.execAMax h d a b s
  | .aMinu h d a b => Sys2Proof.Machine.execAMinu h d a b s
  | .aMaxu h d a b => Sys2Proof.Machine.execAMaxu h d a b s
  | .aSlt h d a b => Sys2Proof.Machine.execASlt h d a b s
  | .aSltu h d a b => Sys2Proof.Machine.execASltu h d a b s
  | .aAndn h d a b => Sys2Proof.Machine.execAAndn h d a b s
  | .aOrn h d a b => Sys2Proof.Machine.execAOrn h d a b s
  | .aRotl h d a b => Sys2Proof.Machine.execARotl h d a b s
  | .aAddi h d a im => Sys2Proof.Machine.execAAddi h d a im s
  | .aAndi h d a im => Sys2Proof.Machine.execAAndi h d a im s
  | .aOri h d a im => Sys2Proof.Machine.execAOri h d a im s
  | .aXori h d a im => Sys2Proof.Machine.execAXori h d a im s
  | .aShli h d a sc => Sys2Proof.Machine.execAShli h d a sc s
  | .aShri h d a sc => Sys2Proof.Machine.execAShri h d a sc s
  | .aSrai h d a sc => Sys2Proof.Machine.execASrai h d a sc s
  | .aSlti h d a im => Sys2Proof.Machine.execASlti h d a im s
  | .aLi h d im => Sys2Proof.Machine.execALi h d im s
  | .aLih h d im => Sys2Proof.Machine.execALih h d im s
  | .cset h p k a b => Sys2Proof.Machine.execCset h p k a b s
  | .cand h d a b => Sys2Proof.Machine.execCand h d a b s
  | .cor h d a b => Sys2Proof.Machine.execCor h d a b s
  | .cxor h d a b => Sys2Proof.Machine.execCxor h d a b s
  | .cnot h d a => Sys2Proof.Machine.execCnot h d a s
  | .cmov h d a => Sys2Proof.Machine.execCmov h d a s
  | .gaddrRl h d a => Sys2Proof.Machine.execGaddrRl h d a s
  | .gaddrOwn h d a => Sys2Proof.Machine.execGaddrOwn h d a s
  | .gaddrOff h d a => Sys2Proof.Machine.execGaddrOff h d a s
  | .idx2 h d a b sc => Sys2Proof.Machine.execIdx2 h d a b sc s
  | .ldl h d a z u off => Sys2Proof.Machine.execLdl h d a z u off s
  | .stl h d a z u off => Sys2Proof.Machine.execStl h d a z u off s
  | .ldq h ex a z u off => Sys2Proof.Machine.execLdq h ex a z u off s
  | .stq h a z u off => Sys2Proof.Machine.execStq h a z u off s
  | .ldg h d a z u off => Sys2Proof.Machine.execLdg h d a z u off s
  | .stg h d a z u off => Sys2Proof.Machine.execStg h d a z u off s
  | .ldgq h ex a z u off => Sys2Proof.Machine.execLdgq h ex a z u off s
  | .stgq h a z u off => Sys2Proof.Machine.execStgq h a z u off s
  | .vld h tt ex => Sys2Proof.Machine.execVld h tt ex s
  | .vst h tt => Sys2Proof.Machine.execVst h tt s
  | .cpy h d sc c m => Sys2Proof.Machine.execCpy h d sc c m s
  | .cpyg h d sc c m => Sys2Proof.Machine.execCpyg h d sc c m s
  | .cpys h d sc c m => Sys2Proof.Machine.execCpys h d sc c m s
  | .cpyf h d n c m => Sys2Proof.Machine.execCpyf h d n c m s
  | .cpyn h d sc c r m => Sys2Proof.Machine.execCpyn h d sc c r m s
  | .amoWAdd h d a b sc => Sys2Proof.Machine.execAmoWAdd h d a b sc s
  | .amoWMin h d a b sc => Sys2Proof.Machine.execAmoWMin h d a b sc s
  | .amoWMax h d a b sc => Sys2Proof.Machine.execAmoWMax h d a b sc s
  | .amoWMinu h d a b sc => Sys2Proof.Machine.execAmoWMinu h d a b sc s
  | .amoWMaxu h d a b sc => Sys2Proof.Machine.execAmoWMaxu h d a b sc s
  | .amoWAnd h d a b sc => Sys2Proof.Machine.execAmoWAnd h d a b sc s
  | .amoWOr h d a b sc => Sys2Proof.Machine.execAmoWOr h d a b sc s
  | .amoWXor h d a b sc => Sys2Proof.Machine.execAmoWXor h d a b sc s
  | .amoWSwap h d a b sc => Sys2Proof.Machine.execAmoWSwap h d a b sc s
  | .amoWCas h d a b sc => Sys2Proof.Machine.execAmoWCas h d a b sc s
  | .amoDAdd h d a b sc => Sys2Proof.Machine.execAmoDAdd h d a b sc s
  | .amoDMin h d a b sc => Sys2Proof.Machine.execAmoDMin h d a b sc s
  | .amoDMax h d a b sc => Sys2Proof.Machine.execAmoDMax h d a b sc s
  | .amoDMinu h d a b sc => Sys2Proof.Machine.execAmoDMinu h d a b sc s
  | .amoDMaxu h d a b sc => Sys2Proof.Machine.execAmoDMaxu h d a b sc s
  | .amoDAnd h d a b sc => Sys2Proof.Machine.execAmoDAnd h d a b sc s
  | .amoDOr h d a b sc => Sys2Proof.Machine.execAmoDOr h d a b sc s
  | .amoDXor h d a b sc => Sys2Proof.Machine.execAmoDXor h d a b sc s
  | .amoDSwap h d a b sc => Sys2Proof.Machine.execAmoDSwap h d a b sc s
  | .amoDCas h d a b sc => Sys2Proof.Machine.execAmoDCas h d a b sc s
  | .redIaddW h a b sc => Sys2Proof.Machine.execRedIaddW h a b sc s
  | .redIaddD h a b sc => Sys2Proof.Machine.execRedIaddD h a b sc s
  | .redFaddF32 h a b sc => Sys2Proof.Machine.execRedFaddF32 h a b sc s
  | .redFaddBf16x2 h a b sc => Sys2Proof.Machine.execRedFaddBf16x2 h a b sc s
  | .redFmaxF32 h a b sc => Sys2Proof.Machine.execRedFmaxF32 h a b sc s
  | .redImaxW h a b sc => Sys2Proof.Machine.execRedImaxW h a b sc s
  | .redIminW h a b sc => Sys2Proof.Machine.execRedIminW h a b sc s
  | .cadd h d a b off => Sys2Proof.Machine.execCadd h d a b off s
  | .caddk h d a k off => Sys2Proof.Machine.execCaddk h d a k off s
  | .cread h d a off => Sys2Proof.Machine.execCread h d a off s
  | .ctest h d a b off => Sys2Proof.Machine.execCtest h d a b off s
  | .cwait h a b off => Sys2Proof.Machine.execCwait h a b off s
  | .cwaitS h a b off => Sys2Proof.Machine.execCwaitS h a b off s
  | .calloc h d a => Sys2Proof.Machine.execCalloc h d a s
  | .cfree h a => Sys2Proof.Machine.execCfree h a s
  | .carm h a b => Sys2Proof.Machine.execCarm h a b s
  | .cwany h a off => Sys2Proof.Machine.execCwany h a off s
  | .cwall h a off => Sys2Proof.Machine.execCwall h a off s
  | .cfirst h d a => Sys2Proof.Machine.execCfirst h d a s
  | .fenceAcq h sc => Sys2Proof.Machine.execFenceAcq h sc s
  | .fenceRel h sc => Sys2Proof.Machine.execFenceRel h sc s
  | .fenceAr h sc => Sys2Proof.Machine.execFenceAr h sc s
  | .beq h a b off => Sys2Proof.Machine.execBeq h a b off s
  | .bne h a b off => Sys2Proof.Machine.execBne h a b off s
  | .blt h a b off => Sys2Proof.Machine.execBlt h a b off s
  | .bge h a b off => Sys2Proof.Machine.execBge h a b off s
  | .bltu h a b off => Sys2Proof.Machine.execBltu h a b off s
  | .bgeu h a b off => Sys2Proof.Machine.execBgeu h a b off s
  | .bc h p n off => Sys2Proof.Machine.execBc h p n off s
  | .aBq h n off => Sys2Proof.Machine.execABq h n off s
  | .aJ h off => Sys2Proof.Machine.execAJ h off s
  | .aJal h off => Sys2Proof.Machine.execAJal h off s
  | .aJr h a => Sys2Proof.Machine.execAJr h a s
  | .aSendb h p n ex => Sys2Proof.Machine.execASendb h p n ex s
  | .aLoop h a ln => Sys2Proof.Machine.execALoop h a ln s
  | .aLoops h ex ln => Sys2Proof.Machine.execALoops h ex ln s
  | .loopr h a f ln => Sys2Proof.Machine.execLoopr h a f ln s
  | .ftile h d c q => Sys2Proof.Machine.execFtile h d c q s
  | .suspS h => Sys2Proof.Machine.execSuspS h s
  | .yieldS h => Sys2Proof.Machine.execYieldS h s
  | .exitS h => Sys2Proof.Machine.execExitS h s
  | .commitS h => Sys2Proof.Machine.execCommitS h s
  | .spawn h a => Sys2Proof.Machine.execSpawn h a s
  | .aFuse h b => Sys2Proof.Machine.execAFuse h b s
  | .aSplit h => Sys2Proof.Machine.execASplit h s
  | .aCsrr h d c => Sys2Proof.Machine.execACsrr h d c s
  | .aCsrw h d a c => Sys2Proof.Machine.execACsrw h d a c s
  | .aCsrs h d a c => Sys2Proof.Machine.execACsrs h d a c s
  | .aCsrc h d a c => Sys2Proof.Machine.execACsrc h d a c s
  | .aTrap h n => Sys2Proof.Machine.execATrap h n s
  | .aBkpt h n => Sys2Proof.Machine.execABkpt h n s
  | .fcall h a b => Sys2Proof.Machine.execFcall h a b s
  | .fcallNb h d a b => Sys2Proof.Machine.execFcallNb h d a b s
  | .dsc h sc => Sys2Proof.Machine.execDsc h sc s
  | .pref h sc => Sys2Proof.Machine.execPref h sc s
  | .aTdefLo h d a => Sys2Proof.Machine.execATdefLo h d a s
  | .aTdefHi h d a => Sys2Proof.Machine.execATdefHi h d a s
  | .aTadv h d a => Sys2Proof.Machine.execATadv h d a s
  | .aTrows h d a => Sys2Proof.Machine.execATrows h d a s
  | .xAdd h d a b => Sys2Proof.Machine.execXAdd h d a b s
  | .xSub h d a b => Sys2Proof.Machine.execXSub h d a b s
  | .xAnd h d a b => Sys2Proof.Machine.execXAnd h d a b s
  | .xOr h d a b => Sys2Proof.Machine.execXOr h d a b s
  | .xXor h d a b => Sys2Proof.Machine.execXXor h d a b s
  | .xShl h d a b => Sys2Proof.Machine.execXShl h d a b s
  | .xShr h d a b => Sys2Proof.Machine.execXShr h d a b s
  | .xSra h d a b => Sys2Proof.Machine.execXSra h d a b s
  | .xMul h d a b => Sys2Proof.Machine.execXMul h d a b s
  | .xMulh h d a b => Sys2Proof.Machine.execXMulh h d a b s
  | .xMulhu h d a b => Sys2Proof.Machine.execXMulhu h d a b s
  | .xMin h d a b => Sys2Proof.Machine.execXMin h d a b s
  | .xMax h d a b => Sys2Proof.Machine.execXMax h d a b s
  | .xMinu h d a b => Sys2Proof.Machine.execXMinu h d a b s
  | .xMaxu h d a b => Sys2Proof.Machine.execXMaxu h d a b s
  | .xSlt h d a b => Sys2Proof.Machine.execXSlt h d a b s
  | .xSltu h d a b => Sys2Proof.Machine.execXSltu h d a b s
  | .xAndn h d a b => Sys2Proof.Machine.execXAndn h d a b s
  | .xOrn h d a b => Sys2Proof.Machine.execXOrn h d a b s
  | .xRotl h d a b => Sys2Proof.Machine.execXRotl h d a b s
  | .xDiv h d a b => Sys2Proof.Machine.execXDiv h d a b s
  | .xDivu h d a b => Sys2Proof.Machine.execXDivu h d a b s
  | .xRem h d a b => Sys2Proof.Machine.execXRem h d a b s
  | .xRemu h d a b => Sys2Proof.Machine.execXRemu h d a b s
  | .xClz h d a => Sys2Proof.Machine.execXClz h d a s
  | .xPopc h d a => Sys2Proof.Machine.execXPopc h d a s
  | .xSextW h d a => Sys2Proof.Machine.execXSextW h d a s
  | .xZextW h d a => Sys2Proof.Machine.execXZextW h d a s
  | .wAdd h d a b => Sys2Proof.Machine.execWAdd h d a b s
  | .wSub h d a b => Sys2Proof.Machine.execWSub h d a b s
  | .wAnd h d a b => Sys2Proof.Machine.execWAnd h d a b s
  | .wOr h d a b => Sys2Proof.Machine.execWOr h d a b s
  | .wXor h d a b => Sys2Proof.Machine.execWXor h d a b s
  | .wShl h d a b => Sys2Proof.Machine.execWShl h d a b s
  | .wShr h d a b => Sys2Proof.Machine.execWShr h d a b s
  | .wSra h d a b => Sys2Proof.Machine.execWSra h d a b s
  | .wMul h d a b => Sys2Proof.Machine.execWMul h d a b s
  | .wMulh h d a b => Sys2Proof.Machine.execWMulh h d a b s
  | .wMulhu h d a b => Sys2Proof.Machine.execWMulhu h d a b s
  | .wMin h d a b => Sys2Proof.Machine.execWMin h d a b s
  | .wMax h d a b => Sys2Proof.Machine.execWMax h d a b s
  | .wMinu h d a b => Sys2Proof.Machine.execWMinu h d a b s
  | .wMaxu h d a b => Sys2Proof.Machine.execWMaxu h d a b s
  | .wSlt h d a b => Sys2Proof.Machine.execWSlt h d a b s
  | .wSltu h d a b => Sys2Proof.Machine.execWSltu h d a b s
  | .wAndn h d a b => Sys2Proof.Machine.execWAndn h d a b s
  | .wOrn h d a b => Sys2Proof.Machine.execWOrn h d a b s
  | .wRotl h d a b => Sys2Proof.Machine.execWRotl h d a b s
  | .wDiv h d a b => Sys2Proof.Machine.execWDiv h d a b s
  | .wDivu h d a b => Sys2Proof.Machine.execWDivu h d a b s
  | .wRem h d a b => Sys2Proof.Machine.execWRem h d a b s
  | .wRemu h d a b => Sys2Proof.Machine.execWRemu h d a b s
  | .wClz h d a => Sys2Proof.Machine.execWClz h d a s
  | .wPopc h d a => Sys2Proof.Machine.execWPopc h d a s
  | .wSextW h d a => Sys2Proof.Machine.execWSextW h d a s
  | .wZextW h d a => Sys2Proof.Machine.execWZextW h d a s
  | .xAddi h d a im => Sys2Proof.Machine.execXAddi h d a im s
  | .xAndi h d a im => Sys2Proof.Machine.execXAndi h d a im s
  | .xOri h d a im => Sys2Proof.Machine.execXOri h d a im s
  | .xXori h d a im => Sys2Proof.Machine.execXXori h d a im s
  | .xShli h d a sc => Sys2Proof.Machine.execXShli h d a sc s
  | .xShri h d a sc => Sys2Proof.Machine.execXShri h d a sc s
  | .xSrai h d a sc => Sys2Proof.Machine.execXSrai h d a sc s
  | .xSlti h d a im => Sys2Proof.Machine.execXSlti h d a im s
  | .xLi h d im => Sys2Proof.Machine.execXLi h d im s
  | .xLih h d im => Sys2Proof.Machine.execXLih h d im s
  | .fadd h d a b => Sys2Proof.Machine.execFadd h d a b s
  | .fsub h d a b => Sys2Proof.Machine.execFsub h d a b s
  | .fmul h d a b => Sys2Proof.Machine.execFmul h d a b s
  | .fdiv h d a b => Sys2Proof.Machine.execFdiv h d a b s
  | .fmin h d a b => Sys2Proof.Machine.execFmin h d a b s
  | .fmax h d a b => Sys2Proof.Machine.execFmax h d a b s
  | .fsqrt h d a => Sys2Proof.Machine.execFsqrt h d a s
  | .frcp h d a => Sys2Proof.Machine.execFrcp h d a s
  | .frsq h d a => Sys2Proof.Machine.execFrsq h d a s
  | .fabs h d a => Sys2Proof.Machine.execFabs h d a s
  | .fneg h d a => Sys2Proof.Machine.execFneg h d a s
  | .fsgnj h d a b => Sys2Proof.Machine.execFsgnj h d a b s
  | .fclass h d a => Sys2Proof.Machine.execFclass h d a s
  | .ffma h d a b => Sys2Proof.Machine.execFfma h d a b s
  | .ffms h d a b => Sys2Proof.Machine.execFfms h d a b s
  | .fnfma h d a b => Sys2Proof.Machine.execFnfma h d a b s
  | .fnfms h d a b => Sys2Proof.Machine.execFnfms h d a b s
  | .fcmp h p k a b => Sys2Proof.Machine.execFcmp h p k a b s
  | .fcvtF32S64 h d a r => Sys2Proof.Machine.execFcvtF32S64 h d a r s
  | .fcvtF32U64 h d a r => Sys2Proof.Machine.execFcvtF32U64 h d a r s
  | .fcvtS64F32 h d a r => Sys2Proof.Machine.execFcvtS64F32 h d a r s
  | .fcvtU64F32 h d a r => Sys2Proof.Machine.execFcvtU64F32 h d a r s
  | .fcvtBf16F32 h d a r => Sys2Proof.Machine.execFcvtBf16F32 h d a r s
  | .fcvtF32Bf16 h d a r => Sys2Proof.Machine.execFcvtF32Bf16 h d a r s
  | .fcvtF16F32 h d a r => Sys2Proof.Machine.execFcvtF16F32 h d a r s
  | .fcvtF32F16 h d a r => Sys2Proof.Machine.execFcvtF32F16 h d a r s
  | .fcvtE4m3F32 h d a r => Sys2Proof.Machine.execFcvtE4m3F32 h d a r s
  | .fcvtE5m2F32 h d a r => Sys2Proof.Machine.execFcvtE5m2F32 h d a r s
  | .fcvtF32E4m3 h d a r => Sys2Proof.Machine.execFcvtF32E4m3 h d a r s
  | .fcvtF32E5m2 h d a r => Sys2Proof.Machine.execFcvtF32E5m2 h d a r s
  | .pset h p k a b => Sys2Proof.Machine.execPset h p k a b s
  | .pand h d a b => Sys2Proof.Machine.execPand h d a b s
  | .por h d a b => Sys2Proof.Machine.execPor h d a b s
  | .pxor h d a b => Sys2Proof.Machine.execPxor h d a b s
  | .pandn h d a b => Sys2Proof.Machine.execPandn h d a b s
  | .pnot h d a => Sys2Proof.Machine.execPnot h d a s
  | .pmov h d a => Sys2Proof.Machine.execPmov h d a s
  | .ppack h d => Sys2Proof.Machine.execPpack h d s
  | .punpk h a => Sys2Proof.Machine.execPunpk h a s
  | .peek h d => Sys2Proof.Machine.execPeek h d s
  | .pushe h a => Sys2Proof.Machine.execPushe h a s
  | .ppeek h d n => Sys2Proof.Machine.execPpeek h d n s
  | .sel h d a b p => Sys2Proof.Machine.execSel h d a b p s
  | .xaln h d a => Sys2Proof.Machine.execXaln h d a s
  | .ldf h d a z u off => Sys2Proof.Machine.execLdf h d a z u off s
  | .stf h d a z u off => Sys2Proof.Machine.execStf h d a z u off s
  | .bp h p n off => Sys2Proof.Machine.execBp h p n off s
  | .xBq h n off => Sys2Proof.Machine.execXBq h n off s
  | .bst h sc n off => Sys2Proof.Machine.execBst h sc n off s
  | .xJ h off => Sys2Proof.Machine.execXJ h off s
  | .xJal h off => Sys2Proof.Machine.execXJal h off s
  | .xJr h a => Sys2Proof.Machine.execXJr h a s
  | .xSendb h p n ex => Sys2Proof.Machine.execXSendb h p n ex s
  | .xLoop h a ln => Sys2Proof.Machine.execXLoop h a ln s
  | .xLoops h ex ln => Sys2Proof.Machine.execXLoops h ex ln s
  | .loopv h a sc ln => Sys2Proof.Machine.execLoopv h a sc ln s
  | .enter h n => Sys2Proof.Machine.execEnter h n s
  | .leave h n => Sys2Proof.Machine.execLeave h n s
  | .xcmt h => Sys2Proof.Machine.execXcmt h s
  | .xFuse h b => Sys2Proof.Machine.execXFuse h b s
  | .xSplit h => Sys2Proof.Machine.execXSplit h s
  | .gidx h d => Sys2Proof.Machine.execGidx h d s
  | .gsize h d => Sys2Proof.Machine.execGsize h d s
  | .xCsrr h d c => Sys2Proof.Machine.execXCsrr h d c s
  | .xCsrw h d a c => Sys2Proof.Machine.execXCsrw h d a c s
  | .xCsrs h d a c => Sys2Proof.Machine.execXCsrs h d a c s
  | .xCsrc h d a c => Sys2Proof.Machine.execXCsrc h d a c s
  | .xTrap h n => Sys2Proof.Machine.execXTrap h n s
  | .xBkpt h n => Sys2Proof.Machine.execXBkpt h n s
  | .xTdefLo h d a => Sys2Proof.Machine.execXTdefLo h d a s
  | .xTdefHi h d a => Sys2Proof.Machine.execXTdefHi h d a s
  | .xTadv h d a => Sys2Proof.Machine.execXTadv h d a s
  | .xTrows h d a => Sys2Proof.Machine.execXTrows h d a s
  | .vshape h a => Sys2Proof.Machine.execVshape h a s
  | .vgetsh h d => Sys2Proof.Machine.execVgetsh h d s
  | .setvc h a => Sys2Proof.Machine.execSetvc h a s
  | .vpop h d => Sys2Proof.Machine.execVpop h d s
  | .vpush h a => Sys2Proof.Machine.execVpush h a s
  | .vpushEos h a => Sys2Proof.Machine.execVpushEos h a s
  | .vfadd h d a b x => Sys2Proof.Machine.execVfadd h d a b x s
  | .vfsub h d a b x => Sys2Proof.Machine.execVfsub h d a b x s
  | .vfmul h d a b x => Sys2Proof.Machine.execVfmul h d a b x s
  | .vfdiv h d a b x => Sys2Proof.Machine.execVfdiv h d a b x s
  | .vfmin h d a b x => Sys2Proof.Machine.execVfmin h d a b x s
  | .vfmax h d a b x => Sys2Proof.Machine.execVfmax h d a b x s
  | .vfabs h d a => Sys2Proof.Machine.execVfabs h d a s
  | .vfneg h d a => Sys2Proof.Machine.execVfneg h d a s
  | .vfsqrt h d a => Sys2Proof.Machine.execVfsqrt h d a s
  | .vfrcp h d a => Sys2Proof.Machine.execVfrcp h d a s
  | .vfrsq h d a => Sys2Proof.Machine.execVfrsq h d a s
  | .vexp2 h d a => Sys2Proof.Machine.execVexp2 h d a s
  | .vlog2 h d a => Sys2Proof.Machine.execVlog2 h d a s
  | .vtanh h d a => Sys2Proof.Machine.execVtanh h d a s
  | .vffma h d a b x => Sys2Proof.Machine.execVffma h d a b x s
  | .vffms h d a b x => Sys2Proof.Machine.execVffms h d a b x s
  | .vfnfma h d a b x => Sys2Proof.Machine.execVfnfma h d a b x s
  | .vfnfms h d a b x => Sys2Proof.Machine.execVfnfms h d a b x s
  | .vmov h d a => Sys2Proof.Machine.execVmov h d a s
  | .vbcast h d a => Sys2Proof.Machine.execVbcast h d a s
  | .vext h d a b => Sys2Proof.Machine.execVext h d a b s
  | .vins h d a b => Sys2Proof.Machine.execVins h d a b s
  | .viadd h d a b x => Sys2Proof.Machine.execViadd h d a b x s
  | .visub h d a b x => Sys2Proof.Machine.execVisub h d a b x s
  | .vimul h d a b x => Sys2Proof.Machine.execVimul h d a b x s
  | .vimin h d a b x => Sys2Proof.Machine.execVimin h d a b x s
  | .vimax h d a b x => Sys2Proof.Machine.execVimax h d a b x s
  | .viand h d a b x => Sys2Proof.Machine.execViand h d a b x s
  | .vior h d a b x => Sys2Proof.Machine.execVior h d a b x s
  | .vixor h d a b x => Sys2Proof.Machine.execVixor h d a b x s
  | .vishl h d a b x => Sys2Proof.Machine.execVishl h d a b x s
  | .vishr h d a b x => Sys2Proof.Machine.execVishr h d a b x s
  | .visra h d a b x => Sys2Proof.Machine.execVisra h d a b x s
  | .viadds h d a b x => Sys2Proof.Machine.execViadds h d a b x s
  | .visubs h d a b x => Sys2Proof.Machine.execVisubs h d a b x s
  | .vfcmp h d a b x k => Sys2Proof.Machine.execVfcmp h d a b x k s
  | .vicmp h d a b x k => Sys2Proof.Machine.execVicmp h d a b x k s
  | .vcvt h d a b r kt => Sys2Proof.Machine.execVcvt h d a b r kt s
  | .vbscale h d a => Sys2Proof.Machine.execVbscale h d a s
  | .vquant h d a b => Sys2Proof.Machine.execVquant h d a b s
  | .vdeq h d a b => Sys2Proof.Machine.execVdeq h d a b s
  | .vpackp h d a b => Sys2Proof.Machine.execVpackp h d a b s
  | .vunpkp h d a b => Sys2Proof.Machine.execVunpkp h d a b s
  | .vrsum h d a => Sys2Proof.Machine.execVrsum h d a s
  | .vrmax h d a => Sys2Proof.Machine.execVrmax h d a s
  | .vrmin h d a => Sys2Proof.Machine.execVrmin h d a s
  | .vrargmax h d a => Sys2Proof.Machine.execVrargmax h d a s
  | .vcsum h d a => Sys2Proof.Machine.execVcsum h d a s
  | .vcmax h d a => Sys2Proof.Machine.execVcmax h d a s
  | .vcmin h d a => Sys2Proof.Machine.execVcmin h d a s
  | .vcargmax h d a => Sys2Proof.Machine.execVcargmax h d a s
  | .vperm h d a b => Sys2Proof.Machine.execVperm h d a b s
  | .vgath h d a b => Sys2Proof.Machine.execVgath h d a b s
  | .vrot h d a b => Sys2Proof.Machine.execVrot h d a b s
  | .vtrn h d a => Sys2Proof.Machine.execVtrn h d a s
  | .mand h d a b => Sys2Proof.Machine.execMand h d a b s
  | .mor h d a b => Sys2Proof.Machine.execMor h d a b s
  | .mxor h d a b => Sys2Proof.Machine.execMxor h d a b s
  | .mandn h d a b => Sys2Proof.Machine.execMandn h d a b s
  | .mnot h d a => Sys2Proof.Machine.execMnot h d a s
  | .mmov h d a => Sys2Proof.Machine.execMmov h d a s
  | .mpopc h d a => Sys2Proof.Machine.execMpopc h d a s
  | .mfirst h d a => Sys2Proof.Machine.execMfirst h d a s
  | .vectorCommandComplete core => Sys2Proof.Machine.execVectorCommandComplete core s
  | .mmul h c a b p q => Sys2Proof.Machine.execMmul h c a b p q s
  | .mmulBs h c a b p q => Sys2Proof.Machine.execMmulBs h c a b p q s
  | .mtrans h c a p => Sys2Proof.Machine.execMtrans h c a p s
  | .mperm h c a b p => Sys2Proof.Machine.execMperm h c a b p s
  | .mrsum h c a p => Sys2Proof.Machine.execMrsum h c a p s
  | .mcsum h c a p => Sys2Proof.Machine.execMcsum h c a p s
  | .mclr h c => Sys2Proof.Machine.execMclr h c s
  | .mstF32 h c a => Sys2Proof.Machine.execMstF32 h c a s
  | .mstBf16 h c a => Sys2Proof.Machine.execMstBf16 h c a s
  | .mstI32 h c a => Sys2Proof.Machine.execMstI32 h c a s
  | .mstMe h c a => Sys2Proof.Machine.execMstMe h c a s
  | .mld h c a => Sys2Proof.Machine.execMld h c a s
  | .mxaln h c a => Sys2Proof.Machine.execMxaln h c a s
  | .matrixCommandExecute core => Sys2Proof.Machine.execMatrixCommandExecute core s
  | .sreg h d a b => Sys2Proof.Machine.execSreg h d a b s
  | .sqdraft h a b => Sys2Proof.Machine.execSqdraft h a b s
  | .srun h a b => Sys2Proof.Machine.execSrun h a b s
  | .scommit h a b => Sys2Proof.Machine.execScommit h a b s
  | .samplerRunStart core => Sys2Proof.Machine.execSamplerRunStart core s
  | .lmov d a => Sys2Proof.Machine.execLmov d a s
  | .lkc d im => Sys2Proof.Machine.execLkc d im s
  | .ladd d a b => Sys2Proof.Machine.execLadd d a b s
  | .lsub d a b => Sys2Proof.Machine.execLsub d a b s
  | .lmul d a b => Sys2Proof.Machine.execLmul d a b s
  | .lmin d a b => Sys2Proof.Machine.execLmin d a b s
  | .lmax d a b => Sys2Proof.Machine.execLmax d a b s
  | .lscale d a b => Sys2Proof.Machine.execLscale d a b s
  | .lshift d a b => Sys2Proof.Machine.execLshift d a b s
  | .ltemp d a b => Sys2Proof.Machine.execLtemp d a b s
  | .lcap d a b => Sys2Proof.Machine.execLcap d a b s
  | .lbias d a => Sys2Proof.Machine.execLbias d a s
  | .lrep d a b => Sys2Proof.Machine.execLrep d a b s
  | .lfreq d a b c => Sys2Proof.Machine.execLfreq d a b c s
  | .lmask d a => Sys2Proof.Machine.execLmask d a s
  | .lban d a b => Sys2Proof.Machine.execLban d a b s
  | .lminp d a b => Sys2Proof.Machine.execLminp d a b s
  | .ltopk a k => Sys2Proof.Machine.execLtopk a k s
  | .lbr a b off => Sys2Proof.Machine.execLbr a b off s
  | .lbrNz a b off => Sys2Proof.Machine.execLbrNz a b off s
  | .lbrZ a b off => Sys2Proof.Machine.execLbrZ a b off s
  | .lsync a => Sys2Proof.Machine.execLsync a s
  | .lendS a => Sys2Proof.Machine.execLendS a s
  | .lendG a => Sys2Proof.Machine.execLendG a s
  | .lendF a => Sys2Proof.Machine.execLendF a s
  | .samplerRunOverrun core run => Sys2Proof.Machine.execSamplerRunOverrun core run s
  | .lsyncGlobalMax key => Sys2Proof.Machine.execLsyncGlobalMax key s
  | .rootEndAction key => Sys2Proof.Machine.execRootEndAction key s
  | .samplerTreeTimeout key => Sys2Proof.Machine.execSamplerTreeTimeout key s
  | .dvCadd q ln sc rs2 a d => Sys2Proof.Machine.execDvCadd q ln sc rs2 a d s
  | .dvCread q sc a d => Sys2Proof.Machine.execDvCread q sc a d s
  | .dvCtest q sc rs2 a d => Sys2Proof.Machine.execDvCtest q sc rs2 a d s
  | .dvCwait q sc rs2 a d => Sys2Proof.Machine.execDvCwait q sc rs2 a d s
  | .dvCwaitTimeout hart => Sys2Proof.Machine.execDvCwaitTimeout hart s
  | .dvFnew a d => Sys2Proof.Machine.execDvFnew a d s
  | .dvFpost rs2 a d => Sys2Proof.Machine.execDvFpost rs2 a d s
  | .dvFfail rs2 a d => Sys2Proof.Machine.execDvFfail rs2 a d s
  | .dvLaunch a d => Sys2Proof.Machine.execDvLaunch a d s
  | .hartUModeAccess hart acc => Sys2Proof.Machine.execHartUModeAccess hart acc s
  | .deviceCsrWrite hart csr v => Sys2Proof.Machine.execDeviceCsrWrite hart csr v s
  | .lqEntryFill core idx => Sys2Proof.Machine.execLqEntryFill core idx s
  | .vlqEntryFill core idx => Sys2Proof.Machine.execVlqEntryFill core idx s
  | .portEntryMove core dir => Sys2Proof.Machine.execPortEntryMove core dir s
  | .deadlockTimeout core => Sys2Proof.Machine.execDeadlockTimeout core s
  | .gangFuseTimeout core => Sys2Proof.Machine.execGangFuseTimeout core s
  | .cwaitSSpinExpiry core => Sys2Proof.Machine.execCwaitSSpinExpiry core s
  | .waiterReadied home sq => Sys2Proof.Machine.execWaiterReadied home sq s
  | .overflowScan parcel home => Sys2Proof.Machine.execOverflowScan parcel home s
  | .copyCompletion core => Sys2Proof.Machine.execCopyCompletion core s
  | .pagerTicketReached core site => Sys2Proof.Machine.execPagerTicketReached core site s
  | .repairTicketReached core site => Sys2Proof.Machine.execRepairTicketReached core site s
  | .transitRewalk core xs => Sys2Proof.Machine.execTransitRewalk core xs s
  | .shootdownEntry parcel => Sys2Proof.Machine.execShootdownEntry parcel s
  | .formatWindowDisableDone group win => Sys2Proof.Machine.execFormatWindowDisableDone group win s
  | .launchStart entry => Sys2Proof.Machine.execLaunchStart entry s
  | .launchEnd entry => Sys2Proof.Machine.execLaunchEnd entry s
  | .graphReplayStart graph => Sys2Proof.Machine.execGraphReplayStart graph s
  | .graphReplayEnd graph => Sys2Proof.Machine.execGraphReplayEnd graph s
  | .dispatch core => Sys2Proof.Machine.execDispatch core s
  | .coreReclaim core => Sys2Proof.Machine.execCoreReclaim core s
  | .edgeNotice => Sys2Proof.Machine.execEdgeNotice s
  | .linkPhaseStop => Sys2Proof.Machine.execLinkPhaseStop s
  | .edge => Sys2Proof.Machine.execEdge s
  | .edgeScrub => Sys2Proof.Machine.execEdgeScrub s
  | .wayGroupLateHandover die group => Sys2Proof.Machine.execWayGroupLateHandover die group s
  | .memoryPhaseBoundary ctl => Sys2Proof.Machine.execMemoryPhaseBoundary ctl s
  | .futureTimerTick => Sys2Proof.Machine.execFutureTimerTick s
  | .futureReleaseNoseq id => Sys2Proof.Machine.execFutureReleaseNoseq id s
  | .remoteToolReply conn id nonce toks => Sys2Proof.Machine.execRemoteToolReply conn id nonce toks s
  | .genDescriptorRegister parcel addr => Sys2Proof.Machine.execGenDescriptorRegister parcel addr s
  | .commitEntry parcel => Sys2Proof.Machine.execCommitEntry parcel s
  | .revocationPoint fn => Sys2Proof.Machine.execRevocationPoint fn s
  | .parityError core => Sys2Proof.Machine.execParityError core s
  | .integrityNodeFailure base level => Sys2Proof.Machine.execIntegrityNodeFailure base level s
  | .sramScrub hits => Sys2Proof.Machine.execSramScrub hits s
  | .dramPatrolScrub hits => Sys2Proof.Machine.execDramPatrolScrub hits s
  | .submitCadastreImage img => Sys2Proof.Machine.execSubmitCadastreImage img s
  | .createParcel parcel => Sys2Proof.Machine.execCreateParcel parcel s
  | .deleteParcel parcel => Sys2Proof.Machine.execDeleteParcel parcel s
  | .setOwner res parcel => Sys2Proof.Machine.execSetOwner res parcel s
  | .addGrant grant => Sys2Proof.Machine.execAddGrant grant s
  | .removeGrant grant => Sys2Proof.Machine.execRemoveGrant grant s
  | .setQuotas parcel q => Sys2Proof.Machine.execSetQuotas parcel q s
  | .writeRingCheckTable fn ent => Sys2Proof.Machine.execWriteRingCheckTable fn ent s
  | .writeFormatWindow group win fw => Sys2Proof.Machine.execWriteFormatWindow group win fw s
  | .configureFaultArea parcel cfg => Sys2Proof.Machine.execConfigureFaultArea parcel cfg s
  | .firmwareStage img => Sys2Proof.Machine.execFirmwareStage img s
  | .firmwareActivate slot => Sys2Proof.Machine.execFirmwareActivate slot s
  | .firmwareCommit => Sys2Proof.Machine.execFirmwareCommit s
  | .configureDeviceRings parcel which cfg => Sys2Proof.Machine.execConfigureDeviceRings parcel which cfg s
  | .writeToolRoute parcel idx route => Sys2Proof.Machine.execWriteToolRoute parcel idx route s
  | .bindConnection conn parcel => Sys2Proof.Machine.execBindConnection conn parcel s
  | .unbindConnection conn => Sys2Proof.Machine.execUnbindConnection conn s
  | .exposeCxlRange range => Sys2Proof.Machine.execExposeCxlRange range s
  | .withdrawCxlRange range => Sys2Proof.Machine.execWithdrawCxlRange range s
  | .negotiateAlgorithms extAsym => Sys2Proof.Machine.execNegotiateAlgorithms extAsym s
  | .challenge slot => Sys2Proof.Machine.execChallenge slot s
  | .getMeasurements slot signed => Sys2Proof.Machine.execGetMeasurements slot signed s
  | .getCertificate slot => Sys2Proof.Machine.execGetCertificate slot s
  | .setCertificate slot chain => Sys2Proof.Machine.execSetCertificate slot chain s
  | .slotPendingTimeout slot => Sys2Proof.Machine.execSlotPendingTimeout slot s
  | .bar0RegisterWrite fn reg v => Sys2Proof.Machine.execBar0RegisterWrite fn reg v s
  | .rtail fn ring v => Sys2Proof.Machine.execRtail fn ring v s
  | .cien fn vec v => Sys2Proof.Machine.execCien fn vec v s
  | .cithr fn vec v => Sys2Proof.Machine.execCithr fn vec v s
  | .bar2Write fn reg size v => Sys2Proof.Machine.execBar2Write fn reg size v s
  | .bar2Read fn reg size => Sys2Proof.Machine.execBar2Read fn reg size s
  | .cxlCounterWindowWrite reg size v => Sys2Proof.Machine.execCxlCounterWindowWrite reg size v s
  | .cxlCounterWindowRead reg size => Sys2Proof.Machine.execCxlCounterWindowRead reg size s
  | .ringLaunch fn ring ent => Sys2Proof.Machine.execRingLaunch fn ring ent s
  | .ringCopy fn ring ent data => Sys2Proof.Machine.execRingCopy fn ring ent data s
  | .ringAdd fn ring ent => Sys2Proof.Machine.execRingAdd fn ring ent s
  | .ringWait fn ring ent => Sys2Proof.Machine.execRingWait fn ring ent s
  | .ringNop fn ring ent => Sys2Proof.Machine.execRingNop fn ring ent s
  | .ringEntryComplete fn ring => Sys2Proof.Machine.execRingEntryComplete fn ring s
  | .functionLevelReset fn => Sys2Proof.Machine.execFunctionLevelReset fn s
  | .flrComplete fn => Sys2Proof.Machine.execFlrComplete fn s
  | .pfReset => Sys2Proof.Machine.execPfReset s
  | .surpriseLinkLoss => Sys2Proof.Machine.execSurpriseLinkLoss s
  | .cxlLinkLoss => Sys2Proof.Machine.execCxlLinkLoss s
  | .gracePeriodExpiry => Sys2Proof.Machine.execGracePeriodExpiry s
  | .linkRetrain => Sys2Proof.Machine.execLinkRetrain s
  | .hostMemRead pa size => Sys2Proof.Machine.execHostMemRead pa size s
  | .hostMemWrite pa data => Sys2Proof.Machine.execHostMemWrite pa data s
  | .snpData pa => Sys2Proof.Machine.execSnpData pa s
  | .snpInv pa => Sys2Proof.Machine.execSnpInv pa s
  | .peerCopy conn va data ctr => Sys2Proof.Machine.execPeerCopy conn va data ctr s
  | .peerCounterMessage conn msg => Sys2Proof.Machine.execPeerCounterMessage conn msg s
  | .peerWaitAnswer conn req => Sys2Proof.Machine.execPeerWaitAnswer conn req s
  | .connectionFailure conn => Sys2Proof.Machine.execConnectionFailure conn s
  | .pldmDiscovery => Sys2Proof.Machine.execPldmDiscovery s
  | .pldmSensorRead sensor => Sys2Proof.Machine.execPldmSensorRead sensor s
  | .pldmResetEffecter => Sys2Proof.Machine.execPldmResetEffecter s
  | .pldmFirmwareUpdate target => Sys2Proof.Machine.execPldmFirmwareUpdate target s
  | .managementPowerUp => Sys2Proof.Machine.execManagementPowerUp s
  | .packageReset => Sys2Proof.Machine.execPackageReset s
  | .perstRelease => Sys2Proof.Machine.execPerstRelease s
  | .illegalInstruction core xs word => Sys2Proof.Machine.execIllegalInstruction core xs word s
  | .instructionFetchFault core xs => Sys2Proof.Machine.execInstructionFetchFault core xs s
  | .utgenIllegalWord core run => Sys2Proof.Machine.execUtgenIllegalWord core run s
  | .customIllegalInstruction hart word => Sys2Proof.Machine.execCustomIllegalInstruction hart word s
  | .hartInterrupt hart cause => Sys2Proof.Machine.execHartInterrupt hart cause s
  | .busMasterEnable fn on => Sys2Proof.Machine.execBusMasterEnable fn on s

end Sys2Proof.Machine
end

