-- ==== Sys2Proof/Machine/Step.lean ====
section
/-!
DEFINITION. One step of the package: the work that comes next (`nextWork`), carried out by `exec`, and one cycle.
`State.withFetchWord` places a word so that the next step runs it.
-/
namespace Sys2Proof.Machine
open Sys2Proof

/-- ONE STEP: the next move's or agent's instruction or event is carried out, and a cycle passes. Where an access of a unit
of the package has to wait for its page, nothing else has happened yet (log 56). -/
noncomputable def step (s : State) : Host.Outcome State Fault Refusal :=
  match nextWork s with
  | .idle t => .next (tick (settled (popped s) t))
  | .noAgent => .fault .noSuchAgent
  | .instr i t =>
    match exec i t with
    | .next t' => .next (tick (settled t t'))
    | .fault f => .fault f
    | .refused r => .refused r

/-- A state whose next step fetches and runs the word that the opcode table numbers `w`; every instruction of this
hardware is one 32-bit word, so a shorter one has zeros above. -/
noncomputable def State.withFetchWord (s : State) (nbits w : Nat) : State :=
  placeWord s (BitVec.ofNat 32 (w % 2 ^ nbits))

end Sys2Proof.Machine
end

