-- ==== Sys2Proof/Safety.lean ====
section
/-!
DEFINITION. The terms in which claims are made: when an instruction is clear to be carried out, the state that its
effect starts from and ends in, what an event needs, and the invariants of the package.
-/
namespace Sys2Proof.Machine
open Sys2Proof

/-! ## Carrying out an instruction (R45 to R47) -/

/-- A stream of the core whose turn it is may carry out an instruction: the core runs a strand that is not fused, no
earlier token post is pending, no ticket is waited for, and a token the instruction asks for is there or taken. -/
def Clear (s : State) (xs : Bool) (h : Hdr) : Prop :=
  (∃ r, (coreOf s s.me).run = some r ∧ r.logsz = 0#4) ∧
    (strOf (coreOf s s.me) xs).pendT = none ∧
    ((strOf (coreOf s s.me) xs).hold.map fun t => !ticketReached s t).getD false = false ∧
    (h.w = true → (strOf (coreOf s s.me) xs).wDone = true ∨ tokens (coreOf s s.me) xs ≠ 0#4)

/-- The state in which an instruction acts: its token taken. -/
def begun (s : State) (xs : Bool) (h : Hdr) : State :=
  setCore s s.me ((takeToken s (coreOf s s.me) xs h).getD (coreOf s s.me))

/-- The core on which it acts. -/
def begunCore (s : State) (xs : Bool) (h : Hdr) : Core := coreOf (begun s xs h) s.me

/-- An instruction's end from the state it has left: the pc moves, a token is posted. -/
def ended (s : State) (xs : Bool) (h : Hdr) (n : Next) (t : State) : State := complete xs h n true t s.me

/-- An instruction handed to a queue or a unit, from the state it has left: the pc moves, and its token is posted
later, at its completion (R48). -/
def handed (s : State) (xs : Bool) (h : Hdr) (t : State) : State := complete xs h .seq false t s.me

/-- An instruction whose whole effect is a change of its core. -/
def wrote (s : State) (xs : Bool) (h : Hdr) (f : Core → Core) : State :=
  ended s xs h .seq (modCore (begun s xs h) s.me f)

/-- The guard of an instruction is true (R45). -/
def Guarded (s : State) (xs : Bool) (h : Hdr) : Prop := qGet (begunCore s xs h) xs h.g = true

/-! ## The forms of the Cuvos instructions (R45) -/

/-- What a false guard does to an instruction: it does nothing; the guard field names an element mask or nothing,
so the instruction is never suppressed; a loop skips its body (R45, R46, R123, R183). -/
inductive GuardForm where
  | inst
  | whole
  | loop (len : BitVec 12)
  deriving DecidableEq, Repr

/-- The stream, the header and the guard form of every instruction of the two streams (R45). -/
def cuvosForm : Instr → Option (Bool × Hdr × GuardForm)
  | .aAdd h _ _ _ => some (false, h, .inst)
  | .aSub h _ _ _ => some (false, h, .inst)
  | .aAnd h _ _ _ => some (false, h, .inst)
  | .aOr h _ _ _ => some (false, h, .inst)
  | .aXor h _ _ _ => some (false, h, .inst)
  | .aShl h _ _ _ => some (false, h, .inst)
  | .aShr h _ _ _ => some (false, h, .inst)
  | .aSra h _ _ _ => some (false, h, .inst)
  | .aMul h _ _ _ => some (false, h, .inst)
  | .aMulh h _ _ _ => some (false, h, .inst)
  | .aMulhu h _ _ _ => some (false, h, .inst)
  | .aMin h _ _ _ => some (false, h, .inst)
  | .aMax h _ _ _ => some (false, h, .inst)
  | .aMinu h _ _ _ => some (false, h, .inst)
  | .aMaxu h _ _ _ => some (false, h, .inst)
  | .aSlt h _ _ _ => some (false, h, .inst)
  | .aSltu h _ _ _ => some (false, h, .inst)
  | .aAndn h _ _ _ => some (false, h, .inst)
  | .aOrn h _ _ _ => some (false, h, .inst)
  | .aRotl h _ _ _ => some (false, h, .inst)
  | .aAddi h _ _ _ => some (false, h, .inst)
  | .aAndi h _ _ _ => some (false, h, .inst)
  | .aOri h _ _ _ => some (false, h, .inst)
  | .aXori h _ _ _ => some (false, h, .inst)
  | .aShli h _ _ _ => some (false, h, .inst)
  | .aShri h _ _ _ => some (false, h, .inst)
  | .aSrai h _ _ _ => some (false, h, .inst)
  | .aSlti h _ _ _ => some (false, h, .inst)
  | .aLi h _ _ => some (false, h, .inst)
  | .aLih h _ _ => some (false, h, .inst)
  | .cset h _ _ _ _ => some (false, h, .inst)
  | .cand h _ _ _ => some (false, h, .inst)
  | .cor h _ _ _ => some (false, h, .inst)
  | .cxor h _ _ _ => some (false, h, .inst)
  | .cnot h _ _ => some (false, h, .inst)
  | .cmov h _ _ => some (false, h, .inst)
  | .gaddrRl h _ _ => some (false, h, .inst)
  | .gaddrOwn h _ _ => some (false, h, .inst)
  | .gaddrOff h _ _ => some (false, h, .inst)
  | .idx2 h _ _ _ _ => some (false, h, .inst)
  | .ldl h _ _ _ _ _ => some (false, h, .inst)
  | .stl h _ _ _ _ _ => some (false, h, .inst)
  | .ldq h _ _ _ _ _ => some (false, h, .inst)
  | .stq h _ _ _ _ => some (false, h, .inst)
  | .ldg h _ _ _ _ _ => some (false, h, .inst)
  | .stg h _ _ _ _ _ => some (false, h, .inst)
  | .ldgq h _ _ _ _ _ => some (false, h, .inst)
  | .stgq h _ _ _ _ => some (false, h, .inst)
  | .vld h _ _ => some (false, h, .inst)
  | .vst h _ => some (false, h, .inst)
  | .cpy h _ _ _ _ => some (false, h, .inst)
  | .cpyg h _ _ _ _ => some (false, h, .inst)
  | .cpys h _ _ _ _ => some (false, h, .inst)
  | .cpyf h _ _ _ _ => some (false, h, .inst)
  | .cpyn h _ _ _ _ _ => some (false, h, .inst)
  | .amoWAdd h _ _ _ _ => some (false, h, .inst)
  | .amoWMin h _ _ _ _ => some (false, h, .inst)
  | .amoWMax h _ _ _ _ => some (false, h, .inst)
  | .amoWMinu h _ _ _ _ => some (false, h, .inst)
  | .amoWMaxu h _ _ _ _ => some (false, h, .inst)
  | .amoWAnd h _ _ _ _ => some (false, h, .inst)
  | .amoWOr h _ _ _ _ => some (false, h, .inst)
  | .amoWXor h _ _ _ _ => some (false, h, .inst)
  | .amoWSwap h _ _ _ _ => some (false, h, .inst)
  | .amoWCas h _ _ _ _ => some (false, h, .inst)
  | .amoDAdd h _ _ _ _ => some (false, h, .inst)
  | .amoDMin h _ _ _ _ => some (false, h, .inst)
  | .amoDMax h _ _ _ _ => some (false, h, .inst)
  | .amoDMinu h _ _ _ _ => some (false, h, .inst)
  | .amoDMaxu h _ _ _ _ => some (false, h, .inst)
  | .amoDAnd h _ _ _ _ => some (false, h, .inst)
  | .amoDOr h _ _ _ _ => some (false, h, .inst)
  | .amoDXor h _ _ _ _ => some (false, h, .inst)
  | .amoDSwap h _ _ _ _ => some (false, h, .inst)
  | .amoDCas h _ _ _ _ => some (false, h, .inst)
  | .redIaddW h _ _ _ => some (false, h, .inst)
  | .redIaddD h _ _ _ => some (false, h, .inst)
  | .redFaddF32 h _ _ _ => some (false, h, .inst)
  | .redFaddBf16x2 h _ _ _ => some (false, h, .inst)
  | .redFmaxF32 h _ _ _ => some (false, h, .inst)
  | .redImaxW h _ _ _ => some (false, h, .inst)
  | .redIminW h _ _ _ => some (false, h, .inst)
  | .cadd h _ _ _ _ => some (false, h, .inst)
  | .caddk h _ _ _ _ => some (false, h, .inst)
  | .cread h _ _ _ => some (false, h, .inst)
  | .ctest h _ _ _ _ => some (false, h, .inst)
  | .cwait h _ _ _ => some (false, h, .inst)
  | .cwaitS h _ _ _ => some (false, h, .inst)
  | .calloc h _ _ => some (false, h, .inst)
  | .cfree h _ => some (false, h, .inst)
  | .carm h _ _ => some (false, h, .inst)
  | .cwany h _ _ => some (false, h, .inst)
  | .cwall h _ _ => some (false, h, .inst)
  | .cfirst h _ _ => some (false, h, .inst)
  | .fenceAcq h _ => some (false, h, .inst)
  | .fenceRel h _ => some (false, h, .inst)
  | .fenceAr h _ => some (false, h, .inst)
  | .beq h _ _ _ => some (false, h, .inst)
  | .bne h _ _ _ => some (false, h, .inst)
  | .blt h _ _ _ => some (false, h, .inst)
  | .bge h _ _ _ => some (false, h, .inst)
  | .bltu h _ _ _ => some (false, h, .inst)
  | .bgeu h _ _ _ => some (false, h, .inst)
  | .bc h _ _ _ => some (false, h.toHdr, .whole)
  | .aBq h _ _ => some (false, h.toHdr, .whole)
  | .aJ h _ => some (false, h, .inst)
  | .aJal h _ => some (false, h, .inst)
  | .aJr h _ => some (false, h, .inst)
  | .aSendb h _ _ _ => some (false, h.toHdr, .whole)
  | .aLoop h _ len => some (false, h, .loop len)
  | .aLoops h _ len => some (false, h, .loop len)
  | .loopr h _ _ len => some (false, h, .loop len)
  | .ftile h _ _ _ => some (false, h, .inst)
  | .suspS h => some (false, h, .inst)
  | .yieldS h => some (false, h, .inst)
  | .exitS h => some (false, h, .inst)
  | .commitS h => some (false, h, .inst)
  | .spawn h _ => some (false, h, .inst)
  | .aFuse h _ => some (false, h, .inst)
  | .aSplit h => some (false, h, .inst)
  | .aCsrr h _ _ => some (false, h, .inst)
  | .aCsrw h _ _ _ => some (false, h, .inst)
  | .aCsrs h _ _ _ => some (false, h, .inst)
  | .aCsrc h _ _ _ => some (false, h, .inst)
  | .aTrap h _ => some (false, h, .inst)
  | .aBkpt h _ => some (false, h, .inst)
  | .fcall h _ _ => some (false, h, .inst)
  | .fcallNb h _ _ _ => some (false, h, .inst)
  | .dsc h _ => some (false, h, .inst)
  | .pref h _ => some (false, h, .inst)
  | .aTdefLo h _ _ => some (false, h, .inst)
  | .aTdefHi h _ _ => some (false, h, .inst)
  | .aTadv h _ _ => some (false, h, .inst)
  | .aTrows h _ _ => some (false, h, .inst)
  | .xAdd h _ _ _ => some (true, h, .inst)
  | .xSub h _ _ _ => some (true, h, .inst)
  | .xAnd h _ _ _ => some (true, h, .inst)
  | .xOr h _ _ _ => some (true, h, .inst)
  | .xXor h _ _ _ => some (true, h, .inst)
  | .xShl h _ _ _ => some (true, h, .inst)
  | .xShr h _ _ _ => some (true, h, .inst)
  | .xSra h _ _ _ => some (true, h, .inst)
  | .xMul h _ _ _ => some (true, h, .inst)
  | .xMulh h _ _ _ => some (true, h, .inst)
  | .xMulhu h _ _ _ => some (true, h, .inst)
  | .xMin h _ _ _ => some (true, h, .inst)
  | .xMax h _ _ _ => some (true, h, .inst)
  | .xMinu h _ _ _ => some (true, h, .inst)
  | .xMaxu h _ _ _ => some (true, h, .inst)
  | .xSlt h _ _ _ => some (true, h, .inst)
  | .xSltu h _ _ _ => some (true, h, .inst)
  | .xAndn h _ _ _ => some (true, h, .inst)
  | .xOrn h _ _ _ => some (true, h, .inst)
  | .xRotl h _ _ _ => some (true, h, .inst)
  | .xDiv h _ _ _ => some (true, h, .inst)
  | .xDivu h _ _ _ => some (true, h, .inst)
  | .xRem h _ _ _ => some (true, h, .inst)
  | .xRemu h _ _ _ => some (true, h, .inst)
  | .xClz h _ _ => some (true, h, .inst)
  | .xPopc h _ _ => some (true, h, .inst)
  | .xSextW h _ _ => some (true, h, .inst)
  | .xZextW h _ _ => some (true, h, .inst)
  | .wAdd h _ _ _ => some (true, h, .inst)
  | .wSub h _ _ _ => some (true, h, .inst)
  | .wAnd h _ _ _ => some (true, h, .inst)
  | .wOr h _ _ _ => some (true, h, .inst)
  | .wXor h _ _ _ => some (true, h, .inst)
  | .wShl h _ _ _ => some (true, h, .inst)
  | .wShr h _ _ _ => some (true, h, .inst)
  | .wSra h _ _ _ => some (true, h, .inst)
  | .wMul h _ _ _ => some (true, h, .inst)
  | .wMulh h _ _ _ => some (true, h, .inst)
  | .wMulhu h _ _ _ => some (true, h, .inst)
  | .wMin h _ _ _ => some (true, h, .inst)
  | .wMax h _ _ _ => some (true, h, .inst)
  | .wMinu h _ _ _ => some (true, h, .inst)
  | .wMaxu h _ _ _ => some (true, h, .inst)
  | .wSlt h _ _ _ => some (true, h, .inst)
  | .wSltu h _ _ _ => some (true, h, .inst)
  | .wAndn h _ _ _ => some (true, h, .inst)
  | .wOrn h _ _ _ => some (true, h, .inst)
  | .wRotl h _ _ _ => some (true, h, .inst)
  | .wDiv h _ _ _ => some (true, h, .inst)
  | .wDivu h _ _ _ => some (true, h, .inst)
  | .wRem h _ _ _ => some (true, h, .inst)
  | .wRemu h _ _ _ => some (true, h, .inst)
  | .wClz h _ _ => some (true, h, .inst)
  | .wPopc h _ _ => some (true, h, .inst)
  | .wSextW h _ _ => some (true, h, .inst)
  | .wZextW h _ _ => some (true, h, .inst)
  | .xAddi h _ _ _ => some (true, h, .inst)
  | .xAndi h _ _ _ => some (true, h, .inst)
  | .xOri h _ _ _ => some (true, h, .inst)
  | .xXori h _ _ _ => some (true, h, .inst)
  | .xShli h _ _ _ => some (true, h, .inst)
  | .xShri h _ _ _ => some (true, h, .inst)
  | .xSrai h _ _ _ => some (true, h, .inst)
  | .xSlti h _ _ _ => some (true, h, .inst)
  | .xLi h _ _ => some (true, h, .inst)
  | .xLih h _ _ => some (true, h, .inst)
  | .fadd h _ _ _ => some (true, h, .inst)
  | .fsub h _ _ _ => some (true, h, .inst)
  | .fmul h _ _ _ => some (true, h, .inst)
  | .fdiv h _ _ _ => some (true, h, .inst)
  | .fmin h _ _ _ => some (true, h, .inst)
  | .fmax h _ _ _ => some (true, h, .inst)
  | .fsqrt h _ _ => some (true, h, .inst)
  | .frcp h _ _ => some (true, h, .inst)
  | .frsq h _ _ => some (true, h, .inst)
  | .fabs h _ _ => some (true, h, .inst)
  | .fneg h _ _ => some (true, h, .inst)
  | .fsgnj h _ _ _ => some (true, h, .inst)
  | .fclass h _ _ => some (true, h, .inst)
  | .ffma h _ _ _ => some (true, h, .inst)
  | .ffms h _ _ _ => some (true, h, .inst)
  | .fnfma h _ _ _ => some (true, h, .inst)
  | .fnfms h _ _ _ => some (true, h, .inst)
  | .fcmp h _ _ _ _ => some (true, h, .inst)
  | .fcvtF32S64 h _ _ _ => some (true, h, .inst)
  | .fcvtF32U64 h _ _ _ => some (true, h, .inst)
  | .fcvtS64F32 h _ _ _ => some (true, h, .inst)
  | .fcvtU64F32 h _ _ _ => some (true, h, .inst)
  | .fcvtBf16F32 h _ _ _ => some (true, h, .inst)
  | .fcvtF32Bf16 h _ _ _ => some (true, h, .inst)
  | .fcvtF16F32 h _ _ _ => some (true, h, .inst)
  | .fcvtF32F16 h _ _ _ => some (true, h, .inst)
  | .fcvtE4m3F32 h _ _ _ => some (true, h, .inst)
  | .fcvtE5m2F32 h _ _ _ => some (true, h, .inst)
  | .fcvtF32E4m3 h _ _ _ => some (true, h, .inst)
  | .fcvtF32E5m2 h _ _ _ => some (true, h, .inst)
  | .pset h _ _ _ _ => some (true, h, .inst)
  | .pand h _ _ _ => some (true, h, .inst)
  | .por h _ _ _ => some (true, h, .inst)
  | .pxor h _ _ _ => some (true, h, .inst)
  | .pandn h _ _ _ => some (true, h, .inst)
  | .pnot h _ _ => some (true, h, .inst)
  | .pmov h _ _ => some (true, h, .inst)
  | .ppack h _ => some (true, h, .inst)
  | .punpk h _ => some (true, h, .inst)
  | .peek h _ => some (true, h, .inst)
  | .pushe h _ => some (true, h, .inst)
  | .ppeek h _ _ => some (true, h, .inst)
  | .sel h _ _ _ _ => some (true, h, .inst)
  | .xaln h _ _ => some (true, h, .inst)
  | .ldf h _ _ _ _ _ => some (true, h, .inst)
  | .stf h _ _ _ _ _ => some (true, h, .inst)
  | .bp h _ _ _ => some (true, h.toHdr, .whole)
  | .xBq h _ _ => some (true, h.toHdr, .whole)
  | .bst h _ _ _ => some (true, h.toHdr, .whole)
  | .xJ h _ => some (true, h, .inst)
  | .xJal h _ => some (true, h, .inst)
  | .xJr h _ => some (true, h, .inst)
  | .xSendb h _ _ _ => some (true, h.toHdr, .whole)
  | .xLoop h _ len => some (true, h, .loop len)
  | .xLoops h _ len => some (true, h, .loop len)
  | .loopv h _ _ len => some (true, h, .loop len)
  | .enter h _ => some (true, h, .inst)
  | .leave h _ => some (true, h, .inst)
  | .xcmt h => some (true, h, .inst)
  | .xFuse h _ => some (true, h, .inst)
  | .xSplit h => some (true, h, .inst)
  | .gidx h _ => some (true, h, .inst)
  | .gsize h _ => some (true, h, .inst)
  | .xCsrr h _ _ => some (true, h, .inst)
  | .xCsrw h _ _ _ => some (true, h, .inst)
  | .xCsrs h _ _ _ => some (true, h, .inst)
  | .xCsrc h _ _ _ => some (true, h, .inst)
  | .xTrap h _ => some (true, h, .inst)
  | .xBkpt h _ => some (true, h, .inst)
  | .xTdefLo h _ _ => some (true, h, .inst)
  | .xTdefHi h _ _ => some (true, h, .inst)
  | .xTadv h _ _ => some (true, h, .inst)
  | .xTrows h _ _ => some (true, h, .inst)
  | .vshape h _ => some (true, h, .inst)
  | .vgetsh h _ => some (true, h, .inst)
  | .setvc h _ => some (true, h, .inst)
  | .vpop h _ => some (true, h, .inst)
  | .vpush h _ => some (true, h, .inst)
  | .vpushEos h _ => some (true, h, .inst)
  | .vfadd h _ _ _ _ => some (true, h, .whole)
  | .vfsub h _ _ _ _ => some (true, h, .whole)
  | .vfmul h _ _ _ _ => some (true, h, .whole)
  | .vfdiv h _ _ _ _ => some (true, h, .whole)
  | .vfmin h _ _ _ _ => some (true, h, .whole)
  | .vfmax h _ _ _ _ => some (true, h, .whole)
  | .vfabs h _ _ => some (true, h, .whole)
  | .vfneg h _ _ => some (true, h, .whole)
  | .vfsqrt h _ _ => some (true, h, .whole)
  | .vfrcp h _ _ => some (true, h, .whole)
  | .vfrsq h _ _ => some (true, h, .whole)
  | .vexp2 h _ _ => some (true, h, .whole)
  | .vlog2 h _ _ => some (true, h, .whole)
  | .vtanh h _ _ => some (true, h, .whole)
  | .vffma h _ _ _ _ => some (true, h, .whole)
  | .vffms h _ _ _ _ => some (true, h, .whole)
  | .vfnfma h _ _ _ _ => some (true, h, .whole)
  | .vfnfms h _ _ _ _ => some (true, h, .whole)
  | .vmov h _ _ => some (true, h, .whole)
  | .vbcast h _ _ => some (true, h, .whole)
  | .vext h _ _ _ => some (true, h, .whole)
  | .vins h _ _ _ => some (true, h, .whole)
  | .viadd h _ _ _ _ => some (true, h, .whole)
  | .visub h _ _ _ _ => some (true, h, .whole)
  | .vimul h _ _ _ _ => some (true, h, .whole)
  | .vimin h _ _ _ _ => some (true, h, .whole)
  | .vimax h _ _ _ _ => some (true, h, .whole)
  | .viand h _ _ _ _ => some (true, h, .whole)
  | .vior h _ _ _ _ => some (true, h, .whole)
  | .vixor h _ _ _ _ => some (true, h, .whole)
  | .vishl h _ _ _ _ => some (true, h, .whole)
  | .vishr h _ _ _ _ => some (true, h, .whole)
  | .visra h _ _ _ _ => some (true, h, .whole)
  | .viadds h _ _ _ _ => some (true, h, .whole)
  | .visubs h _ _ _ _ => some (true, h, .whole)
  | .vfcmp h _ _ _ _ _ => some (true, h, .whole)
  | .vicmp h _ _ _ _ _ => some (true, h, .whole)
  | .vcvt h _ _ _ _ _ => some (true, h, .whole)
  | .vbscale h _ _ => some (true, h, .whole)
  | .vquant h _ _ _ => some (true, h, .whole)
  | .vdeq h _ _ _ => some (true, h, .whole)
  | .vpackp h _ _ _ => some (true, h, .whole)
  | .vunpkp h _ _ _ => some (true, h, .whole)
  | .vrsum h _ _ => some (true, h, .whole)
  | .vrmax h _ _ => some (true, h, .whole)
  | .vrmin h _ _ => some (true, h, .whole)
  | .vrargmax h _ _ => some (true, h, .whole)
  | .vcsum h _ _ => some (true, h, .whole)
  | .vcmax h _ _ => some (true, h, .whole)
  | .vcmin h _ _ => some (true, h, .whole)
  | .vcargmax h _ _ => some (true, h, .whole)
  | .vperm h _ _ _ => some (true, h, .whole)
  | .vgath h _ _ _ => some (true, h, .whole)
  | .vrot h _ _ _ => some (true, h, .whole)
  | .vtrn h _ _ => some (true, h, .whole)
  | .mand h _ _ _ => some (true, h, .inst)
  | .mor h _ _ _ => some (true, h, .inst)
  | .mxor h _ _ _ => some (true, h, .inst)
  | .mandn h _ _ _ => some (true, h, .inst)
  | .mnot h _ _ => some (true, h, .inst)
  | .mmov h _ _ => some (true, h, .inst)
  | .mpopc h _ _ => some (true, h, .inst)
  | .mfirst h _ _ => some (true, h, .inst)
  | .mmul h _ _ _ _ _ => some (true, h, .inst)
  | .mmulBs h _ _ _ _ _ => some (true, h, .inst)
  | .mtrans h _ _ _ => some (true, h, .inst)
  | .mperm h _ _ _ _ => some (true, h, .inst)
  | .mrsum h _ _ _ => some (true, h, .inst)
  | .mcsum h _ _ _ => some (true, h, .inst)
  | .mclr h _ => some (true, h, .inst)
  | .mstF32 h _ _ => some (true, h, .inst)
  | .mstBf16 h _ _ => some (true, h, .inst)
  | .mstI32 h _ _ => some (true, h, .inst)
  | .mstMe h _ _ => some (true, h, .inst)
  | .mld h _ _ => some (true, h, .inst)
  | .mxaln h _ _ => some (true, h, .inst)
  | .sreg h _ _ _ => some (true, h, .inst)
  | .sqdraft h _ _ => some (true, h, .inst)
  | .srun h _ _ => some (true, h, .inst)
  | .scommit h _ _ => some (true, h, .inst)
  | _ => none

/-! ## Invariants -/

/-- Every memory and every accumulator of the package is in its canonical form (log 4). -/
def MemoriesOk (s : State) : Prop :=
  s.phys.mem.wf = true ∧ ∀ kc ∈ s.cores, kc.2.scratch.wf = true ∧ ∀ a, Map.sorted (bget kc.2.accs a) = true

/-- Blown fuses stay blown, and the row has 128 (R405). -/
def FusesOk (n : Nat) (s : State) : Prop := n ≤ s.mgmt.fuse ∧ s.mgmt.fuse ≤ 128

end Sys2Proof.Machine
end

