-- ==== Sys2Proof/Certificates/Slice0/Obligations.lean ====
section
/-!
DEFINITION. The statements for the provers, with the tables they range over: what an instruction does when it is
clear to be carried out, what it leaves unchanged, what faults, events and edges do, and the invariants.
-/

/-! ## Arithmetic (R105 to R111, R163 to R165, R173 to R176) -/

namespace Sys2Proof.Claims
open Sys2Proof Sys2Proof.Machine

/-- The value that an integer operation of the two-source families computes, in whole numbers (R105, R163). -/
inductive IntOp where
  | add | sub | and | or | xor | shl | shr | sra | mul | mulh | mulhu | min | max | minu | maxu
  | slt | sltu | andn | orn | rotl | div | divu | rem | remu
  deriving DecidableEq, Repr

/-- A truth value as 1 or 0. -/
def oneIf (b : Prop) [Decidable b] : Word := if b then 1 else 0

/-- The operations of R105 and R163 over the operands' values as natural numbers and as signed integers. -/
def IntOp.value (o : IntOp) (a b : Word) : Word :=
  let n := b.toNat % 64
  match o with
  | .add => BitVec.ofNat 64 (a.toNat + b.toNat)
  | .sub => BitVec.ofInt 64 (a.toNat - b.toNat)
  | .and => a &&& b
  | .or => a ||| b
  | .xor => a ^^^ b
  | .shl => BitVec.ofNat 64 (a.toNat * 2 ^ n)
  | .shr => BitVec.ofNat 64 (a.toNat / 2 ^ n)
  | .sra => BitVec.ofInt 64 (a.toInt / 2 ^ n)
  | .mul => BitVec.ofNat 64 (a.toNat * b.toNat)
  | .mulh => BitVec.ofInt 64 (a.toInt * b.toInt / 2 ^ 64)
  | .mulhu => BitVec.ofNat 64 (a.toNat * b.toNat / 2 ^ 64)
  | .min => if a.toInt ≤ b.toInt then a else b
  | .max => if a.toInt ≤ b.toInt then b else a
  | .minu => if a.toNat ≤ b.toNat then a else b
  | .maxu => if a.toNat ≤ b.toNat then b else a
  | .slt => oneIf (a.toInt < b.toInt)
  | .sltu => oneIf (a.toNat < b.toNat)
  | .andn => a &&& ~~~b
  | .orn => a ||| ~~~b
  | .rotl => BitVec.ofNat 64 (a.toNat * 2 ^ n % 2 ^ 64 + a.toNat / 2 ^ (64 - n))
  | .div => if b.toNat = 0 then BitVec.allOnes 64 else BitVec.ofInt 64 (a.toInt.tdiv b.toInt)
  | .divu => if b.toNat = 0 then BitVec.allOnes 64 else BitVec.ofNat 64 (a.toNat / b.toNat)
  | .rem => if b.toNat = 0 then a else BitVec.ofInt 64 (a.toInt.tmod b.toInt)
  | .remu => if b.toNat = 0 then a else BitVec.ofNat 64 (a.toNat % b.toNat)

/-- The one-source operations of R163. -/
inductive BitOp where
  | clz | popc | sextw | zextw
  deriving DecidableEq, Repr

/-- The one-source operations of R163: leading zeros, one bits, and the low word extended. -/
def BitOp.value (o : BitOp) (a : Word) : Word :=
  match o with
  | .clz => BitVec.ofNat 64 (if a.toNat = 0 then 64 else 63 - Nat.log2 a.toNat)
  | .popc => BitVec.ofNat 64 ((List.range 64).filter fun i => a.getLsbD i).length
  | .sextw => BitVec.ofInt 64 (if a.toNat % 2 ^ 32 < 2 ^ 31 then a.toNat % 2 ^ 32 else (a.toNat % 2 ^ 32 : Int) - 2 ^ 32)
  | .zextw => BitVec.ofNat 64 (a.toNat % 2 ^ 32)

/-- The immediate operations of R106, with i the sign-extended immediate or the shift amount. -/
inductive ImmOp where
  | addi (im : BitVec 11) | andi (im : BitVec 11) | ori (im : BitVec 11) | xori (im : BitVec 11)
  | slti (im : BitVec 11) | shli (n : BitVec 6) | shri (n : BitVec 6) | srai (n : BitVec 6)
  deriving DecidableEq, Repr

/-- The value of an immediate operation. -/
def ImmOp.value (o : ImmOp) (a : Word) : Word :=
  match o with
  | .addi im => BitVec.ofInt 64 (a.toNat + im.toInt)
  | .andi im => a &&& BitVec.ofInt 64 im.toInt
  | .ori im => a ||| BitVec.ofInt 64 im.toInt
  | .xori im => a ^^^ BitVec.ofInt 64 im.toInt
  | .slti im => oneIf (a.toInt < im.toInt)
  | .shli n => BitVec.ofNat 64 (a.toNat * 2 ^ n.toNat)
  | .shri n => BitVec.ofNat 64 (a.toNat / 2 ^ n.toNat)
  | .srai n => BitVec.ofInt 64 (a.toInt / 2 ^ n.toNat)

/-- The access-stream instructions that write one `a` register from registers and constants of their own
stream, with the register and its new value (R105, R106, R107, R110). -/
def accessArith : Instr → Option (Hdr × BitVec 5 × (Core → Word))
  | .aAdd h d a b => some (h, d, fun k => IntOp.add.value (aGet k a) (aGet k b))
  | .aSub h d a b => some (h, d, fun k => IntOp.sub.value (aGet k a) (aGet k b))
  | .aAnd h d a b => some (h, d, fun k => IntOp.and.value (aGet k a) (aGet k b))
  | .aOr h d a b => some (h, d, fun k => IntOp.or.value (aGet k a) (aGet k b))
  | .aXor h d a b => some (h, d, fun k => IntOp.xor.value (aGet k a) (aGet k b))
  | .aShl h d a b => some (h, d, fun k => IntOp.shl.value (aGet k a) (aGet k b))
  | .aShr h d a b => some (h, d, fun k => IntOp.shr.value (aGet k a) (aGet k b))
  | .aSra h d a b => some (h, d, fun k => IntOp.sra.value (aGet k a) (aGet k b))
  | .aMul h d a b => some (h, d, fun k => IntOp.mul.value (aGet k a) (aGet k b))
  | .aMulh h d a b => some (h, d, fun k => IntOp.mulh.value (aGet k a) (aGet k b))
  | .aMulhu h d a b => some (h, d, fun k => IntOp.mulhu.value (aGet k a) (aGet k b))
  | .aMin h d a b => some (h, d, fun k => IntOp.min.value (aGet k a) (aGet k b))
  | .aMax h d a b => some (h, d, fun k => IntOp.max.value (aGet k a) (aGet k b))
  | .aMinu h d a b => some (h, d, fun k => IntOp.minu.value (aGet k a) (aGet k b))
  | .aMaxu h d a b => some (h, d, fun k => IntOp.maxu.value (aGet k a) (aGet k b))
  | .aSlt h d a b => some (h, d, fun k => IntOp.slt.value (aGet k a) (aGet k b))
  | .aSltu h d a b => some (h, d, fun k => IntOp.sltu.value (aGet k a) (aGet k b))
  | .aAndn h d a b => some (h, d, fun k => IntOp.andn.value (aGet k a) (aGet k b))
  | .aOrn h d a b => some (h, d, fun k => IntOp.orn.value (aGet k a) (aGet k b))
  | .aRotl h d a b => some (h, d, fun k => IntOp.rotl.value (aGet k a) (aGet k b))
  | .aAddi h d a im => some (h, d, fun k => (ImmOp.addi im).value (aGet k a))
  | .aAndi h d a im => some (h, d, fun k => (ImmOp.andi im).value (aGet k a))
  | .aOri h d a im => some (h, d, fun k => (ImmOp.ori im).value (aGet k a))
  | .aXori h d a im => some (h, d, fun k => (ImmOp.xori im).value (aGet k a))
  | .aSlti h d a im => some (h, d, fun k => (ImmOp.slti im).value (aGet k a))
  | .aShli h d a n => some (h, d, fun k => (ImmOp.shli n).value (aGet k a))
  | .aShri h d a n => some (h, d, fun k => (ImmOp.shri n).value (aGet k a))
  | .aSrai h d a n => some (h, d, fun k => (ImmOp.srai n).value (aGet k a))
  | .aLi h d im => some (h, d, fun _ => BitVec.ofInt 64 im.toInt)
  | .aLih h d im => some (h, d, fun k => BitVec.ofNat 64 ((aGet k d).toNat * 2 ^ 16 + im.toNat))
  | .idx2 h d a b n => some (h, d, fun k => BitVec.ofNat 64 ((aGet k a).toNat * 2 ^ n.toNat + (aGet k b).toNat))
  | _ => none

/-- The execute-stream instructions that write one `s` register from registers and constants of their own
stream, with the register and its new value (R97, R163, R164, R173, R175, R176, R185, R194). -/
def executeArith : Instr → Option (Hdr × BitVec 5 × (Core → Word))
  | .xAdd h d a b => some (h, d, fun k => IntOp.add.value (sGet k a) (sGet k b))
  | .xSub h d a b => some (h, d, fun k => IntOp.sub.value (sGet k a) (sGet k b))
  | .xAnd h d a b => some (h, d, fun k => IntOp.and.value (sGet k a) (sGet k b))
  | .xOr h d a b => some (h, d, fun k => IntOp.or.value (sGet k a) (sGet k b))
  | .xXor h d a b => some (h, d, fun k => IntOp.xor.value (sGet k a) (sGet k b))
  | .xShl h d a b => some (h, d, fun k => IntOp.shl.value (sGet k a) (sGet k b))
  | .xShr h d a b => some (h, d, fun k => IntOp.shr.value (sGet k a) (sGet k b))
  | .xSra h d a b => some (h, d, fun k => IntOp.sra.value (sGet k a) (sGet k b))
  | .xMul h d a b => some (h, d, fun k => IntOp.mul.value (sGet k a) (sGet k b))
  | .xMulh h d a b => some (h, d, fun k => IntOp.mulh.value (sGet k a) (sGet k b))
  | .xMulhu h d a b => some (h, d, fun k => IntOp.mulhu.value (sGet k a) (sGet k b))
  | .xMin h d a b => some (h, d, fun k => IntOp.min.value (sGet k a) (sGet k b))
  | .xMax h d a b => some (h, d, fun k => IntOp.max.value (sGet k a) (sGet k b))
  | .xMinu h d a b => some (h, d, fun k => IntOp.minu.value (sGet k a) (sGet k b))
  | .xMaxu h d a b => some (h, d, fun k => IntOp.maxu.value (sGet k a) (sGet k b))
  | .xSlt h d a b => some (h, d, fun k => IntOp.slt.value (sGet k a) (sGet k b))
  | .xSltu h d a b => some (h, d, fun k => IntOp.sltu.value (sGet k a) (sGet k b))
  | .xAndn h d a b => some (h, d, fun k => IntOp.andn.value (sGet k a) (sGet k b))
  | .xOrn h d a b => some (h, d, fun k => IntOp.orn.value (sGet k a) (sGet k b))
  | .xRotl h d a b => some (h, d, fun k => IntOp.rotl.value (sGet k a) (sGet k b))
  | .xDiv h d a b => some (h, d, fun k => IntOp.div.value (sGet k a) (sGet k b))
  | .xDivu h d a b => some (h, d, fun k => IntOp.divu.value (sGet k a) (sGet k b))
  | .xRem h d a b => some (h, d, fun k => IntOp.rem.value (sGet k a) (sGet k b))
  | .xRemu h d a b => some (h, d, fun k => IntOp.remu.value (sGet k a) (sGet k b))
  | .xClz h d a => some (h, d, fun k => BitOp.clz.value (sGet k a))
  | .xPopc h d a => some (h, d, fun k => BitOp.popc.value (sGet k a))
  | .xSextW h d a => some (h, d, fun k => BitOp.sextw.value (sGet k a))
  | .xZextW h d a => some (h, d, fun k => BitOp.zextw.value (sGet k a))
  | .xAddi h d a im => some (h, d, fun k => (ImmOp.addi im).value (sGet k a))
  | .xAndi h d a im => some (h, d, fun k => (ImmOp.andi im).value (sGet k a))
  | .xOri h d a im => some (h, d, fun k => (ImmOp.ori im).value (sGet k a))
  | .xXori h d a im => some (h, d, fun k => (ImmOp.xori im).value (sGet k a))
  | .xSlti h d a im => some (h, d, fun k => (ImmOp.slti im).value (sGet k a))
  | .xShli h d a n => some (h, d, fun k => (ImmOp.shli n).value (sGet k a))
  | .xShri h d a n => some (h, d, fun k => (ImmOp.shri n).value (sGet k a))
  | .xSrai h d a n => some (h, d, fun k => (ImmOp.srai n).value (sGet k a))
  | .xLi h d im => some (h, d, fun _ => BitVec.ofInt 64 im.toInt)
  | .xLih h d im => some (h, d, fun k => BitVec.ofNat 64 ((sGet k d).toNat * 2 ^ 16 + im.toNat))
  | .sel h d a b p => some (h, d, fun k => if pGet k p then sGet k a else sGet k b)
  | .ppack h d => some (h, d, fun k =>
      BitVec.ofNat 64 (((List.range 8).map fun i => if pGet k (BitVec.ofNat 3 i) then 2 ^ i else 0).sum))
  | .gidx h d => some (h, d, fun k => BitVec.ofNat 64 ((k.run.map fun r => r.member.toNat).getD 0))
  | .gsize h d => some (h, d, fun k => BitVec.ofNat 64 (2 ^ ((k.run.map fun r => r.logsz.toNat).getD 0)))
  | .vgetsh h d => some (h, d, fun k => k.vec.shape)
  | .xaln h d a => some (h, d, fun k =>
      let x := unpackPair (sGet k d)
      let y := unpackPair (sGet k a)
      packPair (alnAdd x.1 x.2 y.1 y.2))
  | _ => none

/-- The windowed instructions of XINTW (R64, R165): destination code, source codes and the operation; a form of
one source takes `s0` as its second. -/
def windowed : Instr → Option (Hdr × BitVec 5 × BitVec 5 × BitVec 5 × (Word → Word → Word))
  | .wAdd h d a b => some (h, d, a, b, IntOp.add.value)
  | .wSub h d a b => some (h, d, a, b, IntOp.sub.value)
  | .wAnd h d a b => some (h, d, a, b, IntOp.and.value)
  | .wOr h d a b => some (h, d, a, b, IntOp.or.value)
  | .wXor h d a b => some (h, d, a, b, IntOp.xor.value)
  | .wShl h d a b => some (h, d, a, b, IntOp.shl.value)
  | .wShr h d a b => some (h, d, a, b, IntOp.shr.value)
  | .wSra h d a b => some (h, d, a, b, IntOp.sra.value)
  | .wMul h d a b => some (h, d, a, b, IntOp.mul.value)
  | .wMulh h d a b => some (h, d, a, b, IntOp.mulh.value)
  | .wMulhu h d a b => some (h, d, a, b, IntOp.mulhu.value)
  | .wMin h d a b => some (h, d, a, b, IntOp.min.value)
  | .wMax h d a b => some (h, d, a, b, IntOp.max.value)
  | .wMinu h d a b => some (h, d, a, b, IntOp.minu.value)
  | .wMaxu h d a b => some (h, d, a, b, IntOp.maxu.value)
  | .wSlt h d a b => some (h, d, a, b, IntOp.slt.value)
  | .wSltu h d a b => some (h, d, a, b, IntOp.sltu.value)
  | .wAndn h d a b => some (h, d, a, b, IntOp.andn.value)
  | .wOrn h d a b => some (h, d, a, b, IntOp.orn.value)
  | .wRotl h d a b => some (h, d, a, b, IntOp.rotl.value)
  | .wDiv h d a b => some (h, d, a, b, IntOp.div.value)
  | .wDivu h d a b => some (h, d, a, b, IntOp.divu.value)
  | .wRem h d a b => some (h, d, a, b, IntOp.rem.value)
  | .wRemu h d a b => some (h, d, a, b, IntOp.remu.value)
  | .wClz h d a => some (h, d, a, 0, fun x _ => BitOp.clz.value x)
  | .wPopc h d a => some (h, d, a, 0, fun x _ => BitOp.popc.value x)
  | .wSextW h d a => some (h, d, a, 0, fun x _ => BitOp.sextw.value x)
  | .wZextW h d a => some (h, d, a, 0, fun x _ => BitOp.zextw.value x)
  | _ => none

/-- The comparisons of R55 in whole numbers. -/
def condHolds (k : BitVec 3) (a b : Word) : Bool :=
  match k.toNat with
  | 0 => decide (a.toNat = b.toNat)
  | 1 => decide (a.toNat ≠ b.toNat)
  | 2 => decide (a.toInt < b.toInt)
  | 3 => decide (b.toInt ≤ a.toInt)
  | 4 => decide (a.toNat < b.toNat)
  | 5 => decide (b.toNat ≤ a.toNat)
  | 6 => decide (∃ i : Fin 64, a.getLsbD i = true ∧ b.getLsbD i = true)
  | _ => decide (∀ i : Fin 64, ¬(a.getLsbD i = true ∧ b.getLsbD i = true))

/-- The instructions that write one predicate of their stream, with the register and its new value: the
comparisons and the boolean operations of both streams (R108, R109, R174, R175). -/
def predicateOps : Instr → Option (Bool × Hdr × BitVec 3 × (Core → Bool))
  | .cset h p q a b => some (false, h, p, fun k => condHolds q (aGet k a) (aGet k b))
  | .cand h d a b => some (false, h, d, fun k => cGet k a && cGet k b)
  | .cor h d a b => some (false, h, d, fun k => cGet k a || cGet k b)
  | .cxor h d a b => some (false, h, d, fun k => xor (cGet k a) (cGet k b))
  | .cnot h d a => some (false, h, d, fun k => !cGet k a)
  | .cmov h d a => some (false, h, d, fun k => cGet k a)
  | .pset h p q a b => some (true, h, p, fun k => condHolds q (sGet k a) (sGet k b))
  | .pand h d a b => some (true, h, d, fun k => pGet k a && pGet k b)
  | .por h d a b => some (true, h, d, fun k => pGet k a || pGet k b)
  | .pxor h d a b => some (true, h, d, fun k => xor (pGet k a) (pGet k b))
  | .pandn h d a b => some (true, h, d, fun k => pGet k a && !pGet k b)
  | .pnot h d a => some (true, h, d, fun k => !pGet k a)
  | .pmov h d a => some (true, h, d, fun k => pGet k a)
  | _ => none

/-- The closed ports that a windowed instruction names (R64). -/
def portsOpen (s : State) (d a b : BitVec 5) : Bool :=
  !srcPort s s.me (winSrc a) && !srcPort s s.me (winSrc b) && !dstPort s s.me (winDst d)

/-- The fields of the block-cyclic table (R26): BLK, GRID and LEXT of a dimension. -/
def blkOf (k : Core) (i : Nat) : Nat := (bget k.a.dists (BitVec.ofNat 3 (1 + i))).toNat % 2 ^ 32
/-- GRID of a dimension. -/
def gridOf (k : Core) (i : Nat) : Nat := (bget k.a.dists (BitVec.ofNat 3 (1 + i))).toNat / 2 ^ 32 % 2 ^ 16
/-- LEXT of a dimension. -/
def lextOf (k : Core) (i : Nat) : Nat := (bget k.a.dists (BitVec.ofNat 3 (4 + i))).toNat % 2 ^ 32

/-- Owner and local index of the index in the registers from `a` on, over `nd` dimensions, row-major (R111). -/
def blockCyclic (k : Core) (a : BitVec 5) (nd : Nat) : Nat × Nat :=
  (List.range nd).foldl (fun (own, loc) i =>
    let x := (aGet k (BitVec.ofNat 5 (a.toNat + i))).toNat
    let b := blkOf k i
    let g := gridOf k i
    (own * g + x / b % g, (if 0 < i then loc * lextOf k i else 0) + x / (b * g) * b + x % b)) (0, 0)

end Sys2Proof.Claims

open Sys2Proof Sys2Proof.Machine Sys2Proof.Claims

/-- AINT, the immediate forms, `li`, `lih` and `idx2` (R105, R106, R107, R110): a clear instruction whose guard is
true writes d as the tables say, does nothing else to its core, and goes on to the next instruction. `gaddr` maps an
index through the block-cyclic table, and faults where the table is not valid, where no core has the ordinal, and, in
the `rl` form, where the offset is 2^18 or more (R111). -/
def Obligations.AccessArithmeticResults : Prop :=
  (∀ i h d v, accessArith i = some (h, d, v) → ∀ s, Clear s false h → Guarded s false h →
    exec i s = .next (wrote s false h fun k => aSet k d (v k))) ∧
  (∀ s h d a, Clear s false h → Guarded s false h →
    let k := begunCore s false h
    let d0 := (bget k.a.dists 0#3).toNat
    let nd := d0 / 2 ^ 12 % 4
    let esz := d0 / 2 ^ 16 % 16
    let base := d0 % 2 ^ 12
    let valid := 1 ≤ nd ∧ esz ≤ 3 ∧ a.toNat + nd - 1 ≤ 31 ∧
      ∀ i, i < nd → blkOf k i ≠ 0 ∧ gridOf k i ≠ 0 ∧ (0 < i → lextOf k i ≠ 0)
    let off := (d0 / 2 ^ 32 + (blockCyclic k a nd).2 * 2 ^ esz) % 2 ^ 64
    let o := base / 1024 * 768 + base % 1024 + (blockCyclic k a nd).1
    let id := o / 768 * 1024 + o % 768
    let bad := Host.Outcome.next (strandFault (begun s false h) s.me false .illegal 0)
    (¬valid → exec (.gaddrRl h d a) s = bad ∧ exec (.gaddrOwn h d a) s = bad ∧ exec (.gaddrOff h d a) s = bad) ∧
    (valid → exec (.gaddrOff h d a) s = .next (wrote s false h fun k => aSet k d (BitVec.ofNat 64 off)) ∧
      ((47 < base / 16 % 64 ∨ 3072 ≤ o) → exec (.gaddrRl h d a) s = bad ∧ exec (.gaddrOwn h d a) s = bad) ∧
      (base / 16 % 64 ≤ 47 → o < 3072 →
        exec (.gaddrOwn h d a) s = .next (wrote s false h fun k => aSet k d (BitVec.ofNat 64 id)) ∧
        (2 ^ 18 ≤ off → exec (.gaddrRl h d a) s =
          .next (strandFault (begun s false h) s.me false .bounds (BitVec.ofNat 64 off))) ∧
        (off < 2 ^ 18 → exec (.gaddrRl h d a) s = .next (wrote s false h fun k =>
          aSet k d (BitVec.ofNat 64 (2 ^ 63 + id * 2 ^ 32 + off)))))))

/-- XINT, its immediate forms, `li`, `lih`, `sel`, `ppack`, `gidx`, `gsize` and `vgetsh` (R163, R164, R175, R176,
R185, R194): as in the access stream, with division and bit counting. -/
def Obligations.ExecuteArithmeticResults : Prop :=
  ∀ i h d v, executeArith i = some (h, d, v) → ∀ s, Clear s true h → Guarded s true h →
    exec i s = .next (wrote s true h fun k => sSet k d (v k))

/-- XINTW (R64, R165): with every port it names open, both sources available in order and room at its destination, a
windowed instruction takes its sources, writes or pushes its result, and goes on. -/
def Obligations.WindowedResults : Prop :=
  ∀ i h d a b f, windowed i = some (h, d, a, b, f) → ∀ s, Clear s true h → Guarded s true h →
    ∀ x y k₁ k₂, portsOpen (begun s true h) d a b = true → dstRoom (begunCore s true h) (winDst d) = true →
    takeSrc (begun s true h) (begunCore s true h) (winSrc a) = some (x, k₁) →
    takeSrc (begun s true h) k₁ (winSrc b) = some (y, k₂) →
    exec i s = .next (ended s true h .seq
      (setCore (begun s true h) s.me (putDst (begun s true h) k₂ (f x y) (winDst d))))

/-! ## How a Cuvos instruction is carried out (R42, R45 to R47, R64, R122 to R126, R183, R186) -/

namespace Sys2Proof.Claims
open Sys2Proof Sys2Proof.Machine

/-- No pipelined loop is on a stream's loop stack. -/
def NoPipe (k : Core) (xs : Bool) : Prop :=
  ∀ l ∈ (strOf k xs).loops, ∀ i n st t, l.kind ≠ .pipe i n st t

/-- A core without what issuing an instruction moves: the PCs, loop stacks and stall state of its streams, the
token counts, the posts that wait for room in them, and the cycle of the last movement. Everything else of the core
is in what is left. -/
def besidesIssue (k : Core) : Core :=
  { k with a := { k.a with str := Stream.init }, x := { k.x with str := Stream.init },
           sh := { k.sh with tokA := 0, tokX := 0, pendX := [], lastMove := 0 } }

/-- A stream's token count after an instruction took one: a queue load's post that waited for room takes its place
(R23). -/
def afterTake (k : Core) (xs : Bool) : BitVec 4 :=
  if xs && !k.sh.pendX.isEmpty then tokens k xs else tokens k xs - 1

/-- The package besides its cores is the same, and so is every core outside a gang. -/
def OnlyCores (s t : State) (ms : List Nat) : Prop :=
  { t with cores := s.cores } = s ∧ ∀ c, c ∉ ms → coreOf t c = coreOf s c

end Sys2Proof.Claims

open Sys2Proof Sys2Proof.Machine Sys2Proof.Claims

/-- Every instruction and every event answers a next state from every state: no meaning stops the machine. A fault is a
next state (R31, R46); that an event that is not due leaves the state as it is, is the model's choice (log 9). -/
def Obligations.ExecAlwaysAnswersNext : Prop :=
 ∀ i s, ∃ t, exec i s = .next t

/-- R46: an instruction whose guard is false does nothing but go on: it starts from the state with its token taken
and completes. R123, R183: a loop instruction whose guard is false skips its body. -/
def Obligations.FalseGuards : Prop :=
  (∀ i xs h, cuvosForm i = some (xs, h, .inst) → ∀ s, Clear s xs h → ¬Guarded s xs h →
    exec i s = .next (ended s xs h .seq (begun s xs h))) ∧
  (∀ i xs h len, cuvosForm i = some (xs, h, .loop len) → ∀ s, Clear s xs h → ¬Guarded s xs h →
    exec i s = .next (ended s xs h
      (.skip ((strOf (begunCore s xs h) xs).pc + 4 + 4 * len.setWidth 64)) (begun s xs h)))

/-- R13, R14: the fixed registers read as the spec says whatever is written to them, and every other register reads
what was last written to it. R17: the names `v16` to `v31` select physical register 16 + ((N − 16 + VROT) mod 16);
`v0` to `v15` are not renamed; a register reads what was written under its name. -/
def Obligations.RegisterFiles : Prop :=
  (∀ (k : Core) (v : Word) (b : Bool) (m : MBits),
    aGet k 0 = 0 ∧ sGet k 0 = 0 ∧ cGet k 0 = true ∧ pGet k 0 = true ∧ mGet k 0 = BitVec.allOnes 2048 ∧
    (∀ r q, aGet (aSet k r v) q = if q = r ∧ r ≠ 0#5 then v else aGet k q) ∧
    (∀ r q, sGet (sSet k r v) q = if q = r ∧ r ≠ 0#5 then v else sGet k q) ∧
    (∀ r q, cGet (cSet k r b) q = if q = r ∧ r ≠ 0#3 then b else cGet k q) ∧
    (∀ r q, pGet (pSet k r b) q = if q = r ∧ r ≠ 0#3 then b else pGet k q) ∧
    (∀ r q, mGet (mSet k r m) q = if q = r ∧ r ≠ 0#3 then m else mGet k q)) ∧
  (∀ (k : Core) (n q : BitVec 5) (x : VBits),
    (vName k n).toNat = (if n.toNat < 16 then n.toNat else 16 + (n.toNat - 16 + k.vec.rot.toNat) % 16) ∧
      vGet (vSet k n x) q = if q = n then x else vGet k q)

/-- R47: W and T act whatever the guard. A false-guard instruction takes its token and posts one to the partner, or
waits with its post while the partner's count is 15 (R23). R23: an instruction with W set waits while its own count
is zero: it changes no core but its own, and that only in what its stream waits for, from the cycle at which it began
to stall (R25). R23: while an earlier instruction's token post waits because the partner's count is 15, the stream's
next instruction does not issue. -/
def Obligations.TokenRules : Prop :=
  (∀ i xs h, cuvosForm i = some (xs, h, .inst) → ∀ s, Clear s xs h → ¬Guarded s xs h →
     ∃ t, exec i s = .next t ∧
       let k := coreOf s s.me
       let k' := coreOf t s.me
       tokens k' xs = (if h.w && !(strOf k xs).wDone then afterTake k xs else tokens k xs) ∧
       (h.t = true → tokens k (!xs) ≠ 15#4 →
         tokens k' (!xs) = tokens k (!xs) + 1 ∧ (strOf k' xs).pendT = none) ∧
       (h.t = true → tokens k (!xs) = 15#4 →
         tokens k' (!xs) = 15#4 ∧ (strOf k' xs).pendT = some (strOf k xs).pc) ∧
       (h.t = false → tokens k' (!xs) = tokens k (!xs) ∧ (strOf k' xs).pendT = none)) ∧
  ((∀ i xs h g, cuvosForm i = some (xs, h, g) → ∀ s r, (coreOf s s.me).run = some r → r.logsz = 0#4 →
     (strOf (coreOf s s.me) xs).pendT = none → (strOf (coreOf s s.me) xs).hold = none →
     h.w = true → (strOf (coreOf s s.me) xs).wDone = false → tokens (coreOf s s.me) xs = 0#4 →
     ∃ t, exec i s = .next t ∧ OnlyCores s t [s.me] ∧
       coreOf t s.me = modStr (coreOf s s.me) xs fun st =>
         { st with stall := some .token,
                   since := if st.stall.isSome ∧ st.stall ≠ some .other then st.since else s.cycle }) ∧
   (∀ i xs h g, cuvosForm i = some (xs, h, g) → ∀ s r pc, (coreOf s s.me).run = some r → r.logsz = 0#4 →
     (strOf (coreOf s s.me) xs).pendT = some pc → tokens (coreOf s s.me) (!xs) = 15#4 →
     exec i s = .next (markWait s s.me xs .token)))

/-- R42, R123: after an instruction that takes no transfer and at whose end no loop of the stack's top ends, the PC
is 4 further and the loop stack as it was. R123: at the end of its body a counted loop with more than one iteration
left returns to the body's start, and one without falls through and leaves the stack. R123, R124: a `loops` body is
run again until an entry with EOS has been popped from its queue. R183: when a pipelined body ends, the rotation
base falls by 1; while runs are left the stage predicates of the next run are set and the body starts again, else
every stage predicate is cleared and the loop is left. Loops that end at one address are tested innermost first: a
loop that is left leaves the PC and the stack as the rest of the stack alone would have them. -/
def Obligations.LoopEnds : Prop :=
  ((∀ s xs h t, (∀ l ls, (strOf (coreOf t s.me) xs).loops = l :: ls → (strOf (coreOf t s.me) xs).pc + 4 ≠ l.e) →
     let st' := strOf (coreOf (ended s xs h .seq t) s.me) xs
     st'.pc = (strOf (coreOf t s.me) xs).pc + 4 ∧ st'.loops = (strOf (coreOf t s.me) xs).loops) ∧
   (∀ s xs h t l ls n, (strOf (coreOf t s.me) xs).loops = l :: ls → l.kind = .counted n →
     (strOf (coreOf t s.me) xs).pc + 4 = l.e →
     let st' := strOf (coreOf (ended s xs h .seq t) s.me) xs
     (1 < n.toNat → st'.pc = l.s ∧ st'.loops = { l with kind := .counted (n - 1) } :: ls) ∧
       (n.toNat ≤ 1 → (∀ m ms, ls = m :: ms → m.e ≠ l.e) → st'.pc = l.e ∧ st'.loops = ls)) ∧
   (∀ s xs h t l ls q seen, (strOf (coreOf t s.me) xs).loops = l :: ls → l.kind = .eos q seen →
     (strOf (coreOf t s.me) xs).pc + 4 = l.e →
     let st' := strOf (coreOf (ended s xs h .seq t) s.me) xs
     (seen = false → st'.pc = l.s ∧ st'.loops = l :: ls) ∧
       (seen = true → (∀ m ms, ls = m :: ms → m.e ≠ l.e) → st'.pc = l.e ∧ st'.loops = ls)) ∧
   (∀ s xs h t l ls, (strOf (coreOf t s.me) xs).loops = l :: ls → (strOf (coreOf t s.me) xs).pc + 4 = l.e →
     ((∃ n, l.kind = .counted n ∧ n.toNat ≤ 1) ∨ (∃ q, l.kind = .eos q true) ∨
       ∃ i n st T, l.kind = .pipe i n st T ∧ T ≤ i + 1) →
     let st' := strOf (coreOf (ended s xs h .seq t) s.me) xs
     let rest := strOf (coreOf (ended s xs h .seq (modCore t s.me fun k => setLoops k xs ls)) s.me) xs
     st'.pc = rest.pc ∧ st'.loops = rest.loops)) ∧
  (∀ s h t l ls i n st T, (coreOf t s.me).x.str.loops = l :: ls → l.kind = .pipe i n st T →
     (coreOf t s.me).x.str.pc + 4 = l.e → (∀ m ms, ls = m :: ms → m.e ≠ l.e) →
     let k' := coreOf (ended s true h .seq t) s.me
     k'.vec.rot = (coreOf t s.me).vec.rot - 1 ∧
       (i + 1 < T → k'.x.str.pc = l.s ∧ k'.x.str.loops = { l with kind := .pipe (i + 1) n st T } :: ls ∧
         ∀ j : Fin 8, bget k'.x.stages (BitVec.ofNat 3 j) = decide (j.val < st ∧ j.val ≤ i + 1 ∧ i + 1 - j.val < n)) ∧
       (T ≤ i + 1 → k'.x.str.pc = l.e ∧ k'.x.str.loops = ls ∧
         ∀ j : Fin 8, bget k'.x.stages (BitVec.ofNat 3 j) = false))

/-! ## Scalar floating point, memory, queues and tile registers (R112 to R119, R167 to R173, R177 to R181, R187) -/

namespace Sys2Proof.Claims
open Sys2Proof Sys2Proof.Machine

/-- The bits of the FP32 value in an `s` register (R15). -/
def f32 (k : Core) (r : BitVec 5) : Nat := (sGet k r).toNat % 2 ^ 32

/-- An FP32 pattern with the sign of another (R168). -/
def withSign (x y : Nat) : Nat := x % 2 ^ 31 + y / 2 ^ 31 * 2 ^ 31

/-- An integer result as the 64 bits written to d (R54). -/
def bitsOfInt (r : Int × Flags) : FpRes := (if 0 ≤ r.1 then r.1.toNat else (r.1 + 2 ^ 64).toNat, r.2)

/-- The rounding mode that a conversion names (R54). -/
def modeOf (r : BitVec 2) : RMode :=
  if r = 0 then .rne else if r = 1 then .rz else if r = 2 then .rd else .ru

/-- The scalar floating-point instructions, with d, its new value and the flags raised (R54, R168 to R172). -/
def scalarFp : Instr → Option (Hdr × BitVec 5 × (Core → FpRes))
  | .fadd h d a b => some (h, d, fun k => fpAdd .f32 false (f32 k a) (f32 k b))
  | .fsub h d a b => some (h, d, fun k => fpSub .f32 false (f32 k a) (f32 k b))
  | .fmul h d a b => some (h, d, fun k => fpMul .f32 false (f32 k a) (f32 k b))
  | .fdiv h d a b => some (h, d, fun k => fpDiv .f32 false (f32 k a) (f32 k b))
  | .fmin h d a b => some (h, d, fun k => fpMinMax .f32 false false (f32 k a) (f32 k b))
  | .fmax h d a b => some (h, d, fun k => fpMinMax .f32 false true (f32 k a) (f32 k b))
  | .fsgnj h d a b => some (h, d, fun k => (withSign (f32 k a) (f32 k b), 0))
  | .fsqrt h d a => some (h, d, fun k => fpSqrt .f32 false (f32 k a))
  | .frcp h d a => some (h, d, fun k => fpRcp .f32 false (f32 k a))
  | .frsq h d a => some (h, d, fun k => fpRsq .f32 false (f32 k a))
  | .fabs h d a => some (h, d, fun k => (withSign (f32 k a) 0, 0))
  | .fneg h d a => some (h, d, fun k => (f32 k a ^^^ 2 ^ 31, 0))
  | .fclass h d a => some (h, d, fun k => (fpClass .f32 (f32 k a), 0))
  | .ffma h d a b => some (h, d, fun k => fpFma .f32 false false false (f32 k a) (f32 k b) (f32 k d))
  | .ffms h d a b => some (h, d, fun k => fpFma .f32 false false true (f32 k a) (f32 k b) (f32 k d))
  | .fnfma h d a b => some (h, d, fun k => fpFma .f32 false true false (f32 k a) (f32 k b) (f32 k d))
  | .fnfms h d a b => some (h, d, fun k => fpFma .f32 false true true (f32 k a) (f32 k b) (f32 k d))
  | .fcvtF32S64 h d a r => some (h, d, fun k => intToFp .f32 false (modeOf r) (sGet k a).toInt)
  | .fcvtF32U64 h d a r => some (h, d, fun k => intToFp .f32 false (modeOf r) (sGet k a).toNat)
  | .fcvtS64F32 h d a r => some (h, d, fun k =>
      bitsOfInt (fpToInt .f32 false (modeOf r) (-(2 ^ 63)) (2 ^ 63 - 1) (f32 k a)))
  | .fcvtU64F32 h d a r => some (h, d, fun k => bitsOfInt (fpToInt .f32 false (modeOf r) 0 (2 ^ 64 - 1) (f32 k a)))
  | .fcvtBf16F32 h d a r => some (h, d, fun k => fpConv .f32 .bf16 false (modeOf r) (f32 k a))
  | .fcvtF16F32 h d a r => some (h, d, fun k => fpConv .f32 .f16 false (modeOf r) (f32 k a))
  | .fcvtE4m3F32 h d a r => some (h, d, fun k => fpConv .f32 .e4m3 false (modeOf r) (f32 k a))
  | .fcvtE5m2F32 h d a r => some (h, d, fun k => fpConv .f32 .e5m2 false (modeOf r) (f32 k a))
  | .fcvtF32Bf16 h d a _ => some (h, d, fun k => fpConv .bf16 .f32 false .rne ((sGet k a).toNat % 2 ^ 16))
  | .fcvtF32F16 h d a _ => some (h, d, fun k => fpConv .f16 .f32 false .rne ((sGet k a).toNat % 2 ^ 16))
  | .fcvtF32E4m3 h d a _ => some (h, d, fun k => fpConv .e4m3 .f32 false .rne ((sGet k a).toNat % 2 ^ 8))
  | .fcvtF32E5m2 h d a _ => some (h, d, fun k => fpConv .e5m2 .f32 false .rne ((sGet k a).toNat % 2 ^ 8))
  | _ => none

/-- The effective address of an M-format access on a base (R112). -/
def effective (base : Word) (z : BitVec 2) (u : BitVec 1) (off : BitVec 8) : Word :=
  if u = 0#1 then base + BitVec.ofInt 64 (off.toInt * 2 ^ z.toNat) else base

/-- The base register after an M-format access (R112). -/
def updated (base : Word) (z : BitVec 2) (u : BitVec 1) (off : BitVec 8) : Word :=
  if u = 1#1 then base + BitVec.ofInt 64 (off.toInt * 2 ^ z.toNat) else base

/-- A core whose base register has been updated. -/
def aUpdate (k : Core) (a : BitVec 5) (z : BitVec 2) (u : BitVec 1) (off : BitVec 8) : Core :=
  aSet k a (updated (aGet k a) z u off)

/-- The checks of a local access of `n` bytes at a window offset, but for poison: aligned and in the window (R40,
R112, R113). -/
def localOk (k : Core) (ea : Word) (n : Nat) : Prop := ea.toNat % n = 0 ∧ ea.toNat + n ≤ lsize k

/-- The scratchpad bytes of a window access are free of earlier commands' writes and of poison (R282, R391). -/
def localClean (k : Core) (ea : Word) (n : Nat) : Prop :=
  readBlocked k (lbase k + ea.toNat) n = false ∧ scratchPoison k (lbase k + ea.toNat) n = false

/-- The value of `n` window bytes (R3, R113). -/
def localValue (k : Core) (ea : Word) (n : Nat) : Word :=
  BitVec.ofNat 64 (leNat (memGetList k.scratch (lbase k + ea.toNat) n))

/-- A core with `n` low bytes of a value stored at a window offset; a granule written whole becomes clean. -/
def localPut (k : Core) (ea : Word) (n : Nat) (v : Word) : Core :=
  scratchStore k (lbase k + ea.toNat) (leBytes n v.toNat)

/-- The checks of a global access of `n` bytes at an address by the core whose turn it is: it is aligned, it translates to
a byte whose endpoint serves the parcel and which no lost link hides, and its messages pass their checks (R115, R392,
R402, R423). -/
def globalOk (s : State) (c : Nat) (ea : Word) (n : Nat) (w : AccKind) (pa : Nat) (l : Leaf) : Prop :=
  let p := runParcel (coreOf s c)
  ea.toNat % n = 0 ∧ translate s (.core c) p ea w = .ok pa l ∧ endpointOk s p pa = true ∧ linkLost s pa = false ∧
    s.mesh.fail ≠ some .request ∧ s.mesh.fail ≠ some .body

/-- The state after an access of a core at an address has been performed: it is a retry no more (R307, R391). -/
def performed (s : State) (c : Nat) (ea : Word) : State := settleRetry s (.core c) ea

/-- The state after a global read: the walk, the messages, the TLBs and the L2 (R296, R305). -/
def afterRead (s : State) (c : Nat) (ea : Word) (l : Leaf) (pa n : Nat) : State :=
  performed (touch s (.core c) (runParcel (coreOf s c)) ea l pa n .read) c ea

/-- The state after a global store of bytes. -/
def afterWrite (s : State) (c : Nat) (ea : Word) (l : Leaf) (pa : Nat) (bs : List Byte) : State :=
  let t := touch s (.core c) (runParcel (coreOf s c)) ea l pa bs.length .write
  performed { t with phys := physStore t.phys pa bs } c ea

/-- No format window shows memory at a second address. -/
def NoViews (p : Phys) : Prop := p.windows = [] ∧ p.views = []

/-- Every byte of physical memory but a range and the low byte of a table entry, which holds its A and D bits, reads as
before. -/
def BytesKept (s t : State) (l : Leaf) (lo n : Nat) : Prop :=
  ∀ x, ¬(lo ≤ x ∧ x < lo + n) → x ≠ l.at_ → physByte t.phys x = physByte s.phys x

/-- An entry appended to LQ by a queue load, to be filled when its data arrive (R114): its data and EOS, whether a token
follows them, and which instruction it belongs to. -/
def reserveLq (k : Core) (v : Word) (ex : BitVec 1) (tok : Bool) (o : Origin) : Core :=
  { k with sh := { k.sh with
      lq := k.sh.lq ++ [{ data := v, eos := ex == 1#1, filled := false, tok := tok, org := o }] } }

/-- The instruction that a reserved entry belongs to: the cycle and the PC of its issue. -/
def issuedAt (s : State) (k : Core) : Origin := { at_ := s.cycle, pc := k.a.str.pc }

/-- The tile register instructions that write one tile register (R119, R187): its new bits. -/
def tileOps : Instr → Option (Bool × Hdr × BitVec 4 × (Core → TileWord))
  | .aTdefLo h d a => some (false, h, d, fun k => (tGet k d).extractLsb' 64 64 ++ aGet k a)
  | .aTdefHi h d a => some (false, h, d, fun k => aGet k a ++ (tGet k d).extractLsb' 0 64)
  | .aTadv h d a => some (false, h, d, fun k =>
      (tGet k d).extractLsb' 62 66 ++ BitVec.ofNat 62 (tAddr (tGet k d) + (aGet k a).toNat))
  | .xTdefLo h d a => some (true, h, d, fun k => (tGet k d).extractLsb' 64 64 ++ sGet k a)
  | .xTdefHi h d a => some (true, h, d, fun k => sGet k a ++ (tGet k d).extractLsb' 0 64)
  | .xTadv h d a => some (true, h, d, fun k =>
      (tGet k d).extractLsb' 62 66 ++ BitVec.ofNat 62 (tAddr (tGet k d) + (sGet k a).toNat))
  | _ => none

/-- `trows` of either stream with its count (R119). -/
def trowsOps : Instr → Option (Bool × Hdr × BitVec 4 × (Core → Word))
  | .aTrows h d a => some (false, h, d, fun k => aGet k a)
  | .xTrows h d a => some (true, h, d, fun k => sGet k a)
  | _ => none

end Sys2Proof.Claims

open Sys2Proof Sys2Proof.Machine Sys2Proof.Claims

/-- R84, R168 to R170, R172: a scalar floating-point instruction that does not fault with FPINV writes its result,
zero-extended, and ORs its flags into FFLAGS. R84: with FTRAPEN.NVE set, a scalar floating-point instruction that
raises NV writes nothing and faults with FPINV. R171: `fcmp` writes a predicate and ORs its flags, or faults so. That
`frcp` of a signaling NaN raises NV is the model's choice (log 65). -/
def Obligations.ScalarFpResults : Prop :=
  (∀ i h d r, scalarFp i = some (h, d, r) → ∀ s, Clear s true h → Guarded s true h →
    ((begunCore s true h).vec.nve = false ∨ (r (begunCore s true h)).2 &&& fNV = 0) →
    exec i s = .next (wrote s true h fun k => orFlags (sSet k d (BitVec.ofNat 64 (r k).1)) (r k).2)) ∧
  (∀ i h d r, scalarFp i = some (h, d, r) → ∀ s, Clear s true h → Guarded s true h →
    (begunCore s true h).vec.nve = true → (r (begunCore s true h)).2 &&& fNV ≠ 0 →
    exec i s = .next (strandFault (begun s true h) s.me true .fpinv 0)) ∧
  (∀ s h p q a b, Clear s true h → Guarded s true h →
    let r := fun k : Core => fpCmp .f32 false q (f32 k a) (f32 k b)
    (((begunCore s true h).vec.nve = false ∨ (r (begunCore s true h)).2 &&& fNV = 0) →
      exec (.fcmp h p q a b) s = .next (wrote s true h fun k => orFlags (pSet k p (r k).1) (r k).2)) ∧
    ((begunCore s true h).vec.nve = true → (r (begunCore s true h)).2 &&& fNV ≠ 0 →
      exec (.fcmp h p q a b) s = .next (strandFault (begun s true h) s.me true .fpinv 0)))

/-- R112, R113: `ldl` and `ldf` load zero-extended window bytes; the post-update comes before the result. `ldf` asks
as well for an address not below SLIM (R177). R112, R113: `stl` and `stf` store the low bytes of d as it was before
the post-update. R391: a load that has been carried out is a retry no more. -/
def Obligations.LocalAccess : Prop :=
  ((∀ s h d a z u off, Clear s false h → Guarded s false h →
    let k := begunCore s false h
    let ea := effective (aGet k a) z u off
    localOk k ea (2 ^ z.toNat) → localClean k ea (2 ^ z.toNat) →
    exec (.ldl h d a z u off) s = .next (ended s false h .seq
      (modCore (performed (begun s false h) s.me ea) s.me fun k =>
        aSet (aUpdate k a z u off) d (localValue k ea (2 ^ z.toNat))))) ∧
  (∀ s h d a z u off, Clear s true h → Guarded s true h →
    let k := begunCore s true h
    let ea := effective (sGet k a) z u off
    localOk k ea (2 ^ z.toNat) → localClean k ea (2 ^ z.toNat) → k.x.slim.toNat ≤ ea.toNat →
    exec (.ldf h d a z u off) s = .next (ended s true h .seq
      (modCore (performed (begun s true h) s.me ea) s.me fun k =>
        sSet (sSet k a (updated (sGet k a) z u off)) d (localValue k ea (2 ^ z.toNat)))))) ∧
  ((∀ s h d a z u off, Clear s false h → Guarded s false h →
    let k := begunCore s false h
    let ea := effective (aGet k a) z u off
    localOk k ea (2 ^ z.toNat) → boardMeets k (lbase k + ea.toNat) (2 ^ z.toNat) = false →
    exec (.stl h d a z u off) s = .next (wrote s false h fun k =>
      aUpdate (localPut k ea (2 ^ z.toNat) (aGet k d)) a z u off)) ∧
  (∀ s h d a z u off, Clear s true h → Guarded s true h →
    let k := begunCore s true h
    let ea := effective (sGet k a) z u off
    localOk k ea (2 ^ z.toNat) → boardMeets k (lbase k + ea.toNat) (2 ^ z.toNat) = false →
    k.x.slim.toNat ≤ ea.toNat →
    exec (.stf h d a z u off) s = .next (wrote s true h fun k =>
      sSet (localPut k ea (2 ^ z.toNat) (sGet k d)) a (updated (sGet k a) z u off))))

/-- R112, R31: a local access that is not aligned faults with ALIGN, and one outside the window with BOUNDS; the
address is logged and nothing is loaded, stored or updated. R177: `ldf` and `stf` fault with BOUNDS below SLIM too. R115,
R306, R387: a global access faults with ALIGN where its address is not aligned, and with PERM where bits 63 to 48 of it
are not all equal to bit 47. A queue access is checked before it waits for its queue where the address alone decides
(log 73). -/
def Obligations.MemoryAccessFaults : Prop :=
  (∀ s h d a z u off ex, Clear s false h → Guarded s false h →
    let k := begunCore s false h
    let n := 2 ^ z.toNat
    let ea := effective (aGet k a) z u off
    let bad := fun f => Host.Outcome.next (strandFault (begun s false h) s.me false f ea)
    (ea.toNat % n ≠ 0 →
      exec (.ldl h d a z u off) s = bad .align ∧ exec (.stl h d a z u off) s = bad .align ∧
      exec (.ldq h ex a z u off) s = bad .align ∧ exec (.stq h a z u off) s = bad .align) ∧
    (ea.toNat % n = 0 → lsize k < ea.toNat + n →
      exec (.ldl h d a z u off) s = bad .bounds ∧ exec (.stl h d a z u off) s = bad .bounds ∧
      exec (.ldq h ex a z u off) s = bad .bounds ∧ exec (.stq h a z u off) s = bad .bounds)) ∧
  (∀ s h d a z u off, Clear s true h → Guarded s true h →
    let k := begunCore s true h
    let n := 2 ^ z.toNat
    let ea := effective (sGet k a) z u off
    let bad := fun f => Host.Outcome.next (strandFault (begun s true h) s.me true f ea)
    (ea.toNat % n ≠ 0 → exec (.ldf h d a z u off) s = bad .align ∧ exec (.stf h d a z u off) s = bad .align) ∧
    (ea.toNat % n = 0 → (ea.toNat < k.x.slim.toNat ∨ lsize k < ea.toNat + n) →
      exec (.ldf h d a z u off) s = bad .bounds ∧ exec (.stf h d a z u off) s = bad .bounds)) ∧
  (∀ s h d a z u off ex, Clear s false h → Guarded s false h →
    let k := begunCore s false h
    let n := 2 ^ z.toNat
    let ea := effective (aGet k a) z u off
    let bad := fun f => Host.Outcome.next (strandFault (begun s false h) s.me false f ea)
    (ea.toNat % n ≠ 0 →
      exec (.ldg h d a z u off) s = bad .align ∧ exec (.stg h d a z u off) s = bad .align ∧
      exec (.ldgq h ex a z u off) s = bad .align ∧ exec (.stgq h a z u off) s = bad .align) ∧
    (ea.toNat % n = 0 → BitVec.ofInt 64 (ea.extractLsb' 0 48).toInt ≠ ea →
      exec (.ldg h d a z u off) s = bad .perm ∧ exec (.stg h d a z u off) s = bad .perm ∧
      (k.sh.lq.length < 16 → exec (.ldgq h ex a z u off) s = bad .perm) ∧
      (k.sh.sq ≠ [] → exec (.stgq h a z u off) s = bad .perm)))

/-- R112, R113, R115: `ldg` and `stg` act on the bytes that the parcel's tables translate the address to: the value that
is loaded is theirs, the stored bytes read as the register's low bytes, and where no format window is enabled every
other byte of memory reads as before, but for the A and D bits of the table entry (R305). The stored bytes read back in
a canonical memory, which every step keeps (StepKeepsMemoriesCanonical). R307, R391: an access that has been performed
is a retry no more. -/
def Obligations.GlobalAccess : Prop :=
  ∀ s h d a z u off pa l, Clear s false h → Guarded s false h →
    let b := begun s false h
    let k := begunCore s false h
    let n := 2 ^ z.toNat
    let ea := effective (aGet k a) z u off
    (globalOk b s.me ea n .read pa l → anyPoison b.phys pa n = false →
      exec (.ldg h d a z u off) s = .next (ended s false h .seq
        (modCore (afterRead b s.me ea l pa n) s.me fun k =>
          aSet (aUpdate k a z u off) d (BitVec.ofNat 64 (leNat (physBytes b.phys pa n))))) ∧
      (NoViews b.phys → BytesKept b (afterRead b s.me ea l pa n) l 0 0)) ∧
    (globalOk b s.me ea n .write pa l →
      let t := afterWrite b s.me ea l pa (leBytes n (aGet k d).toNat)
      exec (.stg h d a z u off) s = .next (ended s false h .seq (modCore t s.me fun k => aUpdate k a z u off)) ∧
      (b.phys.mem.wf = true → NoViews b.phys → (∀ i, i < n → region (pa + i) ≠ .view) → BytesKept b t l pa n ∧
        ∀ i, i < n → physByte t.phys (pa + i) = BitVec.ofNat 8 ((aGet k d).toNat / 256 ^ i)))

/-- R119, R187: the tile register instructions of both streams write the register's bits. -/
def Obligations.TileRegisterResults : Prop :=
  (∀ i xs h d v, tileOps i = some (xs, h, d, v) → ∀ s, Clear s xs h → Guarded s xs h →
    exec i s = .next (wrote s xs h fun k => tSet k d (v k))) ∧
  (∀ i xs h d v, trowsOps i = some (xs, h, d, v) → ∀ s, Clear s xs h → Guarded s xs h →
    let n := (v (begunCore s xs h)).toNat
    (1 ≤ n → n ≤ 4096 →
      exec i s = .next (wrote s xs h fun k =>
        tSet k d ((tGet k d).extractLsb' 120 8 ++ BitVec.ofNat 12 (n - 1) ++ (tGet k d).extractLsb' 0 108))) ∧
    (n = 0 ∨ 4096 < n → exec i s = .next (strandFault (begun s xs h) s.me xs .illegal 0)))

/-- R127, R128: `ftile` takes a returned sub-tile first, else the next of its section, packs it into d and clears
its predicate; with the queue exhausted, missing or another launch's it sets the predicate and leaves d. -/
def Obligations.FetchTile : Prop :=
  ∀ s h d p q, Clear s false h → Guarded s false h →
    let b := begun s false h
    let k := begunCore s false h
    let key := wqKey (sectOf s.me) q.toNat
    (∀ Q i j Q', mget b.sched.queues key = some Q → Q.launch = (runOwner k).launch →
      wqTake Q (runOwner k).rcd = some ((i, j), Q') →
      exec (.ftile h d p q) s = .next (ended s false h .seq
        (setCore { b with sched := { b.sched with queues := mset b.sched.queues key Q' } } s.me
          (let k' := cSet (aSet k d (BitVec.ofNat 64
              (i + j * 2 ^ 16 + min Q.ti (Q.ext_i - i) * 2 ^ 32 + min Q.tj (Q.ext_j - j) * 2 ^ 48))) p false
           if 16 < takes Q' (runOwner k).rcd then setIrv k' else k')))) ∧
    (∀ Q, mget b.sched.queues key = some Q → (Q.launch ≠ (runOwner k).launch ∨ wqTake Q (runOwner k).rcd = none) →
      exec (.ftile h d p q) s = .next (wrote s false h fun k => cSet k p true)) ∧
    (mget b.sched.queues key = none →
      exec (.ftile h d p q) s = .next (wrote s false h fun k => cSet k p true))

/-- Frame of the register instructions of the access stream: when one answers a next state, nothing but cores
changes, no core outside its gang changes, and on a core in it nothing besides the issue state changes but d. Frame
of the register instructions of the execute stream. Frame of the predicate instructions of both streams: nothing
besides the issue state changes but one predicate. Frame of a local store: every byte of the scratchpad outside the
stored bytes reads as before, the stored bytes read as the register's bytes, and nothing else changes but the base
register, the poison of the granules written whole and the issue state (R113). The scratchpad is in its canonical
form. -/
def Obligations.InstructionFrames : Prop :=
  ((∀ i h d v, accessArith i = some (h, d, v) → ∀ s t, exec i s = .next t →
     OnlyCores s t (s.me :: gangOf s s.me) ∧
       (NoPipe (coreOf s s.me) false → ∀ c, ∃ x, besidesIssue (coreOf t c) = besidesIssue (aSet (coreOf s c) d x))) ∧
   (∀ i h d v, executeArith i = some (h, d, v) → ∀ s t, exec i s = .next t →
     OnlyCores s t (s.me :: gangOf s s.me) ∧
       (NoPipe (coreOf s s.me) true → ∀ c, ∃ x, besidesIssue (coreOf t c) = besidesIssue (sSet (coreOf s c) d x))) ∧
   (∀ i xs h p v, predicateOps i = some (xs, h, p, v) → ∀ s t, exec i s = .next t →
     OnlyCores s t (s.me :: gangOf s s.me) ∧
       (NoPipe (coreOf s s.me) xs → ∀ c, ∃ b, besidesIssue (coreOf t c) =
         besidesIssue (if xs then pSet (coreOf s c) p b else cSet (coreOf s c) p b)))) ∧
  (∀ s h d a z u off, Clear s false h → Guarded s false h → (coreOf s s.me).scratch.wf = true →
     let k := begunCore s false h
     let n := 2 ^ z.toNat
     let ea := effective (aGet k a) z u off
     localOk k ea n → boardMeets k (lbase k + ea.toNat) n = false →
     ∃ t, exec (.stl h d a z u off) s = .next t ∧ OnlyCores s t [s.me] ∧
       (∀ p, memGet (coreOf t s.me).scratch p =
         if lbase k + ea.toNat ≤ p ∧ p < lbase k + ea.toNat + n
         then BitVec.ofNat 8 ((aGet (coreOf s s.me) d).toNat / 256 ^ (p - (lbase k + ea.toNat)))
         else memGet (coreOf s s.me).scratch p) ∧
       (NoPipe (coreOf s s.me) false →
         besidesIssue { coreOf t s.me with scratch := [], poison := [] } =
           besidesIssue { aUpdate (coreOf s s.me) a z u off with scratch := [], poison := [] }))

/-- R113, R114: `ldq` reserves the tail entry of LQ for its data, and its token waits for their arrival; `stq` pops
the SQ head and stores its low bytes. R113 to R115: `ldgq` and `stgq` are `ldq` and `stq` on global bytes. R117,
R118: `vld` reads the active rows of a region into a reserved VLQ entry; `vst` stores the VSQ head into the active
rows of a region. Every row is checked, gated or not. That the data of a queue load and of `vld` are read at issue and
kept with the reserved entry is the model's choice (log 7). -/
def Obligations.QueueAccess : Prop :=
  ((∀ s h a z u off, Clear s false h → Guarded s false h →
     let k := begunCore s false h
     let ea := effective (aGet k a) z u off
     localOk k ea (2 ^ z.toNat) →
     (∀ ex, localClean k ea (2 ^ z.toNat) → k.sh.lq.length < 16 →
       exec (.ldq h ex a z u off) s = .next (handed s false h
         (modCore (performed (begun s false h) s.me ea) s.me fun k =>
           reserveLq (aUpdate k a z u off) (localValue k ea (2 ^ z.toNat)) ex h.t (issuedAt s k)))) ∧
     (∀ e q, k.sh.sq = e :: q → boardMeets k (lbase k + ea.toNat) (2 ^ z.toNat) = false →
       exec (.stq h a z u off) s = .next (wrote s false h fun k =>
         sqPop (begun s false h) (aUpdate (localPut k ea (2 ^ z.toNat) e.data) a z u off)))) ∧
   (∀ s h a z u off pa l, Clear s false h → Guarded s false h →
     let b := begun s false h
     let k := begunCore s false h
     let n := 2 ^ z.toNat
     let ea := effective (aGet k a) z u off
     (∀ ex, globalOk b s.me ea n .read pa l → anyPoison b.phys pa n = false → k.sh.lq.length < 16 →
       exec (.ldgq h ex a z u off) s = .next (handed s false h
         (modCore (afterRead b s.me ea l pa n) s.me fun k =>
           reserveLq (aUpdate k a z u off) (BitVec.ofNat 64 (leNat (physBytes b.phys pa n))) ex h.t
             (issuedAt s k)))) ∧
     (∀ e q, k.sh.sq = e :: q → globalOk b s.me ea n .write pa l →
       exec (.stgq h a z u off) s = .next (ended s false h .seq
         (modCore (afterWrite b s.me ea l pa (leBytes n e.data.toNat)) s.me fun k =>
           sqPop b (aUpdate k a z u off)))))) ∧
  (∀ s h tt, Clear s false h → Guarded s false h →
     let b := begun s false h
     let k := begunCore s false h
     let t := tGet k tt
     tileOk t (fun _ => true) = true → (tRows t + 1) * tW t ≤ 2048 →
     (∀ ex rows b' bs, checkRows b s.me t .read 0 (tRows t + 1) = .ok rows → k.sh.vlq.length < 4 →
       readParts b s.me (runParcel k) (addrParts t 0 (rows.take (min (tRows t + 1) k.a.acnt.toNat))) = .ok b' bs →
       exec (.vld h tt ex) s = .next (handed s false h (modCore b' s.me fun k =>
         { k with sh := { k.sh with vlq := k.sh.vlq ++
           [{ data := BitVec.ofNat 16384 (leNat bs), eos := ex == 1#1, filled := false, tok := h.t,
              org := issuedAt s k }] } }))) ∧
     (∀ e q rows b' scr phys, k.sh.vsq = e :: q → checkRows b s.me t .write 0 (tRows t + 1) = .ok rows →
       let parts := addrParts t 0 (rows.take (min (tRows t + 1) k.a.acnt.toNat))
       (parts.all fun p => partWritable b p.1) = true →
       writeParts b s.me (runOwner k)
         (parts.zip (pieces16 parts.length (leBytes (16 * parts.length) e.data.toNat))) = .ok b' scr phys →
       exec (.vst h tt) s = .next (ended s false h .seq
         (modCore (settleClean b' scr phys) s.me fun k => vsqPop b k))))

/-! ## Control transfers, loops, control registers and traps (R26, R61, R120 to R126, R154, R155, R180 to R187, R194) -/

namespace Sys2Proof.Claims
open Sys2Proof Sys2Proof.Machine

/-- A predicate bit compared with the inversion bit of a P- or S-format word (R120, R180). -/
def inverted (b : Bool) (n : BitVec 1) : Bool := if n = 1#1 then !b else b

/-- The branches that read no queue, and the jumps: stream, header, when taken, offset in words (R120, R180). -/
def branchOps : Instr → Option (Bool × Hdr × (Core → Bool) × Int)
  | .beq h a b off => some (false, h, fun k => decide (aGet k a = aGet k b), off.toInt)
  | .bne h a b off => some (false, h, fun k => decide (aGet k a ≠ aGet k b), off.toInt)
  | .blt h a b off => some (false, h, fun k => decide ((aGet k a).toInt < (aGet k b).toInt), off.toInt)
  | .bge h a b off => some (false, h, fun k => decide ((aGet k b).toInt ≤ (aGet k a).toInt), off.toInt)
  | .bltu h a b off => some (false, h, fun k => decide ((aGet k a).toNat < (aGet k b).toNat), off.toInt)
  | .bgeu h a b off => some (false, h, fun k => decide ((aGet k b).toNat ≤ (aGet k a).toNat), off.toInt)
  | .aJ h off => some (false, h, fun _ => true, off.toInt)
  | .xJ h off => some (true, h, fun _ => true, off.toInt)
  | .bc h p n off => some (false, h.toHdr, fun k => inverted (cGet k p) n, off.toInt)
  | .bp h p n off => some (true, h.toHdr, fun k => inverted (pGet k p) n, off.toInt)
  | .bst h sc n off => some (true, h.toHdr, fun k => inverted (status k sc) n, off.toInt)
  | _ => none

/-- `bq` of either stream: stream, header, inversion, offset in words, and the queue it pops (R120, R180). -/
def queueBranches : Instr → Option (Bool × Hdr × BitVec 1 × Int)
  | .aBq h n off => some (false, h.toHdr, n, off.toInt)
  | .xBq h n off => some (true, h.toHdr, n, off.toInt)
  | _ => none

/-- `sendb` of either stream: its header, and the outcome and EOS it sends (R121, R181). -/
def outcomeSends : Instr → Option (Bool × Hdr × (Core → BEnt))
  | .aSendb h p n ex => some (false, h.toHdr, fun k => { bit := inverted (cGet k p) n, eos := ex == 1#1 })
  | .xSendb h p n ex => some (true, h.toHdr, fun k => { bit := inverted (pGet k p) n, eos := ex == 1#1 })
  | _ => none

/-- A target a number of words from the PC (R42). -/
def wordsFrom (pc : Word) (off : Int) : Word := pc + BitVec.ofInt 64 (4 * off)

/-- The core after a taken transfer popped the loops it leaves (R126). -/
def leaving (xs : Bool) (t : Word) (k : Core) : Core := leaveLoops xs t (strOf k xs).loops k

/-- A transfer from a state: taken, it pops the loops it leaves and goes to its target; untaken, it goes on. -/
def transferred (s : State) (xs : Bool) (h : Hdr) (b : State) (taken : Bool) (t : Word) : State :=
  if taken then ended s xs h (.jump t) (modCore b s.me (leaving xs t)) else ended s xs h .seq b

/-- The loop instructions that read their count from a register: stream, header, length, count (R123, R182). -/
def countLoops : Instr → Option (Bool × Hdr × BitVec 12 × (Core → Word))
  | .aLoop h a len => some (false, h, len, fun k => aGet k a)
  | .xLoop h a len => some (true, h, len, fun k => sGet k a)
  | _ => none

/-- `loops` of either stream (R123, R182). -/
def eosLoops : Instr → Option (Bool × Hdr × BitVec 4 × BitVec 12)
  | .aLoops h q len => some (false, h, q, len)
  | .xLoops h q len => some (true, h, q, len)
  | _ => none

/-- The loop-stack entry of a loop at the current PC (R123). -/
def entryAt (pc : Word) (len : BitVec 12) (kind : LoopKind) : LoopEnt :=
  { s := pc + 4, e := pc + BitVec.ofNat 64 (4 + 4 * len.toNat), kind := kind }

/-- A loop entered: its entry on top of the stack, the PC at its body. -/
def entered (s : State) (xs : Bool) (h : Hdr) (len : BitVec 12) (kind : LoopKind) (b : State) : State :=
  let pc := (strOf (coreOf b s.me) xs).pc
  ended s xs h (.jump (pc + 4)) (modCore b s.me fun k =>
    setLoops k xs (entryAt pc len kind :: (strOf k xs).loops))

/-- A loop that runs no iteration: the PC past its body. -/
def skipped (s : State) (xs : Bool) (h : Hdr) (len : BitVec 12) (b : State) : State :=
  ended s xs h (.skip ((strOf (coreOf b s.me) xs).pc + BitVec.ofNat 64 (4 + 4 * len.toNat))) b

/-- The CSR instructions of both streams: the CSR, d, and the value written from the old one, nothing where the
instruction only reads (R61, R154, R187). -/
def csrOps : Instr → Option (Bool × Hdr × BitVec 5 × BitVec 9 × (Core → Word → Option Word))
  | .aCsrr h d c => some (false, h, d, c, fun _ _ => none)
  | .aCsrw h d a c => some (false, h, d, c, fun k _ => some (aGet k a))
  | .aCsrs h d a c => some (false, h, d, c, fun k old => if a = 0 then none else some (old ||| aGet k a))
  | .aCsrc h d a c => some (false, h, d, c, fun k old => if a = 0 then none else some (old &&& ~~~aGet k a))
  | .xCsrr h d c => some (true, h, d, c, fun _ _ => none)
  | .xCsrw h d a c => some (true, h, d, c, fun k _ => some (sGet k a))
  | .xCsrs h d a c => some (true, h, d, c, fun k old => if a = 0 then none else some (old ||| sGet k a))
  | .xCsrc h d a c => some (true, h, d, c, fun k old => if a = 0 then none else some (old &&& ~~~sGet k a))
  | _ => none

/-- A register of a stream's own file written. -/
def ownSet (k : Core) (xs : Bool) (d : BitVec 5) (v : Word) : Core := if xs then sSet k d v else aSet k d v

/-- `trap` of both streams and the execute stream's `bkpt` (R155, R185). -/
def trapOps : Instr → Option (Bool × Hdr)
  | .aTrap h _ => some (false, h)
  | .xTrap h _ => some (true, h)
  | .xBkpt h _ => some (true, h)
  | _ => none

end Sys2Proof.Claims

open Sys2Proof Sys2Proof.Machine Sys2Proof.Claims

/-- R42, R120, R126, R180: a branch or jump that is taken goes 4 times its offset from its own address and pops the
loops it leaves; one that is not goes on. R126: a taken transfer to t pops entries from the top of the stack while
their range does not hold t, and keeps the rest. R120, R126, R180: `jal` writes the address after it to `a3` or `s1`
and pops no loop; `jr` goes to its register, and faults with ALIGN where the target is no word address (R42). -/
def Obligations.BranchResults : Prop :=
  (∀ i xs h c off, branchOps i = some (xs, h, c, off) → ∀ s, Clear s xs h → Guarded s xs h →
    let k := begunCore s xs h
    exec i s = .next (transferred s xs h (begun s xs h) (c k) (wordsFrom (strOf k xs).pc off))) ∧
  (∀ xs t k, (strOf (leaving xs t k) xs).loops =
    (strOf k xs).loops.dropWhile fun l => !decide (l.s.toNat ≤ t.toNat ∧ t.toNat < l.e.toNat)) ∧
  ((∀ s h off, Clear s false h → Guarded s false h → exec (.aJal h off) s =
    .next (ended s false h (.jump (wordsFrom (begunCore s false h).a.str.pc off.toInt))
      (modCore (begun s false h) s.me fun k => aSet k 3 (k.a.str.pc + 4)))) ∧
  (∀ s h off, Clear s true h → Guarded s true h → exec (.xJal h off) s =
    .next (ended s true h (.jump (wordsFrom (begunCore s true h).x.str.pc off.toInt))
      (modCore (begun s true h) s.me fun k => sSet k 1 (k.x.str.pc + 4)))) ∧
  (∀ s h a, Clear s false h → Guarded s false h →
    ((aGet (begunCore s false h) a).toNat % 4 = 0 →
      exec (.aJr h a) s = .next (ended s false h (.jump (aGet (begunCore s false h) a)) (begun s false h))) ∧
    ((aGet (begunCore s false h) a).toNat % 4 ≠ 0 →
      exec (.aJr h a) s = .next (strandFault (begun s false h) s.me false .align (aGet (begunCore s false h) a)))) ∧
  (∀ s h a, Clear s true h → Guarded s true h →
    ((sGet (begunCore s true h) a).toNat % 4 = 0 →
      exec (.xJr h a) s = .next (ended s true h (.jump (sGet (begunCore s true h) a)) (begun s true h))) ∧
    ((sGet (begunCore s true h) a).toNat % 4 ≠ 0 →
      exec (.xJr h a) s = .next (strandFault (begun s true h) s.me true .align (sGet (begunCore s true h) a)))))

/-- R122, R123, R125, R182, R183: a loop instruction with room on the stack pushes its entry and runs its body, or
skips it when its count is 0; with four entries on the stack each of them faults with ILLEGAL. `loopr` takes its count
from a shape record, whose address is 64-byte aligned, else ALIGN; a second `loopv` on the stack faults with
ILLEGAL. -/
def Obligations.LoopEntryResults : Prop :=
  (∀ i xs h len v, countLoops i = some (xs, h, len, v) → ∀ s, Clear s xs h → Guarded s xs h →
    let b := begun s xs h
    let k := begunCore s xs h
    ((strOf k xs).loops.length < 4 → v k = 0 → exec i s = .next (skipped s xs h len b)) ∧
    ((strOf k xs).loops.length < 4 → v k ≠ 0 → exec i s = .next (entered s xs h len (.counted (v k)) b)) ∧
    (4 ≤ (strOf k xs).loops.length → exec i s = .next (strandFault b s.me xs .illegal 0))) ∧
  (∀ i xs h q len, eosLoops i = some (xs, h, q, len) → ∀ s, Clear s xs h → Guarded s xs h →
    let b := begun s xs h
    let k := begunCore s xs h
    ((strOf k xs).loops.length < 4 → exec i s = .next (entered s xs h len (.eos q false) b)) ∧
    (4 ≤ (strOf k xs).loops.length → exec i s = .next (strandFault b s.me xs .illegal 0))) ∧
  (∀ s h a f len, Clear s false h → Guarded s false h →
    let b := begun s false h
    let k := begunCore s false h
    let ea := aGet k a
    (ea.toNat % 64 ≠ 0 → exec (.loopr h a f len) s = .next (strandFault b s.me false .align ea)) ∧
    ∀ b₁ n b₂ m, ea.toNat % 64 = 0 → globalRead b s.me (ea + BitVec.ofNat 64 (4 * f.toNat)) 4 = .ok b₁ n →
      globalRead b₁ s.me (ea + 32) 4 = .ok b₂ m →
      (k.a.str.loops.length < 4 → exec (.loopr h a f len) s = .next
        (if m.getLsbD f.toNat = true ∧ n ≠ 0 then entered s false h len (.counted n) b₂
         else skipped s false h len b₂)) ∧
      (4 ≤ k.a.str.loops.length → exec (.loopr h a f len) s = .next (strandFault b₂ s.me false .illegal 0))) ∧
  (∀ s h a sc len, Clear s true h → Guarded s true h →
    let b := begun s true h
    let k := begunCore s true h
    let n := (sGet k a).toNat
    let st := sc.toNat
    (k.x.str.loops.length < 4 → NoPipe k true →
      (n = 0 → exec (.loopv h a sc len) s = .next (skipped s true h len b)) ∧
      (n ≠ 0 → exec (.loopv h a sc len) s = .next (entered s true h len (.pipe 0 n st (n + st - 1))
        (modCore b s.me fun k => setStage k 0 n st)))) ∧
    ((4 ≤ k.x.str.loops.length ∨ ¬NoPipe k true) →
      exec (.loopv h a sc len) s = .next (strandFault b s.me true .illegal 0)))

/-- R179: `enter` lowers `s2` by 16 times its immediate and faults with STACK below SLIM; `leave` raises it and
faults above LSIZE. R28, R194: `vshape` sets VSHAPE to a valid value and faults with ILLEGAL on an invalid one;
`setvc` sets VCNT. -/
def Obligations.FrameAndShapeInstructions : Prop :=
  (∀ s h n, Clear s true h → Guarded s true h →
     let k := begunCore s true h
     let sp := sGet k 2
     (16 * n.toNat ≤ sp.toNat → k.x.slim.toNat ≤ sp.toNat - 16 * n.toNat →
       exec (.enter h n) s = .next (wrote s true h fun k => sSet k 2 (BitVec.ofNat 64 (sp.toNat - 16 * n.toNat)))) ∧
     (sp.toNat < 16 * n.toNat → exec (.enter h n) s = .next (strandFault (begun s true h) s.me true .stack
         (BitVec.ofInt 64 (sp.toNat - 16 * n.toNat)))) ∧
     (16 * n.toNat ≤ sp.toNat → sp.toNat - 16 * n.toNat < k.x.slim.toNat →
       exec (.enter h n) s = .next (strandFault (begun s true h) s.me true .stack
         (BitVec.ofNat 64 (sp.toNat - 16 * n.toNat)))) ∧
     (sp.toNat + 16 * n.toNat ≤ lsize k → lsize k < 2 ^ 64 →
       exec (.leave h n) s = .next (wrote s true h fun k => sSet k 2 (BitVec.ofNat 64 (sp.toNat + 16 * n.toNat)))) ∧
     (lsize k < sp.toNat + 16 * n.toNat → sp.toNat + 16 * n.toNat < 2 ^ 64 →
       exec (.leave h n) s = .next (strandFault (begun s true h) s.me true .stack
         (BitVec.ofNat 64 (sp.toNat + 16 * n.toNat))))) ∧
  (∀ s h a, Clear s true h → Guarded s true h →
     let k := begunCore s true h
     (shapeOk (sGet k a) = true → exec (.vshape h a) s = .next (wrote s true h fun k => setShape k (sGet k a))) ∧
     (shapeOk (sGet k a) = false → exec (.vshape h a) s = .next (strandFault (begun s true h) s.me true .illegal 0)) ∧
     exec (.setvc h a) s = .next (wrote s true h fun k =>
       { k with vec := { k.vec with vcnt := BitVec.ofNat 13 (sGet k a).toNat } }))

/-- R167: `peek` and `ppeek` read the head of LQ and of an open port's inbox and pop nothing; `pushe` pushes an
entry with EOS. R120, R124, R180: `bq` pops an outcome, notes its EOS for the loops that name the queue, and
branches on the bit xor n. R121, R181: `sendb` pushes (predicate xor n) with its EOS flag to the partner's queue,
which has room. -/
def Obligations.QueueInstructions : Prop :=
  (∀ s h, Clear s true h → Guarded s true h →
     let k := begunCore s true h
     (∀ d e q, k.sh.lq = e :: q → e.filled = true →
       exec (.peek h d) s = .next (wrote s true h fun k => sSet k d e.data)) ∧
     (∀ a, k.sh.sq.length < 16 →
       exec (.pushe h a) s = .next (wrote s true h fun k =>
         moved (begun s true h) { k with sh := { k.sh with
           sq := k.sh.sq ++ [{ data := sGet k a, eos := true, filled := true, tok := false }] } })) ∧
     (∀ d (n : BitVec 2) v q, portClosed (begun s true h) s.me n.toNat = false → bget k.inbox n = v :: q →
       exec (.ppeek h d (n.setWidth 5)) s = .next (wrote s true h fun k => sSet k d v))) ∧
  ((∀ i xs h n off, queueBranches i = some (xs, h, n, off) → ∀ s, Clear s xs h →
     let b := begun s xs h
     let k := begunCore s xs h
     ∀ e q, (if xs then k.sh.bqx else k.sh.bqa) = e :: q →
       exec i s = .next (transferred s xs h
         (setCore b s.me (noteEos (moved b { k with sh :=
           { k.sh with bqx := if xs then q else k.sh.bqx, bqa := if xs then k.sh.bqa else q } }) xs 2#4 e.eos))
         (inverted e.bit n) (wordsFrom (strOf k xs).pc off))) ∧
   (∀ i xs h f, outcomeSends i = some (xs, h, f) → ∀ s, Clear s xs h →
     let b := begun s xs h
     let k := begunCore s xs h
     (if xs then k.sh.bqa else k.sh.bqx).length < 16 →
       exec i s = .next (wrote s xs h fun k => moved b { k with sh :=
         { k.sh with bqx := if xs then k.sh.bqx else k.sh.bqx ++ [f k],
                     bqa := if xs then k.sh.bqa ++ [f k] else k.sh.bqa } })))

/-- R61, R154, R187: a CSR instruction writes the old value to d and, where it writes, the new value to the CSR; a
CSR its stream does not have, or a value declared invalid, faults with ILLEGAL and changes nothing. FFLAGS, PRNGCTR
and VSHAPE wait for earlier vector instructions (R192); CYCLE is stated apart. R27: CYCLE reads within 16 of the
common count; the difference is left open (log 3). R26: what the CSRs of a core hold, and which stream has them.
R26: a read-only CSR ignores writes; VSHAPE and SLIM refuse the values their field maps declare invalid; reserved
bits ignore writes. -/
def Obligations.CsrRules : Prop :=
  ((∀ i xs h d c f, csrOps i = some (xs, h, d, c, f) → ∀ s, Clear s xs h → Guarded s xs h →
     let b := begun s xs h
     let k := begunCore s xs h
     let n := c.toNat
     (∀ old, csrRead b s.me xs n = some old → n ≠ 9 →
       ((n = 0x10 ∨ n = 0x15 ∨ n = 0x30) → k.vec.vq = []) →
       (f k old = none → exec i s = .next (wrote s xs h fun k => ownSet k xs d old)) ∧
       (∀ v k', f k old = some v → csrWrite k n v = some k' →
         exec i s = .next (wrote s xs h fun _ => ownSet k' xs d old)) ∧
       (∀ v, f k old = some v → csrWrite k n v = none →
         exec i s = .next (strandFault b s.me xs .illegal 0))) ∧
     (csrRead b s.me xs n = none → exec i s = .next (strandFault b s.me xs .illegal 0))) ∧
   (∀ s h d xs, Clear s xs h → Guarded s xs h →
     ∃ (t : State) (e : Nat), e ≤ 32 ∧
       exec (if xs then .xCsrr h d 9 else .aCsrr h d 9) s = .next t ∧
       t = ended s xs h .seq (setCore { begun s xs h with freeCtr := s.freeCtr + 1 } s.me
         (ownSet (begunCore s xs h) xs d (BitVec.ofNat 64 (s.cycle + e - 16)))))) ∧
  ((∀ s c r, (coreOf s c).run = some r →
     let k := coreOf s c
     (∀ xs, csrRead s c xs 0x000 = some (BitVec.ofNat 64 c) ∧ csrRead s c xs 0x002 = some r.own.rcd ∧
       csrRead s c xs 0x003 = some (BitVec.ofNat 64 r.lbase) ∧ csrRead s c xs 0x004 = some (BitVec.ofNat 64 r.lsize) ∧
       csrRead s c xs 0x007 = some (if r.irv then 1 else 0) ∧
       csrRead s c xs 0x00A = some (BitVec.ofNat 64 (16 * r.logsz.toNat + r.member.toNat)) ∧
       csrRead s c xs 0x00B = some (BitVec.ofNat 64 k.sh.tokA.toNat) ∧
       csrRead s c xs 0x00C = some (BitVec.ofNat 64 k.sh.tokX.toNat) ∧
       csrRead s c xs 0x018 = some r.coord ∧
       ∀ i : Fin 8, csrRead s c xs (0x020 + i.val) = some (bget r.levels (BitVec.ofNat 3 i.val))) ∧
     csrRead s c true 0x005 = some k.x.slim ∧ csrRead s c false 0x005 = none ∧
     csrRead s c false 0x006 = some k.a.waitspin ∧ csrRead s c true 0x006 = none ∧
     csrRead s c true 0x010 = some (BitVec.ofNat 64 k.vec.fflags.toNat) ∧ csrRead s c false 0x010 = none ∧
     csrRead s c true 0x014 = some k.vec.prngkey ∧ csrRead s c true 0x015 = some k.vec.prngctr ∧
     csrRead s c true 0x030 = some k.vec.shape ∧ csrRead s c true 0x031 = some (BitVec.ofNat 64 k.vec.rot.toNat) ∧
     csrRead s c true 0x032 = some (BitVec.ofNat 64 k.vec.vcnt.toNat) ∧
     csrRead s c false 0x033 = some (BitVec.ofNat 64 k.a.acnt.toNat) ∧ csrRead s c true 0x033 = none ∧
     (∀ i : Fin 8, csrRead s c false (0x028 + i.val) = some (bget k.a.dists (BitVec.ofNat 3 i.val)) ∧
       csrRead s c true (0x028 + i.val) = none) ∧
     (∀ xs n, 0x034 ≤ n → n < 512 → csrRead s c xs n = none)) ∧
   (∀ (k : Core) (v : Word),
     (∀ n ∈ [0x000, 0x001, 0x002, 0x003, 0x004, 0x007, 0x008, 0x009, 0x00A, 0x00B, 0x00C, 0x00D, 0x018, 0x020,
       0x021, 0x022, 0x023, 0x024, 0x025, 0x026, 0x027], csrWrite k n v = some k) ∧
     (csrWrite k 0x005 v = none ↔ ¬(v.toNat % 16 = 0 ∧ v.toNat ≤ lsize k)) ∧
     (csrWrite k 0x030 v = none ↔
       ¬((v.toNat / 2 ^ 24 % 16 ≤ 8) ∧
         (v.toNat % 4096 + 1) * (v.toNat / 4096 % 4096 + 1) * kindSize (v.toNat / 2 ^ 24 % 16) ≤ 2048)) ∧
     (∀ k', csrWrite k 0x031 v = some k' → k'.vec.rot.toNat = v.toNat % 16) ∧
     (∀ k', csrWrite k 0x006 v = some k' → k'.a.waitspin.toNat = v.toNat % 2 ^ 32) ∧
     (∀ k', csrWrite k 0x011 v = some k' → k'.vec.nve = v.getLsbD 0) ∧
     (∀ k', csrWrite k 0x032 v = some k' → k'.vec.vcnt.toNat = v.toNat % 8192) ∧
     (∀ k', csrWrite k 0x033 v = some k' → k'.a.acnt.toNat = v.toNat % 8192)))

/-! ## Counters, fences, atomics and copies (R34, R35, R130 to R149, R354) -/

namespace Sys2Proof.Claims
open Sys2Proof Sys2Proof.Machine

/-- `cadd` and `caddk`: d, the handle's register, the amount and the ordering (R142). -/
def counterAdds : Instr → Option (Hdr × BitVec 5 × BitVec 5 × (Core → Word) × BitVec 2)
  | .cadd h d a b o => some (h, d, a, fun k => aGet k b, o)
  | .caddk h d a n o => some (h, d, a, fun _ => BitVec.ofNat 64 (n.toNat + 1), o)
  | _ => none

/-- `cread` and `ctest`: the handle's register, the ordering, and what they do with the value (R143). -/
def counterReads : Instr → Option (Hdr × BitVec 5 × BitVec 2 × (Word → Core → Core))
  | .cread h d a o => some (h, a, o, fun v k => aSet k d v)
  | .ctest h d a b o => some (h, a, o, fun v k => cSet k d (reached v (aGet k b)))
  | _ => none

/-- The atomic operations of R138 on `n` bytes: the new value from old, operand and expected value; nothing where
none is stored. -/
inductive AtomicOp where
  | add | min | max | minu | maxu | and | or | xor | swap | cas
  deriving DecidableEq, Repr

/-- The signed value of `n` bytes. -/
def signedOf (n x : Nat) : Int := (BitVec.ofNat (8 * n) x).toInt

/-- The new value of an atomic operation (R138). -/
def AtomicOp.new (o : AtomicOp) (n old x e : Nat) : Option Nat :=
  match o with
  | .add => some ((old + x) % 2 ^ (8 * n))
  | .min => some (if signedOf n old < signedOf n x then old else x)
  | .max => some (if signedOf n old < signedOf n x then x else old)
  | .minu => some (if old ≤ x then old else x)
  | .maxu => some (if old ≤ x then x else old)
  | .and => some (old &&& x)
  | .or => some (old ||| x)
  | .xor => some (old ^^^ x)
  | .swap => some x
  | .cas => if old = e then some x else none

/-- `amo.w` and `amo.d`: size, operation, d, address and operand registers, scope (R138). -/
def atomicOps : Instr → Option (Hdr × Nat × AtomicOp × BitVec 5 × BitVec 5 × BitVec 5 × BitVec 2)
  | .amoWAdd h d a b sc => some (h, 4, .add, d, a, b, sc)
  | .amoWMin h d a b sc => some (h, 4, .min, d, a, b, sc)
  | .amoWMax h d a b sc => some (h, 4, .max, d, a, b, sc)
  | .amoWMinu h d a b sc => some (h, 4, .minu, d, a, b, sc)
  | .amoWMaxu h d a b sc => some (h, 4, .maxu, d, a, b, sc)
  | .amoWAnd h d a b sc => some (h, 4, .and, d, a, b, sc)
  | .amoWOr h d a b sc => some (h, 4, .or, d, a, b, sc)
  | .amoWXor h d a b sc => some (h, 4, .xor, d, a, b, sc)
  | .amoWSwap h d a b sc => some (h, 4, .swap, d, a, b, sc)
  | .amoWCas h d a b sc => some (h, 4, .cas, d, a, b, sc)
  | .amoDAdd h d a b sc => some (h, 8, .add, d, a, b, sc)
  | .amoDMin h d a b sc => some (h, 8, .min, d, a, b, sc)
  | .amoDMax h d a b sc => some (h, 8, .max, d, a, b, sc)
  | .amoDMinu h d a b sc => some (h, 8, .minu, d, a, b, sc)
  | .amoDMaxu h d a b sc => some (h, 8, .maxu, d, a, b, sc)
  | .amoDAnd h d a b sc => some (h, 8, .and, d, a, b, sc)
  | .amoDOr h d a b sc => some (h, 8, .or, d, a, b, sc)
  | .amoDXor h d a b sc => some (h, 8, .xor, d, a, b, sc)
  | .amoDSwap h d a b sc => some (h, 8, .swap, d, a, b, sc)
  | .amoDCas h d a b sc => some (h, 8, .cas, d, a, b, sc)
  | _ => none

/-- The reductions: size, address and operand registers, scope and the new value from old and operand (R139). -/
def reductions : Instr → Option (Hdr × Nat × BitVec 5 × BitVec 5 × BitVec 2 × (Nat → Nat → Nat))
  | .redIaddW h a b sc => some (h, 4, a, b, sc, fun old x => (old + x) % 2 ^ 32)
  | .redIaddD h a b sc => some (h, 8, a, b, sc, fun old x => (old + x) % 2 ^ 64)
  | .redFaddF32 h a b sc => some (h, 4, a, b, sc, fun old x => (fpAdd .f32 true old x).1)
  | .redFaddBf16x2 h a b sc => some (h, 4, a, b, sc, fun old x =>
      bf16Sum (old % 2 ^ 16) (x % 2 ^ 16) + 2 ^ 16 * bf16Sum (old / 2 ^ 16) (x / 2 ^ 16))
  | .redFmaxF32 h a b sc => some (h, 4, a, b, sc, fun old x => (fpMinMax .f32 true true old x).1)
  | .redImaxW h a b sc => some (h, 4, a, b, sc, fun old x => if signedOf 4 old < signedOf 4 x then x else old)
  | .redIminW h a b sc => some (h, 4, a, b, sc, fun old x => if signedOf 4 old < signedOf 4 x then old else x)
  | _ => none

/-- The fences with their scope, and whether each acquires (R149). -/
def fences : Instr → Option (Hdr × BitVec 2 × Bool)
  | .fenceAcq h sc => some (h, sc, true)
  | .fenceRel h sc => some (h, sc, false)
  | .fenceAr h sc => some (h, sc, true)
  | _ => none

/-- Every queue load and `vld` of a core is complete: its entry is filled and its token posted (R48, R114, R117). -/
def LoadsDone (k : Core) : Prop :=
  (∀ e ∈ k.sh.lq, e.filled = true) ∧ (∀ e ∈ k.sh.vlq, e.filled = true) ∧ k.sh.pendX = []

/-- The counter that a `calloc` takes: entry `i` of a home, allocated to a parcel with value 0 and its generation (R353). -/
def allocated (b : State) (scope home i p : Nat) (keep : Bool) (launch : BitVec 28) : State :=
  let C := mgetD (homeOf b (homeKey scope home)).entries i Ctr.init
  setCtr (cleanCtr b (mkHandle scope C.gen home i)) (mkHandle scope C.gen home i)
    { value := 0, gen := C.gen, owner := p, alloc := true, keep := keep, launch := if keep then 0 else launch,
      fut := false }

/-- The package with no mark of a poisoned counter, which a write of the counter clears (R396). -/
def noCtrPoison (p : Phys) : Phys := { p with ctrPoison := [] }

/-- The copies: header, destination tile register, source tile register if any, and the completion operand (R130). -/
def copyOps : Instr → Option (Hdr × BitVec 4 × Option (BitVec 4) × BitVec 5 × BitVec 2)
  | .cpy h d e r m => some (h, d, some e, r, m)
  | .cpyg h d e r m => some (h, d, some e, r, m)
  | .cpys h d e r m => some (h, d, some e, r, m)
  | .cpyf h d _ r m => some (h, d, none, r, m)
  | .cpyn h d e r _ m => some (h, d, some e, r, m)
  | _ => none

/-- Two regions of one shape: as many rows of one width, none of their fields reserved (R20, R131). -/
def sameShape (td ts : TileWord) : Bool :=
  tileOk td (fun _ => true) && tileOk ts (fun _ => true) && tRows td == tRows ts && tWidth td == tWidth ts

/-- An index tile gives the rows that move: one index of 32 bits for each, in the window, for rows of the table's width
(R132). -/
def indexShape (table moved ti : TileWord) : Bool :=
  tileOk table (fun _ => true) && tileOk moved (fun _ => true) && tileOk ti (fun x => x == 4) && tSpace ti == 0 &&
    decide (tRows moved + 1 ≤ (tRows ti + 1) * tW ti / 4) && tWidth table == tWidth moved

/-- The tile registers of a copy obey its rule (R131 to R134). -/
def copyTilesOk (k : Core) : Instr → Bool
  | .cpy _ d e _ _ => sameShape (tGet k d) (tGet k e) && !boundsOverlap (tGet k d) (tGet k e)
  | .cpyg _ d e _ _ => indexShape (tGet k e) (tGet k d) (tGet k (e + 1))
  | .cpys _ d e _ _ => indexShape (tGet k d) (tGet k e) (tGet k (d + 1))
  | .cpyf _ d _ _ _ => tileOk (tGet k d) (fun _ => true)
  | .cpyn _ d e _ _ _ => sameShape (tGet k d) (tGet k e) && tSpace (tGet k d) == 0
  | _ => true

/-- The window offset of index `i`: row-major in the index tile, 4 bytes each (R132). -/
def indexAt (ti : TileWord) (i : Nat) : Word :=
  BitVec.ofNat 64 (tAddr ti + 4 * i / tW ti * tPitch ti + 4 * i % tW ti)

/-- The first `n` indices of an index tile, each naming a row of the table (R132). -/
def Indices (k : Core) (ti table : TileWord) (n : Nat) (xs : List Nat) : Prop :=
  xs.length = n ∧ ∀ i, i < n → ∃ bs, localLoad k (indexAt ti i) 4 = .ok bs ∧ xs[i]? = some (leNat bs) ∧
    leNat bs ≤ tRows table

/-- The active rows of a region (R118). -/
def actives (k : Core) (t : TileWord) : Nat := min (tRows t + 1) k.a.acnt.toNat

/-- The low word of a tile register that names row `i` of a region: its space and the row's address (R19, R344). -/
def rowWord (t : TileWord) (i : Nat) : Word := BitVec.ofNat 64 (tSpace t * 2 ^ 62 + (tAddr t + i * tPitch t) % 2 ^ 62)

/-- A copy accepted: it joins the end of its core's queue with a fresh number, its ranges are registered with the cores
that own them, and a completion handle that is not local makes the strand irrevocable (R130, R135, R160). `low` names its
first destination row (R344). -/
def acceptedCopy (b : State) (c : Nat) (parts : List Part) (rs ws : List Loc) (low : Word) (dn : Done × Bool) :
    State :=
  let seq := b.sched.nextSeq
  let cmd : CopyCmd :=
    { parts := parts, done := dn.1, own := runOwner (coreOf b c), seq := seq, dstLow := low,
      hold := none, asked := none, failed := false, covered := [] }
  modCore (registerParts (registerParts (newSeq b).2 false seq rs) true seq ws) c fun k =>
    let k := { k with eng := { k.eng with copyq := k.eng.copyq ++ [cmd] } }
    if dn.2 then setIrv k else k

/-- The rows of a neighbour's window that a region names (R134). -/
def neighbourRows (n : Nat) (w : Resident) (td : TileWord) : List (List Loc) :=
  (List.range (tRows td + 1)).map fun i =>
    parts16 (fun o => .scratch n (w.base + (tAddr td + i * tPitch td) + o)
      (BitVec.ofNat 64 (tAddr td + i * tPitch td + o))) (tW td / 16)

/-- The bytes of an atomic's window address at its core's bank (R137 `.cr`). -/
def bankAt (k : Core) (ea : Word) : Nat := lbase k + ea.toNat

end Sys2Proof.Claims

open Sys2Proof Sys2Proof.Machine Sys2Proof.Claims

/-- R34, R35: the checks of a handle in their order. R34: the fields of a handle are read back from the handle they
make. -/
def Obligations.HandleChecks : Prop :=
  (∀ s c p h r, 64 ≤ h.toNat →
    (h.toNat % 2 ^ 16 ≠ 0 → checkHandle s c p h r = .error .illegal) ∧
    (h.toNat % 2 ^ 16 = 0 → homeExists h = false → checkHandle s c p h r = .error .stale) ∧
    (h.toNat % 2 ^ 16 = 0 → homeExists h = true → hScope h = 0 → hHome h ≠ c →
      checkHandle s c p h r = .error .foreign) ∧
    (h.toNat % 2 ^ 16 = 0 → homeExists h = true → hScope h = 0 → hHome h = c →
      checkHandle s c p h r = .ok (.lc (BitVec.ofNat 6 (hIndex h)))) ∧
    (h.toNat % 2 ^ 16 = 0 → homeExists h = true → hScope h ≠ 0 →
      ((ctrOf s h).alloc = false ∨ (ctrOf s h).gen ≠ hGen h) → checkHandle s c p h r = .error .stale) ∧
    (h.toNat % 2 ^ 16 = 0 → homeExists h = true → hScope h ≠ 0 → (ctrOf s h).alloc = true →
      (ctrOf s h).gen = hGen h → (ctrOf s h).owner ≠ p → granted s h (.parcel p) r = false →
      checkHandle s c p h r = .error .foreign) ∧
    (h.toNat % 2 ^ 16 = 0 → homeExists h = true → hScope h ≠ 0 → (ctrOf s h).alloc = true →
      (ctrOf s h).gen = hGen h → ((ctrOf s h).owner = p ∨ granted s h (.parcel p) r = true) →
      checkHandle s c p h r = .ok (.home h))) ∧
  (∀ scope (gen : BitVec 14) home index, scope < 4 → home < 2 ^ 16 → index < 2 ^ 16 →
    let h := mkHandle scope gen home index
    hScope h = scope ∧ hGen h = gen ∧ hHome h = home ∧ hIndex h = index ∧ hLow h = 0)

/-- R146, R353: `calloc` allocates the lowest free entry of the home that its request names, with value 0, and gives its
handle; or all ones where the home is full or the parcel's quota used up; a request word with a reserved bit, scope 0
or a hint at no core is ILLEGAL (with system scope too: the model's choice, log 75). R147, R354: `cfree` frees an allocated
counter of the parcel: its entry is free, with value 0 and the next generation, no other counter changes while none
waits on it, and each strand that waits on it is acted on; it completes with no effect on the handle of a counter freed
once since. R35, R141: a local counter is ILLEGAL, a core-scope handle of another core FOREIGN. R402: each sends its
message to the home, and one that fails is answered as a refused request (log 58). -/
def Obligations.CounterAllocation : Prop :=
  (∀ s h d a, Clear s false h → Guarded s false h →
    let b := begun s false h
    let k := begunCore s false h
    let w := (aGet k a).toNat
    let scope := w % 4
    let hint := w / 4 % 2
    let near := w / 16 % 4096
    let p := runParcel k
    let home := homeNear scope (if hint = 1 then near else s.me)
    let ent := fun i : Nat => mgetD (homeOf b (homeKey scope home)).entries i Ctr.init
    let bad := w / 2 ^ 17 ≠ 0 ∨ w / 8 % 2 = 1 ∨ scope = 0 ∨ (hint = 1 ∧ coreExists near = false)
    let spent := ∃ q, ctrQuota b scope p = some q ∧ q ≤ countOwned b scope p
    let g := mkHandle scope 0 home 0
    let t := homeMsg b (.core s.me) p g
    (bad → exec (.calloc h d a) s = .next (strandFault b s.me false .illegal 0)) ∧
    (¬bad → b.mesh.fail = some .request → exec (.calloc h d a) s =
      .next (strandFault (logEv (meshSpent b) (.violation p (ctrOf b g).owner)) s.me false .foreign 0)) ∧
    (¬bad → b.mesh.fail ≠ some .request →
      (spent ∨ ∀ i, i < scopeSize scope → (ent i).alloc = true) →
      exec (.calloc h d a) s =
        .next (ended s false h .seq (modCore t s.me fun k => aSet k d (BitVec.allOnes 64)))) ∧
    (¬bad → b.mesh.fail ≠ some .request → ¬spent →
      ∀ i, i < scopeSize scope → (ent i).alloc = false → (∀ j, j < i → (ent j).alloc = true) →
      exec (.calloc h d a) s = .next (ended s false h .seq
        (modCore (allocated t scope home i p (decide (w / 2 ^ 16 % 2 = 1)) (runOwner k).launch) s.me fun k =>
          aSet k d (mkHandle scope (ent i).gen home i))))) ∧
  (∀ s h a, Clear s false h → Guarded s false h →
    let b := begun s false h
    let k := begunCore s false h
    let hd := aGet k a
    let bad := fun t f => Host.Outcome.next (strandFault t s.me false f hd)
    let t := homeMsg b (.core s.me) (runParcel k) hd
    ((hd.toNat < 64 ∨ hd.toNat % 2 ^ 16 ≠ 0) → exec (.cfree h a) s = bad b .illegal) ∧
    (64 ≤ hd.toNat → hd.toNat % 2 ^ 16 = 0 →
      (homeExists hd = false → exec (.cfree h a) s = bad b .stale) ∧
      (homeExists hd = true → hScope hd = 0 → hHome hd = s.me → exec (.cfree h a) s = bad b .illegal) ∧
      (homeExists hd = true → hScope hd = 0 → hHome hd ≠ s.me → exec (.cfree h a) s = bad b .foreign) ∧
      (homeExists hd = true → hScope hd ≠ 0 → b.mesh.fail = some .request → exec (.cfree h a) s =
        bad (logEv (meshSpent b) (.violation (runParcel k) (ctrOf b hd).owner)) .foreign) ∧
      (homeExists hd = true → hScope hd ≠ 0 → b.mesh.fail ≠ some .request →
        ((ctrOf b hd).alloc = true → (ctrOf b hd).gen = hGen hd →
          ((ctrOf b hd).owner = runParcel k →
            exec (.cfree h a) s = .next (ended s false h .seq (homeFree t hd))) ∧
          ((ctrOf b hd).owner ≠ runParcel k → exec (.cfree h a) s = bad t .foreign)) ∧
        ((ctrOf b hd).alloc = false → (ctrOf b hd).gen = hGen hd + 1 →
          exec (.cfree h a) s = .next (ended s false h .seq t)) ∧
        ((ctrOf b hd).alloc = false → (ctrOf b hd).gen ≠ hGen hd + 1 → exec (.cfree h a) s = bad t .stale) ∧
        ((ctrOf b hd).alloc = true → (ctrOf b hd).gen ≠ hGen hd → exec (.cfree h a) s = bad t .stale)))) ∧
  (∀ b hd,
    let ws := (homeOf b (hKey hd)).pool.filter fun w => w.handle == hd
    let f := homeFree b hd
    (ws = [] → ctrOf f hd = { Ctr.init with gen := (ctrOf b hd).gen + 1 } ∧ (ctrOf f hd).alloc = false ∧
      (ctrOf f hd).value = 0 ∧
      (∀ g, (hKey g ≠ hKey hd ∨ hIndex g ≠ hIndex hd) → ctrOf f g = ctrOf b g) ∧
      f.cores = b.cores ∧ noCtrPoison f.phys = noCtrPoison b.phys) ∧
    ∃ u, f = ws.foldl (fun t w => if w.hit then readyStrand t w.parcel w.rcd (ctrOf b hd).fut
      else staleWaiter t w.parcel w.rcd hd) u ∧ ctrOf u hd = { Ctr.init with gen := (ctrOf b hd).gen + 1 } ∧
      ∀ w ∈ (homeOf u (hKey hd)).pool, w.handle ≠ hd)

/-- R130 to R134: a copy whose tile registers, rows and completion handle pass, with room in its core's queue of 16, is
accepted and completes: what it hands over are the parts that it moves. `cpy` moves the active rows of its source part
for part into its destination's; `cpyg` gathers the rows of its table that the indices name and `cpys` scatters into
them; `cpyf` writes the pattern of its register, twice in every part; `cpyn` writes into the window of the strand of
its launch and round on a neighbour, over the neighbour link; the command keeps the word of its first destination row.
R158, R159: `dsc` discards the whole lines of its region's active rows, and `pref` brings the active rows of a global
region into the L2; a tile that fails its checks faults with TILE. -/
def Obligations.CopyIssueResults : Prop :=
  (∀ s h d e r m dn srcs dsts, Clear s false h → Guarded s false h →
    let b := begun s false h
    let k := begunCore s false h
    let td := tGet k d
    let ts := tGet k e
    let go := fun (i : Instr) parts (ws : List (List Loc)) row =>
      exec i s = .next (ended s false h .seq (acceptedCopy b s.me parts srcs.flatten ws.flatten (rowWord td row) dn))
    copyDone b s.me r m = .ok dn → k.eng.copyq.length < 16 →
    checkRows b s.me ts .read 0 (tRows ts + 1) = .ok srcs →
    (checkRows b s.me td .write 0 (tRows td + 1) = .ok dsts →
      (copyTilesOk k (.cpy h d e r m) = true →
        go (.cpy h d e r m) (zipParts false (srcs.take (actives k td)) (dsts.take (actives k td))) dsts 0) ∧
      (∀ xs rows, copyTilesOk k (.cpyg h d e r m) = true → Indices k (tGet k (e + 1)) ts (actives k td) xs →
        checkRows b s.me (tGet k (e + 1)) .read 0 (tRows (tGet k (e + 1)) + 1) = .ok rows →
        go (.cpyg h d e r m) (zipParts false (xs.map fun i => srcs.getD i []) (dsts.take (actives k td))) dsts 0) ∧
      (∀ xs rows, copyTilesOk k (.cpys h d e r m) = true → Indices k (tGet k (d + 1)) td (actives k ts) xs →
        checkRows b s.me (tGet k (d + 1)) .read 0 (tRows (tGet k (d + 1)) + 1) = .ok rows →
        go (.cpys h d e r m) (zipParts false (srcs.take (actives k ts)) (xs.map fun i => dsts.getD i [])) dsts
          (xs.headD 0))) ∧
    (∀ dir n rd w, copyTilesOk k (.cpyn h d e r dir m) = true → portClosed b s.me dir.toNat = false →
      neighbour s.me dir.toNat = some n → runRound k = some rd → roundSlot b n (runOwner k).launch rd = some w →
      (∀ i, i ≤ tRows td → tAddr td + i * tPitch td + tW td ≤ w.size) →
      go (.cpyn h d e r dir m)
        (zipParts true (srcs.take (actives k td)) ((neighbourRows n w td).take (actives k td))) (neighbourRows n w td) 0)) ∧
  (∀ s h d x r m dn dsts, Clear s false h → Guarded s false h →
    let b := begun s false h
    let k := begunCore s false h
    let td := tGet k d
    copyDone b s.me r m = .ok dn → k.eng.copyq.length < 16 → copyTilesOk k (.cpyf h d x r m) = true →
    checkRows b s.me td .write 0 (tRows td + 1) = .ok dsts →
    exec (.cpyf h d x r m) s = .next (ended s false h .seq (acceptedCopy b s.me
      ((dsts.take (actives k td)).zipIdx.flatMap fun row => row.1.map fun l =>
        { row := row.2, src := none, fill := aGet k (x.setWidth 5), dst := l }) [] dsts.flatten (rowWord td 0) dn))) ∧
  (∀ s h t, Clear s false h → Guarded s false h →
    let b := begun s false h
    let k := begunCore s false h
    (∀ rows, tileOk (tGet k t) (fun _ => true) = true → tSpace (tGet k t) = 1 →
      checkRows b s.me (tGet k t) .write 0 (tRows (tGet k t) + 1) = .ok rows →
      exec (.dsc h t) s = .next (ended s false h .seq
        ((wholeLines (tGet k t) (actives k (tGet k t))).foldl (discardLine s.me (runOwner k)) b))) ∧
    (tileOk (tGet k t) (fun _ => true) = true →
      (tSpace (tGet k t) ≠ 1 → exec (.pref h t) s = .next (ended s false h .seq b)) ∧
      (tSpace (tGet k t) = 1 → exec (.pref h t) s = .next (ended s false h .seq
        ((linePieces (tGet k t) (actives k (tGet k t))).foldl (prefPiece s.me (runParcel k)) b)))) ∧
    ((tileOk (tGet k t) (fun _ => true) = false ∨ tSpace (tGet k t) ≠ 1) →
      exec (.dsc h t) s = .next (strandFault b s.me false .tile 0)) ∧
    (tileOk (tGet k t) (fun _ => true) = false →
      exec (.pref h t) s = .next (strandFault b s.me false .tile 0)))

/-- R142, R160: an add whose handle passes, of less than 2^32, adds to the counter, writes the value before the add
to d and sets IRV. R141: a tenant policy acts on an ordered operation on a system-scope handle: under CLAMP it is
counted, under TRAP it takes place, a wait to its end, and then faults with SCOPE (log 30). R142: an amount of 2^32 or more on a handle
that passes faults with ILLEGAL and adds nothing. R143, R144: reads and tests of a counter with no effect on it; `ctest`
and `cwait` compare with `reached`. R8: a value is reached from the threshold to 2^62 above it and not from 2^62 below
it; further away either result may come (log 55). R352, R354: an add at a home gives the value before it, leaves the
counter's value higher by the amount modulo 2^64 and the rest of its entry as it was, and changes no other counter; a
local add does the same to its core. R402: an operation at a home sends its message; an add whose message fails is
dropped and logged as kind 2, another operation is answered as a refused request (log 58). -/
def Obligations.CounterOperations : Prop :=
  ((∀ i h d a x o, counterAdds i = some (h, d, a, x, o) → ∀ s, Clear s false h → Guarded s false h →
     let b := begun s false h
     let k := begunCore s false h
     let hd := aGet k a
     ∀ r, checkHandle b s.me (runParcel k) hd .add = .ok r → (x k).toNat < 2 ^ 32 →
       let add := refAdd b s.me (runOwner k) r (x k)
       let fin := fun t => Host.Outcome.next (ended s false h .seq (modCore t s.me fun k => setIrv (aSet k d add.1)))
       (handlePolicy b s.me hd o = .system → exec i s = fin add.2) ∧
       (handlePolicy b s.me hd o = .clamp → exec i s = fin (clamped add.2 (runParcel (coreOf add.2 s.me)))) ∧
       (handlePolicy b s.me hd o = .trap → exec i s = .next (strandFault add.2 s.me false .scope hd))) ∧
   (∀ s h d a b o, Clear s false h → Guarded s false h →
     let k := begunCore s false h
     ∀ r, checkHandle (begun s false h) s.me (runParcel k) (aGet k a) .add = .ok r →
       2 ^ 32 ≤ (aGet k b).toNat →
       exec (.cadd h d a b o) s = .next (strandFault (begun s false h) s.me false .illegal (aGet k a))) ∧
   ((∀ i h a o f, counterReads i = some (h, a, o, f) → ∀ s, Clear s false h → Guarded s false h →
     let b := begun s false h
     let k := begunCore s false h
     let hd := aGet k a
     ∀ r, checkHandle b s.me (runParcel k) hd .read = .ok r →
       let fin := fun t => Host.Outcome.next (ended s false h .seq (modCore t s.me (f (refValue b s.me r))))
       (∀ t, refAsk b s.me (runParcel k) r = .ok t →
         (handlePolicy b s.me hd o = .system → exec i s = fin t) ∧
         (handlePolicy b s.me hd o = .clamp → exec i s = fin (clamped t (runParcel k))) ∧
         (handlePolicy b s.me hd o = .trap → exec i s = .next (strandFault t s.me false .scope hd))) ∧
       ∀ t, refAsk b s.me (runParcel k) r = .error t → exec i s = .next (strandFault t s.me false .foreign hd)) ∧
   (∀ s h a c o, Clear s false h → Guarded s false h →
     let b := begun s false h
     let k := begunCore s false h
     let hd := aGet k a
     ∀ r, checkHandle b s.me (runParcel k) hd .read = .ok r →
       (∀ t, refAsk b s.me (runParcel k) r = .ok t →
         (reached (refValue b s.me r) (aGet k c) = true →
           (handlePolicy b s.me hd o = .system → exec (.cwait h a c o) s = .next (ended s false h .seq t)) ∧
           (handlePolicy b s.me hd o = .clamp →
             exec (.cwait h a c o) s = .next (ended s false h .seq (clamped t (runParcel k)))) ∧
           (handlePolicy b s.me hd o = .trap →
             exec (.cwait h a c o) s = .next (strandFault t s.me false .scope hd))) ∧
         (reached (refValue b s.me r) (aGet k c) = false →
           exec (.cwait h a c o) s = .next (markWait t s.me false .other))) ∧
       ∀ t, refAsk b s.me (runParcel k) r = .error t →
         exec (.cwait h a c o) s = .next (strandFault t s.me false .foreign hd)) ∧
   (∀ s c p, (∀ i, refAsk s c p (.lc i) = .ok s) ∧ ∀ h,
     (s.mesh.fail ≠ some .request → refAsk s c p (.home h) = .ok (homeMsg s (.core c) p h)) ∧
     (s.mesh.fail = some .request →
       refAsk s c p (.home h) = .error (logEv (meshSpent s) (.violation p (ctrOf s h).owner)))) ∧
   (∀ s c h o, 64 ≤ h.toNat → hScope h = 3 → o ≠ 0#2 → handlePolicy s c h o = policyOf s c) ∧
   (∀ s c h o, (h.toNat < 64 ∨ hScope h ≠ 3 ∨ o = 0#2) → handlePolicy s c h o = .system) ∧
   (∀ s p, (parcelOf (clamped s p) p).scopeclamp = (parcelOf s p).scopeclamp + 1))) ∧
  (∀ s h x, let t := (homeAdd s h x).2
     (homeAdd s h x).1 = (ctrOf s h).value ∧
     ctrOf t h = { ctrOf s h with value := BitVec.ofNat 64 ((ctrOf s h).value.toNat + x.toNat) } ∧
     (∀ g, (hKey g ≠ hKey h ∨ hIndex g ≠ hIndex h) → ctrOf t g = ctrOf s g) ∧
     t.cores = s.cores ∧ t.phys = s.phys ∧
     ∀ c own, (s.mesh.fail ≠ some .add →
         (refAdd s c own (.home h) x).1 = (ctrOf s h).value ∧
         ∀ g, ctrOf (refAdd s c own (.home h) x).2 g = ctrOf t g) ∧
       (s.mesh.fail = some .add → (refAdd s c own (.home h) x).2 =
         staleEntry { meshSpent s with freeCtr := s.freeCtr + 1 } own.parcel own c h) ∧
       ∀ i, let u := (refAdd s c own (.lc i) x).2
       (refAdd s c own (.lc i) x).1 = (lcOf (coreOf s c) i).value ∧
       lcOf (coreOf u c) i = { lcOf (coreOf s c) i with
         value := BitVec.ofNat 64 ((lcOf (coreOf s c) i).value.toNat + x.toNat) } ∧
       (∀ j, j ≠ i → lcOf (coreOf u c) j = lcOf (coreOf s c) j) ∧
       ∀ d, d ≠ c → coreOf u d = coreOf s d) ∧
  (∀ v t : Word, ((v - t).toNat ≤ 2 ^ 62 → reached v t = true) ∧
     (v ≠ t → (t - v).toNat ≤ 2 ^ 62 → reached v t = false))

/-- R148: the local readiness instructions. A local counter is ready when it is armed and its threshold reached.
R137, R149: a fence completes with nothing changed (log 6), an acquiring one once every earlier queue load and `vld` is
complete; under a tenant policy a system-scope fence faults with SCOPE, or is counted as clamped. -/
def Obligations.ReadinessAndFences : Prop :=
  (∀ s h, Clear s false h → Guarded s false h →
     let k := begunCore s false h
     let ready := fun i : Nat => (lcOf k (BitVec.ofNat 6 i)).armed &&
       reached (lcOf k (BitVec.ofNat 6 i)).value (lcOf k (BitVec.ofNat 6 i)).thr
     (∀ a c, (aGet k a).toNat < 64 → exec (.carm h a c) s = .next (wrote s false h fun k =>
       lcSet k (BitVec.ofNat 6 (aGet k a).toNat)
         { value := (lcOf k (BitVec.ofNat 6 (aGet k a).toNat)).value, thr := aGet k c, armed := true })) ∧
     (∀ a c, 64 ≤ (aGet k a).toNat → exec (.carm h a c) s =
       .next (strandFault (begun s false h) s.me false .illegal 0)) ∧
     (∀ a o, (∃ i, i < 64 ∧ (aGet k a).getLsbD i = true ∧ ready i = true) →
       exec (.cwany h a o) s = .next (ended s false h .seq (begun s false h))) ∧
     (∀ a o, aGet k a ≠ 0 → (∀ i, i < 64 → (aGet k a).getLsbD i = true → ready i = true) →
       exec (.cwall h a o) s = .next (ended s false h .seq (begun s false h))) ∧
     (∀ d a, ∃ v, exec (.cfirst h d a) s = .next (wrote s false h fun k => aSet k d v) ∧
       ((∃ i, i < 64 ∧ v = BitVec.ofNat 64 i ∧ (aGet k a).getLsbD i = true ∧ ready i = true ∧
           ∀ j, j < i → ¬((aGet k a).getLsbD j = true ∧ ready j = true)) ∨
         (v = BitVec.allOnes 64 ∧ ∀ j, j < 64 → ¬((aGet k a).getLsbD j = true ∧ ready j = true))))) ∧
  (∀ i h sc acq, fences i = some (h, sc, acq) → ∀ s, Clear s false h → Guarded s false h →
     let b := begun s false h
     (acq = true → ¬LoadsDone (begunCore s false h) → exec i s = .next (markWait b s.me false .other)) ∧
     ((acq = true → LoadsDone (begunCore s false h)) →
       ((sc ≠ 3#2 ∨ policyOf b s.me = .system) → exec i s = .next (ended s false h .seq b)) ∧
       (sc = 3#2 → policyOf b s.me = .clamp →
         exec i s = .next (ended s false h .seq (clamped b (runParcel (begunCore s false h))))) ∧
       (sc = 3#2 → policyOf b s.me = .trap →
         exec i s = .next (strandFault b s.me false .scope 0))))

/-- R138: an atomic operation stores its new value where it makes one, writes the old value to d and sets IRV, in
one step at its executor; one that is not aligned faults with ALIGN. R139: a reduction stores its new value and sets
IRV; it returns nothing. R137: where an atomic runs, by its scope: the core's scratchpad bank, its section's vault,
the home slice of a global line, or its fabric port, with write permission; under a tenant policy a system-scope one
faults with SCOPE, or runs at the home slice and is counted. Where it does not run: outside the window or the vault it
is BOUNDS, in another parcel's part of the vault FOREIGN, and a global one takes its translation's fault, its endpoint's
FOREIGN, LINK, or POISON. -/
def Obligations.AtomicRules : Prop :=
  ((∀ i h n op d a x sc, atomicOps i = some (h, n, op, d, a, x, sc) → ∀ s, Clear s false h → Guarded s false h →
     let b := begun s false h
     let k := begunCore s false h
     (∀ t old put, amoAt b s.me (aGet k a) n sc = .ok t old put →
       exec i s = .next (ended s false h .seq (modCore
         (match op.new n old ((aGet k x).toNat % 2 ^ (8 * n)) ((aGet k d).toNat % 2 ^ (8 * n)) with
           | some v => put t (leBytes n v)
           | none => t) s.me fun k => setIrv (aSet k d (BitVec.ofNat 64 old))))) ∧
     (∀ t f, amoAt b s.me (aGet k a) n sc = .fault t f → exec i s = .next (takeFault t s.me false f (aGet k a) .write)) ∧
     (∀ t, amoAt b s.me (aGet k a) n sc = .wait t → exec i s = .next (markWait t s.me false .other)) ∧
     ((aGet k a).toNat % n ≠ 0 → exec i s = .next (strandFault b s.me false .align (aGet k a)))) ∧
   (∀ i h n a x sc f, reductions i = some (h, n, a, x, sc, f) → ∀ s, Clear s false h → Guarded s false h →
     let b := begun s false h
     let k := begunCore s false h
     (∀ t old put, old < 2 ^ (8 * n) → amoAt b s.me (aGet k a) n sc = .ok t old put →
       exec i s = .next (ended s false h .seq (modCore
         (put t (leBytes n (f old ((aGet k x).toNat % 2 ^ (8 * n))))) s.me setIrv))) ∧
     (∀ t f, amoAt b s.me (aGet k a) n sc = .fault t f → exec i s = .next (takeFault t s.me false f (aGet k a) .write)) ∧
     (∀ t, amoAt b s.me (aGet k a) n sc = .wait t → exec i s = .next (markWait t s.me false .other)))) ∧
  (∀ s c ea n, ea.toNat % n = 0 →
     let k := coreOf s c
     (ea.toNat + n ≤ lsize k → readBlocked k (bankAt k ea) n = false → scratchPoison k (bankAt k ea) n = false →
       boardMeets k (bankAt k ea) n = false →
       ∃ put, amoAt s c ea n 0#2 = .ok (performed s c ea)
           (leNat (memGetList k.scratch (bankAt k ea) n) % 2 ^ 64) put ∧
         ∀ t bs, put t bs = modCore t c fun k => scratchStore k (bankAt k ea) bs) ∧
     (lsize k < ea.toNat + n → amoAt s c ea n 0#2 = .fault s .bounds) ∧
     (ea.toNat + n ≤ 2 ^ 22 → partOwner s (sectOf c) ea.toNat = runParcel k →
       s.mesh.fail ≠ some .request → s.mesh.fail ≠ some .body →
       anyPoison s.phys (vaultPa (sectOf c) ea.toNat) n = false →
       ∃ put, amoAt s c ea n 1#2 =
           .ok (performed (exchanged s (.core c) (runParcel k) (endpointAt (vaultPa (sectOf c) ea.toNat))) c ea)
             (leNat (physBytes s.phys (vaultPa (sectOf c) ea.toNat) n)) put ∧
         ∀ t bs, put t bs = { t with phys := physStore t.phys (vaultPa (sectOf c) ea.toNat) bs }) ∧
     (2 ^ 22 < ea.toNat + n → amoAt s c ea n 1#2 = .fault s .bounds) ∧
     (ea.toNat + n ≤ 2 ^ 22 → partOwner s (sectOf c) ea.toNat ≠ runParcel k →
       amoAt s c ea n 1#2 = .fault s .foreign) ∧
     (∀ pa l, globalOk s c ea n .write pa l → anyPoison s.phys pa n = false →
       let p := runParcel k
       let old := leNat (physBytes s.phys pa n)
       let got := reach s (.core c) p ea l pa true
       let stored := fun (t : State) (bs : List Byte) => { t with phys := physStore t.phys pa bs }
       (∃ put, amoAt s c ea n 2#2 = .ok (performed (useLines got p pa n .own) c ea) old put ∧
         ∀ t bs, put t bs = stored (useLines t p pa n .write) bs) ∧
       (policyOf s c = .system → ∃ put, amoAt s c ea n 3#2 = .ok (performed (portLines got p pa n .own) c ea) old put ∧
         ∀ t bs, put t bs = stored (portLines t p pa n .write) bs) ∧
       (policyOf s c = .clamp → ∃ put, amoAt s c ea n 3#2 =
           .ok (clamped (performed (useLines got p pa n .own) c ea) p) old put ∧
         ∀ t bs, put t bs = stored (useLines t p pa n .write) bs)) ∧
     (∀ sc, (sc = 2#2 ∨ (sc = 3#2 ∧ policyOf s c ≠ .trap)) →
       (∀ f, translate s (.core c) (runParcel k) ea .write = .fault f → amoAt s c ea n sc = .fault s f) ∧
       (translate s (.core c) (runParcel k) ea .write = .transit →
         amoAt s c ea n sc = .wait (missWalk s (.core c) (runParcel k) ea)) ∧
       ∀ pa l, translate s (.core c) (runParcel k) ea .write = .ok pa l →
         (endpointOk s (runParcel k) pa = false →
           amoAt s c ea n sc = .fault (refused s (runParcel k) pa) .foreign) ∧
         (endpointOk s (runParcel k) pa = true → linkLost s pa = true → amoAt s c ea n sc = .fault s .link) ∧
         (globalOk s c ea n .write pa l → anyPoison s.phys pa n = true →
           ∃ t, amoAt s c ea n sc = .fault t .poison)) ∧
     (policyOf s c = .trap → amoAt s c ea n 3#2 = .fault s .scope))

/-- R130 to R135, R282: which copies are refused and how: a tile register against its rule is TILE; a row of the source,
of the destination or of the index tile that fails its check takes that fault at its address; a closed port is PORT,
a strand that the neighbour does not have, or a row outside its window, is BOUNDS; a completion handle that fails its
check takes its fault; an index above the table's rows is BOUNDS; with 16 commands queued a copy waits. What a
completion operand names (R58). An accepted copy's ranges are on the scoreboards, and memory and counters are
unchanged. R135: a copy all of whose parts have moved leaves its queue and the scoreboards, and its completion add is
made; rows are moved in ascending order (R130, R132). -/
def Obligations.CopyCommandRules : Prop :=
  ((∀ i h d e r m, copyOps i = some (h, d, e, r, m) → ∀ s, Clear s false h → Guarded s false h →
     let b := begun s false h
     let k := begunCore s false h
     let rows := fun t kind => checkRows b s.me t kind 0 (tRows t + 1)
     (copyTilesOk k i = false → exec i s = .next (strandFault b s.me false .tile 0)) ∧
     (copyTilesOk k i = true →
       (∀ x f a, e = some x → rows (tGet k x) .read = .error (some f, a) →
         exec i s = .next (takeFault b s.me false f a .read)) ∧
       ((∀ x, e = some x → ∃ srcs, rows (tGet k x) .read = .ok srcs) → (∀ dir, i ≠ .cpyn h d (e.getD 0) r dir m) →
         (∀ f a, rows (tGet k d) .write = .error (some f, a) →
           exec i s = .next (takeFault b s.me false f a .write)) ∧
         ((∃ dsts, rows (tGet k d) .write = .ok dsts) →
           ((∀ x, (i = .cpyg h d x r m ∨ i = .cpys h d x r m) →
             ∃ is, rows (tGet k ((if i = .cpyg h d x r m then x else d) + 1)) .read = .ok is) →
             (∀ f hd, copyDone b s.me r m = .error (f, hd) → exec i s = .next (takeFault b s.me false f hd .read)) ∧
             (∀ dn, copyDone b s.me r m = .ok dn → 16 ≤ k.eng.copyq.length →
               exec i s = .next (markWait b s.me false .other))) ∧
           ∀ x ti table n dn is j bs, (i = .cpyg h d x r m ∧ ti = tGet k (x + 1) ∧ table = tGet k x ∧
               n = actives k (tGet k d) ∨
             i = .cpys h d x r m ∧ ti = tGet k (d + 1) ∧ table = tGet k d ∧ n = actives k (tGet k x)) →
             rows ti .read = .ok is → copyDone b s.me r m = .ok dn → k.eng.copyq.length < 16 → j < n →
             (∃ xs, Indices k ti table j xs) → localLoad k (indexAt ti j) 4 = .ok bs → tRows table < leNat bs →
             exec i s = .next (strandFault b s.me false .bounds (indexAt ti j)))))) ∧
   (∀ s h d e r dir m srcs, Clear s false h → Guarded s false h →
     let b := begun s false h
     let k := begunCore s false h
     let td := tGet k d
     copyTilesOk k (.cpyn h d e r dir m) = true →
     checkRows b s.me (tGet k e) .read 0 (tRows (tGet k e) + 1) = .ok srcs →
     ((portClosed b s.me dir.toNat = true ∨ neighbour s.me dir.toNat = none) →
       exec (.cpyn h d e r dir m) s = .next (strandFault b s.me false .port 0)) ∧
     (∀ n, portClosed b s.me dir.toNat = false → neighbour s.me dir.toNat = some n →
       ((∀ rd, runRound k = some rd → roundSlot b n (runOwner k).launch rd = none) →
         exec (.cpyn h d e r dir m) s = .next (strandFault b s.me false .bounds (BitVec.ofNat 64 (tAddr td)))) ∧
       (∀ rd w i, runRound k = some rd → roundSlot b n (runOwner k).launch rd = some w → i ≤ tRows td →
         w.size < tAddr td + i * tPitch td + tW td → (∀ j, j < i → tAddr td + j * tPitch td + tW td ≤ w.size) →
         exec (.cpyn h d e r dir m) s =
           .next (strandFault b s.me false .bounds (BitVec.ofNat 64 (tAddr td + i * tPitch td)))))) ∧
   (∀ s c r, copyDone s c r 0#2 = .ok (.none, false) ∧ copyDone s c r 2#2 = .ok (.local_ (r.setWidth 6), false) ∧
     copyDone s c r 3#2 = .ok (.local_ (r.setWidth 6 + 32), false) ∧
     let h := aGet (coreOf s c) r
     (∀ f, checkHandle s c (runParcel (coreOf s c)) h .add = .error f → copyDone s c r 1#2 = .error (f, h)) ∧
     (∀ i, checkHandle s c (runParcel (coreOf s c)) h .add = .ok (.lc i) →
       copyDone s c r 1#2 = .ok (.local_ i, false)) ∧
     ∀ g, checkHandle s c (runParcel (coreOf s c)) h .add = .ok (.home g) →
       copyDone s c r 1#2 = .ok (.handle g, true)) ∧
   (∀ b c parts rs ws low dn, let t := acceptedCopy b c parts rs ws low dn
     t.phys = b.phys ∧ t.homes = b.homes ∧
     (∀ o va, Loc.scratch c o va ∈ ws → boardMeets (coreOf t c) o 16 = true ∧ readBlocked (coreOf t c) o 16 = true) ∧
     (∀ o va, Loc.scratch c o va ∈ rs → boardMeets (coreOf t c) o 16 = true))) ∧
  (∀ s c cmd q, (coreOf s c).eng.copyq = cmd :: q →
     (∀ t, cmd.hold = some t → ticketReached s t = false → exec (.copyCompletion c) s = .next s) ∧
     ((∀ t, cmd.hold = some t → ticketReached s t = true) →
       ∀ b cmd' held, moveParts s c { cmd with hold := none } cmd.parts = (b, cmd', held) →
       (∀ va, held = some va → exec (.copyCompletion c) s = .next (holdCopy b c cmd' va)) ∧
       (held = none → cmd'.parts ≠ [] → exec (.copyCompletion c) s = .next (setHeadCopy b c cmd')) ∧
       (held = none → cmd'.parts = [] → cmd'.failed = false →
         let u := modCore { b with phys := clearCovered b.phys cmd'.covered } c fun k =>
           { k with eng := { k.eng with copyq := k.eng.copyq.tail } }
         exec (.copyCompletion c) s = .next (copyAdd (unregister u cmd'.seq) c cmd')))) ∧
  (∀ s c k cmd q x y, (coreOf s c).eng.copyq = cmd :: q → cmd.parts[k]? = some x → cmd.parts.head? = some y →
     x.row ≠ y.row → copyPart s c k = s)

/-! ## Commit points, gangs, calls and the waits of a core (R23, R25, R38, R145, R150 to R157, R166, R185, R226) -/

namespace Sys2Proof.Claims
open Sys2Proof Sys2Proof.Machine

/-- The commit instructions whose kind their operands give (R150, R151, R156). -/
def commitOps : Instr → Option (Hdr × (Core → CommitKind))
  | .suspS h => some (h, fun _ => .susp)
  | .yieldS h => some (h, fun _ => .yield)
  | .exitS h => some (h, fun _ => .exit)
  | .commitS h => some (h, fun _ => .commit)
  | .fcall h a b => some (h, fun k => .fcall (aGet k a) (aGet k b))
  | _ => none

/-- The access stream has arrived at its commit instruction (R150 step 1). -/
def atCommit (s : State) (h : Hdr) (kind : CommitKind) : State :=
  let b := begun s false h
  setCore b s.me (moved b { begunCore s false h with
    a := { (begunCore s false h).a with at_ := some (kind, h.t) } })

/-- The execute stream has arrived at its commit point. -/
def atXcmt (s : State) (h : Hdr) : State :=
  let b := begun s true h
  setCore b s.me (moved b { begunCore s true h with x := { (begunCore s true h).x with at_ := some h.t } })

/-- `fuse` of both streams: stream, header, size (R153). -/
def fuseOps : Instr → Option (Bool × Hdr × Nat)
  | .aFuse h b => some (false, h, b.toNat)
  | .xFuse h b => some (true, h, b.toNat)
  | _ => none

/-- `split` of both streams (R153). -/
def splitOps : Instr → Option (Bool × Hdr)
  | .aSplit h => some (false, h)
  | .xSplit h => some (true, h)
  | _ => none

/-- The state in which a stream's arrival at `fuse` is noted. -/
def atFuse (s : State) (xs : Bool) (h : Hdr) (n : Nat) : State :=
  modCore (markWait (begun s xs h) s.me xs .other) s.me fun k =>
    if xs then { k with x := { k.x with fuse := some (k.x.fuse.getD { n := n, since := s.cycle, tok := h.t }) } }
    else { k with a := { k.a with fuse := some (k.a.fuse.getD { n := n, since := s.cycle, tok := h.t }) } }

/-- The core of a `split` whose partner has arrived, on the partner's side. -/
def partnerSplit (k : Core) (xs : Bool) : Option Bool := if xs then k.a.splitAt else k.x.splitAt

/-- 64-bit values written at addresses of a parcel, in order. -/
def putAll (s : State) (p : Nat) (ws : List (Word × Word)) : State := ws.foldl (fun s w => devPut64 s p w.1 w.2) s

/-- The state word of a record write at a commit point (R32, R317): what lies above bit 15 and `URGENT` and `AFF` stay,
`GANGF` says whether the strand is fused, and IRVF and FCODE are clear. -/
def stateWord (old : Nat) (gang : Bool) (st : RecState) : Word :=
  BitVec.ofNat 64 (old / 2 ^ 16 * 2 ^ 16 + (if gang then 2 ^ 15 else 0) + old / 2 ^ 12 % 4 * 2 ^ 12 + st.code * 2 ^ 8)

/-- The record write of a commit point (R32, R38): both PCs after it, the state word, the two wait words, and the
registers that a strand carries; the kept sub-tiles are the strand's for good and IRV is clear. -/
def recorded (s : State) (c : Nat) (r : Running) (st : RecState) : State :=
  let k := coreOf s c
  let a := r.own.rcd
  modCore (clearTiles (putAll s r.own.parcel
    [(a, (k.a.str.pc + 4) ||| 1), (a + 0x08, k.x.str.pc + 4),
     (a + 0x10, stateWord (devNat s r.own.parcel (a + 0x10) 8) (r.logsz != 0#4) st), (a + 0x18, 0), (a + 0x20, 0),
     (a + 0x28, aGet k 1), (a + 0x30, aGet k 2), (a + 0x38, sGet k 4)]) a r.own.launch) c fun k =>
    { k with run := k.run.map fun r => { r with irv := false } }

/-- The strand leaves its core: a HOME strand's slot keeps it with a status, an ANY strand's window is released (R39,
R319). -/
def left (s : State) (c : Nat) (r : Running) (st : ResStatus) : State :=
  sweepLeaving (modCore s c fun k =>
    setStatus (stopStrand k) r.slot (if slotAny (coreOf s c) r.slot then .leaving false else st)) c

/-- The strand's record is WAITING on a counter and it leaves its core (R32, R145). -/
def waits (s : State) (c : Nat) (r : Running) (h t : Word) : State :=
  let a := r.own.rcd
  let w := BitVec.ofNat 64 (devNat s r.own.parcel (a + 0x10) 8)
  left (putAll s r.own.parcel [(a + 0x18, h), (a + 0x20, t),
    (a + 0x10, w.extractLsb' 12 52 ++ 2#4 ++ w.extractLsb' 0 8)]) c r .parked

/-- The strand of a running core has no call slot: its launch has no call area, or its record lies outside the record
array (R156). -/
def noSlot (L : Launch) (r : Running) : Prop :=
  let o := (r.own.rcd - L.desc.recaddr).toNat
  L.desc.callarea = 0 ∨ o % 64 ≠ 0 ∨ L.count ≤ o / 64

/-- The address of its call slot (R156). -/
def slotAt (L : Launch) (r : Running) : Word := L.desc.callarea + (r.own.rcd - L.desc.recaddr)

/-- A running strand's call slot has been read: the strand, its launch, the state after, the slot's bytes (R156). -/
def SlotRead (b : State) (c : Nat) (r : Running) (L : Launch) (b' : State) (bs : List Byte) : Prop :=
  (coreOf b c).run = some r ∧ launchOf b r.own.launch = some L ∧ ¬noSlot L r ∧
    readG b (.core c) r.own.parcel (slotAt L r) 64 .read = .ok b' bs ∧
    ∃ pa l, translate b' (.core c) r.own.parcel (slotAt L r) .write = .ok pa l

/-- The counter handle of a call slot (R156). -/
def slotCounter (bs : List Byte) : Word := BitVec.ofNat 64 (leNat ((bs.drop 0x30).take 8))

/-- A slot that can be posted to: its counter passes its checks, and it is FREE or DONE (R156, R157). -/
def SlotOpen (b' : State) (c : Nat) (r : Running) (bs : List Byte) : Prop :=
  (∃ ref, checkHandle b' c r.own.parcel (slotCounter bs) .wait = .ok ref) ∧
    (leNat (bs.take 8) % 16 = 0 ∨ leNat (bs.take 8) % 16 = 3)

/-- The sequence number of a post: one more than the slot's (R156). -/
def postSeq (bs : List Byte) : BitVec 32 := BitVec.ofNat 32 (leNat (bs.take 8) / 2 ^ 32 + 1)

/-- A post (R156): the call number, the argument pointer and the record address, then the slot POSTED with the next
sequence number, then 1 added to the doorbell; the strand is irrevocable. -/
def posted (b' : State) (c : Nat) (r : Running) (L : Launch) (bs : List Byte) (num arg : Word) : State :=
  let va := slotAt L r
  let u := putAll b' r.own.parcel [(va + 8, num), (va + 0x10, arg), (va + 0x18, r.own.rcd), (va, postSeq bs ++ 1#32)]
  modCore (devAdd u r.own.parcel L.desc.calldb 1).1 c setIrv

/-- A stall that R25 counts. -/
def counted25 (w : Option StallKind) : Prop :=
  w = some .queue ∨ w = some .token ∨ w = some .port ∨ w = some .rendezvous

end Sys2Proof.Claims

open Sys2Proof Sys2Proof.Machine Sys2Proof.Claims

/-- R152, R318: `spawn` lists a READY record of a live launch of its parcel and sets IRV; a misaligned address is ALIGN,
a record that is not valid and READY, or of no live launch of the parcel, is ILLEGAL, and a home core outside the parcel
is FOREIGN: one that no row of the table assigns to it, as in R314 (the model's reading, log 47). A record outside its
launch's array adds a live strand (log 31). R156, R157:
`fcall.nb` posts into its strand's slot and writes the sequence number to d; without a slot, or with a slot that is
neither FREE nor DONE, it is ILLEGAL; a slot's counter that fails its check gives that fault, and is checked before the
slot's state (log 67). -/
def Obligations.SpawnAndPost : Prop :=
  (∀ s h a, Clear s false h → Guarded s false h →
    let b := begun s false h
    let k := begunCore s false h
    let p := runParcel k
    let rc := aGet k a
    (rc.toNat % 64 ≠ 0 → exec (.spawn h a) s = .next (strandFault b s.me false .align rc)) ∧
    (∀ b' f, rc.toNat % 64 = 0 → readG b (.core s.me) p rc 64 .read = .fault b' f →
      exec (.spawn h a) s = .next (takeFault b' s.me false f rc .read)) ∧
    ∀ b' bs, rc.toNat % 64 = 0 → readG b (.core s.me) p rc 64 .read = .ok b' bs →
      let w := BitVec.ofNat 64 (leNat ((bs.drop 16).take 8))
      ((leNat (bs.take 1) % 2 = 0 ∨ swState w ≠ 0 ∨ launchOf b' (swLaunch w) = none ∨
        (∃ L, launchOf b' (swLaunch w) = some L ∧ L.parcel ≠ p)) →
        exec (.spawn h a) s = .next (strandFault b' s.me false .illegal rc)) ∧
      ∀ L, leNat (bs.take 1) % 2 = 1 → swState w = 0 → launchOf b' (swLaunch w) = some L → L.parcel = p →
        (swAny w = false → inCoreList b' p (swHome w) = false →
          exec (.spawn h a) s = .next (strandFault b' s.me false .foreign rc)) ∧
        ((swAny w = true ∨ inCoreList b' p (swHome w) = true) →
          exec (.spawn h a) s = .next (ended s false h .seq (modCore
            (if alreadyListed b' p w rc then b'
             else if inArray L rc then joinList b' p rc false
             else modLaunch (joinList b' p rc false) L.id fun L => { L with
               live := L.live + 1, spawned := if L.spawned.contains rc then L.spawned else rc :: L.spawned })
            s.me setIrv)))) ∧
  (∀ s h d a c, Clear s false h → Guarded s false h →
    let b := begun s false h
    let k := begunCore s false h
    (∀ r, k.run = some r → (launchOf b r.own.launch = none ∨ ∃ L, launchOf b r.own.launch = some L ∧ noSlot L r) →
      exec (.fcallNb h d a c) s = .next (strandFault b s.me false .illegal 0)) ∧
    ∀ r L b' bs, SlotRead b s.me r L b' bs →
      (∀ f, checkHandle b' s.me r.own.parcel (slotCounter bs) .wait = .error f →
        exec (.fcallNb h d a c) s = .next (takeFault b' s.me false f (slotAt L r) .write)) ∧
      (∀ ref, checkHandle b' s.me r.own.parcel (slotCounter bs) .wait = .ok ref →
        leNat (bs.take 8) % 16 ≠ 0 → leNat (bs.take 8) % 16 ≠ 3 →
        exec (.fcallNb h d a c) s = .next (strandFault b' s.me false .illegal (slotAt L r))) ∧
      (SlotOpen b' s.me r bs → exec (.fcallNb h d a c) s = .next (ended s false h .seq
        (modCore (posted b' s.me r L bs (aGet k a) (aGet k c)) s.me fun k => aSet k d ((postSeq bs).setWidth 64)))))

/-- R186: a core fused in a gang that another core leads does nothing in its own turn. R186: a gang's leader carries
an access-stream arithmetic instruction out on every member, each on its own registers and under its own guard.
R153: when both streams of every core of an aligned block of one launch have reached `fuse` with one size, every
core of the block becomes a member of the gang; `split` dissolves it, and does nothing in a strand that is not
fused. Arrivals that do not agree, an arrival of a strand already fused, and 65,536 cycles without the rest of the
block, fault every arrived member. -/
def Obligations.GangRules : Prop :=
  ((∀ i xs h g, cuvosForm i = some (xs, h, g) → ∀ s r, (coreOf s s.me).run = some r → r.logsz ≠ 0#4 →
     r.member ≠ 0#4 → exec i s = .next s) ∧
   (∀ i h d v, accessArith i = some (h, d, v) → ∀ s r, (coreOf s s.me).run = some r → r.logsz ≠ 0#4 →
     r.member = 0#4 →
     (∀ m ∈ gangOf s s.me, (coreOf s m).a.str.pendT = none ∧ (coreOf s m).a.str.hold = none ∧
       (h.w = true → (coreOf s m).a.str.wDone = true ∨ (coreOf s m).sh.tokA ≠ 0#4)) →
     ∃ t, exec i s = .next t ∧ ∀ m ∈ gangOf s s.me, ∀ x,
       aGet (coreOf t m) x =
         if x = d ∧ d ≠ 0#5 ∧ cGet (coreOf s m) h.g = true then v (coreOf s m) else aGet (coreOf s m) x)) ∧
  ((∀ i xs h n, fuseOps i = some (xs, h, n) → ∀ s, Clear s xs h → Guarded s xs h →
     let b := atFuse s xs h n
     let block := blockOf s.me n
     (fuseBad b s.me n (fuseParty b s.me n) = true →
       exec i s = .next (fuseFault b (fuseParty b s.me n))) ∧
     (fuseBad b s.me n (fuseParty b s.me n) = false →
       (∀ m ∈ block, (coreOf b m).a.fuse.isSome = true ∧ (coreOf b m).x.fuse.isSome = true) → s.me ∈ block →
       ∃ t, exec i s = .next t ∧ ∀ m ∈ block, ∀ r, (coreOf s m).run = some r → ∃ r', (coreOf t m).run = some r' ∧
         r'.logsz = BitVec.ofNat 4 n ∧ r'.member = BitVec.ofNat 4 (m % 2 ^ n) ∧ r'.own = r.own)) ∧
   (∀ i xs h n, fuseOps i = some (xs, h, n) → ∀ s r, (coreOf s s.me).run = some r → r.logsz ≠ 0#4 →
     r.member = 0#4 → qGet (coreOf s s.me) xs h.g = true →
     (∀ m ∈ gangOf s s.me, (strOf (coreOf s m) xs).pendT = none ∧ (strOf (coreOf s m) xs).hold = none ∧
       (h.w = true → (strOf (coreOf s m) xs).wDone = true ∨ tokens (coreOf s m) xs ≠ 0#4)) →
     ∃ u, exec i s = .next (fuseFault u (fuseParty u s.me n)) ∧ OnlyCores s u (gangOf s s.me) ∧
       s.me ∈ fuseParty u s.me n) ∧
   (∀ i xs h, splitOps i = some (xs, h) → ∀ s,
     (Clear s xs h → Guarded s xs h → exec i s = .next (ended s xs h .seq (begun s xs h))) ∧
     (∀ r tok, (coreOf s s.me).run = some r → r.logsz ≠ 0#4 → r.member = 0#4 →
       qGet (coreOf s s.me) xs h.g = true → partnerSplit (coreOf s s.me) xs = some tok →
       (∀ m ∈ gangOf s s.me, (strOf (coreOf s m) xs).pendT = none ∧ (strOf (coreOf s m) xs).hold = none ∧
         (h.w = true → (strOf (coreOf s m) xs).wDone = true ∨ tokens (coreOf s m) xs ≠ 0#4)) →
       ∃ t, exec i s = .next t ∧ ∀ m ∈ gangOf s s.me, ∀ r, (coreOf t m).run = some r → r.logsz = 0#4 ∧ r.member = 0#4)) ∧
   (∀ s c f fs, arrivals (coreOf s c) = f :: fs →
     (∀ m ∈ fuseParty s c f.n, ∀ g ∈ arrivals (coreOf s m), s.cycle < g.since + 65536) → s.cycle < f.since + 65536 →
       exec (.gangFuseTimeout c) s = .next s) ∧
   (∀ s c f fs, arrivals (coreOf s c) = f :: fs → f.since + 65536 ≤ s.cycle →
     exec (.gangFuseTimeout c) s = .next (fuseFault s (fuseParty s c f.n))))

/-- R38, R150, R151, R155, R185: the second stream to reach a commit point carries the commit out; with a queue, a
token or a loop left it faults with QUEUE, and in a fused strand every commit point but `commit` faults with GANG; the
first stream to arrive waits there. R32, R38, R317: a commit point writes the record: both PCs after it, the carried
registers, the state word and the wait words. `commit` goes on behind it; `susp`, `yield`, `exit` and a debug `bkpt` leave
the core, and `exit` takes 1 from its launch's live strands. R35, R145: `cwait.s` checks its handle; a local index, or a
core-scope handle of its own core, is ILLEGAL, one of another core FOREIGN. With a handle that passes, it writes the
record and then tests its counter until WAITSPIN cycles are over (the steps at which it tests are the model's choice, log
51); when the threshold is reached both streams go on, and when they are over the strand suspends. R141: under TRAP the
wait takes place first, and SCOPE ends it (log 30). R156: `fcall` posts, writes the record and suspends on its slot's
counter. R145, R354, R356: a strand that suspends is WAITING in the pool or on its parcel's overflow list; one whose
threshold has been reached is readied at once; where neither has room it faults with WAITERS. -/
def Obligations.CommitAndSuspend : Prop :=
  ((∀ i h f, commitOps i = some (h, f) → ∀ s, Clear s false h → Guarded s false h →
     let k := begunCore s false h
     let b := atCommit s h (f k)
     k.a.at_ = none → k.a.spin = none →
     (k.x.at_ = none → exec i s = .next (markWait b s.me false .rendezvous)) ∧
     (∀ r tx, k.run = some r → k.x.at_ = some tx → (f k = .commit ∨ k.eng.matq = []) →
       (drained k = true → exec i s = .next (commitBody b s.me r (f k) h.t tx)) ∧
       (drained k = false → exec i s = .next (strandFault b s.me false .queue 0)))) ∧
   (∀ s h, Clear s true h → Guarded s true h →
     let k := begunCore s true h
     let b := atXcmt s h
     k.vec.vq = [] → k.x.at_ = none →
     (k.a.at_ = none → exec (.xcmt h) s = .next (markWait b s.me true .rendezvous)) ∧
     (∀ r kind ta, k.run = some r → k.a.at_ = some (kind, ta) → k.a.spin = none → k.a.str.hold = none →
       (kind = .commit ∨ k.eng.matq = []) → drained k = true →
       exec (.xcmt h) s = .next (commitBody b s.me r kind ta h.t))) ∧
   (∀ s h n, Clear s false h → Guarded s false h →
     let b := begun s false h
     let k := begunCore s false h
     (debugOn b s.me = false → exec (.aBkpt h n) s = .next (strandFault b s.me false .trap 0)) ∧
     (∀ r tx, debugOn b s.me = true → k.run = some r → k.a.at_ = none → k.a.spin = none → k.x.at_ = some tx →
       k.eng.matq = [] → drained k = true →
       exec (.aBkpt h n) s = .next (commitBody (atCommit s h .bkpt) s.me r .bkpt h.t tx))) ∧
   (∀ b c r ta tx, (coreOf b c).run = some r → r.logsz = 0#4 →
     commitBody b c r .susp ta tx = left (recorded b c r .suspended) c r .parked ∧
     (slotAny (coreOf b c) r.slot = false →
       commitBody b c r .yield ta tx = left (recorded b c r .ready) c r .ready) ∧
     (slotAny (coreOf b c) r.slot = true → commitBody b c r .yield ta tx =
       joinList (left (recorded b c r .ready) c r .ready) r.own.parcel r.own.rcd false) ∧
     commitBody b c r .bkpt ta tx = left (faultEntry (recorded b c r .suspended) r.own.parcel
       (fent 3 0 c r.own.launch r.own.rcd 0 ((coreOf b c).a.str.ir.setWidth 64))) c r .parked ∧
     commitBody b c r .exit ta tx = sweepLeaving (modLaunch
       (modCore (recorded b c r .exited) c fun k => setStatus (stopStrand k) r.slot (.leaving true)) r.own.launch
       fun L => { L with live := L.live - 1 }) c ∧
     (∀ kind ∈ [CommitKind.susp, .yield, .exit, .bkpt], (coreOf (commitBody b c r kind ta tx) c).run = none) ∧
     (∀ L, launchOf b r.own.launch = some L →
       launchOf (commitBody b c r .exit ta tx) r.own.launch = some { L with live := L.live - 1 }) ∧
     commitBody b c r .commit ta tx = runOn (recorded b c r .running) c ta tx ∧
     let k := coreOf b c
     let t := coreOf (commitBody b c r .commit ta tx) c
     t.run = some { r with irv := false } ∧ t.a.at_ = none ∧ t.x.at_ = none ∧
       (k.a.str.loops = [] → t.a.str.pc = k.a.str.pc + 4) ∧ (k.x.str.loops = [] → t.x.str.pc = k.x.str.pc + 4)) ∧
   (∀ b c r num arg ta tx,
     (∀ L b' bs, SlotRead b c r L b' bs → SlotOpen b' c r bs →
       commitBody b c r (.fcall num arg) ta tx = suspendOn
         (recorded (posted b' c r L bs num arg) c r .running) c r (slotCounter bs)
         ((postSeq bs).setWidth 64)) ∧
     ((coreOf b c).run = some r →
       (launchOf b r.own.launch = none ∨ ∃ L, launchOf b r.own.launch = some L ∧ noSlot L r) →
       commitBody b c r (.fcall num arg) ta tx = strandFault b c false .illegal 0))) ∧
  (∀ b c r hd v acq ta tx,
     let n := (coreOf b c).a.waitspin.toNat
     let u := modCore (recorded b c r .running) c fun k => { k with a := { k.a with spin := some (b.cycle + n) } }
     checkRemote u hd r.own.parcel .wait = none →
     (∀ t, refAsk u c r.own.parcel (.home hd) = .ok t →
       (0 < n → reached (ctrOf u hd).value v = true →
         commitBody b c r (.cwaitS hd v acq) ta tx = endWait t c hd acq fun t => runOn t c ta tx) ∧
       (0 < n → reached (ctrOf u hd).value v = false →
         commitBody b c r (.cwaitS hd v acq) ta tx = markWait (markWait t c false .other) c true .other) ∧
       (n = 0 → commitBody b c r (.cwaitS hd v acq) ta tx = endWait t c hd acq fun t => suspendOn t c r hd v)) ∧
     ∀ t, refAsk u c r.own.parcel (.home hd) = .error t →
       commitBody b c r (.cwaitS hd v acq) ta tx = strandFault t c false .foreign hd) ∧
  (∀ s c h acq go,
     let pol := handlePolicy s c h (if acq then 2#2 else 0#2)
     (pol = .system → endWait s c h acq go = go s) ∧
     (pol = .clamp → endWait s c h acq go = go (clamped s (runParcel (coreOf s c)))) ∧
     (pol = .trap → endWait s c h acq go = strandFault s c false .scope h)) ∧
  (∀ s c r h t, hScope h ≠ 0 →
     let H := homeOf s (hKey h)
     let p := r.own.parcel
     let mine := (H.pool.filter fun w => w.parcel == p).length
     let room := mine < min (poolShare s (hKey h) p) (poolSize (hScope h)) ∧ H.pool.length < poolSize (hScope h)
     let w : Waiter := { handle := h, thr := t, rcd := r.own.rcd, parcel := p, seq := H.nextSeq, hit := false }
     (reached (ctrOf s h).value t = true →
       suspendOn s c r h t = readyStrand (waits s c r h t) p r.own.rcd (ctrOf s h).fut) ∧
     (reached (ctrOf s h).value t = false → room →
       suspendOn s c r h t = waits (modHome s (hKey h) fun H =>
         { H with pool := H.pool ++ [w], nextSeq := H.nextSeq + 1 }) c r h t) ∧
     (reached (ctrOf s h).value t = false → ¬room →
       ((parcelOf s p).overflow = none → suspendOn s c r h t = strandFault s c false .waiters h) ∧
       ∀ o, (parcelOf s p).overflow = some o →
         let free := fun i : Nat => devNat s p (o.cfg.base + BitVec.ofNat 64 (32 * i + 24)) 8 % 2 = 0
         ((∀ i, i < o.cfg.entries → ¬free i) → suspendOn s c r h t = strandFault s c false .waiters h) ∧
         ∀ i, i < o.cfg.entries → free i → (∀ j, j < i → ¬free j) →
           let va := o.cfg.base + BitVec.ofNat 64 (32 * i)
           suspendOn s c r h t = waits (modHome
             (putAll s p [(va, h), (va + 8, t), (va + 16, r.own.rcd), (va + 24, 1)]) (hKey h) fun H =>
               { H with spilled := if H.spilled.contains p then H.spilled else H.spilled ++ [p] }) c r h t)) ∧
  (∀ s h a c o, Clear s false h → Guarded s false h →
     let b := begun s false h
     let k := begunCore s false h
     let hd := aGet k a
     let bad := fun f => Host.Outcome.next (strandFault b s.me false f hd)
     let own := hLow hd = 0 ∧ homeExists hd = true ∧ hScope hd = 0
     (hd.toNat < 64 → exec (.cwaitS h a c o) s = bad .illegal) ∧
     (64 ≤ hd.toNat → own → hHome hd = s.me → exec (.cwaitS h a c o) s = bad .illegal) ∧
     (64 ≤ hd.toNat → own → hHome hd ≠ s.me → exec (.cwaitS h a c o) s = bad .foreign) ∧
     (∀ f, 64 ≤ hd.toNat → ¬own → checkRemote b hd (runParcel k) .wait = some f →
       exec (.cwaitS h a c o) s = bad f) ∧
     (64 ≤ hd.toNat → hScope hd ≠ 0 → checkRemote b hd (runParcel k) .wait = none →
       let kind := CommitKind.cwaitS hd (aGet k c) (o != 0#2)
       (k.a.at_ = none → k.x.at_ = none →
         exec (.cwaitS h a c o) s = .next (markWait (atCommit s h kind) s.me false .rendezvous)) ∧
       ∀ r tx, k.run = some r → k.x.at_ = some tx →
         (k.a.at_ = none → k.a.spin = none → k.eng.matq = [] →
           (drained k = true →
             exec (.cwaitS h a c o) s = .next (commitBody (atCommit s h kind) s.me r kind h.t tx)) ∧
           (drained k = false →
             exec (.cwaitS h a c o) s = .next (strandFault (atCommit s h kind) s.me false .queue 0))) ∧
         (∀ v acq ta till u, k.a.at_ = some (.cwaitS hd v acq, ta) → k.a.spin = some till →
           refAsk b s.me r.own.parcel (.home hd) = .ok u →
           (s.cycle < till → reached (ctrOf b hd).value v = true →
             exec (.cwaitS h a c o) s = .next (endWait u s.me hd acq fun u => runOn u s.me ta tx)) ∧
           (s.cycle < till → reached (ctrOf b hd).value v = false →
             exec (.cwaitS h a c o) s = .next (markWait (markWait u s.me false .other) s.me true .other)) ∧
           (till ≤ s.cycle →
             exec (.cwaitS h a c o) s = .next (endWait u s.me hd acq fun u => suspendOn u s.me r hd v) ∧
             exec (.cwaitSSpinExpiry s.me) b =
               .next (endWait u s.me hd acq fun u => suspendOn u s.me r hd v))))) ∧
  (∀ i h f, (commitOps i = some (h, f) ∨ ∃ a c o, i = .cwaitS h a c o ∧
       f = fun k => CommitKind.cwaitS (aGet k a) (aGet k c) (o != 0#2)) →
     ∀ s r tx, (coreOf s s.me).run = some r → r.logsz ≠ 0#4 → r.member = 0#4 →
     (∀ m, m = s.me ∨ m ∈ gangOf s s.me → (coreOf s m).a.str.pendT = none ∧ (coreOf s m).a.str.hold = none ∧
       (h.w = true → (coreOf s m).a.str.wDone = true ∨ (coreOf s m).sh.tokA ≠ 0#4)) →
     cGet (coreOf s s.me) h.g = true → (coreOf s s.me).x.at_ = some tx → (coreOf s s.me).a.at_ = none →
     (coreOf s s.me).a.spin = none → (coreOf s s.me).eng.matq = [] → f (coreOf s s.me) ≠ .commit →
     (∀ hd v acq, f (coreOf s s.me) = .cwaitS hd v acq → 64 ≤ hd.toNat ∧ hScope hd ≠ 0 ∧
       checkRemote s hd r.own.parcel .wait = none) →
     ∃ u, exec i s = .next (strandFault u s.me false .gang 0) ∧ OnlyCores s u (s.me :: gangOf s s.me))

/-! ## The vector and matrix units (R16, R84, R189 to R226) -/

namespace Sys2Proof.Claims
open Sys2Proof Sys2Proof.Machine

/-- The signed value of `n` bits. -/
def signedN (n x : Nat) : Int := if x < 2 ^ (n - 1) then x else (x : Int) - 2 ^ n
/-- A whole number as `n` bits. -/
def inBits (n : Nat) (x : Int) : Nat := (x % 2 ^ n).toNat
/-- A whole number brought into the range of `n` signed bits. -/
def clampN (n : Nat) (x : Int) : Nat := inBits n (max (-(2 ^ (n - 1))) (min (2 ^ (n - 1) - 1) x))

/-- A vector instruction that writes one vector register position by position: the shapes it accepts, how many
positions and bytes a position there are, which positions it writes (R190), their values and flags on core c, and
what it does besides. -/
structure VecOp where
  hdr : Hdr
  d : BitVec 5
  ok : Core → Shape → Bool
  n : Core → Shape → Nat
  w : Shape → Nat
  on : Core → Shape → Nat → Bool
  val : Nat → Core → Shape → Nat → FpRes
  also : Core → Shape → Core

/-- An elementwise instruction of the shape's kind (R189, R191). -/
def each (h : Hdr) (d : BitVec 5) (ok : Core → Shape → Bool) (val : Nat → Core → Shape → Nat → FpRes) : VecOp :=
  { hdr := h, d := d, ok := ok, n := fun _ sh => sh.nr * sh.nc, w := fun sh => sh.w,
    on := fun k sh e => active k h sh e, val := val, also := fun k _ => k }

/-- An elementwise integer instruction; `f` takes the width in bits (R199). -/
def eachInt (h : Hdr) (d a b : BitVec 5) (x : BitVec 1) (f : Nat → Nat → Nat → Nat) : VecOp :=
  each h d (fun _ sh => kInt sh.kind) fun _ k sh e =>
    (f (8 * sh.w) (elemAt (vGet k a) (e * sh.w) sh.w) (opB k sh b x e), 0)

/-- A reduction of every row, or of every column, to one 32-bit result each (R208). -/
def overLines (h : Hdr) (d a : BitVec 5) (op : RedOp) (col : Bool) : VecOp :=
  { hdr := h, d := d, ok := fun _ sh => kAll sh.kind && decide ((if col then sh.nc else sh.nr) ≤ 512),
    n := fun _ sh => if col then sh.nc else sh.nr, w := fun _ => 4, on := fun k _ r => col || rowOn k r,
    val := fun _ k sh r => reduce op h k sh a (if col then (List.range sh.nr).map fun i => i * sh.nc + r
      else (List.range sh.nc).map fun j => r * sh.nc + j),
    also := fun k _ => k }

/-- The vector instructions that write one vector register (R196 to R199, R202 to R209). -/
def vectorOps : Instr → Option VecOp
  | .vfadd h d a b x => some (each h d (fun _ sh => kFloat sh.kind) fun _ k sh e => fpAdd (fmtOf sh.kind) true (elemAt (vGet k a) (e * sh.w) sh.w) (opB k sh b x e))
  | .vfsub h d a b x => some (each h d (fun _ sh => kFloat sh.kind) fun _ k sh e => fpSub (fmtOf sh.kind) true (elemAt (vGet k a) (e * sh.w) sh.w) (opB k sh b x e))
  | .vfmul h d a b x => some (each h d (fun _ sh => kFloat sh.kind) fun _ k sh e => fpMul (fmtOf sh.kind) true (elemAt (vGet k a) (e * sh.w) sh.w) (opB k sh b x e))
  | .vfdiv h d a b x => some (each h d (fun _ sh => kFloat sh.kind) fun _ k sh e => fpDiv (fmtOf sh.kind) true (elemAt (vGet k a) (e * sh.w) sh.w) (opB k sh b x e))
  | .vfmin h d a b x => some (each h d (fun _ sh => kFloat sh.kind) fun _ k sh e => fpMinMax (fmtOf sh.kind) true false (elemAt (vGet k a) (e * sh.w) sh.w) (opB k sh b x e))
  | .vfmax h d a b x => some (each h d (fun _ sh => kFloat sh.kind) fun _ k sh e => fpMinMax (fmtOf sh.kind) true true (elemAt (vGet k a) (e * sh.w) sh.w) (opB k sh b x e))
  | .vfabs h d a => some (each h d (fun _ sh => kFloat sh.kind) fun _ k sh e =>
      (flushIn (fmtOf sh.kind) (elemAt (vGet k a) (e * sh.w) sh.w) % 2 ^ ((fmtOf sh.kind).width - 1), 0))
  | .vfneg h d a => some (each h d (fun _ sh => kFloat sh.kind) fun _ k sh e => (fpNeg (fmtOf sh.kind) (flushIn (fmtOf sh.kind) (elemAt (vGet k a) (e * sh.w) sh.w)), 0))
  | .vfsqrt h d a => some (each h d (fun _ sh => kFloat sh.kind) fun _ k sh e => fpSqrt (fmtOf sh.kind) true (elemAt (vGet k a) (e * sh.w) sh.w))
  | .vfrcp h d a => some (each h d (fun _ sh => kFloat sh.kind) fun _ k sh e => fpRcp (fmtOf sh.kind) true (elemAt (vGet k a) (e * sh.w) sh.w))
  | .vfrsq h d a => some (each h d (fun _ sh => kFloat sh.kind) fun _ k sh e => fpRsq (fmtOf sh.kind) true (elemAt (vGet k a) (e * sh.w) sh.w))
  | .vexp2 h d a => some (each h d (fun _ sh => sh.kind == 1) fun _ k sh e => exp2t (elemAt (vGet k a) (e * sh.w) sh.w))
  | .vlog2 h d a => some (each h d (fun _ sh => sh.kind == 1) fun _ k sh e => log2t (elemAt (vGet k a) (e * sh.w) sh.w))
  | .vtanh h d a => some (each h d (fun _ sh => sh.kind == 1) fun _ k sh e => tanht (elemAt (vGet k a) (e * sh.w) sh.w))
  | .vffma h d a b x => some (each h d (fun _ sh => kFloat sh.kind) fun _ k sh e => fpFma (fmtOf sh.kind) true false false (elemAt (vGet k a) (e * sh.w) sh.w) (opB k sh b x e)
      (elemAt (vGet k d) (e * sh.w) sh.w))
  | .vffms h d a b x => some (each h d (fun _ sh => kFloat sh.kind) fun _ k sh e => fpFma (fmtOf sh.kind) true false true (elemAt (vGet k a) (e * sh.w) sh.w) (opB k sh b x e)
      (elemAt (vGet k d) (e * sh.w) sh.w))
  | .vfnfma h d a b x => some (each h d (fun _ sh => kFloat sh.kind) fun _ k sh e => fpFma (fmtOf sh.kind) true true false (elemAt (vGet k a) (e * sh.w) sh.w) (opB k sh b x e)
      (elemAt (vGet k d) (e * sh.w) sh.w))
  | .vfnfms h d a b x => some (each h d (fun _ sh => kFloat sh.kind) fun _ k sh e => fpFma (fmtOf sh.kind) true true true (elemAt (vGet k a) (e * sh.w) sh.w) (opB k sh b x e)
      (elemAt (vGet k d) (e * sh.w) sh.w))
  | .vmov h d a => some (each h d (fun _ sh => kAll sh.kind) fun _ k sh e => ((elemAt (vGet k a) (e * sh.w) sh.w), 0))
  | .vbcast h d a => some (each h d (fun _ sh => kAll sh.kind) fun _ k _ _ => ((sGet k a).toNat, 0))
  | .viadd h d a b x => some (eachInt h d a b x (fun n p q => (p + q) % 2 ^ n))
  | .visub h d a b x => some (eachInt h d a b x (fun n p q => (p + 2 ^ n - q) % 2 ^ n))
  | .vimul h d a b x => some (eachInt h d a b x (fun n p q => p * q % 2 ^ n))
  | .vimin h d a b x => some (eachInt h d a b x (fun n p q => if signedN n p < signedN n q then p else q))
  | .vimax h d a b x => some (eachInt h d a b x (fun n p q => if signedN n p < signedN n q then q else p))
  | .viand h d a b x => some (eachInt h d a b x (fun _ p q => p &&& q))
  | .vior h d a b x => some (eachInt h d a b x (fun _ p q => p ||| q))
  | .vixor h d a b x => some (eachInt h d a b x (fun _ p q => p ^^^ q))
  | .vishl h d a b x => some (eachInt h d a b x (fun n p q => p * 2 ^ (q % n) % 2 ^ n))
  | .vishr h d a b x => some (eachInt h d a b x (fun n p q => p / 2 ^ (q % n)))
  | .visra h d a b x => some (eachInt h d a b x (fun n p q => inBits n (signedN n p / 2 ^ (q % n))))
  | .viadds h d a b x => some (eachInt h d a b x (fun n p q => clampN n (signedN n p + signedN n q)))
  | .visubs h d a b x => some (eachInt h d a b x (fun n p q => clampN n (signedN n p - signedN n q)))
  | .vperm h d a b => some (each h d (fun _ sh => kAll sh.kind && sh.nr ≤ 1024) fun _ k sh e =>
      let i := elemAt (vGet k b) (2 * (e / sh.nc)) 2
      (if i < sh.nr then elemAt (vGet k a) ((i * sh.nc + e % sh.nc) * sh.w) sh.w else 0, 0))
  | .vgath h d a b => some (each h d (fun _ sh => kAll sh.kind && 2 ≤ kindSize sh.kind) fun _ k sh e =>
      let i := elemAt (vGet k b) (2 * e) 2
      (if i < sh.nr * sh.nc then elemAt (vGet k a) (i * sh.w) sh.w else 0, 0))
  | .vrot h d a b => some (each h d (fun _ sh => kAll sh.kind) fun _ k sh e =>
      (elemAt (vGet k a) ((e / sh.nc * sh.nc + (e % sh.nc + (sGet k b).toNat % sh.nc) % sh.nc) * sh.w) sh.w, 0))
  | .vins h d a b => some { each h d (fun _ sh => kAll sh.kind) (fun _ k _ _ => ((sGet k a).toNat, 0)) with
      on := fun k sh e => active k h sh e && decide ((sGet k b).toNat = e) }
  | .vtrn h d a => some { each h d (fun _ sh => kAll sh.kind)
      (fun _ k sh x => (elemAt (vGet k a) ((x % sh.nr * sh.nc + x / sh.nr) * sh.w) sh.w, 0)) with
      on := fun k sh x => rowOn k (x % sh.nr) && (mGet k h.g).getLsbD x }
  | .vcvt h d a b r kt => some {
      hdr := h
      d := d
      ok := fun _ sh => kAll sh.kind && decide (sh.nr * sh.nc * kindSize kt.toNat ≤ 2048) &&
        (b == 0#5 || isFloat sh.kind)
      n := fun _ sh => sh.nr * sh.nc
      w := fun _ => kindSize kt.toNat
      on := fun k sh e => active k h sh e
      val := fun c k sh e =>
        cvtElem sh.kind kt.toNat (posMode k c r.toNat e) (elemAt (vGet k a) (e * sh.w) sh.w)
      also := fun k sh =>
        if b = 0#5 then afterDraws k sh r.toNat
        else sSet (afterDraws k sh r.toNat) b (amaxUpdate k h sh a (sGet k b)) }
  | .vbscale h d a => some {
      hdr := h
      d := d
      ok := fun _ sh => kFloat sh.kind && sh.nc % 32 == 0
      n := fun _ sh => sh.nr * (sh.nc / 32)
      w := fun _ => 1
      on := fun k sh x => rowOn k (x / (sh.nc / 32))
      val := fun _ k sh x => ((blockScale ((List.range 32).map fun j =>
        shownVal k h sh a (x / (sh.nc / 32) * sh.nc + x % (sh.nc / 32) * 32 + j))).toNat, 0)
      also := fun k _ => k }
  | .vquant h d a b => some {
      hdr := h
      d := d
      ok := fun k sh => kFloat sh.kind && sh.nc % 32 == 0 && a != 31#5 && ctlOk (sGet k b) true false
      n := fun _ sh => sh.nr * sh.nc
      w := fun _ => 1
      on := fun k sh e => active k h sh e
      val := fun c k sh e =>
        let q := quantise (posMode k c (qRnd (sGet k b)) e) (qNpl (sGet k b)) (scaleOf (vGet k (a + 1)) sh e)
          (operand (fmtOf sh.kind) true (elemAt (vGet k a) (e * sh.w) sh.w))
        (inBits 8 q.1, q.2)
      also := fun k sh => afterDraws k sh (qRnd (sGet k b)) }
  | .vdeq h d a b => some {
      hdr := h
      d := d
      ok := fun k sh => kI8 sh.kind && sh.nc % 32 == 0 && decide (sh.nr * sh.nc * 4 ≤ 2048) && a != 31#5 &&
        ctlOk (sGet k b) false false
      n := fun _ sh => sh.nr * sh.nc
      w := fun _ => 4
      on := fun k sh e => active k h sh e
      val := fun _ k sh e =>
        deqElem (qNpl (sGet k b)) (scaleOf (vGet k (a + 1)) sh e) (signedN 8 (elemAt (vGet k a) e 1))
      also := fun k _ => k }
  | .vpackp h d a b => some {
      hdr := h
      d := d
      ok := fun k sh => kI8 sh.kind && sh.nc % 128 == 0 && ctlOk (sGet k b) false false
      n := fun k sh => sh.nr * (sh.nc / 128 * qNpl (sGet k b) * 16)
      w := fun _ => 1
      on := fun k sh x => rowOn k (x / (sh.nc / 128 * qNpl (sGet k b) * 16))
      val := fun _ k sh x =>
        let n := qNpl (sGet k b)
        let o := x % (sh.nc / 128 * n * 16)
        ((byteOfBits fun t =>
          let e := x / (sh.nc / 128 * n * 16) * sh.nc + (o / 16 / n * 128 + x % 16 * 8) + t
          (mGet k h.g).getLsbD e && (elemAt (vGet k a) e 1).testBit (n - 1 - o / 16 % n)).toNat, 0)
      also := fun k _ => k }
  | .vunpkp h d a b => some {
      hdr := h
      d := d
      ok := fun k sh => kI8 sh.kind && sh.nc % 128 == 0 && ctlOk (sGet k b) false true
      n := fun _ sh => sh.nr * sh.nc
      w := fun _ => 1
      on := fun k sh e => active k h sh e
      val := fun _ k sh e =>
        let n := qNpl (sGet k b)
        let kp := if qRead (sGet k b) = 0 then n else qRead (sGet k b)
        (inBits 8 (planeRead n kp (rowElem n kp (e % sh.nc) fun o =>
          BitVec.ofNat 8 (elemAt (vGet k a) (e / sh.nc * (sh.nc / 128 * n * 16) + o) 1))), 0)
      also := fun k _ => k }
  | .vrsum h d a => some (overLines h d a .sum false)
  | .vrmax h d a => some (overLines h d a .max false)
  | .vrmin h d a => some (overLines h d a .min false)
  | .vrargmax h d a => some (overLines h d a .argmax false)
  | .vcsum h d a => some (overLines h d a .sum true)
  | .vcmax h d a => some (overLines h d a .max true)
  | .vcmin h d a => some (overLines h d a .min true)
  | .vcargmax h d a => some (overLines h d a .argmax true)
  | _ => none

/-- The flags of the positions that are written, ORed (R84). -/
def flagsOver (n : Nat) (on : Nat → Bool) (val : Nat → FpRes) : Flags :=
  (List.range n).foldl (fun f e => if on e then f ||| (val e).2 else f) 0

/-- A core with a vector instruction in its queue (R192). -/
def queued (h : Hdr) (k : Core) : Core :=
  { k with vec := { k.vec with vq := k.vec.vq ++ [{ tok := h.t, pc := k.x.str.pc }] } }

/-- A vector instruction handed to its unit with a core's new registers. -/
def accepted (s : State) (h : Hdr) (k : Core) : State := handed s true h (setCore (begun s true h) s.me (queued h k))

/-- The comparisons into a mask register: kinds accepted and each position's outcome and flags (R200). -/
def compareOps : Instr → Option (Hdr × BitVec 3 × (Shape → Bool) × (Core → Shape → Nat → Bool × Flags))
  | .vfcmp h d a b x q => some (h, d, fun sh => kFcmp sh.kind, fun k sh e =>
      fpCmp (fmtOf sh.kind) true q (elemAt (vGet k a) (e * sh.w) sh.w) (opB k sh b x e))
  | .vicmp h d a b x q => some (h, d, fun sh => kInt sh.kind, fun k sh e =>
      let p := elemAt (vGet k a) (e * sh.w) sh.w
      let r := opB k sh b x e
      let n := 8 * sh.w
      (match q.toNat with
        | 0 => decide (p = r)
        | 1 => decide (p ≠ r)
        | 2 => decide (signedN n p < signedN n r)
        | 3 => decide (signedN n r ≤ signedN n p)
        | 4 => decide (p < r)
        | 5 => decide (r ≤ p)
        | 6 => decide (p &&& r ≠ 0)
        | _ => decide (p &&& r = 0), 0))
  | _ => none

/-- The mask instructions and those that give a scalar from a mask (R201). -/
def maskOps : Instr → Option (Hdr × (Core → Core))
  | .mand h d a b => some (h, fun k => mSet k d (mGet k a &&& mGet k b))
  | .mor h d a b => some (h, fun k => mSet k d (mGet k a ||| mGet k b))
  | .mxor h d a b => some (h, fun k => mSet k d (mGet k a ^^^ mGet k b))
  | .mandn h d a b => some (h, fun k => mSet k d (mGet k a &&& ~~~(mGet k b)))
  | .mnot h d a => some (h, fun k => mSet k d (~~~(mGet k a)))
  | .mmov h d a => some (h, fun k => mSet k d (mGet k a))
  | .mpopc h d a => some (h, fun k => sSet k d (BitVec.ofNat 64 (maskBits k a).length))
  | .mfirst h d a => some (h, fun k => sSet k d (match maskBits k a with
      | e :: _ => BitVec.ofNat 64 e
      | [] => BitVec.allOnes 64))
  | _ => none

/-- The matrix instructions: operation, accumulator and operand tile registers (R210). -/
def matrixOps : Instr → Option (Hdr × MatOp × BitVec 2 × BitVec 4 × BitVec 4)
  | .mmul h c a b p q => some (h, .mmul false (p.toNat + 1) (q.toNat + 1), c, a, b)
  | .mmulBs h c a b p q => some (h, .mmul true (p.toNat + 1) (q.toNat + 1), c, a, b)
  | .mtrans h c a p => some (h, .mtrans (p.toNat + 1), c, a, 0)
  | .mperm h c a b p => some (h, .mperm (p.toNat + 1), c, a, b)
  | .mrsum h c a p => some (h, .mrsum (p.toNat + 1), c, a, 0)
  | .mcsum h c a p => some (h, .mcsum (p.toNat + 1), c, a, 0)
  | .mclr h c => some (h, .mclr, c, 0, 0)
  | .mstF32 h c a => some (h, .mst 0, c, a, 0)
  | .mstBf16 h c a => some (h, .mst 1, c, a, 0)
  | .mstI32 h c a => some (h, .mst 2, c, a, 0)
  | .mstMe h c a => some (h, .mst 3, c, a, 0)
  | .mld h c a => some (h, .mld, c, a, 0)
  | .mxaln h c a => some (h, .mxaln, c, a, 0)
  | _ => none

/-- The command a matrix instruction hands over: the tile registers and VCNT as they are at issue (R211). -/
def matCommand (b : State) (c : Nat) (op : MatOp) (acc : BitVec 2) (x y : BitVec 4) (seq : Nat) : MatCmd :=
  let k := coreOf b c
  { op := op, acc := acc, ta := tGet k x, tb := tGet k y, sa := tGet k (x + 1), sb := tGet k (y + 1),
    vcnt := k.vec.vcnt.toNat, base := lbase k, own := runOwner k, seq := seq }

/-- Element (i, j) of an accumulator. -/
def accElem (k : Core) (a : BitVec 2) (i j : Nat) : AccElem := accGet (bget k.accs a) i j

/-- The size of an element that `mst` stores, by format (R221): F32, BF16, I32, ME. -/
def mstSize (f : Nat) : Nat := if f = 0 ∨ f = 2 then 4 else if f = 1 then 2 else 8

/-- What `mst` stores for an element (R98, R221): the element converted, or for `mst.me` its mantissa over its
exponent. -/
def mstValue (f : Nat) (e : AccElem) : Nat :=
  if f = 0 then pairToFp .f32 (e.m.toInt, e.e.toInt)
  else if f = 1 then pairToFp .bf16 (e.m.toInt, e.e.toInt)
  else if f = 2 then inBits 32 (pairToI32 (e.m.toInt, e.e.toInt))
  else 2 ^ 16 * e.m.toNat + e.e.toNat

/-- The first scratchpad byte of row i of a command's region. -/
def rowStart (c : MatCmd) (i : Nat) : Nat := c.base + rowAddr c.ta i

/-- Whether the granule that holds a window offset is poisoned (R394). -/
def granulePoisoned (k : Core) (c : MatCmd) (o : Nat) : Bool := k.poison.contains ((c.base + o) / 16)

end Sys2Proof.Claims

open Sys2Proof Sys2Proof.Machine Sys2Proof.Claims

/-- R16, R84, R189 to R193, R195 to R199, R202 to R209: a vector instruction whose shape it accepts enters the
unit's queue with every active position of its register at the instruction's value, the others and the bytes behind
the last as they were, and the flags of the active positions ORed into FFLAGS. A shape that it does not accept is
ILLEGAL, an invalid operation under FTRAPEN.NVE is FPINV. The result is in place at acceptance (log 8). -/
def Obligations.VectorResults : Prop :=
  ∀ i v, vectorOps i = some v → ∀ s, Clear s true v.hdr →
    let k := begunCore s true v.hdr
    let sh := shapeOf k
    let w := v.w sh
    let fl := flagsOver (v.n k sh) (v.on k sh) (v.val s.me k sh)
    (v.ok k sh = true → (k.vec.nve = false ∨ fl &&& fNV = 0) → k.vec.vq.length < 8 →
      ∃ x, exec i s = .next (accepted s v.hdr (orFlags (vSet (v.also k sh) v.d x) fl)) ∧
        (∀ e, e < v.n k sh → (e + 1) * w ≤ 2048 → elemAt x (e * w) w =
          if v.on k sh e then (v.val s.me k sh e).1 % 2 ^ (8 * w) else elemAt (vGet k v.d) (e * w) w) ∧
        ∀ o, v.n k sh * w ≤ o → elemAt x o 1 = elemAt (vGet k v.d) o 1) ∧
    (v.ok k sh = true → k.vec.nve = true → fl &&& fNV ≠ 0 →
      exec i s = .next (strandFault (begun s true v.hdr) s.me true .fpinv 0)) ∧
    (v.ok k sh = false → exec i s = .next (strandFault (begun s true v.hdr) s.me true .illegal 0))

/-- R211, R213, R214, R218, R219, R221: a matrix instruction whose operands pass their checks hands its command,
with the tile registers and VCNT as they are, to the unit's queue; operands that fail are TILE. R212, R215 to R221:
the oldest command executes on its accumulator, elements that it does not affect and other accumulators unchanged;
`mst` stores each covered element, its value converted, into its region and changes no other byte of the scratchpad.
R225: every poisoned granule that a command reads has one kind 6 entry, in ascending order; an element that depends on
one arrives as NaN. -/
def Obligations.MatrixCommands : Prop :=
  (∀ i h op acc x y, matrixOps i = some (h, op, acc, x, y) → ∀ s, Clear s true h → Guarded s true h →
    let b := begun s true h
    let k := begunCore s true h
    let fits := matOk op (tGet k x) (tGet k y) (tGet k (x + 1)) (tGet k (y + 1))
    (fits = false → exec i s = .next (strandFault b s.me true .tile 0)) ∧
    (∀ rs ws, fits = true →
      checkRegions b s.me .read (matReads op (tGet k x) (tGet k y) (tGet k (x + 1)) (tGet k (y + 1))) = .ok rs →
      checkRegions b s.me .write (matWrites op (tGet k x)) = .ok ws → k.eng.matq.length < 16 →
      let seq := b.sched.nextSeq
      exec i s = .next (ended s true h .seq (modCore
        (registerParts (registerParts (newSeq b).2 false seq rs) true seq ws) s.me fun k' =>
          { k' with eng := { k'.eng with matq := k'.eng.matq ++ [matCommand b s.me op acc x y seq] } })))) ∧
  (∀ s n c q, (coreOf s n).eng.matq = c :: q → cmdBlocked (coreOf s n) c.seq = false →
    matOk c.op c.ta c.tb c.sa c.sb = true → (∀ a, Map.sorted (bget (coreOf s n).accs a) = true) →
    ∃ (t : State) (gs : List Nat) (k' : Core), exec (.matrixCommandExecute n) s = .next t ∧ (coreOf t n).eng.matq = q ∧
      t = unregister (gs.foldl (fun s g => faultEntry s c.own.parcel (fent 6 FaultCode.poison.code n c.own.launch
        c.own.rcd (BitVec.ofNat 64 (16 * g)) (c.acc.setWidth 64))) (setCore s n k')) c.seq ∧
      gs.Pairwise (· < ·) ∧
      (∀ g, g ∈ gs ↔ ∃ o ∈ cmdGrans (coreOf s n) c, o / 16 = g ∧ granulePoisoned (coreOf s n) c o = true) ∧
      ((∀ f, c.op ≠ .mst f) → k'.scratch = (coreOf s n).scratch ∧ k'.poison = (coreOf s n).poison) ∧
      (∀ f, c.op = .mst f → (coreOf s n).scratch.wf = true →
        (∀ o, (∀ i, i < portRows c → o < rowStart c i ∨ rowStart c i + mstSize f * portCols c ≤ o) →
          memGet k'.scratch o = memGet (coreOf s n).scratch o) ∧
        ∀ i j, i < portRows c → j < portCols c →
          (∀ i', i < i' → i' < portRows c → rowStart c i + mstSize f * portCols c ≤ rowStart c i' ∨
            rowStart c i' + mstSize f * portCols c ≤ rowStart c i) →
          leNat (memGetList k'.scratch (rowStart c i + mstSize f * j) (mstSize f)) =
            mstValue f (accElem (coreOf s n) c.acc i j) % 2 ^ (8 * mstSize f)) ∧
      (∀ a i j, a ≠ c.acc → accElem (coreOf t n) a i j = accElem (coreOf s n) a i j) ∧
      ∀ i j, i < 32 → j < 32 →
        accElem (coreOf t n) c.acc i j = match c.op with
          | .mclr => AccElem.empty
          | .mst _ => accElem (coreOf s n) c.acc i j
          | .mld => if i < portRows c ∧ j < portCols c then elemOfPair (regionPair (coreOf s n) c i j)
              else accElem (coreOf s n) c.acc i j
          | .mxaln => if i < portRows c ∧ j < portCols c
              then accAdd (accElem (coreOf s n) c.acc i j) [regionPair (coreOf s n) c i j]
              else accElem (coreOf s n) c.acc i j
          | _ => accAdd (accElem (coreOf s n) c.acc i j) (matArrivals (coreOf s n) c i j)) ∧
  (∀ (k : Core) (c : MatCmd),
    (∀ i j, regionPair k c i j =
      if granulePoisoned k c (rowAddr c.ta i + 8 * j) then (0, 32767)
      else
        let x : Word := BitVec.ofNat 64 (leNat (memGetList k.scratch (rowStart c i + 8 * j) 8))
        ((x.extractLsb' 16 48).toInt, (x.extractLsb' 0 16).toInt)) ∧
    (∀ scaled pa pb i j g, (∃ o ∈ blockGrans c scaled pa pb i j g, granulePoisoned k c o = true) →
      blockArrival k c scaled pa pb i j g = some (0, 32767)) ∧
    (∀ pa r ks, (∃ x ∈ ks, ∃ o ∈ planeGrans c.ta pa r x, granulePoisoned k c o = true) →
      sumArrival k c pa r ks = some (0, 32767)))

/-- The comparisons and boolean operations of both streams write one predicate (R55, R56, R108, R109, R174, R175).
`punpk` sets p1 to p7 from bits 1 to 7 of a, and p0 stays true (R175). R195, R198, R200, R201: comparisons write the
active positions of a mask; mask instructions act on whole masks; `vext` reads one active element; `vpop`, `vpush`
and `vpush.eos` move the heads and tails of the vector queues; and a completed instruction leaves the queue and
posts its token. What the unit computes is in place at acceptance (log 8). -/
def Obligations.PredicateAndMaskResults : Prop :=
  ((∀ i xs h p v, predicateOps i = some (xs, h, p, v) → ∀ s, Clear s xs h → Guarded s xs h →
     exec i s = .next (wrote s xs h fun k => if xs then pSet k p (v k) else cSet k p (v k))) ∧
   (∀ s h a, Clear s true h → Guarded s true h → ∃ t, exec (.punpk h a) s = .next t ∧
     t = wrote s true h (punpkBody a) ∧
     ∀ k : Core, ∀ i : Fin 8, pGet (punpkBody a k) (BitVec.ofNat 3 i) = if i.val = 0 then true else (sGet k a).getLsbD i)) ∧
  ((∀ i h d ok f, compareOps i = some (h, d, ok, f) → ∀ s, Clear s true h →
     let k := begunCore s true h
     let sh := shapeOf k
     let fl := (List.range (sh.nr * sh.nc)).foldl (fun g e => if active k h sh e then g ||| (f k sh e).2 else g) 0
     ok sh = true → (k.vec.nve = false ∨ fl &&& fNV = 0) → k.vec.vq.length < 8 →
     ∃ m, exec i s = .next (accepted s h (orFlags (mSet k d m) fl)) ∧
       ∀ e, e < 2048 → m.getLsbD e =
         if e < sh.nr * sh.nc ∧ active k h sh e = true then (f k sh e).1 else (mGet k d).getLsbD e) ∧
   (∀ i h f, maskOps i = some (h, f) → ∀ s, Clear s true h → Guarded s true h →
     (begunCore s true h).vec.vq.length < 8 → exec i s = .next (accepted s h (f (begunCore s true h)))) ∧
   (∀ s h d a b, Clear s true h →
     let k := begunCore s true h
     let sh := shapeOf k
     let e := (sGet k b).toNat
     sh.kind ≤ 8 → k.vec.vq.length < 8 →
     exec (.vext h d a b) s = .next (accepted s h (if e < sh.nr * sh.nc ∧ active k h sh e = true
       then sSet k d (BitVec.ofNat 64 (elemAt (vGet k a) (e * sh.w) sh.w)) else k))) ∧
   (∀ s h, Clear s true h → Guarded s true h →
     let b := begun s true h
     let k := begunCore s true h
     k.vec.vq.length < 8 →
     (∀ d e, vlqHead k = some e → exec (.vpop h d) s = .next (accepted s h (vSet (vlqPop b k) d e.data))) ∧
     (∀ a, k.sh.vsq.length < 4 → exec (.vpush h a) s = .next (accepted s h (vsqPush b k (vGet k a) false)) ∧
       exec (.vpushEos h a) s = .next (accepted s h (vsqPush b k (vGet k a) true)))) ∧
   (∀ s c v q, (coreOf s c).vec.vq = v :: q → (v.tok = false ∨ (coreOf s c).sh.tokA ≠ 15#4) →
     ∃ t, exec (.vectorCommandComplete c) s = .next t ∧ OnlyCores s t [c] ∧ (coreOf t c).vec.vq = q ∧
       (coreOf t c).sh.tokA = (coreOf s c).sh.tokA + (if v.tok then 1 else 0)))

/-! ## The sampler on a core (R227, R228, R231 to R240, R250, R254) -/

namespace Sys2Proof.Claims
open Sys2Proof Sys2Proof.Machine

/-- The scalar Utgen instructions: the `g` register written and its value (R237). -/
def utgenScalars : Instr → Option (BitVec 4 × (Run → BitVec 32))
  | .lmov d a => some (d, fun r => bget r.g a)
  | .ladd d a b => some (d, fun r => BitVec.ofNat 32 (vAdd (gNat r a) (gNat r b)))
  | .lsub d a b => some (d, fun r => BitVec.ofNat 32 (vSub (gNat r a) (gNat r b)))
  | .lmul d a b => some (d, fun r => BitVec.ofNat 32 (vMul (gNat r a) (gNat r b)))
  | .lmin d a b => some (d, fun r => BitVec.ofNat 32 (fpMinMax .f32 true false (gNat r a) (gNat r b)).1)
  | .lmax d a b => some (d, fun r => BitVec.ofNat 32 (fpMinMax .f32 true true (gNat r a) (gNat r b)).1)
  | _ => none

/-- The slice instructions: cost, destination, source, and the new elements from the old; nothing where the run
traps (R237, R239). -/
def utgenSlices : Instr → Option ((Run → Nat) × BitVec 2 × BitVec 2 × (State → Run → List Nat → Option (List Nat)))
  | .lscale d a b => some (Run.c, d, a, fun _ r xs => some (xs.map fun x => vMul x (gNat r b)))
  | .lshift d a b => some (Run.c, d, a, fun _ r xs => some (xs.map fun x => vAdd x (gNat r b)))
  | .ltemp d a b => some (fun r => 4 * r.c, d, a, fun _ r xs =>
      if posFin (gNat r b) then some (xs.map fun x => vDiv x (gNat r b)) else none)
  | .lcap d a b => some (fun r => 12 * r.c, d, a, fun _ r xs =>
      if posFin (gNat r b)
      then some (xs.map fun x => vMul (gNat r b) (tanht (vMul x (fpRcp .f32 true (gNat r b)).1)).1) else none)
  | .lrep d a b => some (fun r => 2 * r.c, d, a, fun s r xs =>
      if posFin (gNat r b) then (countList s r).map fun cs => (xs.zip cs).map fun p =>
        if p.2 = 0 then p.1
        else if (fpCmp .f32 true 2#3 0 p.1).1 then vDiv p.1 (gNat r b) else vMul p.1 (gNat r b)
      else none)
  | .lfreq d a b c => some (fun r => 2 * r.c, d, a, fun s r xs =>
      (countList s r).map fun cs => (xs.zip cs).map fun p =>
        vSub (vSub p.1 (vMul (intToFp .f32 true .rne p.2).1 (gNat r b))) (if 0 < p.2 then gNat r c else 0))
  | .lban d a b => some (fun _ => 2, d, a, fun _ r xs =>
      some (if r.tok0 ≤ gNat r b ∧ gNat r b - r.tok0 < r.n then xs.set (gNat r b - r.tok0) 0xFF800000 else xs))
  | .lminp d a b => some (Run.c, d, a, fun _ r xs =>
      if r.phase = 1 then none
      else some (xs.map fun x =>
        if (fpCmp .f32 true 1#3 x (vAdd (gNat r 15) (gNat r b))).1 then 0xFF800000 else x))
  | _ => none

/-- `lbias` and `lmask`: cost, destination, source, and the walk of their table (R237). -/
def utgenTables : Instr → Option ((Run → Nat) × BitVec 2 × BitVec 2 × (State → Run → List Nat → TableRes))
  | .lbias d a => some (fun r => 4 + r.bind.desc.biascnt, d, a, fun s r xs => biasGo s s.me r 0 r.bind.desc.biascnt xs)
  | .lmask d a => some (Run.c, d, a, fun s r xs =>
      if r.bind.desc.maskaddr = 0 then .ok s xs else maskGo s s.me r 0 xs)
  | _ => none

/-- The branches: when taken, and the offset in words (R236). -/
def utgenBranches : Instr → Option ((Run → Bool) × Int)
  | .lbr _ _ off => some (fun _ => true, off.toInt)
  | .lbrNz a _ off => some (fun r => decide (bget r.g a ≠ 0), off.toInt)
  | .lbrZ a _ off => some (fun r => decide (bget r.g a = 0), off.toInt)
  | _ => none

/-- The end actions over a working vector (R240). -/
def utgenEnds : Instr → Option (BitVec 2 × EndAct)
  | .ltopk a k => some (a, .topk k.toNat)
  | .lendS a => some (a, .sample)
  | .lendG a => some (a, .greedy)
  | _ => none

/-- A run that has executed an instruction of a cost. -/
def ran (r : Run) (cost : Nat) (pc : Nat) : Run := { r with charged := r.charged + cost, hold := none, pc := pc }

end Sys2Proof.Claims

open Sys2Proof Sys2Proof.Machine Sys2Proof.Claims

/-- R227, R231 to R234, R250, R254: `sreg` answers the number of the slot it binds, or 2^63 plus its refusal;
`sqdraft` gives the slot its draft positions and joins the descriptor's draft set, and a set that it begins is not refused
(how the slices' sets are matched, and what it accepts beside R234's words, is log 49's); `srun` and `scommit` join the
sequencer's queue and set IRV; the oldest queued command starts when its slot has no run: a run needs fewer than 4 in
progress and its ranges clear, and loads its parameters; a commit counts its token in the slice, saturating at 255,
and may release the slot. A run that waits in the tree holds back only commands whose ranges meet its own (log 19). -/
def Obligations.SamplerCommands : Prop :=
  (∀ s h d a c, Clear s true h → Guarded s true h →
    let b := begun s true h
    let k := begunCore s true h
    let va := sGet k a
    let off := sGet k c
    (va.toNat % 64 ≠ 0 → exec (.sreg h d a c) s = .next (strandFault b s.me true .align va)) ∧
    ∀ b' ds rs, va.toNat % 64 = 0 → off.toNat % 16 = 0 → readUnits b (.core s.me) (runParcel k) va 16 = .ok b' ds →
      inWindow k off 32 = true → localLoad k off 32 = .ok rs →
      (isLocalShort (smpDesc ds).resctr = true ∨ hScope (smpDesc ds).resctr = 0 ∨
        checkRemote b' (smpDesc ds).resctr (runParcel k) .add = none) →
      ∀ L, launchOf b' (runOwner k).launch = some L →
      let k' := coreOf b' s.me
      let done := fun (v : Word) (k' : Core) => exec (.sreg h d a c) s = .next (ended s true h .seq
        (performed (setCore (dropDrafts b' (runParcel k) va) s.me (sSet k' d v)) s.me off))
      let bound := fun (i : Nat) (old : Option Slot) =>
        { k' with eng := { k'.eng with slots := mset k'.eng.slots i (bindSlot k' L va (smpDesc ds) rs old) } }
      let sl := recNat rs 0 4
      ((smpDesc ds).ok L.desc.logitcnt ds = false → done (2 ^ 63 + 2) k') ∧
      ((smpDesc ds).ok L.desc.logitcnt ds = true →
        (sliceOk b' k' (smpDesc ds) rs = false → done (2 ^ 63 + 3) k') ∧
        (sliceOk b' k' (smpDesc ds) rs = true →
          (∀ i x, sameSlot k' va sl = some (i, x) → done (BitVec.ofNat 64 i) (bound i (some x))) ∧
          (sameSlot k' va sl = none →
            (freeSlot k' = none → done (2 ^ 63 + 1) k') ∧
            ∀ i, freeSlot k' = some i → done (BitVec.ofNat 64 i) (bound i none))))) ∧
  (∀ s h a c, Clear s true h → Guarded s true h →
    let b := begun s true h
    let k := begunCore s true h
    let i := (sGet k a).toNat
    (slotOf k (sGet k a) = none →
      exec (.sqdraft h a c) s = .next (strandFault b s.me true .illegal 0) ∧
      exec (.srun h a c) s = .next (strandFault b s.me true .illegal 0) ∧
      exec (.scommit h a c) s = .next (strandFault b s.me true .illegal 0)) ∧
    ∀ x, slotOf k (sGet k a) = some x →
      (∀ b' bs, (sGet k c).toNat % 8 = 0 → readUnits b (.core s.me) (runParcel k) (sGet k c) 17 = .ok b' bs →
        ((recNat bs 0 4 = 0 ∨ 8 < recNat bs 0 4 ∨ recNat bs 4 4 ≠ 0 ∨ ∃ j, j < 8 ∧ 2 ≤ recNat bs (0x14 + 16 * j) 4) →
          exec (.sqdraft h a c) s = .next (strandFault b' s.me true .illegal 0)) ∧
        (1 ≤ recNat bs 0 4 → recNat bs 0 4 ≤ 8 → recNat bs 4 4 = 0 → (∀ j, j < 8 → recNat bs (0x14 + 16 * j) 4 < 2) →
        (∀ j, j < recNat bs 0 4 → recNat bs (0x14 + 16 * j) 4 = 1 →
          recNat bs (0x10 + 16 * j) 4 + 4 * x.desc.sliceLen x.slice ≤ lsize k) →
        let set := joinSet b' x.own.parcel x.addr x.slice
        let x' := { x with drafts := (List.range (recNat bs 0 4)).map (draftAt k bs), draftSet := set.1 }
        exec (.sqdraft h a c) s = .next (ended s true h .seq (modCore set.2 s.me fun k =>
          { k with eng := { k.eng with slots := mset k.eng.slots i x' } })))) ∧
      (∀ pos pass, (sGet k c).toNat = pos + 2 ^ 32 * pass → pos < 2 ^ 32 → pass < 16 → pass ≤ x.drafts.length →
        k.eng.smpq.length < 8 →
        let cmd : SmpCmd := .run i x (BitVec.ofNat 32 pos) pass (runOwner k) b.sched.nextSeq
        exec (.srun h a c) s = .next (ended s true h .seq (modCore (useSet (newSeq b).2 x.own.parcel x) s.me fun k =>
          setIrv { k with eng := { k.eng with smpq := k.eng.smpq ++ [cmd],
                                              board := k.eng.board ++ runRanges x pass b.sched.nextSeq } }))) ∧
      (∀ tok rel, (sGet k c).toNat = tok + 2 ^ 32 * rel → tok < 2 ^ 32 → rel < 2 → k.eng.smpq.length < 8 →
        let cmd : SmpCmd := .commit i x (BitVec.ofNat 32 tok) (decide (rel = 1)) (runOwner k)
        exec (.scommit h a c) s = .next (ended s true h .seq (modCore b s.me fun k =>
          setIrv { k with eng := { k.eng with smpq := k.eng.smpq ++ [cmd] } })))) ∧
  (∀ s c i x pos pass own seq q, (coreOf s c).eng.smpq = .run i x pos pass own seq :: q →
    let k := coreOf s c
    ((4 ≤ k.eng.runs.length ∨ (∃ r ∈ k.eng.runs, r.slot = i) ∨ cmdBlocked k seq = true) →
      exec (.samplerRunStart c) s = .next s) ∧
    (k.eng.runs.length < 4 → (∀ r ∈ k.eng.runs, r.slot ≠ i) → cmdBlocked k seq = false →
      let r : Run := { slot := i, bind := x, key := { parcel := own.parcel, desc := x.addr, pos := pos, pass := pass },
                       pc := 0, g := bfill 4 0, phase := 1, charged := 0, st := .loading, own := own, seq := seq,
                       hold := none }
      exec (.samplerRunStart c) s = .next (loadParams (setCore s c
        { k with eng := { k.eng with smpq := q, runs := k.eng.runs ++ [r] } }) c r))) ∧
  (∀ s c i x tok rel own q, (coreOf s c).eng.smpq = .commit i x tok rel own :: q →
    (∀ r ∈ (coreOf s c).eng.runs, r.slot ≠ i) →
    let k := coreOf s c
    let t := countToken (setCore s c { k with eng := { k.eng with smpq := q } }) x tok
    exec (.samplerRunStart c) s = .next (if rel then modCore t c fun k =>
      { k with eng := { k.eng with slots := merase k.eng.slots i } } else t)) ∧
  (∀ s c (r : Run), let va := r.bind.desc.paramaddr
    (va = 0 → loadParams s c r = setRun s c { r with st := .running }) ∧
    (∀ b bs, va ≠ 0 → readUnits s (.core c) r.own.parcel va 8 = .ok b bs →
      ∃ g, loadParams s c r = setRun b c { r with st := .running, hold := none, g := g } ∧
        ∀ i : BitVec 4, bget g i = rec32 bs (4 * i.toNat))) ∧
  (∀ s p va sl, nextSet (s.tree.drafts.filter fun x => x.isOf p va) sl = none →
    (joinSet s p va sl).1 = s.sched.nextSeq ∧
    ∃ y ∈ (joinSet s p va sl).2.tree.drafts, y.isOf p va = true ∧ y.set = s.sched.nextSeq ∧ y.refused = none ∧
      y.decided = [] ∧ y.joined = [sl]) ∧
  (∀ s (x : Slot) (tok : BitVec 32), let t0 := x.slice * x.desc.slen
    let pa := vaultPa (x.countAddr.toNat / 2 ^ 32) (x.countAddr.toNat % 2 ^ 32 + (tok.toNat - t0))
    ((tok.toNat < t0 ∨ t0 + x.desc.sliceLen x.slice ≤ tok.toNat ∨ x.desc.tag ∈ s.commit.revoked) →
      countToken s x tok = s) ∧
    (t0 ≤ tok.toNat → tok.toNat < t0 + x.desc.sliceLen x.slice → x.desc.tag ∉ s.commit.revoked →
      let v := BitVec.ofNat 8 (min 255 ((physByte s.phys pa).toNat + 1))
      countToken s x tok = { s with phys := physPut s.phys pa v }))

/-- R235 to R240: the oldest free run of a core executes a Utgen instruction: it is charged its cost and writes its
`g` register or working vector, branches, waits for its phase, or sends its end action; `w0` as a destination, an
operand its rule refuses and a poisoned element trap the run, a cost above the budget overruns it. -/
def Obligations.UtgenResults : Prop :=
  ∀ s r, curRun s s.me = some r →
    (∀ i d f, utgenScalars i = some (d, f) → r.charged + 1 ≤ r.budget →
      exec i s = .next (setRun s s.me { ran r 1 (r.pc + 1) with g := bset r.g d (f r) })) ∧
    (∀ d n va b bs, va = r.bind.logitAddr + BitVec.ofNat 64 (1024 + 4 * n.toNat) → r.charged + 1 ≤ r.budget →
      readG s (.core s.me) r.own.parcel va 4 .read = .ok b bs →
      exec (.lkc d n) s = .next (setRun b s.me
        { ran r 1 (r.pc + 1) with g := bset r.g d (BitVec.ofNat 32 (leNat (bs.take 4))) })) ∧
    (∀ i cost d a f xs, utgenSlices i = some (cost, d, a, f) → r.charged + cost r ≤ r.budget →
      (d = 0 → exec i s = .next (runFault s s.me r)) ∧
      (d ≠ 0 → wGet (coreOf s s.me) r a = none → exec i s = .next (runFault s s.me r)) ∧
      (d ≠ 0 → wGet (coreOf s s.me) r a = some xs →
        (f s r xs = none → exec i s = .next (runFault s s.me r)) ∧
        ∀ ys, f s r xs = some ys →
          exec i s = .next (setRun (wSet s s.me r d ys) s.me (ran r (cost r) (r.pc + 1))))) ∧
    (∀ i cost d a f xs, utgenTables i = some (cost, d, a, f) → r.charged + cost r ≤ r.budget → d ≠ 0 →
      wGet (coreOf s s.me) r a = some xs → ∀ b ys, f s r xs = .ok b ys →
        exec i s = .next (setRun (wSet b s.me r d ys) s.me (ran r (cost r) (r.pc + 1)))) ∧
    (∀ i p off, utgenBranches i = some (p, off) → r.charged + 1 ≤ r.budget →
      exec i s = .next (setRun s s.me (ran r 1
        (if p r then (if (r.pc : Int) + off < 0 then 256 else ((r.pc : Int) + off).toNat) else r.pc + 1)))) ∧
    (∀ a xs, r.charged + 1 ≤ r.budget → wGet (coreOf s s.me) r a = some xs →
      (r.phase = 1 → exec (.lsync a) s = .next
        (setRun (sendSync s s.me r (treeMinMax .f32 true xs).1 false) s.me
          { ran r 1 (r.pc + 1) with st := .atSync })) ∧
      (r.phase ≠ 1 → exec (.lsync a) s = .next (runFault s s.me r))) ∧
    (∀ i a act xs qs, utgenEnds i = some (a, act) → r.charged + 1 ≤ r.budget →
      wGet (coreOf s s.me) r a = some xs →
      (r.phase ≠ 1 → qList (coreOf s s.me) r = some qs → (∀ k, act = .topk k → r.bind.desc.candaddr ≠ 0) →
        exec i s = .next (dropRun (sendEnd s s.me r act xs qs false) s.me r)) ∧
      (r.phase = 1 → exec i s = .next (runFault s s.me r))) ∧
    (∀ a qs, r.charged + 1 ≤ r.budget →
      (r.phase ≠ 1 → qList (coreOf s s.me) r = some qs →
        exec (.lendF a) s = .next (dropRun (sendEnd s s.me r (.force (bget r.g a)) [] qs false) s.me r)) ∧
      (r.phase = 1 → exec (.lendF a) s = .next (runFault s s.me r))) ∧
    (∀ i cost d a f, (utgenSlices i = some (cost, d, a, f) ∨ i = .lsync a ∧ cost = fun _ => 1) →
      r.budget < r.charged + cost r → exec i s = .next (runFault s s.me r)) ∧
    (∀ c n q b w, (coreOf s c).eng.runs[n]? = some q → q.st = .running → q.free s = true → utFetch s c q = .word b w →
      (utLegal w = false → exec (.utgenIllegalWord c n) s = .next (runFault b c q)) ∧
      (utLegal w = true → q.budget < q.charged + utCost q w →
        exec (.samplerRunOverrun c n) s = .next (runFault b c q)))

/-! ## Application cores (R258 to R268) -/

namespace Sys2Proof.Claims
open Sys2Proof Sys2Proof.Machine

/-- The hart whose turn it is may carry out a custom instruction with an enable bit of dvctl (R261, R268). -/
def Enabled (s : State) (bit : Nat) : Prop :=
  ((hartOf s s.hartMe).mode ≠ .u ∨ (hartOf s s.hartMe).dvctl.getLsbD bit = true) ∧
    (hartOf s s.hartMe).owner ≠ Config.freeId

/-- The hart whose turn it is goes on with a value in rd. -/
def hartDone (s : State) (t : State) (d : BitVec 5) (v : Word) : State :=
  let H := hartOf t s.hartMe
  setHart t s.hartMe { hxSet H d v with pc := H.pc + 4, waitSince := none }

/-- The custom instructions: enable bit, word and the register of their first operand (R261). -/
def customOps : Instr → Option (Nat × BitVec 32 × BitVec 5)
  | .dvCadd q l sc b a d => some (1, q ++ l ++ sc ++ 0#3 ++ b ++ a ++ 0#3 ++ d ++ 0x0B#7, a)
  | .dvCread q sc a d => some (1, q ++ 0#1 ++ sc ++ 0#3 ++ 0#5 ++ a ++ 1#3 ++ d ++ 0x0B#7, a)
  | .dvCtest q sc b a d => some (1, q ++ 0#1 ++ sc ++ 0#3 ++ b ++ a ++ 2#3 ++ d ++ 0x0B#7, a)
  | .dvCwait q sc b a d => some (1, q ++ 0#1 ++ sc ++ 0#3 ++ b ++ a ++ 3#3 ++ d ++ 0x0B#7, a)
  | .dvFnew a d => some (2, 0#7 ++ 0#5 ++ a ++ 0#3 ++ d ++ 0x2B#7, a)
  | .dvFpost b a d => some (2, 0#7 ++ b ++ a ++ 1#3 ++ d ++ 0x2B#7, a)
  | .dvFfail b a d => some (2, 0#7 ++ b ++ a ++ 2#3 ++ d ++ 0x2B#7, a)
  | .dvLaunch a d => some (3, 0#7 ++ 0#5 ++ a ++ 3#3 ++ d ++ 0x2B#7, a)
  | _ => none

end Sys2Proof.Claims

open Sys2Proof Sys2Proof.Machine Sys2Proof.Claims

/-- R258 to R262, R265: a custom instruction whose enable is clear in U mode, and a custom word that R261 refuses, is an
illegal instruction; on a hart of no parcel it is FOREIGN (log 39). A device CSR access of too low a mode, and a write of
the read-only CSR, traps; a write leaves what it wrote but for the reserved bits, and a read gives the register's value.
R259: the rights that each kind of access needs of one capability (of the cache-block operations log 14); a U-mode access
that none covers has no effect but the trap (the event's form log 50). A hart that waits in a `dv.cwait` executes nothing.
The trap sequence is the model's (log 13). -/
def Obligations.HartTrapsAndChecks : Prop :=
  (∀ i bit w a, customOps i = some (bit, w, a) → ∀ s,
    let H := hartOf s s.hartMe
    (H.mode = .u → H.dvctl.getLsbD bit = false →
      exec i s = .next (hartTrap s s.hartMe 2 (BitVec.ofNat 64 w.toNat))) ∧
    ((H.mode ≠ .u ∨ H.dvctl.getLsbD bit = true) → H.owner = Config.freeId →
      exec i s = .next (devTrap s s.hartMe .foreign (hxGet H a)))) ∧
  (∀ s n w, isCustom w = true → customLegal w = false →
    exec (.customIllegalInstruction n w) s = .next (hartTrap s n 2 (BitVec.ofNat 64 w.toNat))) ∧
  (∀ s n c v, isDevCsr c = true →
    let H := hartOf s n
    (H.waitSince.isSome = true → exec (.deviceCsrWrite n c v) s = .next s) ∧
    (H.waitSince = none →
    ((H.mode = .vs ∨ H.mode = .vu) → exec (.deviceCsrWrite n c v) s = .next (hartTrap s n 22 0)) ∧
    (H.mode = .u → c ≠ 0x800#12 → exec (.deviceCsrWrite n c v) s = .next (hartTrap s n 2 0)) ∧
    ((H.mode = .s ∨ H.mode = .m) → c = 0xDC0#12 → exec (.deviceCsrWrite n c v) s = .next (hartTrap s n 2 0)) ∧
    ((H.mode = .s ∨ H.mode = .m ∨ H.mode = .u ∧ c = 0x800#12) → c ≠ 0xDC0#12 →
      ∃ t, exec (.deviceCsrWrite n c v) s = .next t ∧ (hartOf t n).pc = H.pc + 4 ∧ (hartOf t n).x = H.x ∧
      (c = 0x800#12 → devCsrGet t (hartOf t n) c = BitVec.ofNat 64 (v.toNat % 2 ^ 32)) ∧
      (c = 0x5D0#12 → devCsrGet t (hartOf t n) c = BitVec.ofNat 64 (v.toNat % 16)) ∧
      (c = 0x5D1#12 → devCsrGet t (hartOf t n) c = BitVec.ofNat 64 (v.toNat % 256)) ∧
      (0x5C0 ≤ c.toNat → c.toNat < 0x5C8 →
        devCsrGet t (hartOf t n) c = BitVec.ofNat 64 (v.toNat / 2 ^ 60 * 2 ^ 60 + v.toNat % 2 ^ 57)) ∧
      (0x5C8 ≤ c.toNat → c.toNat < 0x5D0 → devCsrGet t (hartOf t n) c = BitVec.ofNat 64 (v.toNat % 2 ^ 57))))) ∧
  (∀ s n (c : BitVec 12) (d : BitVec 5), isDevCsr c = true →
    let H := hartOf s n
    let w : BitVec 32 := c ++ 0#5 ++ 2#3 ++ d ++ 0x73#7
    ((H.mode = .vs ∨ H.mode = .vu) → rvStep n w 4 s = hartTrap s n 22 (w.setWidth 64)) ∧
    (H.mode = .u → c ≠ 0x800#12 → rvStep n w 4 s = hartTrap s n 2 (w.setWidth 64)) ∧
    ((H.mode = .s ∨ H.mode = .m ∨ H.mode = .u ∧ c = 0x800#12) →
      rvStep n w 4 s = setHart s n { hxSet H d (devCsrGet s H c) with pc := H.pc + 4 }) ∧
    devCsrGet s H 0xDC0#12 = BitVec.ofNat 64 (256 * (cadParcel s H.owner).group.toNat + H.owner % 64)) ∧
  (∀ (H : Hart) (k : HartAccessKind) a n, H.mode = .u → H.dvctl.getLsbD 0 = true →
    let covers := fun (r w x : Bool) => ∃ i : BitVec 3,
      let c := bget H.dvcap i
      c.getLsbD 63 = true ∧ c.toNat % 2 ^ 57 ≤ a.toNat % 2 ^ 57 ∧
        a.toNat % 2 ^ 57 + n ≤ c.toNat % 2 ^ 57 + (bget H.dvcaplen i).toNat % 2 ^ 57 ∧
        (r = true → c.getLsbD 62 = true) ∧ (w = true → c.getLsbD 61 = true) ∧ (x = true → c.getLsbD 60 = true)
    capElem H k a n = true ↔ match k with
      | .fetch => covers false false true
      | .load => covers true false false
      | .store => covers false true false
      | .amo => covers true true false
      | .cboZero => covers true true false
      | _ => covers true false false ∨ covers false true false) ∧
  (∀ s n acc, (hartOf s n).mode = .u →
    ((hartOf s n).waitSince.isSome = true → exec (.hartUModeAccess n acc) s = .next s) ∧
    ((hartOf s n).waitSince = none →
    (∀ a, capFail (hartOf s n) acc = some a → ∃ H, exec (.hartUModeAccess n acc) s = .next (setHart s n H) ∧
      H.x = (hartOf s n).x ∧ H.scause = 25 ∧ H.stval = a ∧ H.dvcause = 0x14 ∧ H.sepc = (hartOf s n).pc) ∧
    (∀ t bs, capFail (hartOf s n) acc = none → performAccess s n acc = .ok t bs → acc.elems.length ≠ 1 →
      exec (.hartUModeAccess n acc) s = .next (setHart t n
        { hartOf t n with pc := (hartOf t n).pc + 4, waitSince := none })) ∧
    (∀ t bs, capFail (hartOf s n) acc = none → performAccess s n acc = .ok t bs → acc.elems.length = 1 → bs ≠ [] →
      exec (.hartUModeAccess n acc) s = .next (setHart t n
        { hxSet (hartOf t n) acc.rd (BitVec.ofNat 64 (leNat bs)) with
          pc := (hartOf t n).pc + 4, waitSince := none }))))

/-- R263 to R265: a hart's counter instruction on a handle that passes its checks adds, reads, tests or waits at the
counter's home, and writes rd; a wait goes on when the threshold is reached. The hart's scope policy acts on ordered
operations of system scope: under TRAP they fault with SCOPE, a wait once it ends, under CLAMP they are counted (the
order of these checks log 29). R402: each sends its message; one that fails drops an add, with a kind 2 entry, and
refuses a read (log 58). A wait in progress ends with 0 at its timeout, or is begun again after an interrupt that is
pending and enabled (interrupts and the trap sequence logs 13 and 14). R266 to R268: `dv.fnew` makes a future and writes its
id and nonce, or all ones where none can be made; `dv.fpost` and `dv.ffail` complete one, or answer 1 for a refused
completion and 2 for a list that is too long; `dv.launch` submits a descriptor and writes the launch id, or all ones
where the table is full; what its reads meet is its trap. -/
def Obligations.HartInstructions : Prop :=
  ((∀ s sc a, Enabled s 1 →
     let h := s.hartMe
     let H := hartOf s h
     let hd := hxGet H a
     64 ≤ hd.toNat → hScope hd ≠ 0 →
     (∀ q l b d, checkRemote s hd H.owner .add = none →
       let x := hxGet H b
       let own : Owner := { parcel := H.owner, launch := 0, rcd := 0 }
       let t := fun s' : State => let r := meshAdd s' (.hart h) own 0xFFFF hd x; hartDone s r.2 d r.1
       (2 ^ 32 ≤ x.toNat → exec (.dvCadd q l sc b a d) s = .next (devTrap s h .illegal hd)) ∧
       (x.toNat < 2 ^ 32 →
         ((sc ≠ 3#2 ∨ (q = 0#1 ∧ l = 0#1) ∨ H.policy = .system) → exec (.dvCadd q l sc b a d) s = .next (t s)) ∧
         (sc = 3#2 → (q = 1#1 ∨ l = 1#1) → H.policy = .clamp →
           exec (.dvCadd q l sc b a d) s = .next (t (clamped s H.owner))) ∧
         (sc = 3#2 → (q = 1#1 ∨ l = 1#1) → H.policy = .trap →
           exec (.dvCadd q l sc b a d) s = .next (devTrap s h .scope hd)))) ∧
     (∀ q d, checkRemote s hd H.owner .read = none →
       let v := (ctrOf s hd).value
       let asked := fun s' => homeMsg s' (.hart h) H.owner hd
       let refused := logEv (meshSpent s) (.violation H.owner (ctrOf s hd).owner)
       let free := sc ≠ 3#2 ∨ q = 0#1 ∨ H.policy = .system
       ((s.mesh.fail ≠ some .request ∧ free) →
         exec (.dvCread q sc a d) s = .next (hartDone s (asked s) d v) ∧
         ∀ b, exec (.dvCtest q sc b a d) s =
           .next (hartDone s (asked s) d (if reached v (hxGet H b) = true then 1 else 0))) ∧
       ((s.mesh.fail ≠ some .request ∧ sc = 3#2 ∧ q = 1#1 ∧ H.policy = .clamp) →
         exec (.dvCread q sc a d) s = .next (hartDone s (asked (clamped s H.owner)) d v) ∧
         ∀ b, exec (.dvCtest q sc b a d) s =
           .next (hartDone s (asked (clamped s H.owner)) d (if reached v (hxGet H b) = true then 1 else 0))) ∧
       ((sc = 3#2 ∧ q = 1#1 ∧ H.policy = .trap) →
         exec (.dvCread q sc a d) s = .next (devTrap s h .scope hd) ∧
         ∀ b, exec (.dvCtest q sc b a d) s = .next (devTrap s h .scope hd)) ∧
       ((s.mesh.fail = some .request ∧ free) →
         exec (.dvCread q sc a d) s = .next (devTrap refused h .foreign hd) ∧
         ∀ b, exec (.dvCtest q sc b a d) s = .next (devTrap refused h .foreign hd)) ∧
       ∀ b,
         (s.mesh.fail = some .request → exec (.dvCwait q sc b a d) s = .next (devTrap refused h .foreign hd)) ∧
         (s.mesh.fail ≠ some .request →
           (reached v (hxGet H b) = true →
             (free → exec (.dvCwait q sc b a d) s = .next (hartDone s (asked s) d 1)) ∧
             (sc = 3#2 → q = 1#1 → H.policy = .clamp →
               exec (.dvCwait q sc b a d) s = .next (hartDone s (clamped (asked s) H.owner) d 1)) ∧
             (sc = 3#2 → q = 1#1 → H.policy = .trap →
               exec (.dvCwait q sc b a d) s = .next (devTrap (asked s) h .scope hd))) ∧
           (reached v (hxGet H b) = false → exec (.dvCwait q sc b a d) s = .next
             (setHart (asked s) h { H with waitSince := some ((H.waitSince.map (·.1)).getD s.cycle, d) }))))) ∧
   (∀ s n t₀ d, (hartOf s n).waitSince = some (t₀, d) →
     let H := hartOf s n
     let T := H.dvcwto.toNat % 2 ^ 32
     (T ≠ 0 → t₀ + 1100 * T ≤ s.cycle → exec (.dvCwaitTimeout n) s = .next (setHart s n
       { hxSet H d 0 with pc := H.pc + 4, waitSince := none })) ∧
     ((T = 0 ∨ s.cycle < t₀ + 1100 * T) → exec (.dvCwaitTimeout n) s = .next s) ∧
     ∀ i, (dueInt s H ≠ some i → exec (.hartInterrupt n i) s = .next s) ∧
       (dueInt s H = some i → exec (.hartInterrupt n i) s = .next (takeInt s n i) ∧
         (pendingInts s H).getLsbD i = true ∧ (hartCsr H 0x304).getLsbD i = true ∧
         (takeInt s n i).harts = mset s.harts n (hartOf (takeInt s n i) n) ∧
         let t := hartOf (takeInt s n i) n
         t.waitSince = none ∧ t.x = H.x ∧
         (intTo H i = .s → t.sepc = H.pc ∧ t.mode = .s ∧ t.sie = false ∧ t.scause = BitVec.ofNat 64 (2 ^ 63 + i)) ∧
         (intTo H i = .m → hartCsr t 0x341 = H.pc ∧ t.mode = .m) ∧
         (intTo H i = .vs → hartCsr t 0x241 = H.pc ∧ t.mode = .vs)))) ∧
  ((∀ s a d, Enabled s 2 →
     let h := s.hartMe
     let H := hartOf s h
     let va := hxGet H a
     va.toNat % 8 = 0 → ∀ c bs, hartRead s h va 32 .read = .ok c bs →
       let r := fnewReq bs
       r.zero = 0 → r.reply.toNat % 4 = 0 → r.len % 4 = 0 → 4 ≤ r.len →
       (r.tag ≠ noSeq → c.commit.revoked.contains r.tag = true →
         exec (.dvFnew a d) s = .next (devTrap c h .revoked va)) ∧
       ((r.tag = noSeq ∨ c.commit.revoked.contains r.tag = false) →
         let b := needTable c (hartOf c h).owner
         (fnewReply b (hartOf c h).owner r = none →
           exec (.dvFnew a d) s = .next (hartDone s c d (BitVec.allOnes 64))) ∧
         ∀ b₁ reply len, fnewReply b (hartOf c h).owner r = some (b₁, reply, len) →
           let req : FutReq :=
             { parcel := (hartOf c h).owner, tag := r.tag, tool := r.tool, origin := 0, replyAddr := reply,
               replyLen := len, tmo := r.tmo, argAddr := 0, argLen := 0, conn := 0, st := .running }
           (createFuture b₁ req = none → exec (.dvFnew a d) s = .next (hartDone s c d (BitVec.allOnes 64))) ∧
           ∀ b₂ id f, createFuture b₁ req = some (b₂, id, f) →
             (hartStoreStop b h (va + 0x18) 8 = none → exec (.dvFnew a d) s =
               .next (hartDone s (hartPuts b₂ h (va + 0x18) (leBytes 8 f.handle.toNat)) d
                 (BitVec.ofNat 64 (f.nonce.toNat * 2 ^ 32 + id % 2 ^ 32)))) ∧
             (∀ t x y g, hartStoreStop b h (va + 0x18) 8 = some (.fault t x y g) →
               exec (.dvFnew a d) s = .next (devFault t h x y)))) ∧
   (∀ s x a d, Enabled s 2 →
     let h := s.hartMe
     let H := hartOf s h
     let w := hxGet H a
     let id := w.toNat % 2 ^ 16
     let nonce := BitVec.ofNat 32 (w.toNat / 2 ^ 32)
     let f := futOf s id
     let va := hxGet H x
     (refusesCompletion f H.owner nonce = true →
       exec (.dvFpost x a d) s = .next (hartDone s (refuseCompletion s H.owner id 0 nonce) d 1)) ∧
     (refusesCompletion f H.owner nonce = false → va.toNat % 4 = 0 →
       ∀ b cnt, hartRead s h va 4 .read = .ok b cnt →
         ((16384 < leNat cnt ∨ (f.tag = noSeq ∧ f.replyLen < 4 + 4 * leNat cnt)) →
           exec (.dvFpost x a d) s = .next (hartDone s b d 2)) ∧
         (leNat cnt ≤ 16384 → (f.tag ≠ noSeq ∨ 4 + 4 * leNat cnt ≤ f.replyLen) →
           (leNat cnt = 0 → exec (.dvFpost x a d) s = .next (hartDone s
             (completeFuture (deliver b id f []) id f .replied) d 0)) ∧
           (leNat cnt ≠ 0 → ∀ b' bs, hartRead b h (va + 4) (4 * leNat cnt) .read = .ok b' bs →
             exec (.dvFpost x a d) s = .next (hartDone s
               (completeFuture (deliver b' id f (toksOf bs (leNat cnt))) id f .replied) d 0)))) ∧
     (va.toNat < 2 ^ 16 → refusesCompletion f H.owner nonce = false →
       exec (.dvFfail x a d) s = .next (hartDone s
         (completeFuture (deliverFrom s id f 0x38) id { f with reason := BitVec.ofNat 16 va.toNat } .error) d 0)) ∧
     (va.toNat < 2 ^ 16 → refusesCompletion f H.owner nonce = true →
       exec (.dvFfail x a d) s = .next (hartDone s (refuseCompletion s H.owner id 0 nonce) d 1)) ∧
     (2 ^ 16 ≤ va.toNat → exec (.dvFfail x a d) s = .next (devTrap s h .illegal w))) ∧
   (∀ s a d, Enabled s 3 →
     let h := s.hartMe
     let H := hartOf s h
     let va := hxGet H a
     let sub := hartSubmitter H h
     va.toNat % 64 = 0 →
     (∀ t id, submitLaunch s sub va = .ok t id →
       exec (.dvLaunch a d) s = .next (hartDone s t d (BitVec.ofNat 64 id.toNat))) ∧
     (∀ t, submitLaunch s sub va = .full t → exec (.dvLaunch a d) s = .next (hartDone s t d (BitVec.allOnes 64))) ∧
     (∀ t f, submitLaunch s sub va = .refused t f → exec (.dvLaunch a d) s = .next (devTrap t h f va)) ∧
     (∀ t f x, submitLaunch s sub va = .unread t f x → exec (.dvLaunch a d) s = .next (devTrap t h f x)) ∧
     (∀ x, submitLaunch s sub va = .cap x → exec (.dvLaunch a d) s = .next (capTrap s h x)) ∧
     (submitLaunch s sub va = .transit → exec (.dvLaunch a d) s = .next s)))

/-! ## Homes, launches, dispatch and futures (R37, R135, R300, R303, R304, R307, R311 to R327, R356 to R369, R391) -/

namespace Sys2Proof.Claims
open Sys2Proof Sys2Proof.Machine

/-- The ticket that a site of a core waits for, and the parcel it waits for (R307, R391). -/
def heldAt (k : Core) : HoldSite → Option (Ticket × Nat)
  | .resident sl => (mget k.res sl).bind fun r =>
      match r.status with
      | .held t => some (t, r.own.parcel)
      | _ => none
  | .stream xs => (strOf k xs).hold.map fun t => (t, runParcel k)
  | .copy => k.eng.copyq.head?.bind fun c => c.hold.map fun t => (t, c.own.parcel)

/-- What a launch's start needs read first: its shape record, where a level takes its extent from there (R313). -/
def shapeRead (s : State) (L : Launch) : State :=
  if L.desc.loops.any lvShp then needRead s L.parcel L.desc.shapeaddr 64 else s

/-- A strand's record at its launch's start (R315): entries, state word, wait words, and what the strand carries in; then
it joins its dispatch list. -/
def placed (s : State) (L : Launch) (home i : Nat) (coord : Word) : State :=
  let d := L.desc
  let a := d.recaddr + BitVec.ofNat 64 (64 * i)
  let w : Word := BitVec.ofNat 64 (L.id.toNat * 2 ^ 36 + home % 4096 * 2 ^ 16 + d.flags.toNat / 8 % 2 * 2 ^ 13 +
    d.flags.toNat / 4 % 2 * 2 ^ 12)
  joinList (putAll s L.parcel [(a, d.aentry ||| 1), (a + 0x08, d.xentry), (a + 0x10, w), (a + 0x18, 0), (a + 0x20, 0),
    (a + 0x28, d.args), (a + 0x30, coord), (a + 0x38, coord)]) L.parcel a false

/-- The record of a strand that is dispatched, with STATE RUNNING (R317). -/
def runs (s : State) (r : Resident) : State :=
  let b := needRead s r.own.parcel r.own.rcd 64
  let w := BitVec.ofNat 64 (devNat b r.own.parcel (r.own.rcd + 0x10) 8)
  devPut64 b r.own.parcel (r.own.rcd + 0x10) (w.extractLsb' 12 52 ++ 1#4 ++ w.extractLsb' 0 8)

/-- A core that runs a strand has its PCs and carried registers from the strand's record (R37). -/
def Carries (u : State) (k : Core) (r : Resident) : Prop :=
  let rd := fun o : Word => (BitVec.ofNat 64 (devNat u r.own.parcel (r.own.rcd + o) 8) : Word)
  k.a.str.pc = rd 0 &&& ~~~(3 : Word) ∧ k.x.str.pc = rd 8 &&& ~~~(3 : Word) ∧ aGet k 1 = rd 0x28 ∧
    aGet k 2 = rd 0x30 ∧ sGet k 4 = rd 0x38

/-- A window that a strand gets (R319): the lowest free one of its launch's size, zero above its local image. -/
def FreshWindow (s d : State) (c : Nat) (L : Launch) (r : Resident) : Prop :=
  r.size = L.desc.winsize ∧ r.base % 4096 = 0 ∧ r.base + r.size ≤ Config.scratchSize ∧
  (∀ x ∈ (coreOf s c).res, x.2.base + x.2.size ≤ r.base ∨ r.base + r.size ≤ x.2.base) ∧
  (∀ o, o < r.base → o % 4096 = 0 → ∃ x ∈ (coreOf s c).res, o < x.2.base + x.2.size ∧ x.2.base < o + r.size) ∧
  ∀ o, r.base + 16 * (L.desc.locallen / 16) ≤ o → o < r.base + r.size → memGet (coreOf d c).scratch o = 0

/-- A strand's core right after its initialisation (R37): its window, registers of every file, control registers and
queues. -/
def Initialised (k : Core) (r : Resident) (slot : Nat) : Prop :=
  (∃ run, k.run = some run ∧ run.slot = slot ∧ run.own = r.own ∧ run.lbase = r.base ∧ run.lsize = r.size ∧
    run.irv = false ∧ run.logsz = 0#4) ∧
  aGet k 4 = BitVec.ofNat 64 (r.size / 2) ∧ sGet k 2 = BitVec.ofNat 64 r.size ∧
  (∀ i : BitVec 5, i ≠ 1 → i ≠ 2 → i ≠ 4 → aGet k i = 0) ∧ (∀ i : BitVec 5, i ≠ 2 → i ≠ 4 → sGet k i = 0) ∧
  (∀ i : BitVec 3, i ≠ 0 → cGet k i = false ∧ pGet k i = false ∧ bget k.x.stages i = false ∧ mGet k i = 0) ∧
  (∀ i : BitVec 5, vGet k i = 0) ∧ (∀ i : BitVec 4, tGet k i = 0) ∧
  (∀ (a : BitVec 2) (i j : Nat), accElem k a i j = AccElem.empty) ∧
  (∀ i : BitVec 3, bget k.a.dists i = 0) ∧ k.vec.prngkey = 0 ∧ k.vec.prngctr = 0 ∧ k.vec.vq = [] ∧
  k.x.slim = BitVec.ofNat 64 (r.size / 2) ∧ k.a.waitspin = 2048 ∧ k.a.acnt = 4096 ∧ k.vec.vcnt = 4096 ∧
  k.vec.shape = 0x0100F01F ∧ k.vec.rot = 0 ∧ k.vec.fflags = 0 ∧ k.vec.nve = false ∧
  k.a.str.loops = [] ∧ k.x.str.loops = [] ∧ k.sh.lq = [] ∧ k.sh.sq = [] ∧ k.sh.vlq = [] ∧ k.sh.vsq = [] ∧
  k.sh.bqa = [] ∧ k.sh.bqx = [] ∧ k.sh.tokA = 0 ∧ k.sh.tokX = 0

end Sys2Proof.Claims

open Sys2Proof Sys2Proof.Machine Sys2Proof.Claims

/-- R312, R313, R318, R327: a launch whose start counter is reached starts, highest priority and earliest submission
first, with as many live strands as its placement has; R315: each has a record of its own, listed READY. One whose start
counter was freed ends with STALE, and one that its placement refuses with ILLEGAL, with a kind 5 entry and 1 added to the
fault counter; one whose strands and engine commands have ended frees its entry, whose use count rises. R326, R327: a
replay that waits starts when the earlier one of its graph has ended: its header counts it, its version is in flight, and
its nodes wait with their effective thresholds; it ends when its node launches have (what a version that cannot be read
does is log 25's). R37, R317, R319 to R321: a free core runs the strand it chooses: one resident in a slot, or one from a
list made resident in the lowest free slot and window, zeroed but for its local image, and a resident one that gave its window
up gets a new one (log 59); its registers of every file, control registers and queues are initialised (a strand of no
array log 22, an image that cannot be read log 24). -/
def Obligations.LaunchAndDispatch : Prop :=
  ((∀ s e L, mget s.sched.launches e = some L →
     (startCond s L = .wait → exec (.launchStart e) s = .next s) ∧
     (startCond s L = .stale → exec (.launchStart e) s = .next (failLaunch s e L .stale L.desc.starth)) ∧
     (∀ P, let b := shapeRead s L
       startCond s L = .go → b.host.quiesced = false → startable b L = true → placement b L = some P →
       startsLater b L.prio L.order = false →
       (startIllegal b L P.sp P.lists = true → exec (.launchStart e) s = .next (failLaunch b e L .illegal 0)) ∧
       (startIllegal b L P.sp P.lists = false →
       let L' := { L with st := .live, live := P.homes.length, count := P.homes.length, levels := P.levels,
                          homes := P.homes }
       let b' := bindQueues { b with sched := { b.sched with launches := mset b.sched.launches e L' } } L'
         (bindKeys L' P.homes)
       ∃ t, exec (.launchStart e) s = .next t ∧
         t = P.homes.zipIdx.foldl (fun s hi => placed s L' hi.1 hi.2 (coordWord (coords P.sp hi.2))) b' ∧
         P.homes.length = prod (P.sp.map (·.2)) ∧
         (∀ i, i < P.homes.length → P.homes[i]? = some (homeOfStrand P.lists P.sp i)) ∧
         ∃ M, mget t.sched.launches e = some M ∧ M.st = .live ∧ M.live = P.homes.length ∧
           M.count = P.homes.length ∧ M.levels = P.levels)) ∧
     (∀ f h, failLaunch s e L f h = endLaunch (launchFault
       (faultEntry s L.parcel (fent 5 f.code 0xFFFF L.id 0 L.desc.addr h)) L.id) e L) ∧
     (launchDone s L = false → exec (.launchEnd e) s = .next s) ∧
     (launchDone s L = true → ∃ t, exec (.launchEnd e) s = .next t ∧ t = endLaunch s e L ∧
       mgetD t.sched.uses e 0 = mgetD s.sched.uses e 0 + 1)) ∧
   (∀ s g R, mget s.sched.replays g = some R →
     (R.started = true → (∀ id ∈ R.ids, launchOf s id = none) →
       let b := needRead s R.parcel R.ver 8
       let b := devPut64 b R.parcel R.ver (BitVec.ofNat 64 (devNat b R.parcel R.ver 8) - 1)
       let b' := (devAdd b R.parcel R.replayh 1).1
       exec (.graphReplayEnd g) s =
         .next { b' with sched := { b'.sched with replays := merase b'.sched.replays g } }) ∧
     (R.started = false → s.host.quiesced = false → earlierReplay s R.parcel R.hdr g = false →
       startsLater s R.prio R.order = false →
       (∀ b V, readVersion s (deviceSubmitter R.parcel R.fn R.policy) R.hdr R.nodes = .ok (b, V) →
         exec (.graphReplayStart g) s =
           .next (startReplay b g R (R.ids.map fun id => id.toNat % 4096) V)) ∧
       (readVersion s (deviceSubmitter R.parcel R.fn R.policy) R.hdr R.nodes = .error .illegal →
         exec (.graphReplayStart g) s = .next (failReplay s g R .illegal)))) ∧
   (∀ s g (R : Replay) (es : List Nat) (V : Version), es.Nodup →
     let p := R.parcel
     let b := needRead (needRead s p (R.hdr + 0x18) 8) p V.ver 8
     let r := devNat b p (R.hdr + 0x18) 8
     let u := devPut64 b p (R.hdr + 0x18) (BitVec.ofNat 64 (r + 1))
     let t := startReplay s g R es V
     t.phys = (devPut64 u p V.ver (BitVec.ofNat 64 (devNat u p V.ver 8 + 1))).phys ∧
     mget t.sched.replays g = some { R with ver := V.ver, started := true } ∧
     ∀ (j e : Nat) (d : LaunchDesc), es[j]? = some e → V.nodes[j]? = some d → ∃ L, mget t.sched.launches e = some L ∧ L.id = entryId s e ∧
       L.parcel = p ∧ L.st = .waiting ∧ L.graph = some g ∧
       L.desc = { d with startt := d.startt * BitVec.ofNat 64 (r + 1) })) ∧
  (∀ s c, (mayDispatch s c = false → exec (.dispatch c) s = .next s) ∧
    (mayDispatch s c = true →
     let b := askPages s (wantedPages s c)
     (choose b c = none → exec (.dispatch c) s = .next (restartCounts b)) ∧
     (∀ sl r eas nrm L, choose b c = some (.res sl r, eas, nrm) → launchOf b r.own.launch = some L →
       ∀ d r', regainWindow b c sl L r = some (d, r') →
       ∃ t, exec (.dispatch c) s = .next t ∧ Initialised (coreOf t c) r' sl ∧ Carries (runs d r') (coreOf t c) r' ∧
         t.phys = (runs d r').phys ∧ (coreOf t c).easement = eas ∧ r'.own = r.own ∧
         (r.windowless = false → d = b ∧ r' = r) ∧ (r.windowless = true → FreshWindow b t c L r') ∧
         mget (coreOf t c).res sl = some { r' with status := .running, once := false, rolled := false }) ∧
     (∀ e eas nrm L d sl r, choose b c = some (.list e, eas, nrm) → launchOf b e.own.launch = some L →
       makeResident b c L e = some (d, sl, r) →
       ∃ t, exec (.dispatch c) s = .next t ∧ Initialised (coreOf t c) r sl ∧ Carries (runs d r) (coreOf t c) r ∧
         t.phys = (runs d r).phys ∧ (coreOf t c).easement = eas ∧ r.own = e.own ∧ e ∉ d.sched.lists ∧
         mget (coreOf b c).res sl = none ∧ sl < 8 ∧ (∀ j, j < sl → mget (coreOf b c).res j ≠ none) ∧
         FreshWindow b t c L r))) ∧
  (∀ s c p base va, (coreOf s c).scratch.wf = true → ∀ b bs, readG s .device p va 16 .read = .ok b bs →
    ∃ t, loadImage s c p base va 1 = some t ∧ memGetList (coreOf t c).scratch base 16 = bs) ∧
  (∀ k l, (∀ x ∈ l, Cand.urgent x = false) → pickCand k l = l.head?) ∧
  (∀ k l u us, l.filter Cand.urgent = u :: us →
    (∀ n ns, l.filter (fun x => !x.urgent) = n :: ns → pickCand k l = some (if 16 ≤ k.urgentRun then n else u)) ∧
    (l.filter (fun x => !x.urgent) = [] → pickCand k l = some u))

/-- R300, R303, R304, R307, R324, R357, R358, R391: waiters that an add has reached are readied in registration order; a
home scans the overflow lists it appended to, and acts on each entry of its own whose counter is gone or reached; what
waits for a ticket goes on when the counter reaches it; an access that waited for a page is walked again; shootdown
entries are applied in order with their completion add, after which no TLB and no fetch cache holds the page; a disabled
format window's BUSY clears when its blocks are written back. R23, R24, R25, R114, R117, R166: a queue load's data fill
its entry and its token follows, or waits for room; a port entry moves to the neighbour's inbox; and a strand both of
whose streams have been stalled for 2^20 cycles with nothing moved faults with DEADLOCK. That an event whose condition
does not hold changes nothing is log 9's, which shootdown entry is the next log 39's. -/
def Obligations.HomeAndCoreEvents : Prop :=
  ((∀ s home sq w, ((homeOf s home).pool.find? fun w => w.seq == sq) = some w →
     ((w.hit = false ∨ ∃ v ∈ (homeOf s home).pool, v.hit = true ∧ v.handle = w.handle ∧ v.seq < sq) →
       exec (.waiterReadied home sq) s = .next s) ∧
     (w.hit = true → (∀ v ∈ (homeOf s home).pool, v.hit = true → v.handle = w.handle → sq ≤ v.seq) →
       let b := modHome s home fun H => { H with pool := H.pool.filter fun v => v.seq != sq }
       exec (.waiterReadied home sq) s = .next (readyStrand b w.parcel w.rcd (ctrOf b w.handle).fut))) ∧
   (∀ s p home r, (parcelOf s p).overflow = some r → (homeOf s home).spilled.contains p = true →
     exec (.overflowScan p home) s =
       .next ((List.range r.cfg.entries).foldl (scanEntry p home r.cfg.base) s)) ∧
   (∀ s p home base i,
     let a : Word := base + BitVec.ofNat 64 (32 * i)
     let b := needRead s p a 32
     let h : Word := BitVec.ofNat 64 (devNat b p a 8)
     let v : Word := BitVec.ofNat 64 (devNat b p (a + 8) 8)
     let rcd : Word := BitVec.ofNat 64 (devNat b p (a + 0x10) 8)
     let valid := devNat b p (a + 0x18) 8 % 2 = 1 ∧ hKey h = home
     let live := (ctrOf b h).alloc = true ∧ (ctrOf b h).gen = hGen h
     (¬valid → scanEntry p home base s i = b) ∧
     (valid → ¬live → scanEntry p home base s i = staleWaiter (devPut64 b p (a + 0x18) 0) p rcd h) ∧
     (valid → live → reached (ctrOf b h).value v = true →
       scanEntry p home base s i = readyStrand (devPut64 b p (a + 0x18) 0) p rcd (ctrOf b h).fut) ∧
     (valid → live → reached (ctrOf b h).value v = false → scanEntry p home base s i = b)) ∧
   (∀ s c site t p, heldAt (coreOf s c) site = some (t, p) → ticketReached s t = true →
     (∀ r, (parcelOf s p).pager = some r → r.cfg.handle = t.handle →
       ∃ u, exec (.pagerTicketReached c site) s = .next u ∧ OnlyCores s u [c] ∧ heldAt (coreOf u c) site = none) ∧
     (∀ f, (parcelOf s p).fault = some f → f.cfg.repairHandle = t.handle →
       ∃ u, exec (.repairTicketReached c site) s = .next u ∧ OnlyCores s u [c] ∧ heldAt (coreOf u c) site = none)) ∧
   (∀ s c site t p, heldAt (coreOf s c) site = some (t, p) → ticketReached s t = false →
     exec (.pagerTicketReached c site) s = .next s ∧ exec (.repairTicketReached c site) s = .next s) ∧
   (∀ s c xs, (strOf (coreOf s c) xs).stall = some .other → (strOf (coreOf s c) xs).hold = none →
     exec (.transitRewalk c xs) s = .next (modCore s c fun k => modStr k xs fun st => { st with stall := none })) ∧
   (∀ s p r, (parcelOf s p).shootdown = some r → r.cfg.entries ≠ 0 → shootdownWaits s r = true →
     let a := r.cfg.base + BitVec.ofNat 64 (16 * (r.head % r.cfg.entries))
     let b := needRead s p a 16
     let w := devNat b p a 8
     let vpn := w / 2 ^ 12 % 2 ^ 36
     let maps := fun f => pageMaps b.phys vpn (w % 4) f 4 (parcelOf b p).root
     let u := modParcel { b with xl := shootdown b.xl p vpn (w % 4) maps } p fun P =>
       { P with shootdown := some { r with head := r.head + 1 } }
     exec (.shootdownEntry p) s = .next (devAdd u p (BitVec.ofNat 64 (devNat b p (a + 8) 8)) 1).1) ∧
   (∀ x p v lvl fr c, lvl < 4 →
     let y := shootdown x p (v / 4096) lvl fr
     tlbFind (mgetD y.l1 c []) p v = none ∧ tlbFind (mgetD y.sect c []) p v = none ∧
     tlbFind (mgetD y.harts c []) p v = none ∧
     ∀ e ∈ mgetD y.code c [], e.parcel = p → e.vpn ≠ v / 4096 ∧ fr (e.line / 64) = false) ∧
   (∀ s g n w, mget s.phys.windows (windowKey g n) = some w → w.en = false → w.ctl.getLsbD 62 = true →
     ∃ t w', exec (.formatWindowDisableDone g n) s = .next t ∧ mget t.phys.windows (windowKey g n) = some w' ∧
       w'.en = false ∧ ∀ i, i < 64 → w'.ctl.getLsbD i = (w.ctl.getLsbD i && decide (i ≠ 62)))) ∧
  ((∀ s c idx e, (coreOf s c).sh.lq[idx]? = some e → e.filled = false →
     let n := (coreOf s c).sh.tokX
     ∃ t, exec (.lqEntryFill c idx) s = .next t ∧ OnlyCores s t [c] ∧
       (coreOf t c).sh.lq = (coreOf s c).sh.lq.set idx { e with filled := true } ∧
       (coreOf t c).sh.tokX = (if e.tok = true ∧ n ≠ 15#4 then n + 1 else n) ∧
       (coreOf t c).sh.pendX = (coreOf s c).sh.pendX ++ (if e.tok = true ∧ n = 15#4 then [e.org] else [])) ∧
   (∀ s c idx e, (coreOf s c).sh.vlq[idx]? = some e → e.filled = false →
     let n := (coreOf s c).sh.tokX
     ∃ t, exec (.vlqEntryFill c idx) s = .next t ∧ OnlyCores s t [c] ∧
       (coreOf t c).sh.vlq = (coreOf s c).sh.vlq.set idx { e with filled := true } ∧
       (coreOf t c).sh.tokX = (if e.tok = true ∧ n ≠ 15#4 then n + 1 else n) ∧
       (coreOf t c).sh.pendX = (coreOf s c).sh.pendX ++ (if e.tok = true ∧ n = 15#4 then [e.org] else [])) ∧
   (∀ s c d n v q, bget (coreOf s c).outbox d = v :: q → neighbour c d.toNat = some n → n ≠ c →
     portClosed s c d.toNat = false → (bget (coreOf s n).inbox (d + 2)).length < 4 →
     ∃ t, exec (.portEntryMove c d) s = .next t ∧ OnlyCores s t [c, n] ∧
       bget (coreOf t c).outbox d = q ∧
       bget (coreOf t n).inbox (d + 2) = bget (coreOf s n).inbox (d + 2) ++ [v]) ∧
   (∀ s c r, (coreOf s c).run = some r → r.logsz = 0#4 →
     (counted25 (coreOf s c).a.str.stall → counted25 (coreOf s c).x.str.stall →
       (coreOf s c).a.str.since + 2 ^ 20 ≤ s.cycle → (coreOf s c).x.str.since + 2 ^ 20 ≤ s.cycle →
       (coreOf s c).sh.lastMove + 2 ^ 20 ≤ s.cycle →
       exec (.deadlockTimeout c) s = .next (faultOne s c false .deadlock 0 (readQstat s c))) ∧
     (s.cycle < (coreOf s c).sh.lastMove + 2 ^ 20 → exec (.deadlockTimeout c) s = .next s)))

/-! ## The sampler root, the cadastre's edges and the generation loop (R238 to R253, R331 to R347, R370 to R385) -/

namespace Sys2Proof.Claims
open Sys2Proof Sys2Proof.Machine

/-- Whether a run waits for earlier runs of its draft set (R253, R376): a check pass for every one before it; an ordinary
run for every check pass, unless one was refused or an ordinary run has closed the set. -/
def SetAwaits (s : State) (t : TreeRun) : Prop :=
  let x := draftRoot s t
  let k := t.key.pass
  let n := t.bind.drafts.length
  n ≠ 0 ∧ ((k ≠ 0 ∧ ∃ j, 1 ≤ j ∧ j < k ∧ j ∉ x.decided) ∨
    (k = 0 ∧ x.closed = false ∧ x.refused = none ∧ ∃ j, 1 ≤ j ∧ j ≤ n ∧ j ∉ x.decided))

/-- Whether an earlier pass of a run's draft set was refused (R253, R376). -/
def SetDrained (s : State) (t : TreeRun) : Prop :=
  let x := draftRoot s t
  t.bind.drafts.length ≠ 0 ∧
    ∃ j, x.refused = some j ∧ ((t.key.pass ≠ 0 ∧ j < t.key.pass) ∨ (t.key.pass = 0 ∧ x.closed = false))

end Sys2Proof.Claims

open Sys2Proof Sys2Proof.Machine Sys2Proof.Claims

/-- R238, R240 to R253, R376: when every slice has contributed its maximum, the greatest returns to `g15` of every run
of the key, which enter phase 2; with a fault among them the sequence takes its fallback. When every slice has sent its
end action the root decides in the order of the draft set: a check pass waits for every one before it and an ordinary run
for every check pass, and what follows a refusal is DRAINED; a fault at `lsync` ends a run in the same order. The decision: a forced or greedy token, a draw, candidates, a
draft accepted or resampled, or the fallback of a sequence that faulted or disagrees. A run with a slice twice ends
HALTED, one that an edge cancelled OVERRUN; 2^20 cycles after a phase's first contribution an incomplete run ends HALTED.
R249: an end writes the result entry and the candidates and makes the completion add; a revoked tag ends REVOKED. What
of Z and LP an undrawn token reports, and which ends close a set, are log 49's. -/
def Obligations.SamplerRootEvents : Prop :=
  (∀ s key t, treeOf s key = some t →
    (t.dup = false → t.cancelled = false → t.released = false → allIn t (t.sync.map fun e => e.slice) = true →
      ((∀ e ∈ t.sync, e.fault = false) →
      ∃ u, exec (.lsyncGlobalMax key) s = .next u ∧
        let m := (treeMinMax .f32 true (t.sync.map fun e => e.max.toNat)).1
        treeOf u key = some { t with released := true } ∧
        ∀ c k, mget s.cores c = some k → ∀ r ∈ k.eng.runs, r.key = key → r.st = .atSync →
          { r with st := .running, phase := 2, g := bset r.g 15 (BitVec.ofNat 32 m) } ∈ (coreOf u c).eng.runs) ∧
      ((∃ e ∈ t.sync, e.fault = true) →
        let w0 := (List.range t.bind.desc.slices).flatMap fun sl =>
          ((t.sync.find? fun e => e.slice == sl).map fun e => e.w0.map fun x => x.toNat).getD []
        (SetAwaits s t → exec (.lsyncGlobalMax key) s = .next s) ∧
        (¬SetAwaits s t → SetDrained s t →
          exec (.lsyncGlobalMax key) s = .next (rootFinish s t (noToken 0 6) false)) ∧
        (¬SetAwaits s t → ¬SetDrained s t →
          exec (.lsyncGlobalMax key) s = .next (rootFinish s t (fallback t.bind.desc w0) false)))) ∧
    (allIn t (t.sync.map fun e => e.slice) = false → exec (.lsyncGlobalMax key) s = .next s) ∧
    (t.cancelled = true → exec (.rootEndAction key) s = .next (rootFinish s t (noToken 0x10 7) false)) ∧
    (t.cancelled = false → t.dup = true → exec (.rootEndAction key) s = .next (rootFinish s t (noToken 0x15 7) false)) ∧
    (t.cancelled = false → t.dup = false →
      (allIn t (t.ends.map fun e => e.slice) = false → exec (.rootEndAction key) s = .next s) ∧
      (allIn t (t.ends.map fun e => e.slice) = true →
        (SetAwaits s t → exec (.rootEndAction key) s = .next s) ∧
        (¬SetAwaits s t → SetDrained s t →
          exec (.rootEndAction key) s = .next (rootFinish s t (noToken 0 6) false)) ∧
        (¬SetAwaits s t → ¬SetDrained s t →
          exec (.rootEndAction key) s = .next (rootFinish s t (decideRun t).1 (decideRun t).2)))) ∧
    (∀ c, t.syncAt = some c → t.released = false → allIn t (t.sync.map fun e => e.slice) = false →
      c + 2 ^ 20 ≤ s.cycle → exec (.samplerTreeTimeout key) s = .next (rootFinish s t (noToken 0x15 7) false)) ∧
    (∀ c, t.endAt = some c → allIn t (t.ends.map fun e => e.slice) = false →
      c + 2 ^ 20 ≤ s.cycle → exec (.samplerTreeTimeout key) s = .next (rootFinish s t (noToken 0x15 7) false)) ∧
    ((∀ c, t.syncAt = some c → s.cycle < c + 2 ^ 20) → (∀ c, t.endAt = some c → s.cycle < c + 2 ^ 20) →
      exec (.samplerTreeTimeout key) s = .next s)) ∧
  (∀ t e es, t.ends = e :: es →
    let d := t.bind.desc
    let fb := fallback d (endW0 t)
    ((∃ x ∈ t.ends, x.fault = true ∨ x.act ≠ e.act) → decideRun t = (fb, false)) ∧
    ((∀ x ∈ t.ends, x.fault = false ∧ x.act = e.act) →
      (∀ tok, e.act = .force tok →
        decideRun t = (if tok.toNat < d.vocab then plainToken tok.toNat 0 2 else fb, false)) ∧
      (e.act = .greedy →
        let xs := allElems (fun sl => (endOf t sl).map fun x => x.xs) d.slices
        decideRun t = (match rootArgmax xs with
          | some tok => plainToken tok 0 1
          | none => fb, false)) ∧
      ((e.act = .sample ∨ ∃ k, e.act = .topk k) → formed t = none → decideRun t = (fb, false)) ∧
      ∀ f, formed t = some f →
        (∀ k, e.act = .topk k → decideRun t = (topk f k, false)) ∧
        (e.act = .sample →
          (t.key.pass = 0 →
            let p := traverse f.ws (drawU (drawBits d t.key.pos 0) f.z)
            (decideRun t).1.tok = p.1 * d.slen + p.2 ∧ (decideRun t).1.status = 0 ∧ (decideRun t).1.outcome = 0 ∧
              (decideRun t).1.z = f.z ∧ (decideRun t).1.lp = f.lp p.1 p.2 ∧ (decideRun t).2 = false) ∧
          (t.key.pass ≠ 0 → ∀ tok q, draftOf t = some (tok, q) →
            let i := tok.toNat % d.slen
            let p := vDiv ((f.ws.getD (tok.toNat / d.slen) []).getD i 0) f.z
            let rs := residual t f
            (badQ q.toNat = true → decideRun t = (fb, false)) ∧
            (badQ q.toNat = false → accepts (drawBits d t.key.pos 1) q.toNat p = true →
              (decideRun t).1.tok = tok.toNat ∧ (decideRun t).1.outcome = 4 ∧ (decideRun t).1.status = 0 ∧
                (decideRun t).2 = false) ∧
            (badQ q.toNat = false → accepts (drawBits d t.key.pos 1) q.toNat p = false →
              let ms := if fLt 0 (rootMass rs) = true then rs else f.ws
              let w := traverse ms (drawU (drawBits d t.key.pos 2)
                (if fLt 0 (rootMass rs) = true then rootMass rs else f.z))
              (decideRun t).1.tok = w.1 * d.slen + w.2 ∧ (decideRun t).1.outcome = 5 ∧ (decideRun t).2 = true))))) ∧
  (∀ (d : SmpDesc) xs,
    (d.fallback = 0 → fallback d xs = match rootArgmax xs with
      | some tok => plainToken tok 0x15 1
      | none => noToken 0x15 7) ∧
    (d.fallback = 1 → fallback d xs =
      if d.forcetok.toNat < d.vocab then plainToken d.forcetok.toNat 0x15 2 else noToken 0x15 7) ∧
    (2 ≤ d.fallback → fallback d xs = noToken 0x15 7)) ∧
  (∀ s t r ref,
    let d := t.bind.desc
    let r' := if t.bind.desc.tag ∈ s.commit.revoked then noToken 0x16 7 else r
    let bs := leBytes 4 r'.tok ++ leBytes 1 r'.status ++ leBytes 1 r'.outcome ++ leBytes 2 r'.cands.length ++
      leBytes 4 t.key.pos.toNat ++ leBytes 4 r'.z ++ leBytes 4 r'.lp ++ leBytes 12 0
    let b := devWrite (noteDecided s t ref) t.key.parcel (d.resaddr + BitVec.ofNat 64 (32 * t.key.pass)) bs
    let b := r'.cands.zipIdx.foldl (fun s x =>
      devWrite s t.key.parcel (d.candaddr + BitVec.ofNat 64 (8 * x.2)) (leBytes 4 x.1.1 ++ leBytes 4 x.1.2)) b
    rootFinish s t r ref = completionAdd
        (endEverywhere { b with tree := { b.tree with runs := b.tree.runs.filter fun x => x.key != t.key } } t.key)
        t.bind.own 0xFFFF d.resctr ∧
      treeOf (rootFinish s t r ref) t.key = none)

namespace Sys2Proof.Claims
open Sys2Proof Sys2Proof.Machine

/-- Whether the strand running on a core has IRV set. -/
def irvOf (s : State) (c : Nat) : Bool := ((coreOf s c).run.map fun r => r.irv).getD false

/-- A strand rolled back by an edge (R343, R345): its kept sub-tiles return, its core is cleared of it, and its state
word is to be written READY with one overrun more. -/
def overran (s : State) (c : Nat) (r : Running) : State :=
  modCore (sweepLeaving (modCore (returnTiles s r.own.rcd r.own.launch) c fun k =>
    setStatus (stopStrand k) r.slot (.leaving false)) c) c fun k =>
      { k with acted := k.acted ++ [{ own := r.own, rolls := 1, ready := true, once := false }] }

/-- The kind 4 entry of a cancelled command, its launch's fault counter, and its strand noted (R344, R345). -/
def cancels (s : State) (c : Nat) (own : Owner) (addr detail : Word) (cform dform : Nat) : State :=
  let e : FaultEntry := { kind := 4, code := 0, core := c, launch := own.launch, rcd := own.rcd, addr := addr,
                          detail := detail, cform := cform, dform := dform }
  let s := faultEntry s own.parcel e
  let s := match launchOf s own.launch with
    | some L => (devAdd s L.parcel L.desc.faulth 1).1
    | none => s
  let x : Acted := { own := own, rolls := 0, ready := false, once := false }
  modCore s c fun k => { k with acted := k.acted ++ [x] }

/-- The run of a cancelled `srun` is marked at the root, which will end it OVERRUN (R250, R344). -/
def RootEnds (s t : State) (key : RunKey) : Prop :=
  ∃ x, treeOf t key = some x ∧ x.cancelled = true ∧ ∀ y, treeOf s key = some y → x = { y with cancelled := true }

/-- The detail and the form of a copy's completion counter in a kind 4 entry (R344). -/
def doneForm : Done → Word × Nat
  | .none => (0, 0)
  | .handle h => (h, 1)
  | .local_ i => (BitVec.ofNat 64 i.toNat, 2)

/-- A core as an edge leaves it (R39, R341, R348). -/
def Emptied (k : Core) (e : Nat) : Prop :=
  k.run = none ∧ k.a = AState.init ∧ k.x = XState.init ∧ k.vec = VState.init ∧ k.sh = Shared.init ∧
    k.accs = bfill 2 [] ∧ k.lcs = [] ∧ k.inbox = bfill 2 [] ∧ k.outbox = bfill 2 [] ∧ k.edge = none ∧
    k.eng.copyq = [] ∧ k.eng.matq = [] ∧ k.eng.runs = [] ∧ k.eng.smpq = [] ∧ k.eng.slots = [] ∧ k.eng.board = [] ∧
    k.res = [] ∧ k.wipe = true ∧ k.dispatchAt = e + 1024

end Sys2Proof.Claims

open Sys2Proof Sys2Proof.Machine Sys2Proof.Claims

/-- R331, R333, R337, R339 to R347: the notice is raised on the cores of changing sections in the drain before an edge,
and changing way groups begin to drain; the link stops 256 cycles before it; at the edge the row's owners are loaded,
the running strand of a changing core is treated by the first case of R343 that matches, its engine commands are
cancelled, its residents leave and it is emptied, and the work queues of changing sections are exchanged; the state
words and the wipe follow; a way group passes at the edge when nothing in it is dirty, and otherwise late, and counted.
A donated core is reclaimed when its owner has a strand for it (logs 20, 21, 28, 40). -/
def Obligations.EdgeEvents : Prop :=
  (∀ s, (s.cycle + (curRow s).drain < edgeAt s → exec .edgeNotice s = .next s) ∧
    (edgeAt s ≤ s.cycle + (curRow s).drain → ∃ t l2, exec .edgeNotice s = .next
        { t with cad := { t.cad with drainWays := changingWays s }, phys := { t.phys with l2 := l2 } } ∧
      OnlyCores s t (changingCores s) ∧ (∀ c ∈ changingCores s, (coreOf t c).edge = some (edgeAt s)) ∧
      ∀ line, mget l2 line = (mget s.phys.l2 line).map fun L =>
        { L with wt := L.wt || (changingWays s).contains (groupOf line L) })) ∧
  (∀ s p line sectors L, mget s.phys.l2 line = none → mget (fillLine s p line sectors).phys.l2 line = some L →
    L.valid = sectors ∧ L.way < 16 ∧ groupOf line L ∉ s.cad.drainWays ∧
      (s.cad.wayOwner.getD (groupOf line L) 63 = 63 ∨ s.cad.wayOwner.getD (groupOf line L) 63 = p ∧ p < 40)) ∧
  (∀ s, changing 16 (curRow s).link (nextRow s).link ≠ [] →
    (s.cycle + 256 < edgeAt s → exec .linkPhaseStop s = .next s) ∧
    (edgeAt s ≤ s.cycle + 256 → exec .linkPhaseStop s = .next { s with cad := { s.cad with linkStopped := true } })) ∧
  (∀ s, (s.cycle < edgeAt s → exec .edge s = .next s) ∧
    (edgeAt s ≤ s.cycle → ∃ t, exec .edge s = .next t ∧
      t.cad.sectOwner = (nextRow s).sects ∧ t.cad.linkOwner = (nextRow s).link ∧ t.cad.memOwner = (nextRow s).mem ∧
      t.cad.table = (nextOf s).1 ∧ t.cad.row = (nextOf s).2.1 ∧ t.cad.rowStart = edgeAt s ∧
      t.cad.linkStopped = false ∧ t.cad.drainWays = [] ∧
      t.cad.pending = (if (nextOf s).2.2 then
        s.cad.pending.filter (fun x => edgeAt s < x.2 + 4096 + (curRow s).drain) else s.cad.pending) ∧
      (∀ c ∈ changingCores s, (coreOf t c).run = none ∧ (coreOf t c).wipe = true ∧ mget t.xl.l1 c = none) ∧
      ∀ i ∈ changing 192 (curRow s).sects (nextRow s).sects,
        mget t.xl.sect (sectAt i) = none ∧ mget t.xl.code (sectAt i) = none)) ∧
  (∀ s, (s.cad.row + 1 < s.cad.table.rows.length → nextOf s = (s.cad.table, s.cad.row + 1, false)) ∧
    (s.cad.table.rows.length ≤ s.cad.row + 1 →
      ((∀ x ∈ s.cad.pending, edgeAt s < x.2 + 4096 + (curRow s).drain) → nextOf s = (s.cad.table, 0, true)) ∧
      ∀ l x l', s.cad.pending = l ++ x :: l' → x.2 + 4096 + (curRow s).drain ≤ edgeAt s →
        (∀ y ∈ l', edgeAt s < y.2 + 4096 + (curRow s).drain) → nextOf s = (x.1, 0, true))) ∧
  (∀ s c, ((coreOf s c).run = none → stopRunning s c = s) ∧
    ∀ r, (coreOf s c).run = some r →
      let k := coreOf s c
      (∀ h t acq w e, k.a.at_ = some (.cwaitS h t acq, w) → k.a.spin = some e →
        checkRemote s h r.own.parcel .wait = none → ∀ u, refAsk s c r.own.parcel (.home h) = .ok u →
        stopRunning s c = endWait u c h acq fun u => suspendOn u c r h t) ∧
      (k.a.spin = none →
        (r.logsz ≠ 0#4 → (∃ m ∈ gangOf s c, irvOf s m = true) →
          stopRunning s c = (gangOf s c).foldl (fun u m =>
            faultOne u m false (if irvOf u m then .overrunHard else .gang) 0 (faultDetail (coreOf u m) false)) s) ∧
        (r.logsz ≠ 0#4 → (∀ m ∈ gangOf s c, irvOf s m = false) →
          stopRunning s c = (gangOf s c).foldl (fun u m => match (coreOf u m).run with
            | some q => overran u m q
            | none => u) s) ∧
        (r.logsz = 0#4 → r.irv = false → stopRunning s c = overran s c r) ∧
        (r.logsz = 0#4 → r.irv = true →
          stopRunning s c = faultOne s c false .overrunHard 0 (faultDetail k false)))) ∧
  (∀ s c, (∀ x, cancelCopy c s x = cancels s c x.own x.dstLow (doneForm x.done).1 (doneForm x.done).2 0) ∧
    (∀ x, (∀ f, x.op ≠ .mst f) → cancelMat c s x = cancels s c x.own (BitVec.ofNat 64 x.acc.toNat) 0 0 2) ∧
    (∀ x f, x.op = .mst f → cancelMat c s x = cancels s c x.own (BitVec.ofNat 64 (tAddr x.ta)) 0 0 1) ∧
    (∀ key (b : Slot) own, ∃ tr, cancelRun c s key b own =
        { cancels s c own b.addr b.desc.resctr 1 3 with tree := tr } ∧
      RootEnds (cancels s c own b.addr b.desc.resctr 1 3) (cancelRun c s key b own) key) ∧
    (∀ lane b pos pass own q, cancelSmp c s (.run lane b pos pass own q) =
      cancelRun c s { parcel := b.own.parcel, desc := b.addr, pos := pos, pass := pass } b own) ∧
    (∀ lane b x y own, cancelSmp c s (.commit lane b x y own) = cancels s c own b.addr 0 0 3) ∧
    (let g := (coreOf s c).eng
      ∃ seqs : List Nat, cancelEngines s c (fun _ => true) =
        modCore (seqs.foldl unregister (g.smpq.foldl (cancelSmp c)
          (g.runs.foldl (fun s x => cancelRun c s x.key x.bind x.own)
            (g.matq.foldl (cancelMat c) (g.copyq.foldl (cancelCopy c) s))))) c
          fun k => { k with eng := { k.eng with copyq := [], matq := [], runs := [], smpq := [], slots := [] } }) ∧
    (∀ cs, (∀ x ∈ (coreOf s c).eng.copyq, x.parts.any (partInto cs) = false) → cutCopies cs s c = s) ∧
    (∀ cs x, (coreOf s c).eng.copyq = [x] → x.parts.any (partInto cs) = true →
      let u := cutCopies cs s c
      (coreOf u c).eng.copyq = [{ x with failed := true, parts := x.parts.filter fun p => !partInto cs p }] ∧
        (coreOf u c).acted = (coreOf s c).acted ∧
        u.parcels = (cancels s c x.own x.dstLow (doneForm x.done).1 (doneForm x.done).2 0).parcels) ∧
    ∀ e, Emptied (coreOf (edgeCore e s c) c) e) ∧
  (∀ (w : Word) n st,
    let v := swOverrun w n (some st)
    v.toNat % 2 ^ 8 = 0x10 ∧ swState v = st.code ∧ (swOverruns v).toNat = min 255 ((swOverruns w).toNat + n) ∧
      swLaunch v = swLaunch w ∧ v.extractLsb' 12 16 = w.extractLsb' 12 16 ∧
      swOverrun w n none = w.extractLsb' 36 28 ++ BitVec.ofNat 8 (min 255 ((swOverruns w).toNat + n)) ++
        w.extractLsb' 8 20 ++ 0x10#8) ∧
  (∀ s (x : Acted),
    let p := x.own.parcel
    let b := needRead s p (x.own.rcd + 0x10) 8
    let w := recWord b p x.own.rcd
    (swState w = 5 → writeActed s x = b) ∧
    (swState w ≠ 5 → x.ready = true → writeActed s x =
      joinList (devPut64 b p (x.own.rcd + 0x10) (swOverrun w x.rolls (some .ready))) p x.own.rcd x.once) ∧
    (swState w ≠ 5 → x.ready = false → writeActed s x =
      devPut64 b p (x.own.rcd + 0x10) (swOverrun w x.rolls none))) ∧
  (∀ s c, ((coreOf s c).wipe = false → (coreOf s c).acted = [] → scrubCore s c = s) ∧
    ((coreOf s c).wipe = false → (coreOf s c).acted ≠ [] →
      let u := (coreOf s c).acted.foldl writeActed s
      let v := scrubCore s c
      u.blocked = none → coreOf v c = { coreOf u c with acted := [] } ∧ v.phys = u.phys ∧ v.sched = u.sched) ∧
    ((coreOf s c).wipe = true →
      let u := (coreOf s c).acted.foldl writeActed s
      let v := scrubCore s c
      u.blocked = none → (coreOf v c).wipe = false ∧ (coreOf v c).scratch = [] ∧ (coreOf v c).poison = [] ∧
        (coreOf v c).acted = [] ∧ v.phys = u.phys ∧ v.sched = u.sched)) ∧
  (∀ s, exec .edgeScrub s = .next ((s.cores.map (·.1)).foldl scrubCore s)) ∧
  (∀ owner s key,
    let t := exchangeQueue owner s key
    (∀ q L, Map.sorted s.sched.queues = true → mget s.sched.queues key = some q → launchOf s q.launch = some L →
      (∀ x ∈ s.sched.launches, x.2.parcel = owner → x.2.id ≠ q.launch ∧ mget x.2.stored key = none) →
      mget t.sched.queues key = none ∧ ∃ L', launchOf t q.launch = some L' ∧ mget L'.stored key = some q) ∧
    (∀ x q, mget s.sched.queues key = none →
      s.sched.launches.find? (fun x => x.2.parcel == owner && (mget x.2.stored key).isSome) = some x →
      mget x.2.stored key = some q → mget t.sched.queues key = some q)) ∧
  (∀ nx s i, i < s.cad.wayOwner.length →
    let t := handWay nx s i
    (groupClean s.phys i = true → t.cad.wayOwner.getD i 63 = nx.getD i 63 ∧
      (Map.sorted s.phys.l2 = true → groupLines t.phys i = [])) ∧
    (groupClean s.phys i = false → t.cad.wayOwner.getD i 63 = 62 ∧ (i / 4, i % 4) ∈ t.cad.lateWays ∧
      t.phys = s.phys)) ∧
  (∀ s d g, (s.cad.lateWays.contains (d, g) = false ∨ groupClean s.phys (4 * d + g) = false →
      exec (.wayGroupLateHandover d g) s = .next s) ∧
    (s.cad.lateWays.contains (d, g) = true → g < 4 → groupClean s.phys (4 * d + g) = true →
      ∃ t, exec (.wayGroupLateHandover d g) s = .next t ∧
        t.cad.late = min 65535 (s.cad.late + 1) ∧ t.cad.lateWays.contains (d, g) = false ∧
        (Map.sorted s.phys.l2 = true → groupLines t.phys (4 * d + g) = []) ∧
        (4 * d + g < s.cad.wayOwner.length →
          t.cad.wayOwner.getD (4 * d + g) 63 = (curRow s).ways.getD (4 * d + g) 63))) ∧
  (∀ s n, exec (.memoryPhaseBoundary n) s =
    .next { s with cad := { s.cad with memPhase := mset s.cad.memPhase n (s.cycle / 64 % 16) } }) ∧
  (∀ s c, ((coreOf s c).lent = false ∨ (coreOf s c).edge ≠ none ∨ pickCand (coreOf s c) (ownCands s c) = none →
      exec (.coreReclaim c) s = .next s) ∧
    ∀ x, (coreOf s c).lent = true → (coreOf s c).edge = none → pickCand (coreOf s c) (ownCands s c) = some x →
      ∃ t, exec (.coreReclaim c) s = .next t ∧ (coreOf t c).run = none ∧ (coreOf t c).easement = none ∧
        (coreOf t c).dispatchAt = s.cycle + 1024 ∧ (coreOf t c).lcs = [] ∧ (coreOf t c).wipe = true)

namespace Sys2Proof.Claims
open Sys2Proof Sys2Proof.Machine

/-- A timer's microsecond boundary has reached an entry's deadline (R365). -/
def due (s : State) (f : Future) : Bool := f.pending && decide (f.deadline.toNat ≤ s.cycle / 1100 * 1100)

/-- The rules of a generation descriptor's 64 bytes (R370). -/
def GenOk (s : State) (p : Nat) (bs : List Byte) : Prop :=
  let w (o : Nat) : Word := BitVec.ofNat 64 (fieldAt bs o 8)
  (w 0).toNat % 64 = 0 ∧ 1 ≤ fieldAt bs 8 4 ∧ fieldAt bs 8 4 ≤ 4096 ∧
    (∃ i, 6 ≤ i ∧ i ≤ 16 ∧ fieldAt bs 0x0C 4 = 2 ^ i) ∧ (w 0x10).toNat % 64 = 0 ∧
    ownsCounter s p 2 (w 0x18) = true ∧ ownsCounter s p 2 (w 0x20) = true ∧ ∀ b ∈ bs.drop 0x30, b = 0

/-- The rules of a release table entry's 32 bytes (R370). -/
def RelOk (s : State) (p : Nat) (bs : List Byte) : Prop :=
  fieldAt bs 0 8 % 2 ^ 64 % 16 = 0 ∧ fieldAt bs 0x0C 4 = 0 ∧ fieldAt bs 0x18 8 = 0 ∧
    (fieldAt bs 8 4 = 0 ∨ (∃ i, 8 ≤ i ∧ i ≤ 20 ∧ fieldAt bs 8 4 = 2 ^ i) ∧
      ownsCounter s p 3 (BitVec.ofNat 64 (fieldAt bs 0x10 8)) = true)

/-- The discard tests of R379, over a sequence's fields. -/
def Discarded (s : State) (g : Gen) (q : SeqRef) (x : CommitEnt) : Prop :=
  g.nseq ≤ x.seq ∨ sqGet s q 0 4 ≠ x.tag ∨ sqGet s q 6 1 = 0 ∨ sqGet s q 6 1 = 3 ∨ sqGet s q 6 1 = 4 ∨
    (x.iter + 1) % 2 ^ 64 ≤ sqGet s q 0x48 8 ∨ sqGet s q 0x13 1 < x.pftake ∨ 9 < x.ntok ∨ x.zero = false ∨
    (sqGet s q 6 1 = 2 ∧ ∀ i, i < x.pftake →
      sqGet s q (0x80 + BitVec.ofNat 64 (4 * ((sqGet s q 0x12 1 + i) % 16))) 4 ≠ sqGet s q 0x14 4)

/-- A release record (R381). -/
def recordBytes (tag tok pos kind code : Nat) : List Byte :=
  leBytes 4 tag ++ leBytes 4 tok ++ leBytes 4 pos ++ leBytes 1 kind ++ leBytes 1 code ++ leBytes 2 0

/-- The sequence entry, its position written. -/
def putLen (s : State) (q : SeqRef) (v : Nat) : State := devWrite s q.p (q.e + 8) (leBytes 4 v)

end Sys2Proof.Claims

open Sys2Proof Sys2Proof.Machine Sys2Proof.Claims

/-- R362, R364 to R367, R369: at a timer tick every pending future whose deadline has passed times out, but for one
whose delivery waits for a page (log 56), and no other changes; a completed future with no sequence is released 2^24
cycles after its completion, and its image is then that of reset; a parcel reads zeros for another's entry; a remote
reply completes its future, or is refused, and is acknowledged either way; a delivery writes the count and the tokens
and joins the prefill ring. R370, R378 to R381: a generation descriptor that meets its rules is registered, replacing
one only while no entry of its ring waits; each waiting commit entry is processed once: the end record, discarded, or
applied, and CDONE receives 1; what a committed token does; what a release record holds (that a descriptor registered
anew keeps the count of records written, and that the release table is used as registration read it, are log 40's). R384,
R385: the revocation point of a function in reset revokes its sequences and closes its ring, in one operation, which waits
where a table's page does (log 56), and the end record zeroes and frees them (a closed ring takes no record until the
function's next reset ends, log 33; whether CDOOR says that an entry waits, log 39). -/
def Obligations.FutureAndGenerationEvents : Prop :=
  ((∀ s, exec .futureTimerTick s =
      .next (s.futures.foldl (fun u x => if due s x.2 then settled u (timeOut u x.1) else u) s)) ∧
   (∀ s t, exec .futureTimerTick s = .next t → Map.sorted s.futures = true →
     ∀ id f, mget s.futures id = some f → due s f = false → futOf t id = f) ∧
   (∀ s id,
     let f := futOf s id
     let d := deliverFrom s id f 0x30
     timeOut s id = (devAdd (setFut d id { f with st := .timedout, doneAt := d.cycle }) f.owner f.handle 1).1 ∧
       (f.tag = noSeq → d = s)) ∧
   (∀ s id, (futOf s id).complete = true → (futOf s id).tag = noSeq →
     (s.cycle < (futOf s id).doneAt + 2 ^ 24 → exec (.futureReleaseNoseq id) s = .next s) ∧
     ((futOf s id).doneAt + 2 ^ 24 ≤ s.cycle → ∃ t, exec (.futureReleaseNoseq id) s = .next t ∧
       (futOf t id).st = .free ∧ (futOf t id).nonce = (futOf s id).nonce ∧ (futOf t id).word = 0x3F00#32)) ∧
   (∀ s id p,
     futureView s none id = (futOf s id).image ∧ futureView s (some (futOf s id).owner) id = (futOf s id).image ∧
       (p ≠ (futOf s id).owner → futureView s (some p) id = List.replicate 64 0)) ∧
   (∀ s id f (toks : List (BitVec 32)),
     let w := putTokens s f.owner f.replyAddr toks
     (f.tag = noSeq → deliver s id f toks = w) ∧
     (f.tag ≠ noSeq →
       let n := needTable w f.owner
       (seqOf n f.owner f.tag = none → deliver s id f toks = n) ∧
       ∀ e, seqOf n f.owner f.tag = some e →
         let head := devNat n f.owner (e + 0x12) 1
         let cnt := devNat n f.owner (e + 0x13) 1
         (16 ≤ cnt → deliver s id f toks = n) ∧
         (cnt < 16 → deliver s id f toks =
           devWrite (devPut32 n f.owner (e + BitVec.ofNat 64 (0x80 + 4 * ((head + cnt) % 16))) (BitVec.ofNat 32 id))
             f.owner (e + 0x13) (leBytes 1 (cnt + 1))))) ∧
   (∀ s p tag e, seqOf s p tag = some e → ∃ g i, mget s.commit.gens p = some g ∧ i < g.nseq ∧
     e = g.seqtab + BitVec.ofNat 64 (192 * i) ∧ devNat s p e 4 = tag.toNat ∧ devNat s p (e + 6) 1 ≠ 0 ∧
     ((∃ j, j < g.nseq ∧ devNat s p (g.seqtab + BitVec.ofNat 64 (192 * j)) 4 = tag.toNat ∧
         (devNat s p (g.seqtab + BitVec.ofNat 64 (192 * j) + 6) 1 = 1 ∨
           devNat s p (g.seqtab + BitVec.ofNat 64 (192 * j) + 6) 1 = 2)) →
       devNat s p (e + 6) 1 = 1 ∨ devNat s p (e + 6) 1 = 2)) ∧
   (∀ s c C id nonce toks, mget s.host.conns c = some C → toks.length ≤ 16384 → id < 65536 →
     let f := futOf s id
     let good := refusesCompletion f C.parcel nonce = false ∧ f.origin = 2#2 ∧ f.conn = c
     (good → ∃ t, exec (.remoteToolReply c id nonce toks) s = .next t ∧ (futOf t id).st = .replied ∧
       t.host.up.getLast? = some (.replyAck c id)) ∧
     (¬good → exec (.remoteToolReply c id nonce toks) s =
       .next (sendUp (refuseCompletion s C.parcel id 1 nonce) (.replyAck c id))))) ∧
  ((∀ s p va b bs, readArea (unitRead p) s va 1 = .ok (b, bs) →
     let tab : Word := BitVec.ofNat 64 (fieldAt bs 0x28 8)
     let u := needRange b p tab (32 * 129)
     let rel := devArea u p tab (32 * 129)
     ((∃ g, parseGen u p bs rel = some g) ↔
       GenOk u p bs ∧ ∀ f, f < 129 → RelOk u p ((rel.drop (32 * f)).take 32)) ∧
     (parseGen u p bs rel = none → exec (.genDescriptorRegister p va) s = .next u) ∧
     ∀ g, parseGen u p bs rel = some g →
       (g.nseq = fieldAt bs 8 4 ∧ g.crsize = fieldAt bs 0x0C 4 ∧ g.seqtab = BitVec.ofNat 64 (fieldAt bs 0 8) ∧
         g.cring = BitVec.ofNat 64 (fieldAt bs 0x10 8) ∧ g.cdoor = BitVec.ofNat 64 (fieldAt bs 0x18 8) ∧
         g.cdone = BitVec.ofNat 64 (fieldAt bs 0x20 8) ∧ g.next = 0 ∧ g.rel.length = 129) ∧
       (mget u.commit.gens p = none → exec (.genDescriptorRegister p va) s =
         .next { u with commit := { u.commit with gens := mset u.commit.gens p g } }) ∧
       ∀ old, mget u.commit.gens p = some old →
         (commitWaits u old = true → exec (.genDescriptorRegister p va) s = .next u) ∧
         (commitWaits u old = false → exec (.genDescriptorRegister p va) s =
           .next { u with commit := { u.commit with
             gens := mset u.commit.gens p { g with written := old.written } } })) ∧
   (∀ s p g, mget s.commit.gens p = some g →
     ((s.host.quiesced = true ∨ commitWaits s g = false) → exec (.commitEntry p) s = .next s) ∧
     (s.host.quiesced = false → commitWaits s g = true →
       let b := needRead s p (g.cring + BitVec.ofNat 64 (64 * (g.next % g.crsize))) 64
       let x := readCommit b p g g.next
       let e := g.seqtab + BitVec.ofNat 64 (192 * x.seq)
       let n := if x.seq < g.nseq then needRange b p e 192 else b
       let q : SeqRef := { p := p, e := e, fn := devNat n p (e + 4) 2, n := 0 }
       let done (u : State) : State :=
         modGen (devAdd u p g.cdone 1).1 p fun g => { g with next := g.next + 1 }
       (x.seq = 0xFFFFFFFF → exec (.commitEntry p) s = .next (done (endRecord n p))) ∧
       (x.seq ≠ 0xFFFFFFFF → Discarded n g q x → exec (.commitEntry p) s =
         .next (done (modGen n p fun g => { g with discards := g.discards ++ [g.next] }))) ∧
       (x.seq ≠ 0xFFFFFFFF → ¬Discarded n g q x → exec (.commitEntry p) s =
         .next (done (applyCommit n q x))))) ∧
   (∀ s q x,
     let s1 := takeReplies (devWrite s q.p (q.e + 0x48) (leBytes 8 ((x.iter + 1) % 2 ^ 64))) q x.pftake
     let r := commitTokens (putLen s1 q (sqGet s1 q 8 4 + x.npre)) q x.toks
     let r' := if x.fl % 2 = 1 ∧ sqGet r.1 r.2 6 1 = 1 then endSeq r.1 r.2 1 else r
     applyCommit s q x =
       if r'.2.n = 0 then r'.1
       else (devAdd r'.1 r'.2.p (relRing r'.1 r'.2.p r'.2.fn).handle (BitVec.ofNat 64 r'.2.n)).1) ∧
   (∀ s q, takeReplies s q 0 = s ∧ commitTokens s q [] = (s, q) ∧ ∀ t ts,
     commitTokens s q (t :: ts) =
       if (commitToken s q t).2.2 then ((commitToken s q t).1, (commitToken s q t).2.1)
       else commitTokens (commitToken s q t).1 (commitToken s q t).2.1 ts) ∧
   (∀ s q tok pos kind code, ((relRing s q.p q.fn).n = 0 → relRecord s q tok pos kind code = (s, q)) ∧
     ∀ g, mget s.commit.gens q.p = some g → (relRing s q.p q.fn).n ≠ 0 →
       let r := relRing s q.p q.fn
       let k := (mget g.written q.fn).getD 0
       relRecord s q tok pos kind code =
         (modGen (devWrite s q.p (r.base + BitVec.ofNat 64 (16 * (k % r.n)))
           (recordBytes (sqGet s q 0 4) tok pos kind code)) q.p
             fun g => { g with written := mset g.written q.fn (k + 1) }, { q with n := q.n + 1 })) ∧
   (∀ s q t,
     let len := sqGet s q 8 4
     let r := relRecord s q t len 0 0
     let v := r.2
     let c := putLen r.1 v (len + 1)
     let b := needTools v c 16 0
     let capt := sqGet c v 0x0E 1
     (128 ≤ capt →
       let e := toolAt b v (capt % 16)
       let n := sqGet b v 0x10 2
       let a := BitVec.ofNat 64 (sqGet b v 0x20 8 + 4096 * sqGet b v 0x0F 1 + 4 * n)
       (t = e.close → commitToken s q t =
         ((openCall b v e).1, (openCall b v e).2.1, !(openCall b v e).2.2 || !e.async)) ∧
       (t ≠ e.close → n = 1024 → commitToken s q t = ((endSeq b v 3).1, (endSeq b v 3).2, true)) ∧
       (t ≠ e.close → n ≠ 1024 → commitToken s q t =
         (devWrite (devPut32 b v.p a (BitVec.ofNat 32 t)) v.p (v.e + 0x10) (leBytes 2 (n + 1)), v, false))) ∧
     (capt < 128 →
       ((∀ e ∈ toolTable b v, e.open_ ≠ t) → commitToken s q t = (b, v, false)) ∧
       ∀ i, (toolTable b v).findIdx? (fun e => e.open_ == t) = some i →
         let sl := seqSlots b v.p v.e
         (sl = 0xFFFF#16 → commitToken s q t = ((endSeq b v 2).1, (endSeq b v 2).2, true)) ∧
         ∀ k, k < 16 → sl.getLsbD k = false → (∀ j, j < k → sl.getLsbD j = true) →
           let d := devWrite b v.p (v.e + 0x0C) (leBytes 2 (sl ||| 1#16 <<< k).toNat)
           let d := devWrite (devWrite d v.p (v.e + 0x0F) (leBytes 1 k)) v.p (v.e + 0x0E) (leBytes 1 (128 + i))
           commitToken s q t = (devWrite d v.p (v.e + 0x10) (leBytes 2 0), v, false))) ∧
   (∀ s q c,
     let f := if 128 ≤ sqGet s q 0x0E 1 then
       devWrite s q.p (q.e + 0x0C) (leBytes 2 (seqSlots s q.p q.e &&& ~~~(1#16 <<< sqGet s q 0x0F 1)).toNat) else s
     let d := devWrite (devWrite f q.p (q.e + 0x0E) [0]) q.p (q.e + 6) [3]
     let d := devWrite d q.p (q.e + 7) (leBytes 1 c)
     endSeq s q c = relRecord d q 0xFFFFFFFF (sqGet d q 8 4) 1 c) ∧
   (∀ s q (t : Tool),
     let k := sqGet s q 0x0F 1
     let req : FutReq :=
       { parcel := q.p, tag := BitVec.ofNat 32 (sqGet s q 0 4), tool := BitVec.ofNat 16 t.tool,
         origin := if t.remote then 2 else 1, replyAddr := BitVec.ofNat 64 (sqGet s q 0x28 8 + 65600 * k),
         replyLen := 65600, tmo := BitVec.ofNat 32 t.tmo,
         argAddr := BitVec.ofNat 64 (sqGet s q 0x20 8 + 4096 * k), argLen := 4 * sqGet s q 0x10 2,
         conn := ((routeOf s q.p t.tool).map fun r => r.conn).getD 0, st := if t.remote then .running else .armed }
     (createFuture s req = none → openCall s q t = ((endSeq s q 2).1, (endSeq s q 2).2, false)) ∧
     ∀ b id f, createFuture s req = some (b, id, f) →
       let r := relRecord (devWrite b q.p (q.e + 0x0E) [0]) q id (sqGet (devWrite b q.p (q.e + 0x0E) [0]) q 8 4) 2 0
       let d := if t.async then r.1
         else devWrite (devWrite r.1 r.2.p (r.2.e + 6) [2]) r.2.p (r.2.e + 0x14) (leBytes 4 id)
       openCall s q t = (if t.remote then sendCall d r.2 t id f else d, r.2, true)) ∧
   (∀ s r b id f, createFuture s r = some (b, id, f) →
     id < 65536 ∧ (futOf s id).st = .free ∧ (∀ j, j < id → (futOf s j).st ≠ .free) ∧ futOf b id = f ∧
       f.st = r.st ∧ f.nonce = (futOf s id).nonce + 1 ∧ f.tag = r.tag ∧ f.tool = r.tool ∧ f.owner = r.parcel ∧
       f.origin = r.origin ∧ f.late = 0 ∧ f.deadline = BitVec.ofNat 64 (s.cycle + 1100 * (r.tmo.toNat + 1)) ∧
       hScope f.handle = 3 ∧ (ctrOf b f.handle).fut = true) ∧
   (∀ s n, ((fnOf s n).inreset = true → exec (.revocationPoint n) s = .next (revokeFn s n)) ∧
     ((fnOf s n).inreset = false → exec (.revocationPoint n) s = .next s)) ∧
   (∀ s n,
     let t := s.commit.gens.foldl (fun u x =>
       (List.range x.2.nseq).foldl (revokeSeq n x.1 x.2) (needTable u x.1)) s
     let u := revokeFn s n
     (t.blocked = none → n ∈ u.commit.closed ∧ n ∉ u.commit.awaited ∧ (∀ p, (relRing u p n).n = 0) ∧
       ∃ com, u = { settled s t with commit := com } ∧ com.gens = t.commit.gens ∧ com.revoked = t.commit.revoked ∧
         com.toZero = t.commit.toZero) ∧
     (t.blocked ≠ none → n ∈ u.commit.awaited ∧
       ∃ com, u = { settled s t with commit := com } ∧ com.revoked = (settled s t).commit.revoked ∧
         com.toZero = (settled s t).commit.toZero)) ∧
   (∀ n p (g : Gen) s i,
     let e := g.seqtab + BitVec.ofNat 64 (192 * i)
     let tag : BitVec 32 := BitVec.ofNat 32 (devNat s p e 4)
     (devNat s p (e + 4) 2 ≠ n ∨ devNat s p (e + 6) 1 = 0 → revokeSeq n p g s i = s) ∧
     (devNat s p (e + 4) 2 = n → devNat s p (e + 6) 1 ≠ 0 →
       ∃ com, revokeSeq n p g s i =
           { devWrite (devWrite (cancelTag s tag) p (e + 6) [4]) p (e + 7) [4] with commit := com } ∧
         tag ∈ com.revoked ∧ (p, e) ∈ com.toZero)) ∧
   (∀ s tag id f, Map.sorted s.futures = true → mget s.futures id = some f →
     (f.st ≠ .free → f.tag = tag → (futOf (cancelTag s tag) id).st = .free) ∧
     (f.st = .free ∨ f.tag ≠ tag → futOf (cancelTag s tag) id = f)) ∧
   (∀ s p, ∃ com, endRecord s p = { (s.commit.toZero.filter fun x => x.1 == p).foldl (fun u x => zeroSeq u p x.2) s with
       commit := com } ∧ com.toZero = s.commit.toZero.filter fun x => x.1 != p) ∧
   (∀ s p e,
     let a := needRange s p e 192
     let kv := BitVec.ofNat 64 (devNat a p (e + 0x40) 8)
     let b := needRead a p kv 4
     let n := devNat b p kv 4
     zeroSeq s p e = devWrite ((List.range n).foldl (fun u i =>
       devWrite u p (BitVec.ofNat 64 (devNat u p (kv + BitVec.ofNat 64 (8 + 8 * i)) 8)) (List.replicate 4096 0))
         (needRange b p (kv + 8) (8 * n))) p (e + 6) [0]))

/-! ## Integrity and the monitor's services (R300, R329 to R333, R359, R386, R390, R396 to R405, R413 to R419) -/

namespace Sys2Proof.Claims
open Sys2Proof Sys2Proof.Machine

/-- A service of the monitor answers with a status, from a state (R403): 0 DONE, 1 REFUSED, 2 BUSY, 3 MALFORMED. -/
def Answers (i : Instr) (s : State) (status : Nat) (t : State) : Prop :=
  mailboxOpen s = true → exec i s = .next (sendUp t (.mailbox status))

/-- A service refused changes nothing. -/
def Refused (i : Instr) (s : State) : Prop := Answers i s 1 s

/-- The events that are services of the monitor, but for the one that reads its parcel's memory (R403). -/
def services : Instr → Bool
  | .submitCadastreImage _ => true
  | .createParcel _ => true
  | .deleteParcel _ => true
  | .setOwner _ _ => true
  | .addGrant _ => true
  | .removeGrant _ => true
  | .setQuotas _ _ => true
  | .writeRingCheckTable _ _ => true
  | .writeFormatWindow _ _ _ => true
  | .configureFaultArea _ _ => true
  | .firmwareStage _ => true
  | .firmwareActivate _ => true
  | .firmwareCommit => true
  | .writeToolRoute _ _ _ => true
  | .bindConnection _ _ => true
  | .unbindConnection _ => true
  | .exposeCxlRange _ => true
  | .withdrawCxlRange _ => true
  | _ => false

/-- A parcel's quota for a tier leaves room for pages more (R304). -/
def TierRoom (s : State) (p t pages : Nat) : Prop :=
  ∀ q, (parcelOf s p).quotas.tiers[t]? = some q → tierPages s p t + pages ≤ q

/-- A scrub of either kind with its hits, and which places it reaches (R396). -/
noncomputable def scrubs : Bool → List ScrubHit → Instr
  | false, l => .sramScrub l
  | true, l => .dramPatrolScrub l

/-- Whether a scrub reaches a place. -/
def scrubs.reaches (dram : Bool) (h : ScrubHit) : Bool := if dram then inDram h else inSram h

/-- The poison of a place. -/
def placePoisoned (s : State) : ScrubPlace → Bool
  | .scratchpad c off => scratchPoison (coreOf s c) off 1
  | .physical pa => poisoned s.phys pa
  | .counterSram home idx => s.phys.ctrPoison.contains (home, idx)

/-- The owners a service may name: the monitor, FREE, or a parcel that exists (R329, R401). -/
def OwnerId (s : State) (p : Nat) : Prop := p = 62 ∨ p = 63 ∨ (p < 40 ∧ (parcelOf s p).exists_ = true)

/-- A write of a window that is not enabled is accepted (R300): its format and planes are valid and its view overlaps none
in use, and one that enables it obeys the further rules. -/
def WindowTakes (s : State) (g n : Nat) (w : FormatWindow) : Prop :=
  w.valid = true ∧ viewOverlaps s (windowKey g n) w = false ∧ (w.en = true → windowOk s g (windowKey g n) w = true)

/-- The state with a format window's registers written (R300). -/
def putWindow (s : State) (g n : Nat) (w : FormatWindow) : State :=
  { s with phys := { s.phys with windows := mset s.phys.windows (windowKey g n) w } }

end Sys2Proof.Claims

open Sys2Proof Sys2Proof.Machine Sys2Proof.Claims

/-- R390: a parity error terminates the running strand with POISON. R396: a scrub handles its hits one by one: a
correctable error counts in CORRCNT of its owner, a clean L2 granule's line leaves the L2, any other place is poisoned
and logged, and a block of a parcel's frame counts in POISCNT. R398, R399: a node exists at a multiple of its coverage
and at no level above the root of its controller group; the failure of a node poisons what is under it, begins its
children's counters in a fresh epoch, and tells each owner by one entry and by POISCNT; what a copy wrote there before
covers nothing. -/
def Obligations.IntegrityEvents : Prop :=
  (∀ s c, ((coreOf s c).run = none → exec (.parityError c) s = .next s) ∧
    ∀ r, (coreOf s c).run = some r → r.logsz = 0#4 → exec (.parityError c) s =
      .next (faultOne s c false .poison 0xFFFFFFFFFFFFFFFF (faultDetail (coreOf s c) false))) ∧
  (∀ dram s, exec (scrubs dram []) s = .next s ∧
    (∀ h hs t, exec (scrubs dram [h]) s = .next t → exec (scrubs dram (h :: hs)) s = exec (scrubs dram hs) t) ∧
    ∀ h, (scrubs.reaches dram h = false → exec (scrubs dram [h]) s = .next s) ∧
      (scrubs.reaches dram h = true →
        (h.correctable = true → ∀ p, placeOwner s h.place = some p → p < 40 →
          exec (scrubs dram [h]) s = .next (modParcel s p fun P => { P with corrcnt := P.corrcnt + 1 })) ∧
        (h.correctable = true → (∀ p, placeOwner s h.place = some p → 40 ≤ p) →
          exec (scrubs dram [h]) s = .next s) ∧
        (h.correctable = false → h.cleanL2 = true → ∀ l, cleanLine s h.place = some l →
          exec (scrubs dram [h]) s = .next (evictLine s l)) ∧
        (h.correctable = false → (h.cleanL2 = false ∨ cleanLine s h.place = none) → ∃ t,
          exec (scrubs dram [h]) s = .next t ∧
          placePoisoned t h.place = true ∧ t.mgmt.log = s.mgmt.log ++ [.uncorrectable] ∧
          ∀ pa p, h.place = .physical pa → isDram pa = true → poisoned s.phys pa = false → frameOwner s pa = p →
            p < 40 → (parcelOf t p).poiscnt = (parcelOf s p).poiscnt + 1))) ∧
  (∀ s pa l, (cleanLine s (.physical pa) = some l ↔
      l = pa / 128 ∧ (heldLine s.phys pa).isSome = true ∧ lineDirty s.phys (pa / 128) = false) ∧
    (Map.sorted s.phys.l2 = true → mget (evictLine s l).phys.l2 l = none)) ∧
  (∀ base level, nodeOk base level = true ↔ ∃ lo size top, treeOfPa base = some (lo, size, top) ∧ level ≤ top ∧
    (base - lo) % (512 * 8 ^ level) = 0) ∧
  (∀ s base level, (nodeOk base level = false → exec (.integrityNodeFailure base level) s = .next s) ∧
    (nodeOk base level = true → ∃ t, exec (.integrityNodeFailure base level) s = .next t ∧
      (∀ p, p < 40 → (parcelOf t p).poiscnt = (parcelOf s p).poiscnt + BitVec.ofNat 64 (nodeBlocks s base level p) ∧
        (nodeBlocks s base level p ≠ 0 →
          (parcelOf t p).fault = (parcelOf s p).fault.map fun f => { f with seq := f.seq + 1 })) ∧
      ((∀ p, (parcelOf s p).fault = none) →
        (∀ i, i < nodeSpan base level → poisoned t.phys (base + i) = true) ∧
        (∀ lo size top i, treeOfPa base = some (lo, size, top) → i < 8 →
          treeCtr t.phys (treeKey level (treeChild lo level base + i)) = { epoch := s.phys.epoch, n := 0 }) ∧
        t.phys.epoch = s.phys.epoch + 1 ∧
        ∀ c x, x ∈ (coreOf t c).eng.copyq → ∀ r ∈ x.covered,
          base + nodeSpan base level ≤ r.1 ∨ r.1 + r.2 ≤ base)))

/-- R304, R332, R333, R359, R400, R401, R403, R413, R414: the monitor's services on tables, parcels, owners, grants,
quotas and check tables, while service firmware runs and the security core responds: when each is DONE and with what
effect, and when it is REFUSED with none; without them none acts. Every image accepted stays pending until the boundary
it is in time for (log 40); a check-table entry names the parcel that owns the function (log 71). A request block of another length or service number is MALFORMED. -/
def Obligations.MonitorTableServices : Prop :=
  (∀ s i, services i = true → mailboxOpen s = false → exec i s = .next s) ∧
  (∀ s, mailboxOpen s = true ↔ (∃ i, s.mgmt.running = some i) ∧ s.mgmt.secUp = true) ∧
  (∀ s bs, (mailboxOpen s = true → (bs.length ≠ 64 ∨ fieldAt bs 0 4 = 0 ∨ 15 < fieldAt bs 0 4) →
      request s bs = sendUp s (.mailbox 3)) ∧
    ((mailboxOpen s = false ∨ bs.length = 64 ∧ 1 ≤ fieldAt bs 0 4 ∧ fieldAt bs 0 4 ≤ 15) → request s bs = s)) ∧
  (∀ s img,
    let n := fieldAt img 0 4
    (img.length < 0x300 → Answers (.submitCadastreImage img) s 3 s) ∧
    (0x300 ≤ img.length → (n = 0 ∨ 32 < n) → Refused (.submitCadastreImage img) s) ∧
    (1 ≤ n → n ≤ 32 → img.length ≠ 0x300 + 256 * n → Answers (.submitCadastreImage img) s 3 s) ∧
    (1 ≤ n → n ≤ 32 → img.length = 0x300 + 256 * n →
      let t := parseTable img
      (imageOk s img t = true → Answers (.submitCadastreImage img) s 0
        { s with cad := { s.cad with pending := s.cad.pending ++ [(t, s.cycle)] } }) ∧
      (imageOk s img t = false → Refused (.submitCadastreImage img) s) ∧
      (imageOk s img t = true → t.rows.length = n ∧ t.image = img ∧ s.cad.table.serial < t.serial ∧
        ∀ r ∈ t.rows, 1 ≤ r.len ∧ r.len ≤ 4096 ∧ 1024 ≤ r.drain ∧ r.drain ≤ 4096 * r.len - 1024 ∧
          ∀ b ∈ r.ways ++ r.link ++ r.mem ++ r.sects,
            b = 62 ∨ b = 63 ∨ (b < 40 ∧ (t.parcels.getD b CadParcel.none).active = true)))) ∧
  (∀ s p, ((40 ≤ p ∨ (parcelOf s p).exists_ = true) → Refused (.createParcel p) s) ∧
    (p < 40 → (parcelOf s p).exists_ = false → ∃ t, Answers (.createParcel p) s 0 t ∧
      (parcelOf t p).exists_ = true ∧ (parcelOf t p).root = Config.parcelRoot p ∧
      mget t.mgmt.keys p = some (freshKeys s.freeCtr) ∧ t.freeCtr = s.freeCtr + 12) ∧
    ((40 ≤ p ∨ (parcelOf s p).exists_ = false ∨ ownsAnything s p = true) → Refused (.deleteParcel p) s) ∧
    (((∃ k, mget s.phys.frames k = some p) ∨ (∃ h H, mget s.harts h = some H ∧ H.owner = p) ∨
      (∃ k, mget s.phys.vaultOwner k = some p)) → ownsAnything s p = true) ∧
    (p < 40 → (parcelOf s p).exists_ = true → ownsAnything s p = false → Map.sorted s.parcels = true →
      Map.sorted s.mgmt.keys = true →
      ∃ t, Answers (.deleteParcel p) s 0 t ∧ mget t.parcels p = none ∧ mget t.mgmt.keys p = none)) ∧
  (∀ s (p : BitVec 6), (¬OwnerId s p.toNat → ∀ r, Refused (.setOwner r p) s) ∧
    (OwnerId s p.toNat → Map.sorted s.phys.vaultOwner = true → Map.sorted s.phys.frames = true →
      (∀ sc q, sectExists sc = true → q < 16 →
        (mgetD s.phys.vaultOwner (sc * 16 + q) 63 = p.toNat ∨ TierRoom s p.toNat 2 64 →
          ∃ t, Answers (.setOwner (.vaultPart sc q) p) s 0 t ∧
            t.phys.mem = s.phys.mem ∧ partOwner t sc (262144 * q) = p.toNat) ∧
        (mgetD s.phys.vaultOwner (sc * 16 + q) 63 ≠ p.toNat → ¬TierRoom s p.toNat 2 64 →
          Refused (.setOwner (.vaultPart sc q) p) s)) ∧
      (∀ pfn, isDram (4096 * pfn) = true →
        (frameOwner s (4096 * pfn) = p.toNat ∨ TierRoom s p.toNat (tierOf (4096 * pfn)) 1 → s.phys.windows = [] →
          ∃ t, Answers (.setOwner (.frame pfn) p) s 0 t ∧ frameOwner t (4096 * pfn) = p.toNat ∧
            (s.phys.mem.wf = true → ∀ i, i < 4096 → memGet t.phys.mem (4096 * pfn + i) = 0)) ∧
        (frameOwner s (4096 * pfn) ≠ p.toNat → ¬TierRoom s p.toNat (tierOf (4096 * pfn)) 1 →
          Refused (.setOwner (.frame pfn) p) s)) ∧
      (∀ h, h < 64 → ∃ t, Answers (.setOwner (.hart h none) p) s 0 t ∧ (hartOf t h).owner = p.toNat ∧
        (hartOf t h).policy = .system) ∧
      (∀ h b, h < 64 → b ≠ 3#2 → ∃ t, Answers (.setOwner (.hart h (some b)) p) s 0 t ∧
        (hartOf t h).owner = p.toNat ∧
        (hartOf t h).policy = if b = 0#2 then .system else if b = 1#2 then .trap else .clamp) ∧
      ∀ f, f ≤ 128 → ∃ t, Answers (.setOwner (.function f) p) s 0 t ∧ (fnOf t f).check.parcel = p)) ∧
  (∀ s g, ((g.asked = false ∨ 1024 ≤ s.grants.length) → Refused (.addGrant g) s) ∧
    (g.asked = true → s.grants.length < 1024 →
      Answers (.addGrant g) s 0 { s with grants := s.grants ++ [g] }) ∧
    ((∀ x ∈ s.grants, x.handle ≠ g.handle ∨ x.who ≠ g.who) → Refused (.removeGrant g) s) ∧
    ((∃ x ∈ s.grants, x.handle = g.handle ∧ x.who = g.who) → ∃ t, Answers (.removeGrant g) s 0 t ∧
      (∀ r, granted t g.handle g.who r = false) ∧
      ∀ h w r, (h ≠ g.handle ∨ w ≠ g.who) → granted t h w r = granted s h w r)) ∧
  (∀ s p q, ((40 ≤ p ∨ (parcelOf s p).exists_ = false ∨ ∃ n ∈ quotaNumbers q, Config.quotaOk n = false) →
      Refused (.setQuotas p q) s) ∧
    (p < 40 → (parcelOf s p).exists_ = true → (∀ n ∈ quotaNumbers q, Config.quotaOk n = true) →
      Answers (.setQuotas p q) s 0 (modParcel s p fun P => { P with quotas := q }))) ∧
  (∀ s f e,
    let ok := f ≤ 128 ∧ e.parcel = (fnOf s f).check.parcel ∧ OwnerId s e.parcel.toNat ∧ e.policy ≠ 3#2 ∧ (f = 0 → e.policy = 0#2) ∧
      (e.policy = (fnOf s f).check.policy ∨ ∀ x ∈ s.sched.launches, x.2.fn ≠ some f)
    (ok → Answers (.writeRingCheckTable f e) s 0 (modFn s f fun g => { g with check := e })) ∧
    (¬ok → Refused (.writeRingCheckTable f e) s))

/-- R300, R386, R391, R403 to R405, R417 to R419: the monitor's services on format windows, fault areas, device rings,
firmware, tool routes, connections and CXL.mem ranges. A device ring of more than 65,536 entries is refused, and a
CXL range of frames that are not HBM4E, by the model's choice (logs 71, 52); an area of a device ring whose page is in
transit keeps the service waiting (log 56). -/
def Obligations.MonitorUnitServices : Prop :=
  (∀ s g n fw,
    let i := Instr.writeFormatWindow g n fw
    let w := cleanWindow fw
    let old := mgetD s.phys.windows (windowKey g n) { src := 0, scl := 0, view := 0, ctl := 0 }
    ((8 < g ∨ 63 < n) → Refused i s) ∧
    (g ≤ 8 → n ≤ 63 →
      (old.ctl.getLsbD 62 = true → Answers i s 2 s) ∧
      (old.ctl.getLsbD 62 = false → old.en = true → w = old → Answers i s 0 s) ∧
      (old.ctl.getLsbD 62 = false → old.en = true → w = { old with ctl := old.ctl &&& 0x7FFFFFFFFFFFFFFF } →
        Answers i s 0 (putWindow s g n { w with ctl := w.ctl ||| 0x4000000000000000 })) ∧
      (old.ctl.getLsbD 62 = false → old.en = true → w ≠ old →
        w ≠ { old with ctl := old.ctl &&& 0x7FFFFFFFFFFFFFFF } → Answers i s 1 (logEv s .windowRefused)) ∧
      (old.ctl.getLsbD 62 = false → old.en = false → WindowTakes s g n w → Answers i s 0 (putWindow s g n w)) ∧
      (old.ctl.getLsbD 62 = false → old.en = false → ¬WindowTakes s g n w →
        Answers i s 1 (logEv s .windowRefused)))) ∧
  (∀ s p c,
    let ok := p < 40 ∧ (parcelOf s p).exists_ = true ∧ c.base.toNat % 64 = 0 ∧
      (∃ k, 6 ≤ k ∧ k ≤ 16 ∧ c.entries = 2 ^ k) ∧ ownsCounter s p 2 c.handle = true ∧
      (c.repair = true → ownsCounter s p 2 c.repairHandle = true)
    let fa : FaultArea := { cfg := c, seq := 0, repairBase := (ctrOf s c.repairHandle).value, repairs := 0 }
    (ok → Answers (.configureFaultArea p c) s 0 (modParcel s p fun P => { P with fault := some fa })) ∧
    (¬ok → Refused (.configureFaultArea p c) s)) ∧
  (∀ s p which c,
    let a := awaitArea s p c.base (ringEntryBytes which * c.entries)
    let b := if which = .overflow then
      (match (parcelOf a p).overflow with
        | some r => needRange a p r.cfg.base (32 * r.cfg.entries)
        | none => a) else a
    let ok := p < 40 ∧ (parcelOf b p).exists_ = true ∧
      areaOwned b p c.base (ringEntryBytes which * c.entries) = true ∧ 0 < c.entries ∧ c.entries ≤ 65536 ∧
      (c.handle = 0 → which ≠ .pager) ∧ (c.handle ≠ 0 → ownsCounter b p 2 c.handle = true) ∧
      ringEmpty b p which = true
    (mailboxOpen b = false → exec (.configureDeviceRings p which c) s = .next b) ∧
    (mailboxOpen b = true → ok → ∃ t, exec (.configureDeviceRings p which c) s = .next (sendUp t (.mailbox 0)) ∧
      ringOf (parcelOf t p) which = some { cfg := c, head := 0, tail := (ctrOf b c.handle).value.toNat } ∧
      ∀ w, w ≠ which → ringOf (parcelOf t p) w = ringOf (parcelOf b p) w) ∧
    (mailboxOpen b = true → ¬ok → exec (.configureDeviceRings p which c) s = .next (sendUp b (.mailbox 1)))) ∧
  (∀ s img, (img.magic = 0xD4F05F01#32 → Answers (.firmwareStage img) s 0
      { s with mgmt := { s.mgmt with slots := mset s.mgmt.slots (1 - s.mgmt.active) img } }) ∧
    (img.magic ≠ 0xD4F05F01#32 → Refused (.firmwareStage img) s) ∧
    (∀ n, n < 2 → (mget s.mgmt.slots n).isSome = true → Answers (.firmwareActivate n) s 0
      { s with mgmt := { s.mgmt with active := n } }) ∧
    (∀ n, (2 ≤ n ∨ mget s.mgmt.slots n = none) → Refused (.firmwareActivate n) s) ∧
    (s.mgmt.running = none → exec .firmwareCommit s = .next s) ∧
    (∀ i, s.mgmt.running = some i → Answers .firmwareCommit s 0
      { s with mgmt := { s.mgmt with fuse := max s.mgmt.fuse (min i.svn.toNat 128) } })) ∧
  (∀ s p idx r,
    let ok := p < 40 ∧ (parcelOf s p).exists_ = true ∧ idx < 256 ∧
      ∀ x, r = some x → ∃ C, mget s.host.conns x.conn = some C ∧ C.parcel = p
    (ok → ∃ t, Answers (.writeToolRoute p idx r) s 0 t ∧
      (Map.sorted (parcelOf s p).routes = true → mget (parcelOf t p).routes idx = r)) ∧
    (¬ok → Refused (.writeToolRoute p idx r) s)) ∧
  (∀ s c p,
    let ok := c < 4096 ∧ p < 40 ∧ (parcelOf s p).exists_ = true ∧ mget s.host.conns c = none
    (ok → ∃ t, Answers (.bindConnection c p) s 0 t ∧
      mget t.host.conns c = some { parcel := p, applied := [], waits := [] }) ∧
    (¬ok → Refused (.bindConnection c p) s) ∧
    (mget s.host.conns c = none → Refused (.unbindConnection c) s) ∧
    (∀ C, mget s.host.conns c = some C → Map.sorted s.host.conns = true →
      ∃ t, Answers (.unbindConnection c) s 0 t ∧ mget t.host.conns c = none ∧ t.homes = s.homes)) ∧
  (∀ s r, (rangeOk s r = true → s.host.cxl.length < 64 → Answers (.exposeCxlRange r) s 0
      { s with host := { s.host with cxl := s.host.cxl ++ [r] } }) ∧
    ((rangeOk s r = false ∨ 64 ≤ s.host.cxl.length) → Refused (.exposeCxlRange r) s) ∧
    (r ∈ s.host.cxl → ∃ t, Answers (.withdrawCxlRange r) s 0 t ∧ r ∉ t.host.cxl ∧
      ∀ x, x ≠ r → (x ∈ t.host.cxl ↔ x ∈ s.host.cxl)) ∧
    (r ∉ s.host.cxl → Refused (.withdrawCxlRange r) s))

/-! ## The host's ports, submission rings, host lines and peers (R288, R289, R360, R361, R408 to R420, R438) -/

namespace Sys2Proof.Claims
open Sys2Proof Sys2Proof.Machine

/-- A counter interrupt fires on a state (R410). -/
def Fires (s : State) (f : Nat) (c : CtrInt) : Prop :=
  let C := mgetD (homeOf s (homeKey 3 0)).entries c.cidx.toNat Ctr.init
  let p := (fnOf s f).check.parcel.toNat
  c.cien = true ∧ (fnOf s f).check.bar2 = true ∧ C.alloc = true ∧
    (C.owner = p ∨ granted s (mkHandle 3 C.gen 0 c.cidx.toNat) (.parcel p) .read = true) ∧
    reached C.value c.cithr = true

/-- A counter interrupt written: signalled once and disabled when it fires, with the message of its MSI-X entry, which
waits while the entry is masked (R408, R410, log 69). -/
def IntWritten (i : Instr) (s : State) (f v : Nat) (c : CtrInt) : Prop :=
  let b := modFn s f fun g => { g with ints := mset g.ints v c }
  (¬Fires b f c → exec i s = .next b) ∧
    let m := mgetD (fnOf s f).msix v MsixEnt.init
    (Fires b f c → ∃ t, exec i s = .next t ∧ fnInt (fnOf t f) v = { c with cien := false } ∧
      (m.masked = false → t.host.up = s.host.up ++ [.msix f v m.addr m.data]) ∧
      (m.masked = true → t.host.up = s.host.up ∧ v ∈ (fnOf t f).msixWaits))

/-- The system counter at an index that a function's window reaches with a right (R360). -/
def WindowReaches (s : State) (f n : Nat) (r : Right) : Prop :=
  let C := mgetD (homeOf s (homeKey 3 0)).entries n Ctr.init
  let p := (fnOf s f).check.parcel.toNat
  (fnOf s f).check.bar2 = true ∧ C.alloc = true ∧
    (C.owner = p ∨ granted s (mkHandle 3 C.gen 0 n) (.parcel p) r = true)

/-- What a window access of a function does, through either port (R288, R360). -/
def WindowActs (w : Nat → Nat → Word → Instr) (r : Nat → Nat → Instr) (s : State) (f : Nat) : Prop :=
  (∀ n size v, n < 65536 → (size = 8 ∨ size = 4) →
    let x := if size = 4 then BitVec.ofNat 64 (v.toNat % 2 ^ 32) else v
    (WindowReaches s f n .add → x.toNat < 2 ^ 32 →
      exec (w (8 * n) size v) s =
        .next (meshAdd s .device (noOwner (fnOf s f).check.parcel.toNat) 0xFFFF (indexHandle s n) x).2) ∧
    ((¬WindowReaches s f n .add ∨ 2 ^ 32 ≤ x.toNat) → exec (w (8 * n) size v) s = .next (logEv s .malformed))) ∧
  (∀ reg size v, (reg % 8 ≠ 0 ∨ (size ≠ 8 ∧ size ≠ 4)) → exec (w reg size v) s = .next (logEv s .malformed)) ∧
  (∀ n, n < 65536 → WindowReaches s f n .read →
    let bs := leBytes 8 (mgetD (homeOf s (homeKey 3 0)).entries n Ctr.init).value.toNat
    exec (r (8 * n) 8) s = .next (sendUp s (.readData bs)) ∧
    exec (r (8 * n) 4) s = .next (sendUp s (.readData (bs.take 4))) ∧
    exec (r (8 * n + 4) 4) s = .next (sendUp s (.readData (bs.drop 4)))) ∧
  (∀ n size, n < 65536 → ¬WindowReaches s f n .read →
    exec (r (8 * n) size) s = .next (sendUp s (.readData (List.replicate size 0xFF)))) ∧
  (∀ reg size, ((size ≠ 8 ∧ size ≠ 4) ∨ reg % 4 ≠ 0 ∨ (size = 8 ∧ reg % 8 ≠ 0)) →
    exec (r reg size) s = .next (sendUp s (.readData (List.replicate size 0xFF))))

/-- The next entry of a ring may begin, and passes the check unit (R411 to R413). -/
def Begins (s : State) (f r : Nat) (e : RingEntry) : Prop :=
  ringTakes s f r = true ∧ mayBegin (fnRing (fnOf s f) r) e = true ∧ entryRefusal s f e = none

/-- A ring entry begun with no data to move. -/
def noted (s : State) (f r : Nat) (e : RingEntry) (result : BitVec 32) (status : BitVec 8) : State :=
  noteBegun s f r e result status [] []

/-- The five ring entries, by type (R411). -/
noncomputable def ringEntry (f r : Nat) (e : RingEntry) (data : List Byte) : Instr :=
  if e.opc = 1#8 then .ringLaunch f r e else if e.opc = 2#8 then .ringCopy f r e data
  else if e.opc = 3#8 then .ringAdd f r e else if e.opc = 4#8 then .ringWait f r e else .ringNop f r e

end Sys2Proof.Claims

open Sys2Proof Sys2Proof.Machine Sys2Proof.Claims

/-- R5, R288, R360, R404, R408 to R411: reads and writes of BAR0 ring registers, the doorbell, counter interrupts, Bus
Master Enable, the MSI-X table and the capabilities of configuration space, and accesses through the two counter
windows; a doorbell too far ahead, and a malformed access, are logged. A vector that fires while it is masked waits (log
69). The add of a window reaches its home as a message (R402). The ports answer while service firmware runs (log 36), what a register reads where no rule puts one is free
(log 69), and an event for a port that does not answer leaves the state (log 9). -/
def Obligations.HostPortAccesses : Prop :=
  (∀ s f r v, fnLive s f = true → r < 8 →
    let R := fnRing (fnOf s f) r
    let w := fun off => exec (.bar0RegisterWrite f (0x100 + 64 * r + off) v) s
    (R.en = false →
      w 0 = .next (modRing s f r fun R => { R with rbase := v }) ∧
      w 8 = .next (modRing s f r fun R => { R with rsize := BitVec.ofNat 64 (v.toNat % 2 ^ 17) }) ∧
      (v.getLsbD 0 = true →
        w 16 = .next (modRing s f r fun R => { R with en := true, rhead := 0, rtail := 0, begun := [] }))) ∧
    (R.en = true → ∀ off ∈ [0, 8], ∃ t, w off = .next t ∧ fnRing (fnOf t f) r = R) ∧
    (v.getLsbD 0 = false → w 16 = .next (modRing s f r fun R => { R with en := false })) ∧
    ∀ off, off % 8 ≠ 0 → w off = .next s) ∧
  (∀ s f, fnLive s f = true →
    let g := fnOf s f
    let reads := fun reg (v : Word) => bar0Read s f reg 8 = sendUp s (.readData (leBytes 8 v.toNat))
    reads 0 (0#56 ++ g.check.parcel ++ (if g.inreset then 1#1 else 0#1) ++ 1#1) ∧
    (∀ r, r < 8 →
      let R := fnRing g r
      reads (0x100 + 64 * r) R.rbase ∧ reads (0x108 + 64 * r) R.rsize ∧
        reads (0x110 + 64 * r) (if R.en then 1 else 0) ∧ reads (0x118 + 64 * r) (R.rhead.setWidth 64) ∧
        reads (0x120 + 64 * r) 0) ∧
    (∀ v, v < 64 →
      let c := fnInt g v
      reads (0x800 + 16 * v) ((if c.cien then 0x8000000000000000 else 0) + c.cidx.setWidth 64) ∧
        reads (0x808 + 16 * v) c.cithr) ∧
    ∀ reg n, n ≠ 8 ∨ reg % 8 ≠ 0 → bar0Read s f reg n = sendUp s (.readData (List.replicate n 0xFF))) ∧
  (∀ s f, f ≤ 128 → portUp s = true → (fnOf s f).ready = false →
    bar0Read s f 0 8 = sendUp s (.readData (leBytes 8
      (BitVec.allOnes 62 ++ (if (fnOf s f).inreset then 1#1 else 0#1) ++ 0#1).toNat)) ∧
    ∀ reg, reg % 8 = 0 → reg ≠ 0 → bar0Read s f reg 8 = sendUp s (.readData (List.replicate 8 0xFF))) ∧
  (∀ s f, f ≤ 128 → portUp s = true →
    configRead s f = sendUp s (.configAns f (if s.host.portReady = true then
      .identity Config.vendorId (if f = 0 then 0x0404 else 0x0405) (fnOf s f).bme (pciCaps f) else .retry)) ∧
    (pciCaps f).aer = true ∧ (pciCaps f).acs = true ∧ (pciCaps f).flr = true ∧ (pciCaps f).msixVectors = 64 ∧
    (f = 0 → (pciCaps f).totalVfs = 128 ∧ (pciCaps f).vfStride = 1)) ∧
  (∀ s f v e, fnLive s f = true → v < 64 →
    mget (fnOf (msixWrite s f v e) f).msix v = some e ∧
    (e.masked = false → v ∈ (fnOf s f).msixWaits →
      (msixWrite s f v e).host.up = s.host.up ++ [.msix f v e.addr e.data] ∧
        v ∉ (fnOf (msixWrite s f v e) f).msixWaits) ∧
    ((e.masked = true ∨ v ∉ (fnOf s f).msixWaits) → (msixWrite s f v e).host.up = s.host.up)) ∧
  (∀ s f r v, fnLive s f = true → r < 8 →
    let R := fnRing (fnOf s f) r
    (ringSize R < (v - R.rhead).toNat → exec (.rtail f r v) s = .next (logEv s .malformed)) ∧
    ((v - R.rhead).toNat ≤ ringSize R → exec (.rtail f r v) s = .next (modRing s f r fun R => { R with rtail := v }))) ∧
  (∀ s f v x, fnLive s f = true → (fnOf s f).inreset = false → v < 64 →
    let c := fnInt (fnOf s f) v
    IntWritten (.cien f v x) s f v { c with cien := x.getLsbD 63, cidx := BitVec.ofNat 16 x.toNat } ∧
      IntWritten (.cithr f v x) s f v { c with cithr := x }) ∧
  (∀ s f, fnLive s f = true → WindowActs (.bar2Write f) (.bar2Read f) s f) ∧
  (∀ s f reg size, f ≤ 128 → portUp s = true → fnLive s f = false →
    (∀ v, exec (.bar2Write f reg size v) s = .next s) ∧
    exec (.bar2Read f reg size) s = .next (sendUp s (.readData (List.replicate size 0xFF)))) ∧
  (∀ s, s.host.cxlUp = true → (∃ i, s.mgmt.running = some i) →
    WindowActs .cxlCounterWindowWrite .cxlCounterWindowRead s 0) ∧
  (∀ s f on, f ≤ 128 → portUp s = true →
    exec (.busMasterEnable f on) s = .next (modFn s f fun g => { g with bme := on })) ∧
  (∀ s, s.mgmt.running = none → ∀ f reg n v,
    exec (.bar2Read f reg n) s = .next s ∧ exec (.bar2Write f reg n v) s = .next s ∧
      exec (.bar0RegisterWrite f reg v) s = .next s ∧ exec (.cxlCounterWindowRead reg n) s = .next s ∧
      exec (.cxlCounterWindowWrite reg n v) s = .next s)

/-- R411 to R413: when the next entry of a ring begins, and what a LAUNCH, COPY, ADD, WAIT or NOP then does; an entry
that the check unit refuses gets its code as status; what is done writes RESULT and STATUS, makes its DONEH add when
its status is 0, and advances RHEAD; the oldest entry completes first (R422). An ADD is a release: it is made at its
completion (R142). The statuses of malformed entries, the WAIT right and the hart checks of a ring WAIT, and that the
oldest begun entry alone completes, are the model's reading (log 32). R141: an ADD or WAIT of system scope takes place under every policy; under TRAP its status is SCOPE,
under CLAMP it is counted (log 30). A launch whose descriptor waits for a page begins later (log 56). -/
def Obligations.RingEntries : Prop :=
  (∀ s f r e data, (ringTakes s f r = false ∨ mayBegin (fnRing (fnOf s f) r) e = false) →
    exec (ringEntry f r e data) s = .next s) ∧
  (∀ s f r e data c, ringTakes s f r = true → mayBegin (fnRing (fnOf s f) r) e = true →
    (e.opc = 2#8 → copyOut e = true ∨ copyLen e ≤ data.length) → entryRefusal s f e = some c →
    exec (ringEntry f r e data) s = .next (noted s f r e 0 c.code)) ∧
  (∀ s f e, (e.zero2 ≠ 0 ∨ e.zero28 ≠ 0 ∨ e.zero38 ≠ 0 → entryRefusal s f e = some .illegal) ∧
    (1 ≤ e.opc.toNat → e.opc.toNat ≤ 5 → e.efl.toNat ≤ 1 → e.zero2 = 0 → e.zero28 = 0 → e.zero38 = 0 →
      (fnOf s f).check.opMask.getLsbD e.opc.toNat = false → entryRefusal s f e = some .foreign)) ∧
  (∀ s f r e, Begins s f r e → e.opc = 1#8 →
    (e.arg0.toNat % 64 ≠ 0 → exec (.ringLaunch f r e) s = .next (noted s f r e 0 2)) ∧
    (e.arg0.toNat % 64 = 0 →
      let x := submitLaunch s (deviceSubmitter (fnParcel s f) (some f) (fnPolicy s f)) e.arg0
      (∀ t id, x = .ok t id → exec (.ringLaunch f r e) s = .next (noted t f r e (BitVec.ofNat 32 id.toNat) 0)) ∧
      (∀ t, x = .full t → exec (.ringLaunch f r e) s = .next (noted t f r e 0 0x19)) ∧
      (∀ t c, x = .refused t c → exec (.ringLaunch f r e) s = .next (noted t f r e 0 c.code)) ∧
      ∀ t c va, x = .unread t c va → c ≠ .xlate → exec (.ringLaunch f r e) s = .next (noted t f r e 0 c.code))) ∧
  (∀ s f r e data, Begins s f r e → e.opc = 2#8 → (copyOut e = true ∨ copyLen e ≤ data.length) →
    exec (.ringCopy f r e data) s = .next (noteBegun s f r e 0 0 (if copyOut e then [] else data)
      (List.range (copyLen e / 16)))) ∧
  (∀ s f r e, Begins s f r e → e.opc = 3#8 → exec (.ringAdd f r e) s = .next (noted s f r e 0 0)) ∧
  (∀ s f r e, Begins s f r e → e.opc = 4#8 →
    (∀ c, hartHandle s (fnParcel s f) e.arg0 .wait = some c →
      exec (.ringWait f r e) s = .next (noted s f r e 0 c.code)) ∧
    (hartHandle s (fnParcel s f) e.arg0 .wait = none →
      ((hScope e.arg0 ≠ 3 ∨ fnPolicy s f = .system) → exec (.ringWait f r e) s = .next (noted s f r e 0 0)) ∧
      (hScope e.arg0 = 3 → fnPolicy s f = .trap →
        exec (.ringWait f r e) s = .next (noted s f r e 0 FaultCode.scope.code)) ∧
      (hScope e.arg0 = 3 → fnPolicy s f = .clamp →
        exec (.ringWait f r e) s = .next (noted (clamped s (fnParcel s f)) f r e 0 0)))) ∧
  (∀ s f r e, Begins s f r e → e.opc = 5#8 → exec (.ringNop f r e) s = .next (noted s f r e 0 0)) ∧
  (∀ s f e,
    let add := fun u => (meshAdd u .device (noOwner (fnParcel s f)) 0xFFFF e.arg0 e.arg1).2
    (∀ c, hartHandle s (fnParcel s f) e.arg0 .add = some c → ringAdd s f e = (s, c.code)) ∧
    (hartHandle s (fnParcel s f) e.arg0 .add = none →
      (2 ^ 32 ≤ e.arg1.toNat → ringAdd s f e = (s, 1)) ∧
      (e.arg1.toNat < 2 ^ 32 →
        ((hScope e.arg0 ≠ 3 ∨ fnPolicy s f = .system) → ringAdd s f e = (add s, 0)) ∧
        (hScope e.arg0 = 3 → fnPolicy s f = .trap →
          ringAdd s f e = (add s, FaultCode.scope.code)) ∧
        (hScope e.arg0 = 3 → fnPolicy s f = .clamp →
          ringAdd s f e = (add (clamped s (fnParcel s f)), 0))))) ∧
  (∀ s f b,
    (b.ent.opc = 4#8 → (b.status = 0#8 ∨ b.status = FaultCode.scope.code) →
      (∀ c, hartHandle s (fnParcel s f) b.ent.arg0 .wait = some c → entryDone s f b = some c.code) ∧
      (hartHandle s (fnParcel s f) b.ent.arg0 .wait = none → entryDone s f b =
        if reached (ctrOf s b.ent.arg0).value b.ent.arg1 = true then some b.status else none)) ∧
    ((b.ent.opc ≠ 4#8 ∨ b.status ≠ FaultCode.scope.code) → b.status ≠ 0#8 →
      entryDone s f b = some b.status) ∧
    (b.ent.opc ≠ 4#8 → b.status = 0#8 →
      entryDone s f b = if b.left = [] then some 0 else none)) ∧
  (∀ s f r, fnLive s f = true → (fnOf s f).bme = true →
    (firstDone s f (fnRing (fnOf s f) r).begun = none → exec (.ringEntryComplete f r) s = .next s) ∧
    ∀ b st, firstDone s f (fnRing (fnOf s f) r).begun = some (b, st) →
      let R := fnRing (fnOf s f) r
      let a := (R.rbase &&& 0xFFFFFFFFFFFFFFC0) + BitVec.ofNat 64 (64 * (b.idx.toNat % ringSize R))
      let s0 := if st = 0#8 then { s with phys := clearCovered s.phys b.covered } else s
      let x := if b.ent.opc = 3#8 ∧ st = 0#8 then ringAdd s0 f b.ent else (s0, st)
      let u := sendUp (sendUp x.1 (.hostWrite f (a + 0x30) (leBytes 4 b.result.toNat)))
        (.hostWrite f (a + 0x34) (leBytes 4 x.2.toNat))
      let u' := if x.2 = 0#8 then (devAdd u (fnParcel s f) b.ent.doneh 1).1 else u
      exec (.ringEntryComplete f r) s = .next (modRing u' f r fun R =>
        { R with rhead := R.rhead + 1, begun := R.begun.filter fun x => x.idx != b.idx })) ∧
  ∀ s f b bs, firstDone s f [] = none ∧
    (∀ st, entryDone s f b = some st → firstDone s f (b :: bs) = some (b, st)) ∧
    (entryDone s f b = none → firstDone s f (b :: bs) = none)

/-- R417, R438: a host access of device memory in an exposed range reads or writes its bytes, one outside is all ones
or discarded, and logged; whether the host keeps what it read is its own affair (log 57). R394: what is answered says
whether it is poisoned. A snoop takes the half-line's state as the table says and gets the data of a half in M. -/
def Obligations.HostMemoryEvents : Prop :=
  (∀ s pa n, cxlPort s = true →
    (∀ r, rangeAt s pa n = some r → ∃ fc held, exec (.hostMemRead pa n) s =
      .next (sendUp { s with freeCtr := fc, phys := { s.phys with held := held } }
        (.memData (physBytes s.phys pa n) (anyPoison s.phys pa n)))) ∧
    (rangeAt s pa n = none → exec (.hostMemRead pa n) s =
      .next (sendUp (logEv s .cxlOutside) (.memData (List.replicate n 0xFF) false)))) ∧
  (∀ s pa data, cxlPort s = true →
    (∀ r, rangeAt s pa data.length = some r → r.write = true →
      exec (.hostMemWrite pa data) s = .next { s with phys := physStore s.phys pa data }) ∧
    ((∀ r, rangeAt s pa data.length = some r → r.write = false) →
      exec (.hostMemWrite pa data) s = .next (logEv s .cxlOutside))) ∧
  (∀ s pa, cxlPort s = true → region pa = .host → Map.sorted s.phys.lines = true →
    let dirty := lineSt s.phys pa = .m
    let ans := if dirty then some (physBytes s.phys (pa / 64 * 64) 64) else none
    let bad := decide dirty && anyPoison s.phys (pa / 64 * 64) 64
    (∃ t, exec (.snpData pa) s = .next t ∧ t.host.up = s.host.up ++ [.snoopData ans bad] ∧ t.phys.mem = s.phys.mem ∧
      lineSt t.phys pa = (if lineSt s.phys pa = .i then .i else .s) ∧
      ∀ q, q / 64 ≠ pa / 64 → lineSt t.phys q = lineSt s.phys q) ∧
    ∃ t, exec (.snpInv pa) s = .next t ∧ t.host.up = s.host.up ++ [.snoopData ans bad] ∧ t.phys.mem = s.phys.mem ∧
      lineSt t.phys pa = .i ∧ (∀ L, Map.sorted s.phys.l2 = true → mget t.phys.l2 (pa / 128) = some L →
        L.valid.getLsbD (pa / 32 % 4) = false) ∧
      ∀ q, q / 64 ≠ pa / 64 → lineSt t.phys q = lineSt s.phys q) ∧
  (∀ s pa n, (s.host.cxlUp = false ∨ s.mgmt.running = none) → exec (.hostMemRead pa n) s = .next s ∧
    (∀ bs, exec (.hostMemWrite pa bs) s = .next s) ∧ exec (.snpData pa) s = .next s ∧ exec (.snpInv pa) s = .next s)

/-- R289, R361, R418, R420: a peer copy within a page writes its bytes and then adds 1 to the counter it names; one
without write permission is dropped with a kind 8 entry and adds nothing; one whose write fails adds nothing; one whose page is missing or in transit waits
(logs 38, 56). A counter message passes the home's check, once per request id; a refused one is answered negatively and
logged, and so is one whose message to the home fails (R402). A failed connection ends and adds nothing. -/
def Obligations.PeerEvents : Prop :=
  (∀ s n C va data, mget s.host.conns n = some C → data ≠ [] → va.toNat % 4096 + data.length ≤ 4096 →
    s.blocked = none →
    (∀ pa l t, translate s .device C.parcel va .write = .ok pa l → endpointOk s C.parcel pa = true →
      linkLost s pa = false → writeG s .device C.parcel (noOwner C.parcel) va data = .ok t →
      exec (.peerCopy n va data none) s = .next t ∧
      ∀ h, (s.mesh.fail = some .request → exec (.peerCopy n va data (some h)) s = .next t) ∧
        (s.mesh.fail ≠ some .request →
          (peerCheck t n h .add = none → exec (.peerCopy n va data (some h)) s =
            .next (meshAdd t .device (noOwner C.parcel) 0xFFFF h 1).2) ∧
          (∀ c, peerCheck t n h .add = some c →
            exec (.peerCopy n va data (some h)) s = .next (logEv t (.refusedPeer n))))) ∧
    (∀ c, translate s .device C.parcel va .write = .fault c → c ≠ .xlate → ∀ h, exec (.peerCopy n va data h) s =
      .next (faultEntry (missWalk s .device C.parcel va) C.parcel
        (fent 8 0 0xFFFF 0 0 va (BitVec.ofNat 64 (mappedPa s .device C.parcel va))))) ∧
    (translate s .device C.parcel va .write = .transit → ∀ h, exec (.peerCopy n va data h) s =
      .next { s with blocked := some .transit })) ∧
  (∀ s n C m, mget s.host.conns n = some C →
    let b := setConn s n { C with applied := C.applied ++ [m.req] }
    (m.req ∈ C.applied → exec (.peerCounterMessage n m) s = .next s) ∧
    (m.req ∉ C.applied →
      let u := if m.op ≠ .add ∧ s.mesh.fail = some .request then meshSpent s else s
      (∀ c, peerRefusal s n m = some c → exec (.peerCounterMessage n m) s =
        .next (sendUp (logEv u (.refusedPeer n)) (.peerNak n m.req c))) ∧
      (peerRefusal s n m = none →
        (m.op = .add →
          let r := meshAdd b .device (noOwner C.parcel) 0xFFFF m.handle m.amount
          exec (.peerCounterMessage n m) s = .next (sendUp r.2 (.peerAck n m.req r.1)) ∧
            (s.mesh.fail ≠ some .add → r.1 = (ctrOf s m.handle).value)) ∧
        (m.op = .read → exec (.peerCounterMessage n m) s =
          .next (sendUp (homeMsg b .device C.parcel m.handle) (.peerAck n m.req (ctrOf s m.handle).value))) ∧
        (m.op = .wait → ∃ t C', exec (.peerCounterMessage n m) s = .next t ∧ mget t.host.conns n = some C' ∧
          C'.waits = C.waits ++ [(m.req, m.handle, m.amount)] ∧ t.homes = s.homes))) ∧
    (m.op = .add → 2 ^ 32 ≤ m.amount.toNat → (peerRefusal s n m).isSome = true) ∧
    (m.op ≠ .add → s.mesh.fail = some .request → (peerRefusal s n m).isSome = true)) ∧
  (∀ s n C q w, mget s.host.conns n = some C → (C.waits.find? fun x => x.1 == q) = some w →
    peerCheck s n w.2.1 .wait = none →
    reached (ctrOf s w.2.1).value w.2.2 = true → exec (.peerWaitAnswer n q) s =
      .next (sendUp (setConn s n { C with waits := C.waits.filter fun x => x.1 != q })
        (.peerAck n q (ctrOf s w.2.1).value))) ∧
  (∀ s n, Map.sorted s.host.conns = true → ∃ t, exec (.connectionFailure n) s = .next t ∧
    mget t.host.conns n = none ∧ { t with host := s.host } = s ∧
    ∀ m, m ≠ n → mget t.host.conns m = mget s.host.conns m)

/-! ## Attestation, management, resets and the faults of fetching (R30, R31, R42, R49, R404 to R407, R421 to R426) -/

namespace Sys2Proof.Claims
open Sys2Proof Sys2Proof.Machine

/-- A signed request of a slot (R406, R407): UnsupportedRequest when the extended algorithm was not selected, else
the request is kept, and keeps its slot pending, until the response, for two seconds at most. -/
def SignedRequest (i : Instr) (s : State) (slot : Nat) (meas : Bool) : Prop :=
  (s.mgmt.extAsym = false → exec i s = .next (sendUp s (.spdmError .unsupportedRequest))) ∧
    (s.mgmt.extAsym = true → chainOf s.mgmt slot = none → exec i s = .next (sendUp s (.spdmError .refused))) ∧
    (s.mgmt.extAsym = true → ∀ c, chainOf s.mgmt slot = some c → ∃ t, exec i s = .next t ∧
      t.mgmt.asked = s.mgmt.asked ++ [{ slot := slot, meas := meas, since := s.cycle, live := true }] ∧
      t.host.up = s.host.up ∧ slotPending t.mgmt s.cycle slot = true)

/-- The requests of SPDM (R406, R407). -/
def spdmRequests : Instr → Bool
  | .negotiateAlgorithms _ => true
  | .challenge _ => true
  | .getMeasurements _ _ => true
  | .getCertificate _ => true
  | .setCertificate _ _ => true
  | _ => false

/-- The rings of a function are stopped: none is enabled, and nothing begun is left (R421). -/
def RingsStopped (g : Fn) : Prop := ∀ r R, mget g.rings r = some R → R.en = false ∧ R.begun = []

/-- A function presents itself as after its reset (R409, R421). -/
def Presented (g : Fn) : Prop :=
  g.rings = [] ∧ g.ints = [] ∧ g.msix = [] ∧ g.msixWaits = [] ∧ g.inreset = false ∧ g.ready = true

/-- An image may be booted: its signature verifies and its SVN is at least the fuses' (R404). -/
def MayBoot (m : Mgmt) (i : FwImage) : Prop := Config.signatureOk (imageHeader i) i.sig = true ∧ m.fuse ≤ i.svn.toNat

end Sys2Proof.Claims

open Sys2Proof Sys2Proof.Machine Sys2Proof.Claims

/-- R406, R407: negotiation (its answer: SHA-256 as base hash, no base signature, and, where it was selected, the
extended one of the PCI-SIG registry with Dvorfen's vendor id and algorithm 1, framed as log 17 says), signed and unsigned requests, certificates, Busy for a pending slot, and its timeout.
R425: while the security core does not respond an SPDM request is answered Busy and a PLDM request that needs it is
answered not ready; the PLDM services of a controller that has started: discovery, sensors, the reset effecter, and the
update of the service firmware's inactive slot and of the controller's inactive image. Which block of a response holds
what is the model's choice (log 37), and what no sensor's value is given by a rule is free (log 3). -/
def Obligations.ManagementEvents : Prop :=
  (∀ s i, spdmRequests i = true → s.mgmt.secUp = false → exec i s = .next (sendUp s (.spdmError .busy))) ∧
  (∀ s e, s.mgmt.secUp = true → exec (.negotiateAlgorithms e) s =
    .next (sendUp { s with mgmt := { s.mgmt with extAsym := e } } (.spdm (leBytes 4 1 ++ leBytes 4 0 ++
      (if e then leBytes 1 3 ++ leBytes 2 Config.vendorId.toNat ++ leBytes 2 1 else []))))) ∧
  (∀ s n, s.mgmt.secUp = true →
    SignedRequest (.challenge n) s n false ∧ SignedRequest (.getMeasurements n true) s n true ∧
    exec (.getMeasurements n false) s = .next (sendUp s (.spdm (measurements s))) ∧
    (∀ c, chainOf s.mgmt n = some c → exec (.getCertificate n) s = .next (sendUp s (.spdm c))) ∧
    (chainOf s.mgmt n = none → exec (.getCertificate n) s = .next (sendUp s (.spdmError .refused)))) ∧
  (∀ s n c, s.mgmt.secUp = true →
    ((n = 0 ∨ 8 ≤ n) → exec (.setCertificate n c) s = .next (sendUp s (.spdmError .refused))) ∧
    (1 ≤ n → n ≤ 7 → slotPending s.mgmt s.cycle n = true →
      exec (.setCertificate n c) s = .next (sendUp s (.spdmError .busy))) ∧
    (1 ≤ n → n ≤ 7 → slotPending s.mgmt s.cycle n = false → ∃ t, exec (.setCertificate n c) s = .next t ∧
      chainOf t.mgmt n = some c ∧ ∀ m, m ≠ n → chainOf t.mgmt m = chainOf s.mgmt m)) ∧
  (∀ m now n, slotPending m now n = true ↔
    ∃ a ∈ m.asked, a.slot = n ∧ a.live = true ∧ now < a.since + 2 * 1100000000) ∧
  (∀ s n, ∃ t, exec (.slotPendingTimeout n) s = .next t ∧
    ∀ m, slotPending t.mgmt s.cycle m = slotPending s.mgmt s.cycle m ∧
      (m ≠ n → t.mgmt.asked.filter (fun a => a.slot = m) = s.mgmt.asked.filter fun a => a.slot = m) ∧
      ∀ a ∈ t.mgmt.asked, a.slot = n → a.since + 2 * 1100000000 ≤ s.cycle → a.live = false) ∧
  (∀ s, s.mgmt.up = true →
    exec .pldmDiscovery s = .next (sendUp s (.pldm [0, 2, 5])) ∧
    (s.mgmt.secUp = true → ∀ p, p < 40 → ∃ t, exec (.pldmSensorRead (.violcnt p)) s =
      .next (sendUp t (.pldm (leBytes 8 (parcelOf s p).violcnt.toNat))) ∧ { t with freeCtr := s.freeCtr } = s) ∧
    (s.mgmt.secUp = true → ∀ p, p < 40 → ∃ t, exec (.pldmSensorRead (.poiscnt p)) s =
      .next (sendUp t (.pldm (leBytes 8 (parcelOf s p).poiscnt.toNat))) ∧ { t with freeCtr := s.freeCtr } = s) ∧
    (s.mgmt.secUp = false → exec (.pldmSensorRead .cadstat) s = .next (sendUp s .pldmNotReady) ∧
      (∀ p, p < 40 → exec (.pldmSensorRead (.violcnt p)) s = .next (sendUp s .pldmNotReady) ∧
        exec (.pldmSensorRead (.poiscnt p)) s = .next (sendUp s .pldmNotReady)) ∧
      ∀ i, exec (.pldmFirmwareUpdate (.service i)) s = .next (sendUp s .pldmNotReady)) ∧
    exec .pldmResetEffecter s = .next (sendUp (packageReset s) (.pldm [0])) ∧
    (s.mgmt.secUp = true → ∀ i, i.magic = 0xD4F05F01#32 → ∃ t,
      exec (.pldmFirmwareUpdate (.service i)) s = .next t ∧
      mget t.mgmt.slots (1 - s.mgmt.active) = some i ∧ t.mgmt.active = s.mgmt.active ∧
      t.mgmt.running = s.mgmt.running) ∧
    ∀ bs, ∃ t, exec (.pldmFirmwareUpdate (.controller bs)) s = .next t ∧
      mget t.mgmt.controllerImages (1 - s.mgmt.controllerActive) = some bs ∧
      t.mgmt.controllerActive = s.mgmt.controllerActive ∧ t.mgmt.slots = s.mgmt.slots) ∧
  (∀ s, s.mgmt.up = false → exec .pldmDiscovery s = .next s ∧ exec .pldmResetEffecter s = .next s ∧
    ∀ x, exec (.pldmFirmwareUpdate x) s = .next s)

/-- R384, R421, R422: a function-level reset stops the function's rings, keeps its binding, and is ignored in reset; it
ends, once its revocation point has come (log 33), with its registers at reset values. A PF reset resets every function, boots the firmware and retrains the CXL port, and
is ignored while the physical function is in reset. R423, R424: link losses, the grace period and its end, and
retraining. R404, R426: power-up, package reset once the controller has started, PERST#. When the events come, and that
each is one step, is the model's choice (logs 33 to 36). -/
def Obligations.ResetEvents : Prop :=
  (∀ s f, 1 ≤ f → f ≤ 128 →
    ((fnOf s f).inreset = true → exec (.functionLevelReset f) s = .next s) ∧
    ((fnOf s f).inreset = false → ∃ t, exec (.functionLevelReset f) s = .next t ∧
      (fnOf t f).inreset = true ∧ (fnOf t f).ready = false ∧ RingsStopped (fnOf t f) ∧
      (fnOf t f).check = (fnOf s f).check ∧ (f ∈ t.commit.closed ∨ f ∈ t.commit.awaited) ∧
      ∀ x ∈ t.sched.replays, x.2.fn = some f → x.2.started = true)) ∧
  (∀ s f, ((fnOf s f).inreset = false → exec (.flrComplete f) s = .next s) ∧
    (f ∈ s.commit.awaited → exec (.flrComplete f) s = .next s) ∧
    ((fnOf s f).inreset = true → f ∉ s.commit.awaited → ∃ t, exec (.flrComplete f) s = .next t ∧ Presented (fnOf t f) ∧
      (fnOf t f).check = (fnOf s f).check ∧ f ∉ t.commit.closed ∧
      { t with host := s.host, commit := s.commit } = s)) ∧
  (∀ s, ((fnOf s 0).inreset = true → exec .pfReset s = .next s) ∧
    ((fnOf s 0).inreset = false → ∃ t, exec .pfReset s = .next t ∧ (∀ f, f ≤ 128 → (fnOf t f).inreset = true) ∧
      t.mgmt.running = bootImage s.mgmt ∧ t.host.cxlUp = true ∧ t.cad = s.cad)) ∧
  (∀ s, (s.host.pcieUp = false → exec .surpriseLinkLoss s = .next s) ∧
    (s.host.pcieUp = true → ∃ t, exec .surpriseLinkLoss s = .next t ∧ t.host.pcieUp = false ∧
      t.host.lossAt = some s.cycle ∧ t.mgmt.log.getLast? = some .linkLoss ∧
      t.host.up.getLast? = some (.pldm [1]) ∧
      ∀ f, f ≤ 128 → (fnOf t f).lost = true ∧ RingsStopped (fnOf t f))) ∧
  (∀ s, (s.host.cxlUp = false → exec .cxlLinkLoss s = .next s) ∧
    (s.host.cxlUp = true → exec .cxlLinkLoss s =
      .next (logEv { s with host := { s.host with cxlUp := false } } .cxlLoss))) ∧
  (∀ s us, ((∃ i, s.mgmt.running = some i) → us ≤ 2 ^ 32 →
      setGrace s us = { s with host := { s.host with grace := us } }) ∧
    ((s.mgmt.running = none ∨ 2 ^ 32 < us) → setGrace s us = s)) ∧
  (∀ s t₀, s.host.lossAt = some t₀ → s.host.quiesced = false →
    (s.cycle < t₀ + 1100 * s.host.grace → exec .gracePeriodExpiry s = .next s) ∧
    (t₀ + 1100 * s.host.grace ≤ s.cycle → ∃ t, exec .gracePeriodExpiry s = .next t ∧ t.host.quiesced = true ∧
      ∀ c r e L, (coreOf s c).run = some r → (e, L) ∈ s.sched.launches → L.st = .live → r.own.launch = L.id →
        (coreOf t c).run = none)) ∧
  (∀ s, s.host.pcieUp = false → ∃ t, exec .linkRetrain s = .next t ∧ t.host.pcieUp = true ∧ t.host.lossAt = none ∧
    ∀ f, f ≤ 128 → Presented (fnOf t f) ∧ (fnOf t f).lost = false) ∧
  (∀ s, exec .managementPowerUp s = .next { s with mgmt := { s.mgmt with up := true } } ∧
    exec .perstRelease s = .next { s with host := { s.host with answering := true } } ∧
    (s.mgmt.up = false → exec .packageReset s = .next s) ∧
    (s.mgmt.up = true → ∃ t, exec .packageReset s = .next t ∧ t.cores = [] ∧ t.cad = Cadastre.init ∧
      t.sched = Sched.init ∧ t.parcels = [] ∧ t.grants = [] ∧ t.homes = [] ∧ t.host.answering = false ∧
      t.mgmt.fuse = s.mgmt.fuse ∧ t.mgmt.slots = s.mgmt.slots ∧ t.mgmt.active = s.mgmt.active ∧
      t.mgmt.log = s.mgmt.log ∧ t.mgmt.up = true ∧ t.mgmt.keys = [] ∧ t.mgmt.running = bootImage s.mgmt)) ∧
  (∀ m : Mgmt, (∀ i, mget m.slots m.active = some i → MayBoot m i → bootImage m = some i) ∧
    (∀ i, (∀ j, mget m.slots m.active = some j → ¬MayBoot m j) → mget m.slots (1 - m.active) = some i →
      MayBoot m i → bootImage m = some i) ∧
    ∀ i, bootImage m = some i → MayBoot m i)

namespace Sys2Proof.Claims
open Sys2Proof Sys2Proof.Machine

/-- The state word of a record write of a terminating fault (R32): what lies above bit 15 and `URGENT` and `AFF` stay,
GANGF, IRVF, FAULTED and the code are written. -/
def faultedWord (old : Nat) (gang irv : Bool) (f : FaultCode) : Word :=
  BitVec.ofNat 64 (old / 2 ^ 16 * 2 ^ 16 + (if gang then 2 ^ 15 else 0) + (if irv then 2 ^ 14 else 0) +
    old / 2 ^ 12 % 4 * 2 ^ 12 + 5 * 2 ^ 8 + f.code.toNat)

/-- The record write of a terminating fault (R31, R32): the two PCs, the logged address, the faulting word and stream,
and the state word; the registers of the last commit stay. -/
def faultRecorded (s : State) (k : Core) (r : Running) (xs : Bool) (f : FaultCode) (addr : Word) : State :=
  let a := r.own.rcd
  let b := needRead s r.own.parcel (a + 0x10) 8
  let word := (strOf k xs).ir.toNat + (if xs then 2 ^ 32 else 0)
  putAll b r.own.parcel
    [(a, faultPc k xs false f ||| 1), (a + 0x08, faultPc k xs true f), (a + 0x18, addr),
     (a + 0x20, BitVec.ofNat 64 word),
     (a + 0x10, faultedWord (devNat s r.own.parcel (a + 0x10) 8) (r.logsz != 0#4) r.irv f)]

/-- The bytes of a fault area entry (R386). -/
def entryBytes (e : FaultEntry) (cycle seq : Nat) : List Byte :=
  leBytes 1 e.kind ++ leBytes 1 e.code.toNat ++ leBytes 2 e.core ++ leBytes 4 e.launch.toNat ++
    leBytes 8 e.rcd.toNat ++ leBytes 8 e.addr.toNat ++ leBytes 8 e.detail.toNat ++ leBytes 8 (cycle % 2 ^ 64) ++
    leBytes 8 (seq % 2 ^ 64) ++ leBytes 1 e.cform ++ leBytes 1 e.dform ++ leBytes 14 0

/-- What a launch's fault counter receives, and its live strands one fewer (R318, R387). -/
def faultCounted (s : State) (id : BitVec 28) : State :=
  let t := match launchOf s id with
    | some L => (devAdd s L.parcel L.desc.faulth 1).1
    | none => s
  modLaunch t id fun L => { L with live := L.live - 1 }

end Sys2Proof.Claims

open Sys2Proof Sys2Proof.Machine Sys2Proof.Claims

/-- R155, R185: `trap`, and the execute stream's `bkpt`, fault with TRAP. R49: an illegal word faults with ILLEGAL.
R42: a fetch that fails faults at its address; the word its record logs is left open (log 3). R31, R32, R387: a
terminating fault writes the record of its strand, then a fault-area entry and that area's counter (one whose message fails is reported in an entry of its own, R402; an
entry whose own write is refused makes none, log 72), then adds to the
launch's fault counter and ends one of its live strands; the core is free, a HOME strand keeps its slot FAULTED, its
kept sub-tiles are not returned (R128), and no other core changes; in a gang every other member ends with GANG. The
carried registers that stay in the record as the last commit wrote them, and the word and the address 0 that a member
ended with GANG logs, are the model's choice (log 42). The PCs of the record: the faulting instruction, and the first that the other stream has not completed. -/
def Obligations.TerminatingFaults : Prop :=
  (∀ i xs h, trapOps i = some (xs, h) → ∀ s, Clear s xs h → Guarded s xs h →
    exec i s = .next (strandFault (begun s xs h) s.me xs .trap 0)) ∧
  (∀ s c xs w r, (coreOf s c).run = some r →
    exec (.illegalInstruction c xs w) s = .next (strandFault (noteWord s c xs w) c xs .illegal 0)) ∧
  (∀ s c xs r, (coreOf s c).run = some r →
    let pc := (strOf (coreOf s c) xs).pc
    (∀ u f, fetchWord s c r.own.parcel pc = .fault u f → ∃ w, exec (.instructionFetchFault c xs) s =
      .next (takeFault (noteWord { u with freeCtr := u.freeCtr + 1 } c xs w) c xs f pc .fetch)) ∧
    (∀ t w, fetchWord s c r.own.parcel pc = .word t w → exec (.instructionFetchFault c xs) s = .next s) ∧
    (∀ t, fetchWord s c r.own.parcel pc = .transit t → exec (.instructionFetchFault c xs) s = .next s)) ∧
  (∀ s c xs f a, ((coreOf s c).run = none → faultOne s c xs f a (faultDetail (coreOf s c) xs) = s) ∧
    ∀ d r, (coreOf s c).run = some r →
      let u := faultRecorded s (coreOf s c) r xs f a
      let u := faultEntry u r.own.parcel (fent 1 f.code c r.own.launch r.own.rcd a d)
      faultOne s c xs f a d = left (clearTiles (faultCounted u r.own.launch) r.own.rcd r.own.launch) c r .faulted) ∧
  (∀ s c xs f a, strandFault s c xs f a = ((gangOf s c).filter fun m => m != c).foldl
    (fun u m => faultOne u m xs .gang 0 (faultDetail (coreOf u m) xs))
    (faultOne s c xs f a (faultDetail (coreOf s c) xs))) ∧
  (∀ s p e, ((parcelOf s p).fault = none → faultEntry s p e = s) ∧
    ∀ A, (parcelOf s p).fault = some A →
      let b := entryWrite s p (A.cfg.base + BitVec.ofNat 64 (64 * (A.seq % A.cfg.entries)))
        (entryBytes e s.cycle A.seq)
      let b := modParcel b p fun P => { P with fault := some { A with seq := A.seq + 1 } }
      let h := A.cfg.handle
      (h = 0 → faultEntry s p e = b) ∧
      (h ≠ 0 → s.mesh.fail = some .add → faultEntry s p e = staleEntry (meshSpent b) p (noOwner p) 0xFFFF h) ∧
      (h ≠ 0 → s.mesh.fail ≠ some .add →
        ((checkRemote b h p .add).isSome = true → faultEntry s p e = b) ∧
        (checkRemote b h p .add = none → faultEntry s p e = (homeAdd (homeMsg b .device p h) h 1).2))) ∧
  (∀ k xs f, (f ≠ .deadlock → faultPc k xs xs f = (strOf k xs).pc) ∧
    faultPc k xs (!xs) f = firstIncomplete k (!xs) ∧ faultPc k xs xs .deadlock = firstIncomplete k xs) ∧
  (∀ k, (k.vec.vq = [] → firstIncomplete k true = (k.x.str.pendT).getD k.x.str.pc) ∧
    (∀ v vs, k.vec.vq = v :: vs → firstIncomplete k true = v.pc) ∧
    (openLoads k = [] → firstIncomplete k false = (k.a.str.pendT).getD k.a.str.pc) ∧
    (openLoads k ≠ [] → ∃ o ∈ openLoads k, firstIncomplete k false = o.pc ∧ ∀ q ∈ openLoads k, o.at_ ≤ q.at_)) ∧
  (∀ s c xs f a r, (coreOf s c).run = some r → r.logsz = 0#4 →
    let t := strandFault s c xs f a
    let p := r.own.parcel
    (coreOf t c).run = none ∧ (coreOf t c).a = AState.init ∧ (coreOf t c).x = XState.init ∧
      (coreOf t c).vec = VState.init ∧ (coreOf t c).sh = Shared.init ∧ (coreOf t c).easement = none ∧
      (∀ d, d ≠ c → coreOf t d = coreOf s d) ∧
      ((parcelOf s p).fault = none → (parcelOf t p).fault = none) ∧
      (∀ A, (parcelOf s p).fault = some A → ∃ n, A.seq + 1 ≤ n ∧ (parcelOf t p).fault = some { A with seq := n }) ∧
      ∀ L, launchOf s r.own.launch = some L → ∃ L', launchOf t r.own.launch = some L' ∧ L'.live = L.live - 1 ∧
        L'.desc = L.desc)

/-! ## Decoding, the step, memory and the invariants (R3, R31, R41 to R49, R236, R261, R331 to R333, R405, R426) -/

namespace Sys2Proof.Claims
open Sys2Proof Sys2Proof.Machine

/-- The map of a core's stream. -/
def streamMap (xs : Bool) : IsaMap := if xs then .execute else .access

/-- The agent of a core's stream. -/
def streamAgent (xs : Bool) (c : Nat) : Agent := if xs then .exe c else .acc c

end Sys2Proof.Claims

open Sys2Proof Sys2Proof.Machine Sys2Proof.Claims

/-- R41, R43, R44, R49, R236, R261: words written out bit by bit from the encodings, one of each of several families,
decode to the instruction they stand for; the all-zero and the all-ones word decode to nothing. -/
def Obligations.WordsDecode : Prop :=
  decode? .access (1#1 ++ 0#1 ++ 5#3 ++ 1#6 ++ 9#5 ++ 11#5 ++ 13#5 ++ 0#6) =
    some (.aAdd { w := true, t := false, g := 5 } 9 11 13) ∧
  decode? .access (1#1 ++ 0#1 ++ 5#3 ++ 0x10#6 ++ 9#5 ++ 11#5 ++ 1#2 ++ 1#1 ++ 17#8) =
    some (.ldl { w := true, t := false, g := 5 } 9 11 1 1 17) ∧
  decode? .access (1#1 ++ 0#1 ++ 0#3 ++ 0x27#6 ++ 7#3 ++ 1#1 ++ 11#17) =
    some (.bc { w := true, t := false } 7 1 11) ∧
  decode? .execute (1#1 ++ 0#1 ++ 5#3 ++ 0x1F#6 ++ 9#5 ++ 0#4 ++ 11#12) =
    some (.xLoop { w := true, t := false, g := 5 } 9 11) ∧
  decode? .utgen (1#5 ++ 3#4 ++ 5#4 ++ 0#4 ++ 0#15) = some (.lmov 3 5) ∧
  decode? .custom (1#1 ++ 1#1 ++ 3#2 ++ 0#3 ++ 9#5 ++ 11#5 ++ 0#3 ++ 13#5 ++ 0x0B#7) = some (.dvCadd 1 1 3 9 11 13) ∧
  (∀ m, m = .access ∨ m = .execute → decode? m 0 = none ∧ decode? m 0xFFFFFFFF = none)

/-- R41 to R67, R236, R261: every well-formed instruction that has an encoding is what its word decodes to, with every
operand; and a word that decodes is the encoding of the well-formed instruction it decodes to, in one map. -/
def Obligations.DecodeInvertsEncode : Prop :=
  (∀ i w m, i.wf = true → encode i = some w → i.map? = some m → decode? m w = some i) ∧
  (∀ m w i, decode? m w = some i → i.wf = true ∧ encode i = some w ∧ i.map? = some m)

/-- A step fetches the word at the stream's PC, decodes it, and is exec of the instruction at the state that has noted
the word, and one cycle; a word that decodes to nothing is an illegal instruction. The word is that of the fetch cache's
line where it holds one, else that of memory (R324). A hart's custom word is decoded so, and any other word is RISC-V's
(log 14). An event at the head of the agenda is exec of it (log 1). Where an access of a unit of the package waits for
its page, nothing else of the step has happened (log 56). -/
def Obligations.StepRunsDecodedInstruction : Prop :=
  (∀ s xs c r, s.agenda = [] → s.turn = streamAgent xs c → coreExists c = true → (coreOf s c).run = some r →
    r.logsz = 0#4 → (strOf (coreOf s c) xs).pendT = none → (strOf (coreOf s c) xs).hold = none →
    ∀ b w, fetchWord s c r.own.parcel (strOf (coreOf s c) xs).pc = .word b w →
      (∀ i t, decode? (streamMap xs) w = some i → exec i (noteWord b c xs w) = .next t →
        step s = .next (tick (settled (noteWord b c xs w) t))) ∧
      (∀ t, decode? (streamMap xs) w = none → exec (.illegalInstruction c xs w) b = .next t →
        step s = .next (tick (settled b t)))) ∧
  (∀ s t, (t.blocked = none → settled s t = { t with devMiss := t.devMiss.filter fun m => !m.refused }) ∧
    (t.blocked = some .transit → settled s t = s) ∧
    (∀ p va w, t.blocked = some (.miss p va w) → settled s t = deviceMiss s p va w)) ∧
  (∀ s c p va pa l, translate s (.core c) p va .fetch = .ok pa l →
    (∀ bs, codeFind s.xl (sectOf c) p (pa / 64) = some bs →
      ∃ b, fetchWord s c p va = .word b (BitVec.ofNat 32 (leNat ((bs.drop (pa % 64)).take 4)))) ∧
    (codeFind s.xl (sectOf c) p (pa / 64) = none → endpointOk s p pa = true → linkLost s pa = false →
      anyPoison s.phys pa 4 = false → s.mesh.fail ≠ some .request → s.mesh.fail ≠ some .body →
      ∃ b, fetchWord s c p va = .word b (BitVec.ofNat 32 (leNat (physBytes s.phys pa 4))))) ∧
  (∀ s h b lo b' hi w, s.agenda = [] → s.turn = .hart h → h < 64 → (hartOf s h).waitSince = none →
    dueInt s (hartOf s h) = none → hartRead s h (hartOf s h).pc 2 .fetch = .ok b lo → leNat lo % 4 = 3 →
    hartRead b h ((hartOf s h).pc + 2) 2 .fetch = .ok b' hi → w = BitVec.ofNat 32 (leNat (lo ++ hi)) →
    let u := setHart b' h { hartOf b' h with ir := w }
    (isCustom w = true → ∀ i t, decode? .custom w = some i → exec i u = .next t → step s = .next (tick (settled u t))) ∧
    (isCustom w = true → ∀ t, decode? .custom w = none → exec (.customIllegalInstruction h w) u = .next t →
      step s = .next (tick (settled u t))) ∧
    (isCustom w = false → step s = .next (tick (settled s (rvStep h w 4 u))))) ∧
  (∀ s h (va : Word) n,
    let H := hartOf s h
    let pa := va.toNat
    H.mode = .m → 0 < n → pa % 4096 + n ≤ 4096 → region pa ≠ .hole → pmpOk H .m pa n .fetch = true →
    endpointOk s H.owner pa = true → linkLost s pa = false → anyPoison s.phys pa n = false →
    s.mesh.fail ≠ some .request → s.mesh.fail ≠ some .body →
    ∃ b, hartRead s h va n .fetch = .ok b (physBytes s.phys pa n)) ∧
  (∀ s i ms t, s.agenda = .event i :: ms → i.map? = none → (∀ c xs w, i ≠ .illegalInstruction c xs w) →
    exec i { s with agenda := ms } = .next t → step s = .next (tick (settled { s with agenda := ms } t)))

/-- R333, R404, R405, R409, R414, R424, R426: the package right after reset: the default cadastre in force, so that no
core has an owner and none runs, no parcel, no function bound, a grace period of 100,000 µs, nothing held in the L2, the
TLBs and the fetch caches. What memory reads is log 4, what no rule gives of a core's registers log 5. -/
def Obligations.ResetState : Prop :=
  (∀ c, (coreOf State.reset c).run = none ∧ coreOwner State.reset c = 63) ∧
  (curRow State.reset).len = 256 ∧ (curRow State.reset).drain = 1024 ∧ State.reset.cad.table.rows.length = 1 ∧
  State.reset.cad.table.parcels.all (fun p => !p.active) = true ∧
  (∀ p, (parcelOf State.reset p).exists_ = false) ∧
  (∀ f, (fnOf State.reset f).check.parcel = 63 ∧ (fnOf State.reset f).ready = true ∧
    (fnOf State.reset f).inreset = false ∧ (fnOf State.reset f).check.policy = if f = 0 then 0#2 else 1#2) ∧
  State.reset.phys.l2 = [] ∧ State.reset.xl = Xlat.init ∧ State.reset.mgmt.keys = [] ∧
  State.reset.host.grace = 100000 ∧ State.reset.host.quiesced = false ∧ State.reset.mgmt.running = none ∧
  (∀ pa, memGet State.reset.phys.mem pa = 0) ∧ MemoriesOk State.reset ∧ FusesOk 0 State.reset

/-- A canonical memory reads back what was written and nothing else changes, stays canonical under every write, and is
determined by what its addresses read as (log 4: an unlisted byte reads 0). A write of a unit of the package, with no
format window in the way, puts its bytes at the address that the translation gives, and nothing else changes but the A
and D bits of the table entry (R303, R305); one whose endpoint refuses it is dropped, counted and logged in a kind 8
entry (R392), and one whose page is in transit is not made (log 56). -/
def Obligations.MemoryLaws : Prop :=
  (∀ (m : Memory) a b, m.wf = true → (memSet m a b).wf = true ∧
    ∀ x, memGet (memSet m a b) x = if x = a then b else memGet m x) ∧
  (∀ (m : Memory) a bs, m.wf = true → (memSetList m a bs).wf = true ∧
    memGetList (memSetList m a bs) a bs.length = bs ∧
    ∀ x, (x < a ∨ a + bs.length ≤ x) → memGet (memSetList m a bs) x = memGet m x) ∧
  (∀ m m' : Memory, m.wf = true → m'.wf = true → (∀ x, memGet m x = memGet m' x) → m = m') ∧
  (∀ n x, x < 256 ^ n → leNat (leBytes n x) = x) ∧
  (∀ s p va bs,
    (∀ pa l, translate s .device p va .write = .ok pa l → endpointOk s p pa = true → linkLost s pa = false →
      s.mesh.fail ≠ some .request → s.mesh.fail ≠ some .body → NoViews s.phys → s.phys.mem.wf = true →
      (∀ i, i < bs.length → region (pa + i) ≠ .view) →
      let t := devWrite s p va bs
      memGetList t.phys.mem pa bs.length = bs ∧
        ∀ x, ¬(pa ≤ x ∧ x < pa + bs.length) → x ≠ l.at_ → memGet t.phys.mem x = memGet s.phys.mem x) ∧
    (∀ pa l, translate s .device p va .write = .ok pa l → endpointOk s p pa = false →
      devWrite s p va bs = droppedWrite s p 0xFFFF (noOwner p) va pa (endpointOwner s p pa) ∧
      ((parcelOf s p).fault = none →
        let t := devWrite s p va bs
        t.phys = s.phys ∧ (parcelOf t p).violcnt = (parcelOf s p).violcnt + 1 ∧
          t.mgmt.log = s.mgmt.log ++ [.violation p (endpointOwner s p pa)])) ∧
    (translate s .device p va .write = .transit → s.blocked = none →
      devWrite s p va bs = { missWalk s .device p va with blocked := some .transit }))

/-- Every step keeps every memory, scratchpad and accumulator of the package in its canonical form (log 4). -/
def Obligations.StepKeepsMemoriesCanonical : Prop :=
  ∀ s t, MemoriesOk s → step s = .next t → MemoriesOk t

/-- R405: fuses are never unblown, by any instruction, event or reset, and the row has 128. -/
def Obligations.StepKeepsFuses : Prop :=
  ∀ n s t, FusesOk n s → step s = .next t → FusesOk n t
end

