-- ==== Sys2Proof/Laws/Encoding.lean ====
section
/-!
SUPPORT. Reading back the fields of a word that a format wrote: one lemma per format and field.
-/
namespace Sys2Proof

theorem bitOf_beq_one (b : Bool) : (bitOf b == 1#1) = b := by cases b <;> decide

@[simp] theorem wordR_wflag (h : Hdr) (op : BitVec 6) (d : BitVec 5) (a : BitVec 5) (b : BitVec 5) (fn : BitVec 6) :
    (wordR h op d a b fn).extractLsb' 31 1 = bitOf h.w := by
  unfold wordR
  refine (BitVec.extractLsb'_append_eq_of_le (by decide)).trans ?_
  refine (BitVec.extractLsb'_append_eq_of_le (by decide)).trans ?_
  refine (BitVec.extractLsb'_append_eq_of_le (by decide)).trans ?_
  refine (BitVec.extractLsb'_append_eq_of_le (by decide)).trans ?_
  refine (BitVec.extractLsb'_append_eq_of_le (by decide)).trans ?_
  refine (BitVec.extractLsb'_append_eq_of_le (by decide)).trans ?_
  refine (BitVec.extractLsb'_append_eq_of_le (by decide)).trans ?_
  exact BitVec.extractLsb'_eq_self

@[simp] theorem wordR_tflag (h : Hdr) (op : BitVec 6) (d : BitVec 5) (a : BitVec 5) (b : BitVec 5) (fn : BitVec 6) :
    (wordR h op d a b fn).extractLsb' 30 1 = bitOf h.t := by
  unfold wordR
  refine (BitVec.extractLsb'_append_eq_of_le (by decide)).trans ?_
  refine (BitVec.extractLsb'_append_eq_of_le (by decide)).trans ?_
  refine (BitVec.extractLsb'_append_eq_of_le (by decide)).trans ?_
  refine (BitVec.extractLsb'_append_eq_of_le (by decide)).trans ?_
  refine (BitVec.extractLsb'_append_eq_of_le (by decide)).trans ?_
  refine (BitVec.extractLsb'_append_eq_of_le (by decide)).trans ?_
  exact BitVec.extractLsb'_append_eq_right

@[simp] theorem wordR_guard (h : Hdr) (op : BitVec 6) (d : BitVec 5) (a : BitVec 5) (b : BitVec 5) (fn : BitVec 6) :
    (wordR h op d a b fn).extractLsb' 27 3 = h.g := by
  unfold wordR
  refine (BitVec.extractLsb'_append_eq_of_le (by decide)).trans ?_
  refine (BitVec.extractLsb'_append_eq_of_le (by decide)).trans ?_
  refine (BitVec.extractLsb'_append_eq_of_le (by decide)).trans ?_
  refine (BitVec.extractLsb'_append_eq_of_le (by decide)).trans ?_
  refine (BitVec.extractLsb'_append_eq_of_le (by decide)).trans ?_
  exact BitVec.extractLsb'_append_eq_right

@[simp] theorem wordR_op (h : Hdr) (op : BitVec 6) (d : BitVec 5) (a : BitVec 5) (b : BitVec 5) (fn : BitVec 6) :
    (wordR h op d a b fn).extractLsb' 21 6 = op := by
  unfold wordR
  refine (BitVec.extractLsb'_append_eq_of_le (by decide)).trans ?_
  refine (BitVec.extractLsb'_append_eq_of_le (by decide)).trans ?_
  refine (BitVec.extractLsb'_append_eq_of_le (by decide)).trans ?_
  refine (BitVec.extractLsb'_append_eq_of_le (by decide)).trans ?_
  exact BitVec.extractLsb'_append_eq_right

@[simp] theorem wordR_d (h : Hdr) (op : BitVec 6) (d : BitVec 5) (a : BitVec 5) (b : BitVec 5) (fn : BitVec 6) :
    (wordR h op d a b fn).extractLsb' 16 5 = d := by
  unfold wordR
  refine (BitVec.extractLsb'_append_eq_of_le (by decide)).trans ?_
  refine (BitVec.extractLsb'_append_eq_of_le (by decide)).trans ?_
  refine (BitVec.extractLsb'_append_eq_of_le (by decide)).trans ?_
  exact BitVec.extractLsb'_append_eq_right

@[simp] theorem wordR_a (h : Hdr) (op : BitVec 6) (d : BitVec 5) (a : BitVec 5) (b : BitVec 5) (fn : BitVec 6) :
    (wordR h op d a b fn).extractLsb' 11 5 = a := by
  unfold wordR
  refine (BitVec.extractLsb'_append_eq_of_le (by decide)).trans ?_
  refine (BitVec.extractLsb'_append_eq_of_le (by decide)).trans ?_
  exact BitVec.extractLsb'_append_eq_right

@[simp] theorem wordR_b (h : Hdr) (op : BitVec 6) (d : BitVec 5) (a : BitVec 5) (b : BitVec 5) (fn : BitVec 6) :
    (wordR h op d a b fn).extractLsb' 6 5 = b := by
  unfold wordR
  refine (BitVec.extractLsb'_append_eq_of_le (by decide)).trans ?_
  exact BitVec.extractLsb'_append_eq_right

@[simp] theorem wordR_fn (h : Hdr) (op : BitVec 6) (d : BitVec 5) (a : BitVec 5) (b : BitVec 5) (fn : BitVec 6) :
    (wordR h op d a b fn).extractLsb' 0 6 = fn := by
  unfold wordR
  exact BitVec.extractLsb'_append_eq_right

@[simp] theorem wordR_hdr (h : Hdr) (op : BitVec 6) (d : BitVec 5) (a : BitVec 5) (b : BitVec 5) (fn : BitVec 6) :
    hdrOf (wordR h op d a b fn) = h := by
  simp [hdrOf, bitOf_beq_one]

@[simp] theorem wordI_wflag (h : Hdr) (op : BitVec 6) (d : BitVec 5) (a : BitVec 5) (im : BitVec 11) :
    (wordI h op d a im).extractLsb' 31 1 = bitOf h.w := by
  unfold wordI
  refine (BitVec.extractLsb'_append_eq_of_le (by decide)).trans ?_
  refine (BitVec.extractLsb'_append_eq_of_le (by decide)).trans ?_
  refine (BitVec.extractLsb'_append_eq_of_le (by decide)).trans ?_
  refine (BitVec.extractLsb'_append_eq_of_le (by decide)).trans ?_
  refine (BitVec.extractLsb'_append_eq_of_le (by decide)).trans ?_
  refine (BitVec.extractLsb'_append_eq_of_le (by decide)).trans ?_
  exact BitVec.extractLsb'_eq_self

@[simp] theorem wordI_tflag (h : Hdr) (op : BitVec 6) (d : BitVec 5) (a : BitVec 5) (im : BitVec 11) :
    (wordI h op d a im).extractLsb' 30 1 = bitOf h.t := by
  unfold wordI
  refine (BitVec.extractLsb'_append_eq_of_le (by decide)).trans ?_
  refine (BitVec.extractLsb'_append_eq_of_le (by decide)).trans ?_
  refine (BitVec.extractLsb'_append_eq_of_le (by decide)).trans ?_
  refine (BitVec.extractLsb'_append_eq_of_le (by decide)).trans ?_
  refine (BitVec.extractLsb'_append_eq_of_le (by decide)).trans ?_
  exact BitVec.extractLsb'_append_eq_right

@[simp] theorem wordI_guard (h : Hdr) (op : BitVec 6) (d : BitVec 5) (a : BitVec 5) (im : BitVec 11) :
    (wordI h op d a im).extractLsb' 27 3 = h.g := by
  unfold wordI
  refine (BitVec.extractLsb'_append_eq_of_le (by decide)).trans ?_
  refine (BitVec.extractLsb'_append_eq_of_le (by decide)).trans ?_
  refine (BitVec.extractLsb'_append_eq_of_le (by decide)).trans ?_
  refine (BitVec.extractLsb'_append_eq_of_le (by decide)).trans ?_
  exact BitVec.extractLsb'_append_eq_right

@[simp] theorem wordI_op (h : Hdr) (op : BitVec 6) (d : BitVec 5) (a : BitVec 5) (im : BitVec 11) :
    (wordI h op d a im).extractLsb' 21 6 = op := by
  unfold wordI
  refine (BitVec.extractLsb'_append_eq_of_le (by decide)).trans ?_
  refine (BitVec.extractLsb'_append_eq_of_le (by decide)).trans ?_
  refine (BitVec.extractLsb'_append_eq_of_le (by decide)).trans ?_
  exact BitVec.extractLsb'_append_eq_right

@[simp] theorem wordI_d (h : Hdr) (op : BitVec 6) (d : BitVec 5) (a : BitVec 5) (im : BitVec 11) :
    (wordI h op d a im).extractLsb' 16 5 = d := by
  unfold wordI
  refine (BitVec.extractLsb'_append_eq_of_le (by decide)).trans ?_
  refine (BitVec.extractLsb'_append_eq_of_le (by decide)).trans ?_
  exact BitVec.extractLsb'_append_eq_right

@[simp] theorem wordI_a (h : Hdr) (op : BitVec 6) (d : BitVec 5) (a : BitVec 5) (im : BitVec 11) :
    (wordI h op d a im).extractLsb' 11 5 = a := by
  unfold wordI
  refine (BitVec.extractLsb'_append_eq_of_le (by decide)).trans ?_
  exact BitVec.extractLsb'_append_eq_right

@[simp] theorem wordI_im (h : Hdr) (op : BitVec 6) (d : BitVec 5) (a : BitVec 5) (im : BitVec 11) :
    (wordI h op d a im).extractLsb' 0 11 = im := by
  unfold wordI
  exact BitVec.extractLsb'_append_eq_right

@[simp] theorem wordI_hdr (h : Hdr) (op : BitVec 6) (d : BitVec 5) (a : BitVec 5) (im : BitVec 11) :
    hdrOf (wordI h op d a im) = h := by
  simp [hdrOf, bitOf_beq_one]

@[simp] theorem wordL_wflag (h : Hdr) (op : BitVec 6) (d : BitVec 5) (im : BitVec 16) :
    (wordL h op d im).extractLsb' 31 1 = bitOf h.w := by
  unfold wordL
  refine (BitVec.extractLsb'_append_eq_of_le (by decide)).trans ?_
  refine (BitVec.extractLsb'_append_eq_of_le (by decide)).trans ?_
  refine (BitVec.extractLsb'_append_eq_of_le (by decide)).trans ?_
  refine (BitVec.extractLsb'_append_eq_of_le (by decide)).trans ?_
  refine (BitVec.extractLsb'_append_eq_of_le (by decide)).trans ?_
  exact BitVec.extractLsb'_eq_self

@[simp] theorem wordL_tflag (h : Hdr) (op : BitVec 6) (d : BitVec 5) (im : BitVec 16) :
    (wordL h op d im).extractLsb' 30 1 = bitOf h.t := by
  unfold wordL
  refine (BitVec.extractLsb'_append_eq_of_le (by decide)).trans ?_
  refine (BitVec.extractLsb'_append_eq_of_le (by decide)).trans ?_
  refine (BitVec.extractLsb'_append_eq_of_le (by decide)).trans ?_
  refine (BitVec.extractLsb'_append_eq_of_le (by decide)).trans ?_
  exact BitVec.extractLsb'_append_eq_right

@[simp] theorem wordL_guard (h : Hdr) (op : BitVec 6) (d : BitVec 5) (im : BitVec 16) :
    (wordL h op d im).extractLsb' 27 3 = h.g := by
  unfold wordL
  refine (BitVec.extractLsb'_append_eq_of_le (by decide)).trans ?_
  refine (BitVec.extractLsb'_append_eq_of_le (by decide)).trans ?_
  refine (BitVec.extractLsb'_append_eq_of_le (by decide)).trans ?_
  exact BitVec.extractLsb'_append_eq_right

@[simp] theorem wordL_op (h : Hdr) (op : BitVec 6) (d : BitVec 5) (im : BitVec 16) :
    (wordL h op d im).extractLsb' 21 6 = op := by
  unfold wordL
  refine (BitVec.extractLsb'_append_eq_of_le (by decide)).trans ?_
  refine (BitVec.extractLsb'_append_eq_of_le (by decide)).trans ?_
  exact BitVec.extractLsb'_append_eq_right

@[simp] theorem wordL_d (h : Hdr) (op : BitVec 6) (d : BitVec 5) (im : BitVec 16) :
    (wordL h op d im).extractLsb' 16 5 = d := by
  unfold wordL
  refine (BitVec.extractLsb'_append_eq_of_le (by decide)).trans ?_
  exact BitVec.extractLsb'_append_eq_right

@[simp] theorem wordL_im (h : Hdr) (op : BitVec 6) (d : BitVec 5) (im : BitVec 16) :
    (wordL h op d im).extractLsb' 0 16 = im := by
  unfold wordL
  exact BitVec.extractLsb'_append_eq_right

@[simp] theorem wordL_hdr (h : Hdr) (op : BitVec 6) (d : BitVec 5) (im : BitVec 16) :
    hdrOf (wordL h op d im) = h := by
  simp [hdrOf, bitOf_beq_one]

@[simp] theorem wordM_wflag (h : Hdr) (op : BitVec 6) (d : BitVec 5) (a : BitVec 5) (z : BitVec 2) (u : BitVec 1) (off : BitVec 8) :
    (wordM h op d a z u off).extractLsb' 31 1 = bitOf h.w := by
  unfold wordM
  refine (BitVec.extractLsb'_append_eq_of_le (by decide)).trans ?_
  refine (BitVec.extractLsb'_append_eq_of_le (by decide)).trans ?_
  refine (BitVec.extractLsb'_append_eq_of_le (by decide)).trans ?_
  refine (BitVec.extractLsb'_append_eq_of_le (by decide)).trans ?_
  refine (BitVec.extractLsb'_append_eq_of_le (by decide)).trans ?_
  refine (BitVec.extractLsb'_append_eq_of_le (by decide)).trans ?_
  refine (BitVec.extractLsb'_append_eq_of_le (by decide)).trans ?_
  refine (BitVec.extractLsb'_append_eq_of_le (by decide)).trans ?_
  exact BitVec.extractLsb'_eq_self

@[simp] theorem wordM_tflag (h : Hdr) (op : BitVec 6) (d : BitVec 5) (a : BitVec 5) (z : BitVec 2) (u : BitVec 1) (off : BitVec 8) :
    (wordM h op d a z u off).extractLsb' 30 1 = bitOf h.t := by
  unfold wordM
  refine (BitVec.extractLsb'_append_eq_of_le (by decide)).trans ?_
  refine (BitVec.extractLsb'_append_eq_of_le (by decide)).trans ?_
  refine (BitVec.extractLsb'_append_eq_of_le (by decide)).trans ?_
  refine (BitVec.extractLsb'_append_eq_of_le (by decide)).trans ?_
  refine (BitVec.extractLsb'_append_eq_of_le (by decide)).trans ?_
  refine (BitVec.extractLsb'_append_eq_of_le (by decide)).trans ?_
  refine (BitVec.extractLsb'_append_eq_of_le (by decide)).trans ?_
  exact BitVec.extractLsb'_append_eq_right

@[simp] theorem wordM_guard (h : Hdr) (op : BitVec 6) (d : BitVec 5) (a : BitVec 5) (z : BitVec 2) (u : BitVec 1) (off : BitVec 8) :
    (wordM h op d a z u off).extractLsb' 27 3 = h.g := by
  unfold wordM
  refine (BitVec.extractLsb'_append_eq_of_le (by decide)).trans ?_
  refine (BitVec.extractLsb'_append_eq_of_le (by decide)).trans ?_
  refine (BitVec.extractLsb'_append_eq_of_le (by decide)).trans ?_
  refine (BitVec.extractLsb'_append_eq_of_le (by decide)).trans ?_
  refine (BitVec.extractLsb'_append_eq_of_le (by decide)).trans ?_
  refine (BitVec.extractLsb'_append_eq_of_le (by decide)).trans ?_
  exact BitVec.extractLsb'_append_eq_right

@[simp] theorem wordM_op (h : Hdr) (op : BitVec 6) (d : BitVec 5) (a : BitVec 5) (z : BitVec 2) (u : BitVec 1) (off : BitVec 8) :
    (wordM h op d a z u off).extractLsb' 21 6 = op := by
  unfold wordM
  refine (BitVec.extractLsb'_append_eq_of_le (by decide)).trans ?_
  refine (BitVec.extractLsb'_append_eq_of_le (by decide)).trans ?_
  refine (BitVec.extractLsb'_append_eq_of_le (by decide)).trans ?_
  refine (BitVec.extractLsb'_append_eq_of_le (by decide)).trans ?_
  refine (BitVec.extractLsb'_append_eq_of_le (by decide)).trans ?_
  exact BitVec.extractLsb'_append_eq_right

@[simp] theorem wordM_d (h : Hdr) (op : BitVec 6) (d : BitVec 5) (a : BitVec 5) (z : BitVec 2) (u : BitVec 1) (off : BitVec 8) :
    (wordM h op d a z u off).extractLsb' 16 5 = d := by
  unfold wordM
  refine (BitVec.extractLsb'_append_eq_of_le (by decide)).trans ?_
  refine (BitVec.extractLsb'_append_eq_of_le (by decide)).trans ?_
  refine (BitVec.extractLsb'_append_eq_of_le (by decide)).trans ?_
  refine (BitVec.extractLsb'_append_eq_of_le (by decide)).trans ?_
  exact BitVec.extractLsb'_append_eq_right

@[simp] theorem wordM_a (h : Hdr) (op : BitVec 6) (d : BitVec 5) (a : BitVec 5) (z : BitVec 2) (u : BitVec 1) (off : BitVec 8) :
    (wordM h op d a z u off).extractLsb' 11 5 = a := by
  unfold wordM
  refine (BitVec.extractLsb'_append_eq_of_le (by decide)).trans ?_
  refine (BitVec.extractLsb'_append_eq_of_le (by decide)).trans ?_
  refine (BitVec.extractLsb'_append_eq_of_le (by decide)).trans ?_
  exact BitVec.extractLsb'_append_eq_right

@[simp] theorem wordM_z (h : Hdr) (op : BitVec 6) (d : BitVec 5) (a : BitVec 5) (z : BitVec 2) (u : BitVec 1) (off : BitVec 8) :
    (wordM h op d a z u off).extractLsb' 9 2 = z := by
  unfold wordM
  refine (BitVec.extractLsb'_append_eq_of_le (by decide)).trans ?_
  refine (BitVec.extractLsb'_append_eq_of_le (by decide)).trans ?_
  exact BitVec.extractLsb'_append_eq_right

@[simp] theorem wordM_u (h : Hdr) (op : BitVec 6) (d : BitVec 5) (a : BitVec 5) (z : BitVec 2) (u : BitVec 1) (off : BitVec 8) :
    (wordM h op d a z u off).extractLsb' 8 1 = u := by
  unfold wordM
  refine (BitVec.extractLsb'_append_eq_of_le (by decide)).trans ?_
  exact BitVec.extractLsb'_append_eq_right

@[simp] theorem wordM_off (h : Hdr) (op : BitVec 6) (d : BitVec 5) (a : BitVec 5) (z : BitVec 2) (u : BitVec 1) (off : BitVec 8) :
    (wordM h op d a z u off).extractLsb' 0 8 = off := by
  unfold wordM
  exact BitVec.extractLsb'_append_eq_right

@[simp] theorem wordM_hdr (h : Hdr) (op : BitVec 6) (d : BitVec 5) (a : BitVec 5) (z : BitVec 2) (u : BitVec 1) (off : BitVec 8) :
    hdrOf (wordM h op d a z u off) = h := by
  simp [hdrOf, bitOf_beq_one]

@[simp] theorem wordX_wflag (h : Hdr) (op : BitVec 6) (d : BitVec 5) (a : BitVec 5) (o : BitVec 2) (c : BitVec 9) :
    (wordX h op d a o c).extractLsb' 31 1 = bitOf h.w := by
  unfold wordX
  refine (BitVec.extractLsb'_append_eq_of_le (by decide)).trans ?_
  refine (BitVec.extractLsb'_append_eq_of_le (by decide)).trans ?_
  refine (BitVec.extractLsb'_append_eq_of_le (by decide)).trans ?_
  refine (BitVec.extractLsb'_append_eq_of_le (by decide)).trans ?_
  refine (BitVec.extractLsb'_append_eq_of_le (by decide)).trans ?_
  refine (BitVec.extractLsb'_append_eq_of_le (by decide)).trans ?_
  refine (BitVec.extractLsb'_append_eq_of_le (by decide)).trans ?_
  exact BitVec.extractLsb'_eq_self

@[simp] theorem wordX_tflag (h : Hdr) (op : BitVec 6) (d : BitVec 5) (a : BitVec 5) (o : BitVec 2) (c : BitVec 9) :
    (wordX h op d a o c).extractLsb' 30 1 = bitOf h.t := by
  unfold wordX
  refine (BitVec.extractLsb'_append_eq_of_le (by decide)).trans ?_
  refine (BitVec.extractLsb'_append_eq_of_le (by decide)).trans ?_
  refine (BitVec.extractLsb'_append_eq_of_le (by decide)).trans ?_
  refine (BitVec.extractLsb'_append_eq_of_le (by decide)).trans ?_
  refine (BitVec.extractLsb'_append_eq_of_le (by decide)).trans ?_
  refine (BitVec.extractLsb'_append_eq_of_le (by decide)).trans ?_
  exact BitVec.extractLsb'_append_eq_right

@[simp] theorem wordX_guard (h : Hdr) (op : BitVec 6) (d : BitVec 5) (a : BitVec 5) (o : BitVec 2) (c : BitVec 9) :
    (wordX h op d a o c).extractLsb' 27 3 = h.g := by
  unfold wordX
  refine (BitVec.extractLsb'_append_eq_of_le (by decide)).trans ?_
  refine (BitVec.extractLsb'_append_eq_of_le (by decide)).trans ?_
  refine (BitVec.extractLsb'_append_eq_of_le (by decide)).trans ?_
  refine (BitVec.extractLsb'_append_eq_of_le (by decide)).trans ?_
  refine (BitVec.extractLsb'_append_eq_of_le (by decide)).trans ?_
  exact BitVec.extractLsb'_append_eq_right

@[simp] theorem wordX_op (h : Hdr) (op : BitVec 6) (d : BitVec 5) (a : BitVec 5) (o : BitVec 2) (c : BitVec 9) :
    (wordX h op d a o c).extractLsb' 21 6 = op := by
  unfold wordX
  refine (BitVec.extractLsb'_append_eq_of_le (by decide)).trans ?_
  refine (BitVec.extractLsb'_append_eq_of_le (by decide)).trans ?_
  refine (BitVec.extractLsb'_append_eq_of_le (by decide)).trans ?_
  refine (BitVec.extractLsb'_append_eq_of_le (by decide)).trans ?_
  exact BitVec.extractLsb'_append_eq_right

@[simp] theorem wordX_d (h : Hdr) (op : BitVec 6) (d : BitVec 5) (a : BitVec 5) (o : BitVec 2) (c : BitVec 9) :
    (wordX h op d a o c).extractLsb' 16 5 = d := by
  unfold wordX
  refine (BitVec.extractLsb'_append_eq_of_le (by decide)).trans ?_
  refine (BitVec.extractLsb'_append_eq_of_le (by decide)).trans ?_
  refine (BitVec.extractLsb'_append_eq_of_le (by decide)).trans ?_
  exact BitVec.extractLsb'_append_eq_right

@[simp] theorem wordX_a (h : Hdr) (op : BitVec 6) (d : BitVec 5) (a : BitVec 5) (o : BitVec 2) (c : BitVec 9) :
    (wordX h op d a o c).extractLsb' 11 5 = a := by
  unfold wordX
  refine (BitVec.extractLsb'_append_eq_of_le (by decide)).trans ?_
  refine (BitVec.extractLsb'_append_eq_of_le (by decide)).trans ?_
  exact BitVec.extractLsb'_append_eq_right

@[simp] theorem wordX_o (h : Hdr) (op : BitVec 6) (d : BitVec 5) (a : BitVec 5) (o : BitVec 2) (c : BitVec 9) :
    (wordX h op d a o c).extractLsb' 9 2 = o := by
  unfold wordX
  refine (BitVec.extractLsb'_append_eq_of_le (by decide)).trans ?_
  exact BitVec.extractLsb'_append_eq_right

@[simp] theorem wordX_c (h : Hdr) (op : BitVec 6) (d : BitVec 5) (a : BitVec 5) (o : BitVec 2) (c : BitVec 9) :
    (wordX h op d a o c).extractLsb' 0 9 = c := by
  unfold wordX
  exact BitVec.extractLsb'_append_eq_right

@[simp] theorem wordX_hdr (h : Hdr) (op : BitVec 6) (d : BitVec 5) (a : BitVec 5) (o : BitVec 2) (c : BitVec 9) :
    hdrOf (wordX h op d a o c) = h := by
  simp [hdrOf, bitOf_beq_one]

@[simp] theorem wordP_wflag (h : HdrP) (op : BitVec 6) (p : BitVec 3) (n : BitVec 1) (off : BitVec 17) :
    (wordP h op p n off).extractLsb' 31 1 = bitOf h.w := by
  unfold wordP
  refine (BitVec.extractLsb'_append_eq_of_le (by decide)).trans ?_
  refine (BitVec.extractLsb'_append_eq_of_le (by decide)).trans ?_
  refine (BitVec.extractLsb'_append_eq_of_le (by decide)).trans ?_
  refine (BitVec.extractLsb'_append_eq_of_le (by decide)).trans ?_
  refine (BitVec.extractLsb'_append_eq_of_le (by decide)).trans ?_
  refine (BitVec.extractLsb'_append_eq_of_le (by decide)).trans ?_
  exact BitVec.extractLsb'_eq_self

@[simp] theorem wordP_tflag (h : HdrP) (op : BitVec 6) (p : BitVec 3) (n : BitVec 1) (off : BitVec 17) :
    (wordP h op p n off).extractLsb' 30 1 = bitOf h.t := by
  unfold wordP
  refine (BitVec.extractLsb'_append_eq_of_le (by decide)).trans ?_
  refine (BitVec.extractLsb'_append_eq_of_le (by decide)).trans ?_
  refine (BitVec.extractLsb'_append_eq_of_le (by decide)).trans ?_
  refine (BitVec.extractLsb'_append_eq_of_le (by decide)).trans ?_
  refine (BitVec.extractLsb'_append_eq_of_le (by decide)).trans ?_
  exact BitVec.extractLsb'_append_eq_right

@[simp] theorem wordP_guard (h : HdrP) (op : BitVec 6) (p : BitVec 3) (n : BitVec 1) (off : BitVec 17) :
    (wordP h op p n off).extractLsb' 27 3 = 0#3 := by
  unfold wordP
  refine (BitVec.extractLsb'_append_eq_of_le (by decide)).trans ?_
  refine (BitVec.extractLsb'_append_eq_of_le (by decide)).trans ?_
  refine (BitVec.extractLsb'_append_eq_of_le (by decide)).trans ?_
  refine (BitVec.extractLsb'_append_eq_of_le (by decide)).trans ?_
  exact BitVec.extractLsb'_append_eq_right

@[simp] theorem wordP_op (h : HdrP) (op : BitVec 6) (p : BitVec 3) (n : BitVec 1) (off : BitVec 17) :
    (wordP h op p n off).extractLsb' 21 6 = op := by
  unfold wordP
  refine (BitVec.extractLsb'_append_eq_of_le (by decide)).trans ?_
  refine (BitVec.extractLsb'_append_eq_of_le (by decide)).trans ?_
  refine (BitVec.extractLsb'_append_eq_of_le (by decide)).trans ?_
  exact BitVec.extractLsb'_append_eq_right

@[simp] theorem wordP_p (h : HdrP) (op : BitVec 6) (p : BitVec 3) (n : BitVec 1) (off : BitVec 17) :
    (wordP h op p n off).extractLsb' 18 3 = p := by
  unfold wordP
  refine (BitVec.extractLsb'_append_eq_of_le (by decide)).trans ?_
  refine (BitVec.extractLsb'_append_eq_of_le (by decide)).trans ?_
  exact BitVec.extractLsb'_append_eq_right

@[simp] theorem wordP_n (h : HdrP) (op : BitVec 6) (p : BitVec 3) (n : BitVec 1) (off : BitVec 17) :
    (wordP h op p n off).extractLsb' 17 1 = n := by
  unfold wordP
  refine (BitVec.extractLsb'_append_eq_of_le (by decide)).trans ?_
  exact BitVec.extractLsb'_append_eq_right

@[simp] theorem wordP_off (h : HdrP) (op : BitVec 6) (p : BitVec 3) (n : BitVec 1) (off : BitVec 17) :
    (wordP h op p n off).extractLsb' 0 17 = off := by
  unfold wordP
  exact BitVec.extractLsb'_append_eq_right

@[simp] theorem wordP_hdr (h : HdrP) (op : BitVec 6) (p : BitVec 3) (n : BitVec 1) (off : BitVec 17) :
    hdrPOf (wordP h op p n off) = h := by
  simp [hdrPOf, bitOf_beq_one]

@[simp] theorem wordS_wflag (h : HdrP) (op : BitVec 6) (st : BitVec 4) (n : BitVec 1) (off : BitVec 16) :
    (wordS h op st n off).extractLsb' 31 1 = bitOf h.w := by
  unfold wordS
  refine (BitVec.extractLsb'_append_eq_of_le (by decide)).trans ?_
  refine (BitVec.extractLsb'_append_eq_of_le (by decide)).trans ?_
  refine (BitVec.extractLsb'_append_eq_of_le (by decide)).trans ?_
  refine (BitVec.extractLsb'_append_eq_of_le (by decide)).trans ?_
  refine (BitVec.extractLsb'_append_eq_of_le (by decide)).trans ?_
  refine (BitVec.extractLsb'_append_eq_of_le (by decide)).trans ?_
  exact BitVec.extractLsb'_eq_self

@[simp] theorem wordS_tflag (h : HdrP) (op : BitVec 6) (st : BitVec 4) (n : BitVec 1) (off : BitVec 16) :
    (wordS h op st n off).extractLsb' 30 1 = bitOf h.t := by
  unfold wordS
  refine (BitVec.extractLsb'_append_eq_of_le (by decide)).trans ?_
  refine (BitVec.extractLsb'_append_eq_of_le (by decide)).trans ?_
  refine (BitVec.extractLsb'_append_eq_of_le (by decide)).trans ?_
  refine (BitVec.extractLsb'_append_eq_of_le (by decide)).trans ?_
  refine (BitVec.extractLsb'_append_eq_of_le (by decide)).trans ?_
  exact BitVec.extractLsb'_append_eq_right

@[simp] theorem wordS_guard (h : HdrP) (op : BitVec 6) (st : BitVec 4) (n : BitVec 1) (off : BitVec 16) :
    (wordS h op st n off).extractLsb' 27 3 = 0#3 := by
  unfold wordS
  refine (BitVec.extractLsb'_append_eq_of_le (by decide)).trans ?_
  refine (BitVec.extractLsb'_append_eq_of_le (by decide)).trans ?_
  refine (BitVec.extractLsb'_append_eq_of_le (by decide)).trans ?_
  refine (BitVec.extractLsb'_append_eq_of_le (by decide)).trans ?_
  exact BitVec.extractLsb'_append_eq_right

@[simp] theorem wordS_op (h : HdrP) (op : BitVec 6) (st : BitVec 4) (n : BitVec 1) (off : BitVec 16) :
    (wordS h op st n off).extractLsb' 21 6 = op := by
  unfold wordS
  refine (BitVec.extractLsb'_append_eq_of_le (by decide)).trans ?_
  refine (BitVec.extractLsb'_append_eq_of_le (by decide)).trans ?_
  refine (BitVec.extractLsb'_append_eq_of_le (by decide)).trans ?_
  exact BitVec.extractLsb'_append_eq_right

@[simp] theorem wordS_st (h : HdrP) (op : BitVec 6) (st : BitVec 4) (n : BitVec 1) (off : BitVec 16) :
    (wordS h op st n off).extractLsb' 17 4 = st := by
  unfold wordS
  refine (BitVec.extractLsb'_append_eq_of_le (by decide)).trans ?_
  refine (BitVec.extractLsb'_append_eq_of_le (by decide)).trans ?_
  exact BitVec.extractLsb'_append_eq_right

@[simp] theorem wordS_n (h : HdrP) (op : BitVec 6) (st : BitVec 4) (n : BitVec 1) (off : BitVec 16) :
    (wordS h op st n off).extractLsb' 16 1 = n := by
  unfold wordS
  refine (BitVec.extractLsb'_append_eq_of_le (by decide)).trans ?_
  exact BitVec.extractLsb'_append_eq_right

@[simp] theorem wordS_off (h : HdrP) (op : BitVec 6) (st : BitVec 4) (n : BitVec 1) (off : BitVec 16) :
    (wordS h op st n off).extractLsb' 0 16 = off := by
  unfold wordS
  exact BitVec.extractLsb'_append_eq_right

@[simp] theorem wordS_hdr (h : HdrP) (op : BitVec 6) (st : BitVec 4) (n : BitVec 1) (off : BitVec 16) :
    hdrPOf (wordS h op st n off) = h := by
  simp [hdrPOf, bitOf_beq_one]

@[simp] theorem wordJ_wflag (h : Hdr) (op : BitVec 6) (off : BitVec 21) :
    (wordJ h op off).extractLsb' 31 1 = bitOf h.w := by
  unfold wordJ
  refine (BitVec.extractLsb'_append_eq_of_le (by decide)).trans ?_
  refine (BitVec.extractLsb'_append_eq_of_le (by decide)).trans ?_
  refine (BitVec.extractLsb'_append_eq_of_le (by decide)).trans ?_
  refine (BitVec.extractLsb'_append_eq_of_le (by decide)).trans ?_
  exact BitVec.extractLsb'_eq_self

@[simp] theorem wordJ_tflag (h : Hdr) (op : BitVec 6) (off : BitVec 21) :
    (wordJ h op off).extractLsb' 30 1 = bitOf h.t := by
  unfold wordJ
  refine (BitVec.extractLsb'_append_eq_of_le (by decide)).trans ?_
  refine (BitVec.extractLsb'_append_eq_of_le (by decide)).trans ?_
  refine (BitVec.extractLsb'_append_eq_of_le (by decide)).trans ?_
  exact BitVec.extractLsb'_append_eq_right

@[simp] theorem wordJ_guard (h : Hdr) (op : BitVec 6) (off : BitVec 21) :
    (wordJ h op off).extractLsb' 27 3 = h.g := by
  unfold wordJ
  refine (BitVec.extractLsb'_append_eq_of_le (by decide)).trans ?_
  refine (BitVec.extractLsb'_append_eq_of_le (by decide)).trans ?_
  exact BitVec.extractLsb'_append_eq_right

@[simp] theorem wordJ_op (h : Hdr) (op : BitVec 6) (off : BitVec 21) :
    (wordJ h op off).extractLsb' 21 6 = op := by
  unfold wordJ
  refine (BitVec.extractLsb'_append_eq_of_le (by decide)).trans ?_
  exact BitVec.extractLsb'_append_eq_right

@[simp] theorem wordJ_off (h : Hdr) (op : BitVec 6) (off : BitVec 21) :
    (wordJ h op off).extractLsb' 0 21 = off := by
  unfold wordJ
  exact BitVec.extractLsb'_append_eq_right

@[simp] theorem wordJ_hdr (h : Hdr) (op : BitVec 6) (off : BitVec 21) :
    hdrOf (wordJ h op off) = h := by
  simp [hdrOf, bitOf_beq_one]

@[simp] theorem wordC_wflag (h : Hdr) (op : BitVec 6) (p : BitVec 3) (k : BitVec 3) (a : BitVec 5) (b : BitVec 5) (z : BitVec 5) :
    (wordC h op p k a b z).extractLsb' 31 1 = bitOf h.w := by
  unfold wordC
  refine (BitVec.extractLsb'_append_eq_of_le (by decide)).trans ?_
  refine (BitVec.extractLsb'_append_eq_of_le (by decide)).trans ?_
  refine (BitVec.extractLsb'_append_eq_of_le (by decide)).trans ?_
  refine (BitVec.extractLsb'_append_eq_of_le (by decide)).trans ?_
  refine (BitVec.extractLsb'_append_eq_of_le (by decide)).trans ?_
  refine (BitVec.extractLsb'_append_eq_of_le (by decide)).trans ?_
  refine (BitVec.extractLsb'_append_eq_of_le (by decide)).trans ?_
  refine (BitVec.extractLsb'_append_eq_of_le (by decide)).trans ?_
  exact BitVec.extractLsb'_eq_self

@[simp] theorem wordC_tflag (h : Hdr) (op : BitVec 6) (p : BitVec 3) (k : BitVec 3) (a : BitVec 5) (b : BitVec 5) (z : BitVec 5) :
    (wordC h op p k a b z).extractLsb' 30 1 = bitOf h.t := by
  unfold wordC
  refine (BitVec.extractLsb'_append_eq_of_le (by decide)).trans ?_
  refine (BitVec.extractLsb'_append_eq_of_le (by decide)).trans ?_
  refine (BitVec.extractLsb'_append_eq_of_le (by decide)).trans ?_
  refine (BitVec.extractLsb'_append_eq_of_le (by decide)).trans ?_
  refine (BitVec.extractLsb'_append_eq_of_le (by decide)).trans ?_
  refine (BitVec.extractLsb'_append_eq_of_le (by decide)).trans ?_
  refine (BitVec.extractLsb'_append_eq_of_le (by decide)).trans ?_
  exact BitVec.extractLsb'_append_eq_right

@[simp] theorem wordC_guard (h : Hdr) (op : BitVec 6) (p : BitVec 3) (k : BitVec 3) (a : BitVec 5) (b : BitVec 5) (z : BitVec 5) :
    (wordC h op p k a b z).extractLsb' 27 3 = h.g := by
  unfold wordC
  refine (BitVec.extractLsb'_append_eq_of_le (by decide)).trans ?_
  refine (BitVec.extractLsb'_append_eq_of_le (by decide)).trans ?_
  refine (BitVec.extractLsb'_append_eq_of_le (by decide)).trans ?_
  refine (BitVec.extractLsb'_append_eq_of_le (by decide)).trans ?_
  refine (BitVec.extractLsb'_append_eq_of_le (by decide)).trans ?_
  refine (BitVec.extractLsb'_append_eq_of_le (by decide)).trans ?_
  exact BitVec.extractLsb'_append_eq_right

@[simp] theorem wordC_op (h : Hdr) (op : BitVec 6) (p : BitVec 3) (k : BitVec 3) (a : BitVec 5) (b : BitVec 5) (z : BitVec 5) :
    (wordC h op p k a b z).extractLsb' 21 6 = op := by
  unfold wordC
  refine (BitVec.extractLsb'_append_eq_of_le (by decide)).trans ?_
  refine (BitVec.extractLsb'_append_eq_of_le (by decide)).trans ?_
  refine (BitVec.extractLsb'_append_eq_of_le (by decide)).trans ?_
  refine (BitVec.extractLsb'_append_eq_of_le (by decide)).trans ?_
  refine (BitVec.extractLsb'_append_eq_of_le (by decide)).trans ?_
  exact BitVec.extractLsb'_append_eq_right

@[simp] theorem wordC_p (h : Hdr) (op : BitVec 6) (p : BitVec 3) (k : BitVec 3) (a : BitVec 5) (b : BitVec 5) (z : BitVec 5) :
    (wordC h op p k a b z).extractLsb' 18 3 = p := by
  unfold wordC
  refine (BitVec.extractLsb'_append_eq_of_le (by decide)).trans ?_
  refine (BitVec.extractLsb'_append_eq_of_le (by decide)).trans ?_
  refine (BitVec.extractLsb'_append_eq_of_le (by decide)).trans ?_
  refine (BitVec.extractLsb'_append_eq_of_le (by decide)).trans ?_
  exact BitVec.extractLsb'_append_eq_right

@[simp] theorem wordC_k (h : Hdr) (op : BitVec 6) (p : BitVec 3) (k : BitVec 3) (a : BitVec 5) (b : BitVec 5) (z : BitVec 5) :
    (wordC h op p k a b z).extractLsb' 15 3 = k := by
  unfold wordC
  refine (BitVec.extractLsb'_append_eq_of_le (by decide)).trans ?_
  refine (BitVec.extractLsb'_append_eq_of_le (by decide)).trans ?_
  refine (BitVec.extractLsb'_append_eq_of_le (by decide)).trans ?_
  exact BitVec.extractLsb'_append_eq_right

@[simp] theorem wordC_a (h : Hdr) (op : BitVec 6) (p : BitVec 3) (k : BitVec 3) (a : BitVec 5) (b : BitVec 5) (z : BitVec 5) :
    (wordC h op p k a b z).extractLsb' 10 5 = a := by
  unfold wordC
  refine (BitVec.extractLsb'_append_eq_of_le (by decide)).trans ?_
  refine (BitVec.extractLsb'_append_eq_of_le (by decide)).trans ?_
  exact BitVec.extractLsb'_append_eq_right

@[simp] theorem wordC_b (h : Hdr) (op : BitVec 6) (p : BitVec 3) (k : BitVec 3) (a : BitVec 5) (b : BitVec 5) (z : BitVec 5) :
    (wordC h op p k a b z).extractLsb' 5 5 = b := by
  unfold wordC
  refine (BitVec.extractLsb'_append_eq_of_le (by decide)).trans ?_
  exact BitVec.extractLsb'_append_eq_right

@[simp] theorem wordC_z (h : Hdr) (op : BitVec 6) (p : BitVec 3) (k : BitVec 3) (a : BitVec 5) (b : BitVec 5) (z : BitVec 5) :
    (wordC h op p k a b z).extractLsb' 0 5 = z := by
  unfold wordC
  exact BitVec.extractLsb'_append_eq_right

@[simp] theorem wordC_hdr (h : Hdr) (op : BitVec 6) (p : BitVec 3) (k : BitVec 3) (a : BitVec 5) (b : BitVec 5) (z : BitVec 5) :
    hdrOf (wordC h op p k a b z) = h := by
  simp [hdrOf, bitOf_beq_one]

@[simp] theorem wordLP_wflag (h : Hdr) (op : BitVec 6) (a : BitVec 5) (ex : BitVec 4) (len : BitVec 12) :
    (wordLP h op a ex len).extractLsb' 31 1 = bitOf h.w := by
  unfold wordLP
  refine (BitVec.extractLsb'_append_eq_of_le (by decide)).trans ?_
  refine (BitVec.extractLsb'_append_eq_of_le (by decide)).trans ?_
  refine (BitVec.extractLsb'_append_eq_of_le (by decide)).trans ?_
  refine (BitVec.extractLsb'_append_eq_of_le (by decide)).trans ?_
  refine (BitVec.extractLsb'_append_eq_of_le (by decide)).trans ?_
  refine (BitVec.extractLsb'_append_eq_of_le (by decide)).trans ?_
  exact BitVec.extractLsb'_eq_self

@[simp] theorem wordLP_tflag (h : Hdr) (op : BitVec 6) (a : BitVec 5) (ex : BitVec 4) (len : BitVec 12) :
    (wordLP h op a ex len).extractLsb' 30 1 = bitOf h.t := by
  unfold wordLP
  refine (BitVec.extractLsb'_append_eq_of_le (by decide)).trans ?_
  refine (BitVec.extractLsb'_append_eq_of_le (by decide)).trans ?_
  refine (BitVec.extractLsb'_append_eq_of_le (by decide)).trans ?_
  refine (BitVec.extractLsb'_append_eq_of_le (by decide)).trans ?_
  refine (BitVec.extractLsb'_append_eq_of_le (by decide)).trans ?_
  exact BitVec.extractLsb'_append_eq_right

@[simp] theorem wordLP_guard (h : Hdr) (op : BitVec 6) (a : BitVec 5) (ex : BitVec 4) (len : BitVec 12) :
    (wordLP h op a ex len).extractLsb' 27 3 = h.g := by
  unfold wordLP
  refine (BitVec.extractLsb'_append_eq_of_le (by decide)).trans ?_
  refine (BitVec.extractLsb'_append_eq_of_le (by decide)).trans ?_
  refine (BitVec.extractLsb'_append_eq_of_le (by decide)).trans ?_
  refine (BitVec.extractLsb'_append_eq_of_le (by decide)).trans ?_
  exact BitVec.extractLsb'_append_eq_right

@[simp] theorem wordLP_op (h : Hdr) (op : BitVec 6) (a : BitVec 5) (ex : BitVec 4) (len : BitVec 12) :
    (wordLP h op a ex len).extractLsb' 21 6 = op := by
  unfold wordLP
  refine (BitVec.extractLsb'_append_eq_of_le (by decide)).trans ?_
  refine (BitVec.extractLsb'_append_eq_of_le (by decide)).trans ?_
  refine (BitVec.extractLsb'_append_eq_of_le (by decide)).trans ?_
  exact BitVec.extractLsb'_append_eq_right

@[simp] theorem wordLP_a (h : Hdr) (op : BitVec 6) (a : BitVec 5) (ex : BitVec 4) (len : BitVec 12) :
    (wordLP h op a ex len).extractLsb' 16 5 = a := by
  unfold wordLP
  refine (BitVec.extractLsb'_append_eq_of_le (by decide)).trans ?_
  refine (BitVec.extractLsb'_append_eq_of_le (by decide)).trans ?_
  exact BitVec.extractLsb'_append_eq_right

@[simp] theorem wordLP_ex (h : Hdr) (op : BitVec 6) (a : BitVec 5) (ex : BitVec 4) (len : BitVec 12) :
    (wordLP h op a ex len).extractLsb' 12 4 = ex := by
  unfold wordLP
  refine (BitVec.extractLsb'_append_eq_of_le (by decide)).trans ?_
  exact BitVec.extractLsb'_append_eq_right

@[simp] theorem wordLP_len (h : Hdr) (op : BitVec 6) (a : BitVec 5) (ex : BitVec 4) (len : BitVec 12) :
    (wordLP h op a ex len).extractLsb' 0 12 = len := by
  unfold wordLP
  exact BitVec.extractLsb'_append_eq_right

@[simp] theorem wordLP_hdr (h : Hdr) (op : BitVec 6) (a : BitVec 5) (ex : BitVec 4) (len : BitVec 12) :
    hdrOf (wordLP h op a ex len) = h := by
  simp [hdrOf, bitOf_beq_one]

@[simp] theorem wordMX_wflag (h : Hdr) (op : BitVec 6) (c : BitVec 2) (a : BitVec 4) (b : BitVec 4) (p : BitVec 3) (q : BitVec 3) (fn : BitVec 5) :
    (wordMX h op c a b p q fn).extractLsb' 31 1 = bitOf h.w := by
  unfold wordMX
  refine (BitVec.extractLsb'_append_eq_of_le (by decide)).trans ?_
  refine (BitVec.extractLsb'_append_eq_of_le (by decide)).trans ?_
  refine (BitVec.extractLsb'_append_eq_of_le (by decide)).trans ?_
  refine (BitVec.extractLsb'_append_eq_of_le (by decide)).trans ?_
  refine (BitVec.extractLsb'_append_eq_of_le (by decide)).trans ?_
  refine (BitVec.extractLsb'_append_eq_of_le (by decide)).trans ?_
  refine (BitVec.extractLsb'_append_eq_of_le (by decide)).trans ?_
  refine (BitVec.extractLsb'_append_eq_of_le (by decide)).trans ?_
  refine (BitVec.extractLsb'_append_eq_of_le (by decide)).trans ?_
  exact BitVec.extractLsb'_eq_self

@[simp] theorem wordMX_tflag (h : Hdr) (op : BitVec 6) (c : BitVec 2) (a : BitVec 4) (b : BitVec 4) (p : BitVec 3) (q : BitVec 3) (fn : BitVec 5) :
    (wordMX h op c a b p q fn).extractLsb' 30 1 = bitOf h.t := by
  unfold wordMX
  refine (BitVec.extractLsb'_append_eq_of_le (by decide)).trans ?_
  refine (BitVec.extractLsb'_append_eq_of_le (by decide)).trans ?_
  refine (BitVec.extractLsb'_append_eq_of_le (by decide)).trans ?_
  refine (BitVec.extractLsb'_append_eq_of_le (by decide)).trans ?_
  refine (BitVec.extractLsb'_append_eq_of_le (by decide)).trans ?_
  refine (BitVec.extractLsb'_append_eq_of_le (by decide)).trans ?_
  refine (BitVec.extractLsb'_append_eq_of_le (by decide)).trans ?_
  refine (BitVec.extractLsb'_append_eq_of_le (by decide)).trans ?_
  exact BitVec.extractLsb'_append_eq_right

@[simp] theorem wordMX_guard (h : Hdr) (op : BitVec 6) (c : BitVec 2) (a : BitVec 4) (b : BitVec 4) (p : BitVec 3) (q : BitVec 3) (fn : BitVec 5) :
    (wordMX h op c a b p q fn).extractLsb' 27 3 = h.g := by
  unfold wordMX
  refine (BitVec.extractLsb'_append_eq_of_le (by decide)).trans ?_
  refine (BitVec.extractLsb'_append_eq_of_le (by decide)).trans ?_
  refine (BitVec.extractLsb'_append_eq_of_le (by decide)).trans ?_
  refine (BitVec.extractLsb'_append_eq_of_le (by decide)).trans ?_
  refine (BitVec.extractLsb'_append_eq_of_le (by decide)).trans ?_
  refine (BitVec.extractLsb'_append_eq_of_le (by decide)).trans ?_
  refine (BitVec.extractLsb'_append_eq_of_le (by decide)).trans ?_
  exact BitVec.extractLsb'_append_eq_right

@[simp] theorem wordMX_op (h : Hdr) (op : BitVec 6) (c : BitVec 2) (a : BitVec 4) (b : BitVec 4) (p : BitVec 3) (q : BitVec 3) (fn : BitVec 5) :
    (wordMX h op c a b p q fn).extractLsb' 21 6 = op := by
  unfold wordMX
  refine (BitVec.extractLsb'_append_eq_of_le (by decide)).trans ?_
  refine (BitVec.extractLsb'_append_eq_of_le (by decide)).trans ?_
  refine (BitVec.extractLsb'_append_eq_of_le (by decide)).trans ?_
  refine (BitVec.extractLsb'_append_eq_of_le (by decide)).trans ?_
  refine (BitVec.extractLsb'_append_eq_of_le (by decide)).trans ?_
  refine (BitVec.extractLsb'_append_eq_of_le (by decide)).trans ?_
  exact BitVec.extractLsb'_append_eq_right

@[simp] theorem wordMX_c (h : Hdr) (op : BitVec 6) (c : BitVec 2) (a : BitVec 4) (b : BitVec 4) (p : BitVec 3) (q : BitVec 3) (fn : BitVec 5) :
    (wordMX h op c a b p q fn).extractLsb' 19 2 = c := by
  unfold wordMX
  refine (BitVec.extractLsb'_append_eq_of_le (by decide)).trans ?_
  refine (BitVec.extractLsb'_append_eq_of_le (by decide)).trans ?_
  refine (BitVec.extractLsb'_append_eq_of_le (by decide)).trans ?_
  refine (BitVec.extractLsb'_append_eq_of_le (by decide)).trans ?_
  refine (BitVec.extractLsb'_append_eq_of_le (by decide)).trans ?_
  exact BitVec.extractLsb'_append_eq_right

@[simp] theorem wordMX_a (h : Hdr) (op : BitVec 6) (c : BitVec 2) (a : BitVec 4) (b : BitVec 4) (p : BitVec 3) (q : BitVec 3) (fn : BitVec 5) :
    (wordMX h op c a b p q fn).extractLsb' 15 4 = a := by
  unfold wordMX
  refine (BitVec.extractLsb'_append_eq_of_le (by decide)).trans ?_
  refine (BitVec.extractLsb'_append_eq_of_le (by decide)).trans ?_
  refine (BitVec.extractLsb'_append_eq_of_le (by decide)).trans ?_
  refine (BitVec.extractLsb'_append_eq_of_le (by decide)).trans ?_
  exact BitVec.extractLsb'_append_eq_right

@[simp] theorem wordMX_b (h : Hdr) (op : BitVec 6) (c : BitVec 2) (a : BitVec 4) (b : BitVec 4) (p : BitVec 3) (q : BitVec 3) (fn : BitVec 5) :
    (wordMX h op c a b p q fn).extractLsb' 11 4 = b := by
  unfold wordMX
  refine (BitVec.extractLsb'_append_eq_of_le (by decide)).trans ?_
  refine (BitVec.extractLsb'_append_eq_of_le (by decide)).trans ?_
  refine (BitVec.extractLsb'_append_eq_of_le (by decide)).trans ?_
  exact BitVec.extractLsb'_append_eq_right

@[simp] theorem wordMX_p (h : Hdr) (op : BitVec 6) (c : BitVec 2) (a : BitVec 4) (b : BitVec 4) (p : BitVec 3) (q : BitVec 3) (fn : BitVec 5) :
    (wordMX h op c a b p q fn).extractLsb' 8 3 = p := by
  unfold wordMX
  refine (BitVec.extractLsb'_append_eq_of_le (by decide)).trans ?_
  refine (BitVec.extractLsb'_append_eq_of_le (by decide)).trans ?_
  exact BitVec.extractLsb'_append_eq_right

@[simp] theorem wordMX_q (h : Hdr) (op : BitVec 6) (c : BitVec 2) (a : BitVec 4) (b : BitVec 4) (p : BitVec 3) (q : BitVec 3) (fn : BitVec 5) :
    (wordMX h op c a b p q fn).extractLsb' 5 3 = q := by
  unfold wordMX
  refine (BitVec.extractLsb'_append_eq_of_le (by decide)).trans ?_
  exact BitVec.extractLsb'_append_eq_right

@[simp] theorem wordMX_fn (h : Hdr) (op : BitVec 6) (c : BitVec 2) (a : BitVec 4) (b : BitVec 4) (p : BitVec 3) (q : BitVec 3) (fn : BitVec 5) :
    (wordMX h op c a b p q fn).extractLsb' 0 5 = fn := by
  unfold wordMX
  exact BitVec.extractLsb'_append_eq_right

@[simp] theorem wordMX_hdr (h : Hdr) (op : BitVec 6) (c : BitVec 2) (a : BitVec 4) (b : BitVec 4) (p : BitVec 3) (q : BitVec 3) (fn : BitVec 5) :
    hdrOf (wordMX h op c a b p q fn) = h := by
  simp [hdrOf, bitOf_beq_one]

@[simp] theorem wordCP_wflag (h : Hdr) (op : BitVec 6) (d : BitVec 4) (t : BitVec 4) (c : BitVec 5) (fn : BitVec 8) :
    (wordCP h op d t c fn).extractLsb' 31 1 = bitOf h.w := by
  unfold wordCP
  refine (BitVec.extractLsb'_append_eq_of_le (by decide)).trans ?_
  refine (BitVec.extractLsb'_append_eq_of_le (by decide)).trans ?_
  refine (BitVec.extractLsb'_append_eq_of_le (by decide)).trans ?_
  refine (BitVec.extractLsb'_append_eq_of_le (by decide)).trans ?_
  refine (BitVec.extractLsb'_append_eq_of_le (by decide)).trans ?_
  refine (BitVec.extractLsb'_append_eq_of_le (by decide)).trans ?_
  refine (BitVec.extractLsb'_append_eq_of_le (by decide)).trans ?_
  exact BitVec.extractLsb'_eq_self

@[simp] theorem wordCP_tflag (h : Hdr) (op : BitVec 6) (d : BitVec 4) (t : BitVec 4) (c : BitVec 5) (fn : BitVec 8) :
    (wordCP h op d t c fn).extractLsb' 30 1 = bitOf h.t := by
  unfold wordCP
  refine (BitVec.extractLsb'_append_eq_of_le (by decide)).trans ?_
  refine (BitVec.extractLsb'_append_eq_of_le (by decide)).trans ?_
  refine (BitVec.extractLsb'_append_eq_of_le (by decide)).trans ?_
  refine (BitVec.extractLsb'_append_eq_of_le (by decide)).trans ?_
  refine (BitVec.extractLsb'_append_eq_of_le (by decide)).trans ?_
  refine (BitVec.extractLsb'_append_eq_of_le (by decide)).trans ?_
  exact BitVec.extractLsb'_append_eq_right

@[simp] theorem wordCP_guard (h : Hdr) (op : BitVec 6) (d : BitVec 4) (t : BitVec 4) (c : BitVec 5) (fn : BitVec 8) :
    (wordCP h op d t c fn).extractLsb' 27 3 = h.g := by
  unfold wordCP
  refine (BitVec.extractLsb'_append_eq_of_le (by decide)).trans ?_
  refine (BitVec.extractLsb'_append_eq_of_le (by decide)).trans ?_
  refine (BitVec.extractLsb'_append_eq_of_le (by decide)).trans ?_
  refine (BitVec.extractLsb'_append_eq_of_le (by decide)).trans ?_
  refine (BitVec.extractLsb'_append_eq_of_le (by decide)).trans ?_
  exact BitVec.extractLsb'_append_eq_right

@[simp] theorem wordCP_op (h : Hdr) (op : BitVec 6) (d : BitVec 4) (t : BitVec 4) (c : BitVec 5) (fn : BitVec 8) :
    (wordCP h op d t c fn).extractLsb' 21 6 = op := by
  unfold wordCP
  refine (BitVec.extractLsb'_append_eq_of_le (by decide)).trans ?_
  refine (BitVec.extractLsb'_append_eq_of_le (by decide)).trans ?_
  refine (BitVec.extractLsb'_append_eq_of_le (by decide)).trans ?_
  refine (BitVec.extractLsb'_append_eq_of_le (by decide)).trans ?_
  exact BitVec.extractLsb'_append_eq_right

@[simp] theorem wordCP_d (h : Hdr) (op : BitVec 6) (d : BitVec 4) (t : BitVec 4) (c : BitVec 5) (fn : BitVec 8) :
    (wordCP h op d t c fn).extractLsb' 17 4 = d := by
  unfold wordCP
  refine (BitVec.extractLsb'_append_eq_of_le (by decide)).trans ?_
  refine (BitVec.extractLsb'_append_eq_of_le (by decide)).trans ?_
  refine (BitVec.extractLsb'_append_eq_of_le (by decide)).trans ?_
  exact BitVec.extractLsb'_append_eq_right

@[simp] theorem wordCP_t (h : Hdr) (op : BitVec 6) (d : BitVec 4) (t : BitVec 4) (c : BitVec 5) (fn : BitVec 8) :
    (wordCP h op d t c fn).extractLsb' 13 4 = t := by
  unfold wordCP
  refine (BitVec.extractLsb'_append_eq_of_le (by decide)).trans ?_
  refine (BitVec.extractLsb'_append_eq_of_le (by decide)).trans ?_
  exact BitVec.extractLsb'_append_eq_right

@[simp] theorem wordCP_c (h : Hdr) (op : BitVec 6) (d : BitVec 4) (t : BitVec 4) (c : BitVec 5) (fn : BitVec 8) :
    (wordCP h op d t c fn).extractLsb' 8 5 = c := by
  unfold wordCP
  refine (BitVec.extractLsb'_append_eq_of_le (by decide)).trans ?_
  exact BitVec.extractLsb'_append_eq_right

@[simp] theorem wordCP_fn (h : Hdr) (op : BitVec 6) (d : BitVec 4) (t : BitVec 4) (c : BitVec 5) (fn : BitVec 8) :
    (wordCP h op d t c fn).extractLsb' 0 8 = fn := by
  unfold wordCP
  exact BitVec.extractLsb'_append_eq_right

@[simp] theorem wordCP_hdr (h : Hdr) (op : BitVec 6) (d : BitVec 4) (t : BitVec 4) (c : BitVec 5) (fn : BitVec 8) :
    hdrOf (wordCP h op d t c fn) = h := by
  simp [hdrOf, bitOf_beq_one]

@[simp] theorem wordQ_wflag (h : Hdr) (op : BitVec 6) (tt : BitVec 4) (ex : BitVec 1) (z : BitVec 16) :
    (wordQ h op tt ex z).extractLsb' 31 1 = bitOf h.w := by
  unfold wordQ
  refine (BitVec.extractLsb'_append_eq_of_le (by decide)).trans ?_
  refine (BitVec.extractLsb'_append_eq_of_le (by decide)).trans ?_
  refine (BitVec.extractLsb'_append_eq_of_le (by decide)).trans ?_
  refine (BitVec.extractLsb'_append_eq_of_le (by decide)).trans ?_
  refine (BitVec.extractLsb'_append_eq_of_le (by decide)).trans ?_
  refine (BitVec.extractLsb'_append_eq_of_le (by decide)).trans ?_
  exact BitVec.extractLsb'_eq_self

@[simp] theorem wordQ_tflag (h : Hdr) (op : BitVec 6) (tt : BitVec 4) (ex : BitVec 1) (z : BitVec 16) :
    (wordQ h op tt ex z).extractLsb' 30 1 = bitOf h.t := by
  unfold wordQ
  refine (BitVec.extractLsb'_append_eq_of_le (by decide)).trans ?_
  refine (BitVec.extractLsb'_append_eq_of_le (by decide)).trans ?_
  refine (BitVec.extractLsb'_append_eq_of_le (by decide)).trans ?_
  refine (BitVec.extractLsb'_append_eq_of_le (by decide)).trans ?_
  refine (BitVec.extractLsb'_append_eq_of_le (by decide)).trans ?_
  exact BitVec.extractLsb'_append_eq_right

@[simp] theorem wordQ_guard (h : Hdr) (op : BitVec 6) (tt : BitVec 4) (ex : BitVec 1) (z : BitVec 16) :
    (wordQ h op tt ex z).extractLsb' 27 3 = h.g := by
  unfold wordQ
  refine (BitVec.extractLsb'_append_eq_of_le (by decide)).trans ?_
  refine (BitVec.extractLsb'_append_eq_of_le (by decide)).trans ?_
  refine (BitVec.extractLsb'_append_eq_of_le (by decide)).trans ?_
  refine (BitVec.extractLsb'_append_eq_of_le (by decide)).trans ?_
  exact BitVec.extractLsb'_append_eq_right

@[simp] theorem wordQ_op (h : Hdr) (op : BitVec 6) (tt : BitVec 4) (ex : BitVec 1) (z : BitVec 16) :
    (wordQ h op tt ex z).extractLsb' 21 6 = op := by
  unfold wordQ
  refine (BitVec.extractLsb'_append_eq_of_le (by decide)).trans ?_
  refine (BitVec.extractLsb'_append_eq_of_le (by decide)).trans ?_
  refine (BitVec.extractLsb'_append_eq_of_le (by decide)).trans ?_
  exact BitVec.extractLsb'_append_eq_right

@[simp] theorem wordQ_tt (h : Hdr) (op : BitVec 6) (tt : BitVec 4) (ex : BitVec 1) (z : BitVec 16) :
    (wordQ h op tt ex z).extractLsb' 17 4 = tt := by
  unfold wordQ
  refine (BitVec.extractLsb'_append_eq_of_le (by decide)).trans ?_
  refine (BitVec.extractLsb'_append_eq_of_le (by decide)).trans ?_
  exact BitVec.extractLsb'_append_eq_right

@[simp] theorem wordQ_ex (h : Hdr) (op : BitVec 6) (tt : BitVec 4) (ex : BitVec 1) (z : BitVec 16) :
    (wordQ h op tt ex z).extractLsb' 16 1 = ex := by
  unfold wordQ
  refine (BitVec.extractLsb'_append_eq_of_le (by decide)).trans ?_
  exact BitVec.extractLsb'_append_eq_right

@[simp] theorem wordQ_z (h : Hdr) (op : BitVec 6) (tt : BitVec 4) (ex : BitVec 1) (z : BitVec 16) :
    (wordQ h op tt ex z).extractLsb' 0 16 = z := by
  unfold wordQ
  exact BitVec.extractLsb'_append_eq_right

@[simp] theorem wordQ_hdr (h : Hdr) (op : BitVec 6) (tt : BitVec 4) (ex : BitVec 1) (z : BitVec 16) :
    hdrOf (wordQ h op tt ex z) = h := by
  simp [hdrOf, bitOf_beq_one]

@[simp] theorem wordU_op (op : BitVec 5) (d a b : BitVec 4) (x : BitVec 15) :
    (wordU op d a b x).extractLsb' 27 5 = op := by
  unfold wordU
  refine (BitVec.extractLsb'_append_eq_of_le (by decide)).trans ?_
  refine (BitVec.extractLsb'_append_eq_of_le (by decide)).trans ?_
  refine (BitVec.extractLsb'_append_eq_of_le (by decide)).trans ?_
  refine (BitVec.extractLsb'_append_eq_of_le (by decide)).trans ?_
  exact BitVec.extractLsb'_eq_self

@[simp] theorem wordU_d (op : BitVec 5) (d a b : BitVec 4) (x : BitVec 15) :
    (wordU op d a b x).extractLsb' 23 4 = d := by
  unfold wordU
  refine (BitVec.extractLsb'_append_eq_of_le (by decide)).trans ?_
  refine (BitVec.extractLsb'_append_eq_of_le (by decide)).trans ?_
  refine (BitVec.extractLsb'_append_eq_of_le (by decide)).trans ?_
  exact BitVec.extractLsb'_append_eq_right

@[simp] theorem wordU_a (op : BitVec 5) (d a b : BitVec 4) (x : BitVec 15) :
    (wordU op d a b x).extractLsb' 19 4 = a := by
  unfold wordU
  refine (BitVec.extractLsb'_append_eq_of_le (by decide)).trans ?_
  refine (BitVec.extractLsb'_append_eq_of_le (by decide)).trans ?_
  exact BitVec.extractLsb'_append_eq_right

@[simp] theorem wordU_b (op : BitVec 5) (d a b : BitVec 4) (x : BitVec 15) :
    (wordU op d a b x).extractLsb' 15 4 = b := by
  unfold wordU
  refine (BitVec.extractLsb'_append_eq_of_le (by decide)).trans ?_
  exact BitVec.extractLsb'_append_eq_right

@[simp] theorem wordU_x (op : BitVec 5) (d a b : BitVec 4) (x : BitVec 15) :
    (wordU op d a b x).extractLsb' 0 15 = x := by
  unfold wordU
  exact BitVec.extractLsb'_append_eq_right

@[simp] theorem wordD_q (q l : BitVec 1) (sc : BitVec 2) (z : BitVec 3) (rs2 a : BitVec 5) (f3 : BitVec 3)
    (d : BitVec 5) (opc : BitVec 7) :
    (wordD q l sc z rs2 a f3 d opc).extractLsb' 31 1 = q := by
  unfold wordD
  refine (BitVec.extractLsb'_append_eq_of_le (by decide)).trans ?_
  refine (BitVec.extractLsb'_append_eq_of_le (by decide)).trans ?_
  refine (BitVec.extractLsb'_append_eq_of_le (by decide)).trans ?_
  refine (BitVec.extractLsb'_append_eq_of_le (by decide)).trans ?_
  refine (BitVec.extractLsb'_append_eq_of_le (by decide)).trans ?_
  refine (BitVec.extractLsb'_append_eq_of_le (by decide)).trans ?_
  refine (BitVec.extractLsb'_append_eq_of_le (by decide)).trans ?_
  refine (BitVec.extractLsb'_append_eq_of_le (by decide)).trans ?_
  exact BitVec.extractLsb'_eq_self

@[simp] theorem wordD_l (q l : BitVec 1) (sc : BitVec 2) (z : BitVec 3) (rs2 a : BitVec 5) (f3 : BitVec 3)
    (d : BitVec 5) (opc : BitVec 7) :
    (wordD q l sc z rs2 a f3 d opc).extractLsb' 30 1 = l := by
  unfold wordD
  refine (BitVec.extractLsb'_append_eq_of_le (by decide)).trans ?_
  refine (BitVec.extractLsb'_append_eq_of_le (by decide)).trans ?_
  refine (BitVec.extractLsb'_append_eq_of_le (by decide)).trans ?_
  refine (BitVec.extractLsb'_append_eq_of_le (by decide)).trans ?_
  refine (BitVec.extractLsb'_append_eq_of_le (by decide)).trans ?_
  refine (BitVec.extractLsb'_append_eq_of_le (by decide)).trans ?_
  refine (BitVec.extractLsb'_append_eq_of_le (by decide)).trans ?_
  exact BitVec.extractLsb'_append_eq_right

@[simp] theorem wordD_sc (q l : BitVec 1) (sc : BitVec 2) (z : BitVec 3) (rs2 a : BitVec 5) (f3 : BitVec 3)
    (d : BitVec 5) (opc : BitVec 7) :
    (wordD q l sc z rs2 a f3 d opc).extractLsb' 28 2 = sc := by
  unfold wordD
  refine (BitVec.extractLsb'_append_eq_of_le (by decide)).trans ?_
  refine (BitVec.extractLsb'_append_eq_of_le (by decide)).trans ?_
  refine (BitVec.extractLsb'_append_eq_of_le (by decide)).trans ?_
  refine (BitVec.extractLsb'_append_eq_of_le (by decide)).trans ?_
  refine (BitVec.extractLsb'_append_eq_of_le (by decide)).trans ?_
  refine (BitVec.extractLsb'_append_eq_of_le (by decide)).trans ?_
  exact BitVec.extractLsb'_append_eq_right

@[simp] theorem wordD_z (q l : BitVec 1) (sc : BitVec 2) (z : BitVec 3) (rs2 a : BitVec 5) (f3 : BitVec 3)
    (d : BitVec 5) (opc : BitVec 7) :
    (wordD q l sc z rs2 a f3 d opc).extractLsb' 25 3 = z := by
  unfold wordD
  refine (BitVec.extractLsb'_append_eq_of_le (by decide)).trans ?_
  refine (BitVec.extractLsb'_append_eq_of_le (by decide)).trans ?_
  refine (BitVec.extractLsb'_append_eq_of_le (by decide)).trans ?_
  refine (BitVec.extractLsb'_append_eq_of_le (by decide)).trans ?_
  refine (BitVec.extractLsb'_append_eq_of_le (by decide)).trans ?_
  exact BitVec.extractLsb'_append_eq_right

@[simp] theorem wordD_rs2 (q l : BitVec 1) (sc : BitVec 2) (z : BitVec 3) (rs2 a : BitVec 5) (f3 : BitVec 3)
    (d : BitVec 5) (opc : BitVec 7) :
    (wordD q l sc z rs2 a f3 d opc).extractLsb' 20 5 = rs2 := by
  unfold wordD
  refine (BitVec.extractLsb'_append_eq_of_le (by decide)).trans ?_
  refine (BitVec.extractLsb'_append_eq_of_le (by decide)).trans ?_
  refine (BitVec.extractLsb'_append_eq_of_le (by decide)).trans ?_
  refine (BitVec.extractLsb'_append_eq_of_le (by decide)).trans ?_
  exact BitVec.extractLsb'_append_eq_right

@[simp] theorem wordD_a (q l : BitVec 1) (sc : BitVec 2) (z : BitVec 3) (rs2 a : BitVec 5) (f3 : BitVec 3)
    (d : BitVec 5) (opc : BitVec 7) :
    (wordD q l sc z rs2 a f3 d opc).extractLsb' 15 5 = a := by
  unfold wordD
  refine (BitVec.extractLsb'_append_eq_of_le (by decide)).trans ?_
  refine (BitVec.extractLsb'_append_eq_of_le (by decide)).trans ?_
  refine (BitVec.extractLsb'_append_eq_of_le (by decide)).trans ?_
  exact BitVec.extractLsb'_append_eq_right

@[simp] theorem wordD_f3 (q l : BitVec 1) (sc : BitVec 2) (z : BitVec 3) (rs2 a : BitVec 5) (f3 : BitVec 3)
    (d : BitVec 5) (opc : BitVec 7) :
    (wordD q l sc z rs2 a f3 d opc).extractLsb' 12 3 = f3 := by
  unfold wordD
  refine (BitVec.extractLsb'_append_eq_of_le (by decide)).trans ?_
  refine (BitVec.extractLsb'_append_eq_of_le (by decide)).trans ?_
  exact BitVec.extractLsb'_append_eq_right

@[simp] theorem wordD_d (q l : BitVec 1) (sc : BitVec 2) (z : BitVec 3) (rs2 a : BitVec 5) (f3 : BitVec 3)
    (d : BitVec 5) (opc : BitVec 7) :
    (wordD q l sc z rs2 a f3 d opc).extractLsb' 7 5 = d := by
  unfold wordD
  refine (BitVec.extractLsb'_append_eq_of_le (by decide)).trans ?_
  exact BitVec.extractLsb'_append_eq_right

@[simp] theorem wordD_opc (q l : BitVec 1) (sc : BitVec 2) (z : BitVec 3) (rs2 a : BitVec 5) (f3 : BitVec 3)
    (d : BitVec 5) (opc : BitVec 7) :
    (wordD q l sc z rs2 a f3 d opc).extractLsb' 0 7 = opc := by
  unfold wordD
  exact BitVec.extractLsb'_append_eq_right

end Sys2Proof
end

