-- ==== Sys2Proof/Laws/State.lean ====
section
/-!
SUPPORT. What reading a field after an update gives: maps and banks, every record update of the state and of a core,
one lemma per field.
-/
namespace Sys2Proof.Machine
open Sys2Proof

/-! ## Maps and banks -/

@[simp] theorem mget_mset_same {α : Type} (m : Map α) (a : Nat) (x : α) : mget (mset m a x) a = some x := by
  induction m with
  | nil => simp [mset, mget]
  | cons p m ih =>
    obtain ⟨k, v⟩ := p
    unfold mset
    split
    · simp [mget]
    · split
      · simp [mget]
      · rename_i h
        simp [mget, ih, Ne.symm h]

theorem mget_mset_ne {α : Type} (m : Map α) {a b : Nat} (x : α) (h : b ≠ a) :
    mget (mset m a x) b = mget m b := by
  induction m with
  | nil => simp [mset, mget, Ne.symm h]
  | cons p m ih =>
    obtain ⟨k, v⟩ := p
    unfold mset
    split
    · simp [mget, Ne.symm h]
    · split
      · rename_i h2
        subst h2
        simp [mget, Ne.symm h]
      · simp [mget, ih]

theorem mget_mset {α : Type} (m : Map α) (a b : Nat) (x : α) :
    mget (mset m a x) b = if b = a then some x else mget m b := by
  split
  · next h => subst h; exact mget_mset_same m b x
  · next h => exact mget_mset_ne m x h

@[simp] theorem mset_mset {α : Type} (m : Map α) (a : Nat) (x y : α) : mset (mset m a x) a y = mset m a y := by
  induction m with
  | nil => simp [mset]
  | cons p m ih =>
    obtain ⟨k, v⟩ := p
    simp only [mset]
    split
    · simp [mset]
    · split
      · simp [mset]
      · simp [mset, *]

theorem mgetD_mset {α : Type} (m : Map α) (a b : Nat) (x d : α) :
    mgetD (mset m a x) b d = if b = a then x else mgetD m b d := by
  unfold mgetD
  rw [mget_mset]
  split <;> rfl

@[simp] theorem mgetD_mset_same {α : Type} (m : Map α) (a : Nat) (x d : α) : mgetD (mset m a x) a d = x := by
  simp [mgetD]

theorem bget_bset {α : Type} {w : Nat} (b : Bank α w) (i j : BitVec w) (x : α) :
    bget (bset b i x) j = if j = i then x else bget b j := by
  unfold bget bset
  rw [Vector.getElem_set]
  by_cases h : j = i
  · subst h; simp
  · have h2 : i.toNat ≠ j.toNat := fun e => h (BitVec.eq_of_toNat_eq e.symm)
    simp [h, h2]

@[simp] theorem bget_bset_same {α : Type} {w : Nat} (b : Bank α w) (i : BitVec w) (x : α) :
    bget (bset b i x) i = x := by simp [bget_bset]

@[simp] theorem bset_bget {α : Type} {w : Nat} (b : Bank α w) (i : BitVec w) : bset b i (bget b i) = b := by
  unfold bset bget
  exact Vector.set_getElem_self i.isLt

@[simp] theorem bget_bfill {α : Type} {w : Nat} (x : α) (i : BitVec w) : bget (bfill w x) i = x := by
  simp [bget, bfill]

/-! ## Cores of the state -/

@[simp] theorem coreOf_setCore_same (s : State) (c : Nat) (k : Core) : coreOf (setCore s c k) c = k := by
  simp [coreOf, setCore]

theorem coreOf_setCore (s : State) (c d : Nat) (k : Core) :
    coreOf (setCore s c k) d = if d = c then k else coreOf s d := by
  simp only [coreOf, setCore]
  exact mgetD_mset ..

theorem coreOf_modCore (s : State) (c d : Nat) (f : Core → Core) :
    coreOf (modCore s c f) d = if d = c then f (coreOf s c) else coreOf s d := coreOf_setCore ..

@[simp] theorem coreOf_modCore_same (s : State) (c : Nat) (f : Core → Core) :
    coreOf (modCore s c f) c = f (coreOf s c) := by simp [modCore]

@[simp] theorem setCore_setCore (s : State) (c : Nat) (k k' : Core) : setCore (setCore s c k) c k' = setCore s c k' := by
  simp [setCore]

@[simp] theorem modCore_setCore (s : State) (c : Nat) (k : Core) (f : Core → Core) :
    modCore (setCore s c k) c f = setCore s c (f k) := by simp [modCore]

@[simp] theorem setCore_modCore (s : State) (c : Nat) (k : Core) (f : Core → Core) :
    setCore (modCore s c f) c k = setCore s c k := by simp [modCore]

@[simp] theorem modCore_modCore (s : State) (c : Nat) (f g : Core → Core) :
    modCore (modCore s c f) c g = modCore s c fun k => g (f k) := by simp [modCore]

@[simp] theorem setCore_me (s : State) (c : Nat) (k : Core) : (setCore s c k).me = s.me := rfl
@[simp] theorem modCore_me (s : State) (c : Nat) (f : Core → Core) : (modCore s c f).me = s.me := rfl

/-! ## Record updates of the state -/

/-! ### setCore -/

@[simp] theorem setCore_turn (s : State) (c : Nat) (k : Core) : (setCore s c k).turn = s.turn := rfl
@[simp] theorem setCore_agenda (s : State) (c : Nat) (k : Core) : (setCore s c k).agenda = s.agenda := rfl
@[simp] theorem setCore_cycle (s : State) (c : Nat) (k : Core) : (setCore s c k).cycle = s.cycle := rfl
@[simp] theorem setCore_freeCtr (s : State) (c : Nat) (k : Core) : (setCore s c k).freeCtr = s.freeCtr := rfl
@[simp] theorem setCore_cores (s : State) (c : Nat) (k : Core) : (setCore s c k).cores = mset s.cores c k := rfl
@[simp] theorem setCore_phys (s : State) (c : Nat) (k : Core) : (setCore s c k).phys = s.phys := rfl
@[simp] theorem setCore_homes (s : State) (c : Nat) (k : Core) : (setCore s c k).homes = s.homes := rfl
@[simp] theorem setCore_grants (s : State) (c : Nat) (k : Core) : (setCore s c k).grants = s.grants := rfl
@[simp] theorem setCore_sched (s : State) (c : Nat) (k : Core) : (setCore s c k).sched = s.sched := rfl
@[simp] theorem setCore_parcels (s : State) (c : Nat) (k : Core) : (setCore s c k).parcels = s.parcels := rfl
@[simp] theorem setCore_cad (s : State) (c : Nat) (k : Core) : (setCore s c k).cad = s.cad := rfl
@[simp] theorem setCore_harts (s : State) (c : Nat) (k : Core) : (setCore s c k).harts = s.harts := rfl
@[simp] theorem setCore_futures (s : State) (c : Nat) (k : Core) : (setCore s c k).futures = s.futures := rfl
@[simp] theorem setCore_tree (s : State) (c : Nat) (k : Core) : (setCore s c k).tree = s.tree := rfl
@[simp] theorem setCore_commit (s : State) (c : Nat) (k : Core) : (setCore s c k).commit = s.commit := rfl
@[simp] theorem setCore_host (s : State) (c : Nat) (k : Core) : (setCore s c k).host = s.host := rfl
@[simp] theorem setCore_mgmt (s : State) (c : Nat) (k : Core) : (setCore s c k).mgmt = s.mgmt := rfl
@[simp] theorem setCore_xl (s : State) (c : Nat) (k : Core) : (setCore s c k).xl = s.xl := rfl
@[simp] theorem setCore_mesh (s : State) (c : Nat) (k : Core) : (setCore s c k).mesh = s.mesh := rfl
@[simp] theorem setCore_blocked (s : State) (c : Nat) (k : Core) : (setCore s c k).blocked = s.blocked := rfl
@[simp] theorem setCore_devMiss (s : State) (c : Nat) (k : Core) : (setCore s c k).devMiss = s.devMiss := rfl

/-! ### modCore -/

@[simp] theorem modCore_turn (s : State) (c : Nat) (f : Core → Core) : (modCore s c f).turn = s.turn := rfl
@[simp] theorem modCore_agenda (s : State) (c : Nat) (f : Core → Core) : (modCore s c f).agenda = s.agenda := rfl
@[simp] theorem modCore_cycle (s : State) (c : Nat) (f : Core → Core) : (modCore s c f).cycle = s.cycle := rfl
@[simp] theorem modCore_freeCtr (s : State) (c : Nat) (f : Core → Core) : (modCore s c f).freeCtr = s.freeCtr := rfl
@[simp] theorem modCore_cores (s : State) (c : Nat) (f : Core → Core) : (modCore s c f).cores = mset s.cores c (f (coreOf s c)) := rfl
@[simp] theorem modCore_phys (s : State) (c : Nat) (f : Core → Core) : (modCore s c f).phys = s.phys := rfl
@[simp] theorem modCore_homes (s : State) (c : Nat) (f : Core → Core) : (modCore s c f).homes = s.homes := rfl
@[simp] theorem modCore_grants (s : State) (c : Nat) (f : Core → Core) : (modCore s c f).grants = s.grants := rfl
@[simp] theorem modCore_sched (s : State) (c : Nat) (f : Core → Core) : (modCore s c f).sched = s.sched := rfl
@[simp] theorem modCore_parcels (s : State) (c : Nat) (f : Core → Core) : (modCore s c f).parcels = s.parcels := rfl
@[simp] theorem modCore_cad (s : State) (c : Nat) (f : Core → Core) : (modCore s c f).cad = s.cad := rfl
@[simp] theorem modCore_harts (s : State) (c : Nat) (f : Core → Core) : (modCore s c f).harts = s.harts := rfl
@[simp] theorem modCore_futures (s : State) (c : Nat) (f : Core → Core) : (modCore s c f).futures = s.futures := rfl
@[simp] theorem modCore_tree (s : State) (c : Nat) (f : Core → Core) : (modCore s c f).tree = s.tree := rfl
@[simp] theorem modCore_commit (s : State) (c : Nat) (f : Core → Core) : (modCore s c f).commit = s.commit := rfl
@[simp] theorem modCore_host (s : State) (c : Nat) (f : Core → Core) : (modCore s c f).host = s.host := rfl
@[simp] theorem modCore_mgmt (s : State) (c : Nat) (f : Core → Core) : (modCore s c f).mgmt = s.mgmt := rfl
@[simp] theorem modCore_xl (s : State) (c : Nat) (f : Core → Core) : (modCore s c f).xl = s.xl := rfl
@[simp] theorem modCore_mesh (s : State) (c : Nat) (f : Core → Core) : (modCore s c f).mesh = s.mesh := rfl
@[simp] theorem modCore_blocked (s : State) (c : Nat) (f : Core → Core) : (modCore s c f).blocked = s.blocked := rfl
@[simp] theorem modCore_devMiss (s : State) (c : Nat) (f : Core → Core) : (modCore s c f).devMiss = s.devMiss := rfl

/-! ### modParcel -/

@[simp] theorem modParcel_turn (s : State) (p : Nat) (f : Parcel → Parcel) : (modParcel s p f).turn = s.turn := rfl
@[simp] theorem modParcel_agenda (s : State) (p : Nat) (f : Parcel → Parcel) : (modParcel s p f).agenda = s.agenda := rfl
@[simp] theorem modParcel_cycle (s : State) (p : Nat) (f : Parcel → Parcel) : (modParcel s p f).cycle = s.cycle := rfl
@[simp] theorem modParcel_freeCtr (s : State) (p : Nat) (f : Parcel → Parcel) : (modParcel s p f).freeCtr = s.freeCtr := rfl
@[simp] theorem modParcel_cores (s : State) (p : Nat) (f : Parcel → Parcel) : (modParcel s p f).cores = s.cores := rfl
@[simp] theorem modParcel_phys (s : State) (p : Nat) (f : Parcel → Parcel) : (modParcel s p f).phys = s.phys := rfl
@[simp] theorem modParcel_homes (s : State) (p : Nat) (f : Parcel → Parcel) : (modParcel s p f).homes = s.homes := rfl
@[simp] theorem modParcel_grants (s : State) (p : Nat) (f : Parcel → Parcel) : (modParcel s p f).grants = s.grants := rfl
@[simp] theorem modParcel_sched (s : State) (p : Nat) (f : Parcel → Parcel) : (modParcel s p f).sched = s.sched := rfl
@[simp] theorem modParcel_parcels (s : State) (p : Nat) (f : Parcel → Parcel) : (modParcel s p f).parcels = mset s.parcels p (f (parcelOf s p)) := rfl
@[simp] theorem modParcel_cad (s : State) (p : Nat) (f : Parcel → Parcel) : (modParcel s p f).cad = s.cad := rfl
@[simp] theorem modParcel_harts (s : State) (p : Nat) (f : Parcel → Parcel) : (modParcel s p f).harts = s.harts := rfl
@[simp] theorem modParcel_futures (s : State) (p : Nat) (f : Parcel → Parcel) : (modParcel s p f).futures = s.futures := rfl
@[simp] theorem modParcel_tree (s : State) (p : Nat) (f : Parcel → Parcel) : (modParcel s p f).tree = s.tree := rfl
@[simp] theorem modParcel_commit (s : State) (p : Nat) (f : Parcel → Parcel) : (modParcel s p f).commit = s.commit := rfl
@[simp] theorem modParcel_host (s : State) (p : Nat) (f : Parcel → Parcel) : (modParcel s p f).host = s.host := rfl
@[simp] theorem modParcel_mgmt (s : State) (p : Nat) (f : Parcel → Parcel) : (modParcel s p f).mgmt = s.mgmt := rfl
@[simp] theorem modParcel_xl (s : State) (p : Nat) (f : Parcel → Parcel) : (modParcel s p f).xl = s.xl := rfl
@[simp] theorem modParcel_mesh (s : State) (p : Nat) (f : Parcel → Parcel) : (modParcel s p f).mesh = s.mesh := rfl
@[simp] theorem modParcel_blocked (s : State) (p : Nat) (f : Parcel → Parcel) : (modParcel s p f).blocked = s.blocked := rfl
@[simp] theorem modParcel_devMiss (s : State) (p : Nat) (f : Parcel → Parcel) : (modParcel s p f).devMiss = s.devMiss := rfl

/-! ### modHome -/

@[simp] theorem modHome_turn (s : State) (n : Nat) (f : Home → Home) : (modHome s n f).turn = s.turn := rfl
@[simp] theorem modHome_agenda (s : State) (n : Nat) (f : Home → Home) : (modHome s n f).agenda = s.agenda := rfl
@[simp] theorem modHome_cycle (s : State) (n : Nat) (f : Home → Home) : (modHome s n f).cycle = s.cycle := rfl
@[simp] theorem modHome_freeCtr (s : State) (n : Nat) (f : Home → Home) : (modHome s n f).freeCtr = s.freeCtr := rfl
@[simp] theorem modHome_cores (s : State) (n : Nat) (f : Home → Home) : (modHome s n f).cores = s.cores := rfl
@[simp] theorem modHome_phys (s : State) (n : Nat) (f : Home → Home) : (modHome s n f).phys = s.phys := rfl
@[simp] theorem modHome_homes (s : State) (n : Nat) (f : Home → Home) : (modHome s n f).homes = mset s.homes n (f (homeOf s n)) := rfl
@[simp] theorem modHome_grants (s : State) (n : Nat) (f : Home → Home) : (modHome s n f).grants = s.grants := rfl
@[simp] theorem modHome_sched (s : State) (n : Nat) (f : Home → Home) : (modHome s n f).sched = s.sched := rfl
@[simp] theorem modHome_parcels (s : State) (n : Nat) (f : Home → Home) : (modHome s n f).parcels = s.parcels := rfl
@[simp] theorem modHome_cad (s : State) (n : Nat) (f : Home → Home) : (modHome s n f).cad = s.cad := rfl
@[simp] theorem modHome_harts (s : State) (n : Nat) (f : Home → Home) : (modHome s n f).harts = s.harts := rfl
@[simp] theorem modHome_futures (s : State) (n : Nat) (f : Home → Home) : (modHome s n f).futures = s.futures := rfl
@[simp] theorem modHome_tree (s : State) (n : Nat) (f : Home → Home) : (modHome s n f).tree = s.tree := rfl
@[simp] theorem modHome_commit (s : State) (n : Nat) (f : Home → Home) : (modHome s n f).commit = s.commit := rfl
@[simp] theorem modHome_host (s : State) (n : Nat) (f : Home → Home) : (modHome s n f).host = s.host := rfl
@[simp] theorem modHome_mgmt (s : State) (n : Nat) (f : Home → Home) : (modHome s n f).mgmt = s.mgmt := rfl
@[simp] theorem modHome_xl (s : State) (n : Nat) (f : Home → Home) : (modHome s n f).xl = s.xl := rfl
@[simp] theorem modHome_mesh (s : State) (n : Nat) (f : Home → Home) : (modHome s n f).mesh = s.mesh := rfl
@[simp] theorem modHome_blocked (s : State) (n : Nat) (f : Home → Home) : (modHome s n f).blocked = s.blocked := rfl
@[simp] theorem modHome_devMiss (s : State) (n : Nat) (f : Home → Home) : (modHome s n f).devMiss = s.devMiss := rfl

/-! ### setCtr -/

@[simp] theorem setCtr_turn (s : State) (h : Word) (c : Ctr) : (setCtr s h c).turn = s.turn := rfl
@[simp] theorem setCtr_agenda (s : State) (h : Word) (c : Ctr) : (setCtr s h c).agenda = s.agenda := rfl
@[simp] theorem setCtr_cycle (s : State) (h : Word) (c : Ctr) : (setCtr s h c).cycle = s.cycle := rfl
@[simp] theorem setCtr_freeCtr (s : State) (h : Word) (c : Ctr) : (setCtr s h c).freeCtr = s.freeCtr := rfl
@[simp] theorem setCtr_cores (s : State) (h : Word) (c : Ctr) : (setCtr s h c).cores = s.cores := rfl
@[simp] theorem setCtr_phys (s : State) (h : Word) (c : Ctr) : (setCtr s h c).phys = s.phys := rfl
@[simp] theorem setCtr_grants (s : State) (h : Word) (c : Ctr) : (setCtr s h c).grants = s.grants := rfl
@[simp] theorem setCtr_sched (s : State) (h : Word) (c : Ctr) : (setCtr s h c).sched = s.sched := rfl
@[simp] theorem setCtr_parcels (s : State) (h : Word) (c : Ctr) : (setCtr s h c).parcels = s.parcels := rfl
@[simp] theorem setCtr_cad (s : State) (h : Word) (c : Ctr) : (setCtr s h c).cad = s.cad := rfl
@[simp] theorem setCtr_harts (s : State) (h : Word) (c : Ctr) : (setCtr s h c).harts = s.harts := rfl
@[simp] theorem setCtr_futures (s : State) (h : Word) (c : Ctr) : (setCtr s h c).futures = s.futures := rfl
@[simp] theorem setCtr_tree (s : State) (h : Word) (c : Ctr) : (setCtr s h c).tree = s.tree := rfl
@[simp] theorem setCtr_commit (s : State) (h : Word) (c : Ctr) : (setCtr s h c).commit = s.commit := rfl
@[simp] theorem setCtr_host (s : State) (h : Word) (c : Ctr) : (setCtr s h c).host = s.host := rfl
@[simp] theorem setCtr_mgmt (s : State) (h : Word) (c : Ctr) : (setCtr s h c).mgmt = s.mgmt := rfl
@[simp] theorem setCtr_xl (s : State) (h : Word) (c : Ctr) : (setCtr s h c).xl = s.xl := rfl
@[simp] theorem setCtr_mesh (s : State) (h : Word) (c : Ctr) : (setCtr s h c).mesh = s.mesh := rfl
@[simp] theorem setCtr_blocked (s : State) (h : Word) (c : Ctr) : (setCtr s h c).blocked = s.blocked := rfl
@[simp] theorem setCtr_devMiss (s : State) (h : Word) (c : Ctr) : (setCtr s h c).devMiss = s.devMiss := rfl

/-! ### modFn -/

@[simp] theorem modFn_turn (s : State) (n : Nat) (f : Fn → Fn) : (modFn s n f).turn = s.turn := rfl
@[simp] theorem modFn_agenda (s : State) (n : Nat) (f : Fn → Fn) : (modFn s n f).agenda = s.agenda := rfl
@[simp] theorem modFn_cycle (s : State) (n : Nat) (f : Fn → Fn) : (modFn s n f).cycle = s.cycle := rfl
@[simp] theorem modFn_freeCtr (s : State) (n : Nat) (f : Fn → Fn) : (modFn s n f).freeCtr = s.freeCtr := rfl
@[simp] theorem modFn_cores (s : State) (n : Nat) (f : Fn → Fn) : (modFn s n f).cores = s.cores := rfl
@[simp] theorem modFn_phys (s : State) (n : Nat) (f : Fn → Fn) : (modFn s n f).phys = s.phys := rfl
@[simp] theorem modFn_homes (s : State) (n : Nat) (f : Fn → Fn) : (modFn s n f).homes = s.homes := rfl
@[simp] theorem modFn_grants (s : State) (n : Nat) (f : Fn → Fn) : (modFn s n f).grants = s.grants := rfl
@[simp] theorem modFn_sched (s : State) (n : Nat) (f : Fn → Fn) : (modFn s n f).sched = s.sched := rfl
@[simp] theorem modFn_parcels (s : State) (n : Nat) (f : Fn → Fn) : (modFn s n f).parcels = s.parcels := rfl
@[simp] theorem modFn_cad (s : State) (n : Nat) (f : Fn → Fn) : (modFn s n f).cad = s.cad := rfl
@[simp] theorem modFn_harts (s : State) (n : Nat) (f : Fn → Fn) : (modFn s n f).harts = s.harts := rfl
@[simp] theorem modFn_futures (s : State) (n : Nat) (f : Fn → Fn) : (modFn s n f).futures = s.futures := rfl
@[simp] theorem modFn_tree (s : State) (n : Nat) (f : Fn → Fn) : (modFn s n f).tree = s.tree := rfl
@[simp] theorem modFn_commit (s : State) (n : Nat) (f : Fn → Fn) : (modFn s n f).commit = s.commit := rfl
@[simp] theorem modFn_host (s : State) (n : Nat) (f : Fn → Fn) : (modFn s n f).host = { s.host with fns := mset s.host.fns n (f (fnOf s n)) } := rfl
@[simp] theorem modFn_mgmt (s : State) (n : Nat) (f : Fn → Fn) : (modFn s n f).mgmt = s.mgmt := rfl
@[simp] theorem modFn_xl (s : State) (n : Nat) (f : Fn → Fn) : (modFn s n f).xl = s.xl := rfl
@[simp] theorem modFn_mesh (s : State) (n : Nat) (f : Fn → Fn) : (modFn s n f).mesh = s.mesh := rfl
@[simp] theorem modFn_blocked (s : State) (n : Nat) (f : Fn → Fn) : (modFn s n f).blocked = s.blocked := rfl
@[simp] theorem modFn_devMiss (s : State) (n : Nat) (f : Fn → Fn) : (modFn s n f).devMiss = s.devMiss := rfl

/-! ### sendUp -/

@[simp] theorem sendUp_turn (s : State) (u : Up) : (sendUp s u).turn = s.turn := rfl
@[simp] theorem sendUp_agenda (s : State) (u : Up) : (sendUp s u).agenda = s.agenda := rfl
@[simp] theorem sendUp_cycle (s : State) (u : Up) : (sendUp s u).cycle = s.cycle := rfl
@[simp] theorem sendUp_freeCtr (s : State) (u : Up) : (sendUp s u).freeCtr = s.freeCtr := rfl
@[simp] theorem sendUp_cores (s : State) (u : Up) : (sendUp s u).cores = s.cores := rfl
@[simp] theorem sendUp_phys (s : State) (u : Up) : (sendUp s u).phys = s.phys := rfl
@[simp] theorem sendUp_homes (s : State) (u : Up) : (sendUp s u).homes = s.homes := rfl
@[simp] theorem sendUp_grants (s : State) (u : Up) : (sendUp s u).grants = s.grants := rfl
@[simp] theorem sendUp_sched (s : State) (u : Up) : (sendUp s u).sched = s.sched := rfl
@[simp] theorem sendUp_parcels (s : State) (u : Up) : (sendUp s u).parcels = s.parcels := rfl
@[simp] theorem sendUp_cad (s : State) (u : Up) : (sendUp s u).cad = s.cad := rfl
@[simp] theorem sendUp_harts (s : State) (u : Up) : (sendUp s u).harts = s.harts := rfl
@[simp] theorem sendUp_futures (s : State) (u : Up) : (sendUp s u).futures = s.futures := rfl
@[simp] theorem sendUp_tree (s : State) (u : Up) : (sendUp s u).tree = s.tree := rfl
@[simp] theorem sendUp_commit (s : State) (u : Up) : (sendUp s u).commit = s.commit := rfl
@[simp] theorem sendUp_host (s : State) (u : Up) : (sendUp s u).host = { s.host with up := s.host.up ++ [u] } := rfl
@[simp] theorem sendUp_mgmt (s : State) (u : Up) : (sendUp s u).mgmt = s.mgmt := rfl
@[simp] theorem sendUp_xl (s : State) (u : Up) : (sendUp s u).xl = s.xl := rfl
@[simp] theorem sendUp_mesh (s : State) (u : Up) : (sendUp s u).mesh = s.mesh := rfl
@[simp] theorem sendUp_blocked (s : State) (u : Up) : (sendUp s u).blocked = s.blocked := rfl
@[simp] theorem sendUp_devMiss (s : State) (u : Up) : (sendUp s u).devMiss = s.devMiss := rfl

/-! ### logEv -/

@[simp] theorem logEv_turn (s : State) (e : LogEv) : (logEv s e).turn = s.turn := rfl
@[simp] theorem logEv_agenda (s : State) (e : LogEv) : (logEv s e).agenda = s.agenda := rfl
@[simp] theorem logEv_cycle (s : State) (e : LogEv) : (logEv s e).cycle = s.cycle := rfl
@[simp] theorem logEv_freeCtr (s : State) (e : LogEv) : (logEv s e).freeCtr = s.freeCtr := rfl
@[simp] theorem logEv_cores (s : State) (e : LogEv) : (logEv s e).cores = s.cores := rfl
@[simp] theorem logEv_phys (s : State) (e : LogEv) : (logEv s e).phys = s.phys := rfl
@[simp] theorem logEv_homes (s : State) (e : LogEv) : (logEv s e).homes = s.homes := rfl
@[simp] theorem logEv_grants (s : State) (e : LogEv) : (logEv s e).grants = s.grants := rfl
@[simp] theorem logEv_sched (s : State) (e : LogEv) : (logEv s e).sched = s.sched := rfl
@[simp] theorem logEv_parcels (s : State) (e : LogEv) : (logEv s e).parcels = s.parcels := rfl
@[simp] theorem logEv_cad (s : State) (e : LogEv) : (logEv s e).cad = s.cad := rfl
@[simp] theorem logEv_harts (s : State) (e : LogEv) : (logEv s e).harts = s.harts := rfl
@[simp] theorem logEv_futures (s : State) (e : LogEv) : (logEv s e).futures = s.futures := rfl
@[simp] theorem logEv_tree (s : State) (e : LogEv) : (logEv s e).tree = s.tree := rfl
@[simp] theorem logEv_commit (s : State) (e : LogEv) : (logEv s e).commit = s.commit := rfl
@[simp] theorem logEv_host (s : State) (e : LogEv) : (logEv s e).host = s.host := rfl
@[simp] theorem logEv_mgmt (s : State) (e : LogEv) : (logEv s e).mgmt = { s.mgmt with log := s.mgmt.log ++ [e] } := rfl
@[simp] theorem logEv_xl (s : State) (e : LogEv) : (logEv s e).xl = s.xl := rfl
@[simp] theorem logEv_mesh (s : State) (e : LogEv) : (logEv s e).mesh = s.mesh := rfl
@[simp] theorem logEv_blocked (s : State) (e : LogEv) : (logEv s e).blocked = s.blocked := rfl
@[simp] theorem logEv_devMiss (s : State) (e : LogEv) : (logEv s e).devMiss = s.devMiss := rfl

/-! ### setFut -/

@[simp] theorem setFut_turn (s : State) (n : Nat) (f : Future) : (setFut s n f).turn = s.turn := rfl
@[simp] theorem setFut_agenda (s : State) (n : Nat) (f : Future) : (setFut s n f).agenda = s.agenda := rfl
@[simp] theorem setFut_cycle (s : State) (n : Nat) (f : Future) : (setFut s n f).cycle = s.cycle := rfl
@[simp] theorem setFut_freeCtr (s : State) (n : Nat) (f : Future) : (setFut s n f).freeCtr = s.freeCtr := rfl
@[simp] theorem setFut_cores (s : State) (n : Nat) (f : Future) : (setFut s n f).cores = s.cores := rfl
@[simp] theorem setFut_phys (s : State) (n : Nat) (f : Future) : (setFut s n f).phys = s.phys := rfl
@[simp] theorem setFut_homes (s : State) (n : Nat) (f : Future) : (setFut s n f).homes = s.homes := rfl
@[simp] theorem setFut_grants (s : State) (n : Nat) (f : Future) : (setFut s n f).grants = s.grants := rfl
@[simp] theorem setFut_sched (s : State) (n : Nat) (f : Future) : (setFut s n f).sched = s.sched := rfl
@[simp] theorem setFut_parcels (s : State) (n : Nat) (f : Future) : (setFut s n f).parcels = s.parcels := rfl
@[simp] theorem setFut_cad (s : State) (n : Nat) (f : Future) : (setFut s n f).cad = s.cad := rfl
@[simp] theorem setFut_harts (s : State) (n : Nat) (f : Future) : (setFut s n f).harts = s.harts := rfl
@[simp] theorem setFut_futures (s : State) (n : Nat) (f : Future) : (setFut s n f).futures = mset s.futures n f := rfl
@[simp] theorem setFut_tree (s : State) (n : Nat) (f : Future) : (setFut s n f).tree = s.tree := rfl
@[simp] theorem setFut_commit (s : State) (n : Nat) (f : Future) : (setFut s n f).commit = s.commit := rfl
@[simp] theorem setFut_host (s : State) (n : Nat) (f : Future) : (setFut s n f).host = s.host := rfl
@[simp] theorem setFut_mgmt (s : State) (n : Nat) (f : Future) : (setFut s n f).mgmt = s.mgmt := rfl
@[simp] theorem setFut_xl (s : State) (n : Nat) (f : Future) : (setFut s n f).xl = s.xl := rfl
@[simp] theorem setFut_mesh (s : State) (n : Nat) (f : Future) : (setFut s n f).mesh = s.mesh := rfl
@[simp] theorem setFut_blocked (s : State) (n : Nat) (f : Future) : (setFut s n f).blocked = s.blocked := rfl
@[simp] theorem setFut_devMiss (s : State) (n : Nat) (f : Future) : (setFut s n f).devMiss = s.devMiss := rfl

/-! ### setHart -/

@[simp] theorem setHart_turn (s : State) (n : Nat) (h : Hart) : (setHart s n h).turn = s.turn := rfl
@[simp] theorem setHart_agenda (s : State) (n : Nat) (h : Hart) : (setHart s n h).agenda = s.agenda := rfl
@[simp] theorem setHart_cycle (s : State) (n : Nat) (h : Hart) : (setHart s n h).cycle = s.cycle := rfl
@[simp] theorem setHart_freeCtr (s : State) (n : Nat) (h : Hart) : (setHart s n h).freeCtr = s.freeCtr := rfl
@[simp] theorem setHart_cores (s : State) (n : Nat) (h : Hart) : (setHart s n h).cores = s.cores := rfl
@[simp] theorem setHart_phys (s : State) (n : Nat) (h : Hart) : (setHart s n h).phys = s.phys := rfl
@[simp] theorem setHart_homes (s : State) (n : Nat) (h : Hart) : (setHart s n h).homes = s.homes := rfl
@[simp] theorem setHart_grants (s : State) (n : Nat) (h : Hart) : (setHart s n h).grants = s.grants := rfl
@[simp] theorem setHart_sched (s : State) (n : Nat) (h : Hart) : (setHart s n h).sched = s.sched := rfl
@[simp] theorem setHart_parcels (s : State) (n : Nat) (h : Hart) : (setHart s n h).parcels = s.parcels := rfl
@[simp] theorem setHart_cad (s : State) (n : Nat) (h : Hart) : (setHart s n h).cad = s.cad := rfl
@[simp] theorem setHart_harts (s : State) (n : Nat) (h : Hart) : (setHart s n h).harts = mset s.harts n h := rfl
@[simp] theorem setHart_futures (s : State) (n : Nat) (h : Hart) : (setHart s n h).futures = s.futures := rfl
@[simp] theorem setHart_tree (s : State) (n : Nat) (h : Hart) : (setHart s n h).tree = s.tree := rfl
@[simp] theorem setHart_commit (s : State) (n : Nat) (h : Hart) : (setHart s n h).commit = s.commit := rfl
@[simp] theorem setHart_host (s : State) (n : Nat) (h : Hart) : (setHart s n h).host = s.host := rfl
@[simp] theorem setHart_mgmt (s : State) (n : Nat) (h : Hart) : (setHart s n h).mgmt = s.mgmt := rfl
@[simp] theorem setHart_xl (s : State) (n : Nat) (h : Hart) : (setHart s n h).xl = s.xl := rfl
@[simp] theorem setHart_mesh (s : State) (n : Nat) (h : Hart) : (setHart s n h).mesh = s.mesh := rfl
@[simp] theorem setHart_blocked (s : State) (n : Nat) (h : Hart) : (setHart s n h).blocked = s.blocked := rfl
@[simp] theorem setHart_devMiss (s : State) (n : Nat) (h : Hart) : (setHart s n h).devMiss = s.devMiss := rfl

/-! ### tick -/

@[simp] theorem tick_turn (s : State) : (tick s).turn = s.turn := rfl
@[simp] theorem tick_agenda (s : State) : (tick s).agenda = s.agenda := rfl
@[simp] theorem tick_cycle (s : State) : (tick s).cycle = s.cycle + 1 := rfl
@[simp] theorem tick_freeCtr (s : State) : (tick s).freeCtr = s.freeCtr := rfl
@[simp] theorem tick_cores (s : State) : (tick s).cores = s.cores := rfl
@[simp] theorem tick_phys (s : State) : (tick s).phys = s.phys := rfl
@[simp] theorem tick_homes (s : State) : (tick s).homes = s.homes := rfl
@[simp] theorem tick_grants (s : State) : (tick s).grants = s.grants := rfl
@[simp] theorem tick_sched (s : State) : (tick s).sched = s.sched := rfl
@[simp] theorem tick_parcels (s : State) : (tick s).parcels = s.parcels := rfl
@[simp] theorem tick_cad (s : State) : (tick s).cad = s.cad := rfl
@[simp] theorem tick_harts (s : State) : (tick s).harts = s.harts := rfl
@[simp] theorem tick_futures (s : State) : (tick s).futures = s.futures := rfl
@[simp] theorem tick_tree (s : State) : (tick s).tree = s.tree := rfl
@[simp] theorem tick_commit (s : State) : (tick s).commit = s.commit := rfl
@[simp] theorem tick_host (s : State) : (tick s).host = s.host := rfl
@[simp] theorem tick_mgmt (s : State) : (tick s).mgmt = s.mgmt := rfl
@[simp] theorem tick_xl (s : State) : (tick s).xl = s.xl := rfl
@[simp] theorem tick_mesh (s : State) : (tick s).mesh = s.mesh := rfl
@[simp] theorem tick_blocked (s : State) : (tick s).blocked = s.blocked := rfl
@[simp] theorem tick_devMiss (s : State) : (tick s).devMiss = s.devMiss := rfl

/-! ### sent and meshSpent -/

@[simp] theorem sent_turn (s : State) (e p : Nat) : (sent s e p).turn = s.turn := rfl
@[simp] theorem sent_agenda (s : State) (e p : Nat) : (sent s e p).agenda = s.agenda := rfl
@[simp] theorem sent_cycle (s : State) (e p : Nat) : (sent s e p).cycle = s.cycle := rfl
@[simp] theorem sent_freeCtr (s : State) (e p : Nat) : (sent s e p).freeCtr = s.freeCtr := rfl
@[simp] theorem sent_cores (s : State) (e p : Nat) : (sent s e p).cores = s.cores := rfl
@[simp] theorem sent_phys (s : State) (e p : Nat) : (sent s e p).phys = s.phys := rfl
@[simp] theorem sent_homes (s : State) (e p : Nat) : (sent s e p).homes = s.homes := rfl
@[simp] theorem sent_grants (s : State) (e p : Nat) : (sent s e p).grants = s.grants := rfl
@[simp] theorem sent_sched (s : State) (e p : Nat) : (sent s e p).sched = s.sched := rfl
@[simp] theorem sent_parcels (s : State) (e p : Nat) : (sent s e p).parcels = s.parcels := rfl
@[simp] theorem sent_cad (s : State) (e p : Nat) : (sent s e p).cad = s.cad := rfl
@[simp] theorem sent_harts (s : State) (e p : Nat) : (sent s e p).harts = s.harts := rfl
@[simp] theorem sent_futures (s : State) (e p : Nat) : (sent s e p).futures = s.futures := rfl
@[simp] theorem sent_tree (s : State) (e p : Nat) : (sent s e p).tree = s.tree := rfl
@[simp] theorem sent_commit (s : State) (e p : Nat) : (sent s e p).commit = s.commit := rfl
@[simp] theorem sent_host (s : State) (e p : Nat) : (sent s e p).host = s.host := rfl
@[simp] theorem sent_mgmt (s : State) (e p : Nat) : (sent s e p).mgmt = s.mgmt := rfl
@[simp] theorem sent_xl (s : State) (e p : Nat) : (sent s e p).xl = s.xl := rfl
@[simp] theorem sent_blocked (s : State) (e p : Nat) : (sent s e p).blocked = s.blocked := rfl
@[simp] theorem sent_devMiss (s : State) (e p : Nat) : (sent s e p).devMiss = s.devMiss := rfl
@[simp] theorem sent_fail (s : State) (e p : Nat) : (sent s e p).mesh.fail = s.mesh.fail := rfl
@[simp] theorem meshSpent_turn (s : State) : (meshSpent s).turn = s.turn := rfl
@[simp] theorem meshSpent_agenda (s : State) : (meshSpent s).agenda = s.agenda := rfl
@[simp] theorem meshSpent_cycle (s : State) : (meshSpent s).cycle = s.cycle := rfl
@[simp] theorem meshSpent_freeCtr (s : State) : (meshSpent s).freeCtr = s.freeCtr := rfl
@[simp] theorem meshSpent_cores (s : State) : (meshSpent s).cores = s.cores := rfl
@[simp] theorem meshSpent_phys (s : State) : (meshSpent s).phys = s.phys := rfl
@[simp] theorem meshSpent_homes (s : State) : (meshSpent s).homes = s.homes := rfl
@[simp] theorem meshSpent_grants (s : State) : (meshSpent s).grants = s.grants := rfl
@[simp] theorem meshSpent_sched (s : State) : (meshSpent s).sched = s.sched := rfl
@[simp] theorem meshSpent_parcels (s : State) : (meshSpent s).parcels = s.parcels := rfl
@[simp] theorem meshSpent_cad (s : State) : (meshSpent s).cad = s.cad := rfl
@[simp] theorem meshSpent_harts (s : State) : (meshSpent s).harts = s.harts := rfl
@[simp] theorem meshSpent_futures (s : State) : (meshSpent s).futures = s.futures := rfl
@[simp] theorem meshSpent_tree (s : State) : (meshSpent s).tree = s.tree := rfl
@[simp] theorem meshSpent_commit (s : State) : (meshSpent s).commit = s.commit := rfl
@[simp] theorem meshSpent_host (s : State) : (meshSpent s).host = s.host := rfl
@[simp] theorem meshSpent_mgmt (s : State) : (meshSpent s).mgmt = s.mgmt := rfl
@[simp] theorem meshSpent_xl (s : State) : (meshSpent s).xl = s.xl := rfl
@[simp] theorem meshSpent_blocked (s : State) : (meshSpent s).blocked = s.blocked := rfl
@[simp] theorem meshSpent_devMiss (s : State) : (meshSpent s).devMiss = s.devMiss := rfl
@[simp] theorem meshSpent_fail (s : State) : (meshSpent s).mesh.fail = none := rfl
@[simp] theorem meshSpent_counts (s : State) : (meshSpent s).mesh.counts = s.mesh.counts := rfl

/-! ## Record updates of a core -/


/-! ### aSet -/

@[simp] theorem aSet_x (k : Core) (r : BitVec 5) (v : Word) : (aSet k r v).x = k.x := by
  unfold aSet; split <;> rfl
@[simp] theorem aSet_vec (k : Core) (r : BitVec 5) (v : Word) : (aSet k r v).vec = k.vec := by
  unfold aSet; split <;> rfl
@[simp] theorem aSet_accs (k : Core) (r : BitVec 5) (v : Word) : (aSet k r v).accs = k.accs := by
  unfold aSet; split <;> rfl
@[simp] theorem aSet_sh (k : Core) (r : BitVec 5) (v : Word) : (aSet k r v).sh = k.sh := by
  unfold aSet; split <;> rfl
@[simp] theorem aSet_eng (k : Core) (r : BitVec 5) (v : Word) : (aSet k r v).eng = k.eng := by
  unfold aSet; split <;> rfl
@[simp] theorem aSet_run (k : Core) (r : BitVec 5) (v : Word) : (aSet k r v).run = k.run := by
  unfold aSet; split <;> rfl
@[simp] theorem aSet_lcs (k : Core) (r : BitVec 5) (v : Word) : (aSet k r v).lcs = k.lcs := by
  unfold aSet; split <;> rfl
@[simp] theorem aSet_inbox (k : Core) (r : BitVec 5) (v : Word) : (aSet k r v).inbox = k.inbox := by
  unfold aSet; split <;> rfl
@[simp] theorem aSet_outbox (k : Core) (r : BitVec 5) (v : Word) : (aSet k r v).outbox = k.outbox := by
  unfold aSet; split <;> rfl
@[simp] theorem aSet_scratch (k : Core) (r : BitVec 5) (v : Word) : (aSet k r v).scratch = k.scratch := by
  unfold aSet; split <;> rfl
@[simp] theorem aSet_poison (k : Core) (r : BitVec 5) (v : Word) : (aSet k r v).poison = k.poison := by
  unfold aSet; split <;> rfl
@[simp] theorem aSet_res (k : Core) (r : BitVec 5) (v : Word) : (aSet k r v).res = k.res := by
  unfold aSet; split <;> rfl
@[simp] theorem aSet_nextSlot (k : Core) (r : BitVec 5) (v : Word) : (aSet k r v).nextSlot = k.nextSlot := by
  unfold aSet; split <;> rfl
@[simp] theorem aSet_urgentRun (k : Core) (r : BitVec 5) (v : Word) : (aSet k r v).urgentRun = k.urgentRun := by
  unfold aSet; split <;> rfl
@[simp] theorem aSet_edge (k : Core) (r : BitVec 5) (v : Word) : (aSet k r v).edge = k.edge := by
  unfold aSet; split <;> rfl
@[simp] theorem aSet_easement (k : Core) (r : BitVec 5) (v : Word) : (aSet k r v).easement = k.easement := by
  unfold aSet; split <;> rfl
@[simp] theorem aSet_lent (k : Core) (r : BitVec 5) (v : Word) : (aSet k r v).lent = k.lent := by
  unfold aSet; split <;> rfl
@[simp] theorem aSet_borrower (k : Core) (r : BitVec 5) (v : Word) : (aSet k r v).borrower = k.borrower := by
  unfold aSet; split <;> rfl
@[simp] theorem aSet_decision (k : Core) (r : BitVec 5) (v : Word) : (aSet k r v).decision = k.decision := by
  unfold aSet; split <;> rfl
@[simp] theorem aSet_dispatchAt (k : Core) (r : BitVec 5) (v : Word) : (aSet k r v).dispatchAt = k.dispatchAt := by
  unfold aSet; split <;> rfl
@[simp] theorem aSet_wipe (k : Core) (r : BitVec 5) (v : Word) : (aSet k r v).wipe = k.wipe := by
  unfold aSet; split <;> rfl
@[simp] theorem aSet_acted (k : Core) (r : BitVec 5) (v : Word) : (aSet k r v).acted = k.acted := by
  unfold aSet; split <;> rfl

/-! ### cSet -/

@[simp] theorem cSet_x (k : Core) (r : BitVec 3) (b : Bool) : (cSet k r b).x = k.x := by
  unfold cSet; split <;> rfl
@[simp] theorem cSet_vec (k : Core) (r : BitVec 3) (b : Bool) : (cSet k r b).vec = k.vec := by
  unfold cSet; split <;> rfl
@[simp] theorem cSet_accs (k : Core) (r : BitVec 3) (b : Bool) : (cSet k r b).accs = k.accs := by
  unfold cSet; split <;> rfl
@[simp] theorem cSet_sh (k : Core) (r : BitVec 3) (b : Bool) : (cSet k r b).sh = k.sh := by
  unfold cSet; split <;> rfl
@[simp] theorem cSet_eng (k : Core) (r : BitVec 3) (b : Bool) : (cSet k r b).eng = k.eng := by
  unfold cSet; split <;> rfl
@[simp] theorem cSet_run (k : Core) (r : BitVec 3) (b : Bool) : (cSet k r b).run = k.run := by
  unfold cSet; split <;> rfl
@[simp] theorem cSet_lcs (k : Core) (r : BitVec 3) (b : Bool) : (cSet k r b).lcs = k.lcs := by
  unfold cSet; split <;> rfl
@[simp] theorem cSet_inbox (k : Core) (r : BitVec 3) (b : Bool) : (cSet k r b).inbox = k.inbox := by
  unfold cSet; split <;> rfl
@[simp] theorem cSet_outbox (k : Core) (r : BitVec 3) (b : Bool) : (cSet k r b).outbox = k.outbox := by
  unfold cSet; split <;> rfl
@[simp] theorem cSet_scratch (k : Core) (r : BitVec 3) (b : Bool) : (cSet k r b).scratch = k.scratch := by
  unfold cSet; split <;> rfl
@[simp] theorem cSet_poison (k : Core) (r : BitVec 3) (b : Bool) : (cSet k r b).poison = k.poison := by
  unfold cSet; split <;> rfl
@[simp] theorem cSet_res (k : Core) (r : BitVec 3) (b : Bool) : (cSet k r b).res = k.res := by
  unfold cSet; split <;> rfl
@[simp] theorem cSet_nextSlot (k : Core) (r : BitVec 3) (b : Bool) : (cSet k r b).nextSlot = k.nextSlot := by
  unfold cSet; split <;> rfl
@[simp] theorem cSet_urgentRun (k : Core) (r : BitVec 3) (b : Bool) : (cSet k r b).urgentRun = k.urgentRun := by
  unfold cSet; split <;> rfl
@[simp] theorem cSet_edge (k : Core) (r : BitVec 3) (b : Bool) : (cSet k r b).edge = k.edge := by
  unfold cSet; split <;> rfl
@[simp] theorem cSet_easement (k : Core) (r : BitVec 3) (b : Bool) : (cSet k r b).easement = k.easement := by
  unfold cSet; split <;> rfl
@[simp] theorem cSet_lent (k : Core) (r : BitVec 3) (b : Bool) : (cSet k r b).lent = k.lent := by
  unfold cSet; split <;> rfl
@[simp] theorem cSet_borrower (k : Core) (r : BitVec 3) (b : Bool) : (cSet k r b).borrower = k.borrower := by
  unfold cSet; split <;> rfl
@[simp] theorem cSet_decision (k : Core) (r : BitVec 3) (b : Bool) : (cSet k r b).decision = k.decision := by
  unfold cSet; split <;> rfl
@[simp] theorem cSet_dispatchAt (k : Core) (r : BitVec 3) (b : Bool) : (cSet k r b).dispatchAt = k.dispatchAt := by
  unfold cSet; split <;> rfl
@[simp] theorem cSet_wipe (k : Core) (r : BitVec 3) (b : Bool) : (cSet k r b).wipe = k.wipe := by
  unfold cSet; split <;> rfl
@[simp] theorem cSet_acted (k : Core) (r : BitVec 3) (b : Bool) : (cSet k r b).acted = k.acted := by
  unfold cSet; split <;> rfl

/-! ### sSet -/

@[simp] theorem sSet_a (k : Core) (r : BitVec 5) (v : Word) : (sSet k r v).a = k.a := by
  unfold sSet; split <;> rfl
@[simp] theorem sSet_vec (k : Core) (r : BitVec 5) (v : Word) : (sSet k r v).vec = k.vec := by
  unfold sSet; split <;> rfl
@[simp] theorem sSet_accs (k : Core) (r : BitVec 5) (v : Word) : (sSet k r v).accs = k.accs := by
  unfold sSet; split <;> rfl
@[simp] theorem sSet_sh (k : Core) (r : BitVec 5) (v : Word) : (sSet k r v).sh = k.sh := by
  unfold sSet; split <;> rfl
@[simp] theorem sSet_eng (k : Core) (r : BitVec 5) (v : Word) : (sSet k r v).eng = k.eng := by
  unfold sSet; split <;> rfl
@[simp] theorem sSet_run (k : Core) (r : BitVec 5) (v : Word) : (sSet k r v).run = k.run := by
  unfold sSet; split <;> rfl
@[simp] theorem sSet_lcs (k : Core) (r : BitVec 5) (v : Word) : (sSet k r v).lcs = k.lcs := by
  unfold sSet; split <;> rfl
@[simp] theorem sSet_inbox (k : Core) (r : BitVec 5) (v : Word) : (sSet k r v).inbox = k.inbox := by
  unfold sSet; split <;> rfl
@[simp] theorem sSet_outbox (k : Core) (r : BitVec 5) (v : Word) : (sSet k r v).outbox = k.outbox := by
  unfold sSet; split <;> rfl
@[simp] theorem sSet_scratch (k : Core) (r : BitVec 5) (v : Word) : (sSet k r v).scratch = k.scratch := by
  unfold sSet; split <;> rfl
@[simp] theorem sSet_poison (k : Core) (r : BitVec 5) (v : Word) : (sSet k r v).poison = k.poison := by
  unfold sSet; split <;> rfl
@[simp] theorem sSet_res (k : Core) (r : BitVec 5) (v : Word) : (sSet k r v).res = k.res := by
  unfold sSet; split <;> rfl
@[simp] theorem sSet_nextSlot (k : Core) (r : BitVec 5) (v : Word) : (sSet k r v).nextSlot = k.nextSlot := by
  unfold sSet; split <;> rfl
@[simp] theorem sSet_urgentRun (k : Core) (r : BitVec 5) (v : Word) : (sSet k r v).urgentRun = k.urgentRun := by
  unfold sSet; split <;> rfl
@[simp] theorem sSet_edge (k : Core) (r : BitVec 5) (v : Word) : (sSet k r v).edge = k.edge := by
  unfold sSet; split <;> rfl
@[simp] theorem sSet_easement (k : Core) (r : BitVec 5) (v : Word) : (sSet k r v).easement = k.easement := by
  unfold sSet; split <;> rfl
@[simp] theorem sSet_lent (k : Core) (r : BitVec 5) (v : Word) : (sSet k r v).lent = k.lent := by
  unfold sSet; split <;> rfl
@[simp] theorem sSet_borrower (k : Core) (r : BitVec 5) (v : Word) : (sSet k r v).borrower = k.borrower := by
  unfold sSet; split <;> rfl
@[simp] theorem sSet_decision (k : Core) (r : BitVec 5) (v : Word) : (sSet k r v).decision = k.decision := by
  unfold sSet; split <;> rfl
@[simp] theorem sSet_dispatchAt (k : Core) (r : BitVec 5) (v : Word) : (sSet k r v).dispatchAt = k.dispatchAt := by
  unfold sSet; split <;> rfl
@[simp] theorem sSet_wipe (k : Core) (r : BitVec 5) (v : Word) : (sSet k r v).wipe = k.wipe := by
  unfold sSet; split <;> rfl
@[simp] theorem sSet_acted (k : Core) (r : BitVec 5) (v : Word) : (sSet k r v).acted = k.acted := by
  unfold sSet; split <;> rfl

/-! ### pSet -/

@[simp] theorem pSet_a (k : Core) (r : BitVec 3) (b : Bool) : (pSet k r b).a = k.a := by
  unfold pSet; split <;> rfl
@[simp] theorem pSet_vec (k : Core) (r : BitVec 3) (b : Bool) : (pSet k r b).vec = k.vec := by
  unfold pSet; split <;> rfl
@[simp] theorem pSet_accs (k : Core) (r : BitVec 3) (b : Bool) : (pSet k r b).accs = k.accs := by
  unfold pSet; split <;> rfl
@[simp] theorem pSet_sh (k : Core) (r : BitVec 3) (b : Bool) : (pSet k r b).sh = k.sh := by
  unfold pSet; split <;> rfl
@[simp] theorem pSet_eng (k : Core) (r : BitVec 3) (b : Bool) : (pSet k r b).eng = k.eng := by
  unfold pSet; split <;> rfl
@[simp] theorem pSet_run (k : Core) (r : BitVec 3) (b : Bool) : (pSet k r b).run = k.run := by
  unfold pSet; split <;> rfl
@[simp] theorem pSet_lcs (k : Core) (r : BitVec 3) (b : Bool) : (pSet k r b).lcs = k.lcs := by
  unfold pSet; split <;> rfl
@[simp] theorem pSet_inbox (k : Core) (r : BitVec 3) (b : Bool) : (pSet k r b).inbox = k.inbox := by
  unfold pSet; split <;> rfl
@[simp] theorem pSet_outbox (k : Core) (r : BitVec 3) (b : Bool) : (pSet k r b).outbox = k.outbox := by
  unfold pSet; split <;> rfl
@[simp] theorem pSet_scratch (k : Core) (r : BitVec 3) (b : Bool) : (pSet k r b).scratch = k.scratch := by
  unfold pSet; split <;> rfl
@[simp] theorem pSet_poison (k : Core) (r : BitVec 3) (b : Bool) : (pSet k r b).poison = k.poison := by
  unfold pSet; split <;> rfl
@[simp] theorem pSet_res (k : Core) (r : BitVec 3) (b : Bool) : (pSet k r b).res = k.res := by
  unfold pSet; split <;> rfl
@[simp] theorem pSet_nextSlot (k : Core) (r : BitVec 3) (b : Bool) : (pSet k r b).nextSlot = k.nextSlot := by
  unfold pSet; split <;> rfl
@[simp] theorem pSet_urgentRun (k : Core) (r : BitVec 3) (b : Bool) : (pSet k r b).urgentRun = k.urgentRun := by
  unfold pSet; split <;> rfl
@[simp] theorem pSet_edge (k : Core) (r : BitVec 3) (b : Bool) : (pSet k r b).edge = k.edge := by
  unfold pSet; split <;> rfl
@[simp] theorem pSet_easement (k : Core) (r : BitVec 3) (b : Bool) : (pSet k r b).easement = k.easement := by
  unfold pSet; split <;> rfl
@[simp] theorem pSet_lent (k : Core) (r : BitVec 3) (b : Bool) : (pSet k r b).lent = k.lent := by
  unfold pSet; split <;> rfl
@[simp] theorem pSet_borrower (k : Core) (r : BitVec 3) (b : Bool) : (pSet k r b).borrower = k.borrower := by
  unfold pSet; split <;> rfl
@[simp] theorem pSet_decision (k : Core) (r : BitVec 3) (b : Bool) : (pSet k r b).decision = k.decision := by
  unfold pSet; split <;> rfl
@[simp] theorem pSet_dispatchAt (k : Core) (r : BitVec 3) (b : Bool) : (pSet k r b).dispatchAt = k.dispatchAt := by
  unfold pSet; split <;> rfl
@[simp] theorem pSet_wipe (k : Core) (r : BitVec 3) (b : Bool) : (pSet k r b).wipe = k.wipe := by
  unfold pSet; split <;> rfl
@[simp] theorem pSet_acted (k : Core) (r : BitVec 3) (b : Bool) : (pSet k r b).acted = k.acted := by
  unfold pSet; split <;> rfl

/-! ### mSet -/

@[simp] theorem mSet_a (k : Core) (r : BitVec 3) (b : MBits) : (mSet k r b).a = k.a := by
  unfold mSet; split <;> rfl
@[simp] theorem mSet_x (k : Core) (r : BitVec 3) (b : MBits) : (mSet k r b).x = k.x := by
  unfold mSet; split <;> rfl
@[simp] theorem mSet_accs (k : Core) (r : BitVec 3) (b : MBits) : (mSet k r b).accs = k.accs := by
  unfold mSet; split <;> rfl
@[simp] theorem mSet_sh (k : Core) (r : BitVec 3) (b : MBits) : (mSet k r b).sh = k.sh := by
  unfold mSet; split <;> rfl
@[simp] theorem mSet_eng (k : Core) (r : BitVec 3) (b : MBits) : (mSet k r b).eng = k.eng := by
  unfold mSet; split <;> rfl
@[simp] theorem mSet_run (k : Core) (r : BitVec 3) (b : MBits) : (mSet k r b).run = k.run := by
  unfold mSet; split <;> rfl
@[simp] theorem mSet_lcs (k : Core) (r : BitVec 3) (b : MBits) : (mSet k r b).lcs = k.lcs := by
  unfold mSet; split <;> rfl
@[simp] theorem mSet_inbox (k : Core) (r : BitVec 3) (b : MBits) : (mSet k r b).inbox = k.inbox := by
  unfold mSet; split <;> rfl
@[simp] theorem mSet_outbox (k : Core) (r : BitVec 3) (b : MBits) : (mSet k r b).outbox = k.outbox := by
  unfold mSet; split <;> rfl
@[simp] theorem mSet_scratch (k : Core) (r : BitVec 3) (b : MBits) : (mSet k r b).scratch = k.scratch := by
  unfold mSet; split <;> rfl
@[simp] theorem mSet_poison (k : Core) (r : BitVec 3) (b : MBits) : (mSet k r b).poison = k.poison := by
  unfold mSet; split <;> rfl
@[simp] theorem mSet_res (k : Core) (r : BitVec 3) (b : MBits) : (mSet k r b).res = k.res := by
  unfold mSet; split <;> rfl
@[simp] theorem mSet_nextSlot (k : Core) (r : BitVec 3) (b : MBits) : (mSet k r b).nextSlot = k.nextSlot := by
  unfold mSet; split <;> rfl
@[simp] theorem mSet_urgentRun (k : Core) (r : BitVec 3) (b : MBits) : (mSet k r b).urgentRun = k.urgentRun := by
  unfold mSet; split <;> rfl
@[simp] theorem mSet_edge (k : Core) (r : BitVec 3) (b : MBits) : (mSet k r b).edge = k.edge := by
  unfold mSet; split <;> rfl
@[simp] theorem mSet_easement (k : Core) (r : BitVec 3) (b : MBits) : (mSet k r b).easement = k.easement := by
  unfold mSet; split <;> rfl
@[simp] theorem mSet_lent (k : Core) (r : BitVec 3) (b : MBits) : (mSet k r b).lent = k.lent := by
  unfold mSet; split <;> rfl
@[simp] theorem mSet_borrower (k : Core) (r : BitVec 3) (b : MBits) : (mSet k r b).borrower = k.borrower := by
  unfold mSet; split <;> rfl
@[simp] theorem mSet_decision (k : Core) (r : BitVec 3) (b : MBits) : (mSet k r b).decision = k.decision := by
  unfold mSet; split <;> rfl
@[simp] theorem mSet_dispatchAt (k : Core) (r : BitVec 3) (b : MBits) : (mSet k r b).dispatchAt = k.dispatchAt := by
  unfold mSet; split <;> rfl
@[simp] theorem mSet_wipe (k : Core) (r : BitVec 3) (b : MBits) : (mSet k r b).wipe = k.wipe := by
  unfold mSet; split <;> rfl
@[simp] theorem mSet_acted (k : Core) (r : BitVec 3) (b : MBits) : (mSet k r b).acted = k.acted := by
  unfold mSet; split <;> rfl

/-! ### modStr -/

@[simp] theorem modStr_vec (k : Core) (xs : Bool) (f : Stream → Stream) : (modStr k xs f).vec = k.vec := by
  unfold modStr; split <;> rfl
@[simp] theorem modStr_accs (k : Core) (xs : Bool) (f : Stream → Stream) : (modStr k xs f).accs = k.accs := by
  unfold modStr; split <;> rfl
@[simp] theorem modStr_sh (k : Core) (xs : Bool) (f : Stream → Stream) : (modStr k xs f).sh = k.sh := by
  unfold modStr; split <;> rfl
@[simp] theorem modStr_eng (k : Core) (xs : Bool) (f : Stream → Stream) : (modStr k xs f).eng = k.eng := by
  unfold modStr; split <;> rfl
@[simp] theorem modStr_run (k : Core) (xs : Bool) (f : Stream → Stream) : (modStr k xs f).run = k.run := by
  unfold modStr; split <;> rfl
@[simp] theorem modStr_lcs (k : Core) (xs : Bool) (f : Stream → Stream) : (modStr k xs f).lcs = k.lcs := by
  unfold modStr; split <;> rfl
@[simp] theorem modStr_inbox (k : Core) (xs : Bool) (f : Stream → Stream) : (modStr k xs f).inbox = k.inbox := by
  unfold modStr; split <;> rfl
@[simp] theorem modStr_outbox (k : Core) (xs : Bool) (f : Stream → Stream) : (modStr k xs f).outbox = k.outbox := by
  unfold modStr; split <;> rfl
@[simp] theorem modStr_scratch (k : Core) (xs : Bool) (f : Stream → Stream) : (modStr k xs f).scratch = k.scratch := by
  unfold modStr; split <;> rfl
@[simp] theorem modStr_poison (k : Core) (xs : Bool) (f : Stream → Stream) : (modStr k xs f).poison = k.poison := by
  unfold modStr; split <;> rfl
@[simp] theorem modStr_res (k : Core) (xs : Bool) (f : Stream → Stream) : (modStr k xs f).res = k.res := by
  unfold modStr; split <;> rfl
@[simp] theorem modStr_nextSlot (k : Core) (xs : Bool) (f : Stream → Stream) : (modStr k xs f).nextSlot = k.nextSlot := by
  unfold modStr; split <;> rfl
@[simp] theorem modStr_urgentRun (k : Core) (xs : Bool) (f : Stream → Stream) : (modStr k xs f).urgentRun = k.urgentRun := by
  unfold modStr; split <;> rfl
@[simp] theorem modStr_edge (k : Core) (xs : Bool) (f : Stream → Stream) : (modStr k xs f).edge = k.edge := by
  unfold modStr; split <;> rfl
@[simp] theorem modStr_easement (k : Core) (xs : Bool) (f : Stream → Stream) : (modStr k xs f).easement = k.easement := by
  unfold modStr; split <;> rfl
@[simp] theorem modStr_lent (k : Core) (xs : Bool) (f : Stream → Stream) : (modStr k xs f).lent = k.lent := by
  unfold modStr; split <;> rfl
@[simp] theorem modStr_borrower (k : Core) (xs : Bool) (f : Stream → Stream) : (modStr k xs f).borrower = k.borrower := by
  unfold modStr; split <;> rfl
@[simp] theorem modStr_decision (k : Core) (xs : Bool) (f : Stream → Stream) : (modStr k xs f).decision = k.decision := by
  unfold modStr; split <;> rfl
@[simp] theorem modStr_dispatchAt (k : Core) (xs : Bool) (f : Stream → Stream) : (modStr k xs f).dispatchAt = k.dispatchAt := by
  unfold modStr; split <;> rfl
@[simp] theorem modStr_wipe (k : Core) (xs : Bool) (f : Stream → Stream) : (modStr k xs f).wipe = k.wipe := by
  unfold modStr; split <;> rfl
@[simp] theorem modStr_acted (k : Core) (xs : Bool) (f : Stream → Stream) : (modStr k xs f).acted = k.acted := by
  unfold modStr; split <;> rfl

/-! ### setTokens -/

@[simp] theorem setTokens_a (k : Core) (xs : Bool) (n : BitVec 4) : (setTokens k xs n).a = k.a := by
  unfold setTokens; split <;> rfl
@[simp] theorem setTokens_x (k : Core) (xs : Bool) (n : BitVec 4) : (setTokens k xs n).x = k.x := by
  unfold setTokens; split <;> rfl
@[simp] theorem setTokens_vec (k : Core) (xs : Bool) (n : BitVec 4) : (setTokens k xs n).vec = k.vec := by
  unfold setTokens; split <;> rfl
@[simp] theorem setTokens_accs (k : Core) (xs : Bool) (n : BitVec 4) : (setTokens k xs n).accs = k.accs := by
  unfold setTokens; split <;> rfl
@[simp] theorem setTokens_eng (k : Core) (xs : Bool) (n : BitVec 4) : (setTokens k xs n).eng = k.eng := by
  unfold setTokens; split <;> rfl
@[simp] theorem setTokens_run (k : Core) (xs : Bool) (n : BitVec 4) : (setTokens k xs n).run = k.run := by
  unfold setTokens; split <;> rfl
@[simp] theorem setTokens_lcs (k : Core) (xs : Bool) (n : BitVec 4) : (setTokens k xs n).lcs = k.lcs := by
  unfold setTokens; split <;> rfl
@[simp] theorem setTokens_inbox (k : Core) (xs : Bool) (n : BitVec 4) : (setTokens k xs n).inbox = k.inbox := by
  unfold setTokens; split <;> rfl
@[simp] theorem setTokens_outbox (k : Core) (xs : Bool) (n : BitVec 4) : (setTokens k xs n).outbox = k.outbox := by
  unfold setTokens; split <;> rfl
@[simp] theorem setTokens_scratch (k : Core) (xs : Bool) (n : BitVec 4) : (setTokens k xs n).scratch = k.scratch := by
  unfold setTokens; split <;> rfl
@[simp] theorem setTokens_poison (k : Core) (xs : Bool) (n : BitVec 4) : (setTokens k xs n).poison = k.poison := by
  unfold setTokens; split <;> rfl
@[simp] theorem setTokens_res (k : Core) (xs : Bool) (n : BitVec 4) : (setTokens k xs n).res = k.res := by
  unfold setTokens; split <;> rfl
@[simp] theorem setTokens_nextSlot (k : Core) (xs : Bool) (n : BitVec 4) : (setTokens k xs n).nextSlot = k.nextSlot := by
  unfold setTokens; split <;> rfl
@[simp] theorem setTokens_urgentRun (k : Core) (xs : Bool) (n : BitVec 4) : (setTokens k xs n).urgentRun = k.urgentRun := by
  unfold setTokens; split <;> rfl
@[simp] theorem setTokens_edge (k : Core) (xs : Bool) (n : BitVec 4) : (setTokens k xs n).edge = k.edge := by
  unfold setTokens; split <;> rfl
@[simp] theorem setTokens_easement (k : Core) (xs : Bool) (n : BitVec 4) : (setTokens k xs n).easement = k.easement := by
  unfold setTokens; split <;> rfl
@[simp] theorem setTokens_lent (k : Core) (xs : Bool) (n : BitVec 4) : (setTokens k xs n).lent = k.lent := by
  unfold setTokens; split <;> rfl
@[simp] theorem setTokens_borrower (k : Core) (xs : Bool) (n : BitVec 4) : (setTokens k xs n).borrower = k.borrower := by
  unfold setTokens; split <;> rfl
@[simp] theorem setTokens_decision (k : Core) (xs : Bool) (n : BitVec 4) : (setTokens k xs n).decision = k.decision := by
  unfold setTokens; split <;> rfl
@[simp] theorem setTokens_dispatchAt (k : Core) (xs : Bool) (n : BitVec 4) : (setTokens k xs n).dispatchAt = k.dispatchAt := by
  unfold setTokens; split <;> rfl
@[simp] theorem setTokens_wipe (k : Core) (xs : Bool) (n : BitVec 4) : (setTokens k xs n).wipe = k.wipe := by
  unfold setTokens; split <;> rfl
@[simp] theorem setTokens_acted (k : Core) (xs : Bool) (n : BitVec 4) : (setTokens k xs n).acted = k.acted := by
  unfold setTokens; split <;> rfl

/-! ## Registers read back (R13, R14) -/

theorem aGet_aSet (k : Core) (r q : BitVec 5) (v : Word) :
    aGet (aSet k r v) q = if q = r ∧ r ≠ 0#5 then v else aGet k q := by
  unfold aGet aSet
  by_cases hr : r = 0#5
  · simp [hr]
  · by_cases hq : q = 0#5
    · simp [hr, hq, Ne.symm hr]
    · simp [hr, hq, bget_bset]

theorem sGet_sSet (k : Core) (r q : BitVec 5) (v : Word) :
    sGet (sSet k r v) q = if q = r ∧ r ≠ 0#5 then v else sGet k q := by
  unfold sGet sSet
  by_cases hr : r = 0#5
  · simp [hr]
  · by_cases hq : q = 0#5
    · simp [hr, hq, Ne.symm hr]
    · simp [hr, hq, bget_bset]

theorem strOf_modStr_same (k : Core) (xs : Bool) (f : Stream → Stream) :
    strOf (modStr k xs f) xs = f (strOf k xs) := by cases xs <;> rfl

theorem strOf_modStr_other (k : Core) (xs : Bool) (f : Stream → Stream) :
    strOf (modStr k xs f) (!xs) = strOf k (!xs) := by cases xs <;> rfl

@[simp] theorem tokens_modStr (k : Core) (xs ys : Bool) (f : Stream → Stream) :
    tokens (modStr k xs f) ys = tokens k ys := by cases xs <;> rfl

@[simp] theorem tokens_setTokens_same (k : Core) (xs : Bool) (n : BitVec 4) : tokens (setTokens k xs n) xs = n := by
  cases xs <;> rfl

@[simp] theorem tokens_setTokens_other (k : Core) (xs : Bool) (n : BitVec 4) :
    tokens (setTokens k xs n) (!xs) = tokens k (!xs) := by cases xs <;> rfl

@[simp] theorem strOf_setTokens (k : Core) (xs ys : Bool) (n : BitVec 4) : strOf (setTokens k xs n) ys = strOf k ys := by
  cases xs <;> rfl

end Sys2Proof.Machine
end

