-- ==== Sys2Proof/Laws/Issue.lean ====
section
/-!
SUPPORT. What issuing an instruction does: every outcome is a next state, and a clear instruction's is its body's.
-/
namespace Sys2Proof.Machine
open Sys2Proof

/-- Issuing answers a next state, whatever the instruction and the state. -/
theorem cuvos_next (xs : Bool) (h : Hdr) (gk : GuardKind) (body onFalse : Nat → State → Eff) (s : State) :
    ∃ t, cuvos xs h gk body onFalse s = .next t := by
  unfold cuvos
  simp only
  split
  · exact ⟨_, rfl⟩
  · split
    · exact ⟨_, rfl⟩
    · split <;> exact ⟨_, rfl⟩

/-- A clear instruction takes its token. -/
theorem takeToken_clear {s : State} {xs : Bool} {h : Hdr} (hc : Clear s xs h) :
    takeToken s (coreOf s s.me) xs h = some ((takeToken s (coreOf s s.me) xs h).getD (coreOf s s.me)) := by
  obtain ⟨-, -, -, ht⟩ := hc
  unfold takeToken
  by_cases hw : h.w = true
  · rcases ht hw with hd | hn
    · simp [hd]
    · by_cases hd : (strOf (coreOf s s.me) xs).wDone = true
      · simp [hd]
      · simp [hw, hd, hn]
  · simp [hw]

/-- What a clear instruction does is what its body, or a false guard, does in the state with its token taken. -/
theorem issueOn_clear {s : State} {xs : Bool} {h : Hdr} (hc : Clear s xs h) (gk : GuardKind)
    (body onFalse : Nat → State → Eff) :
    issueOn xs h gk body onFalse s.me s =
      if guardOk ((takeToken s (coreOf s s.me) xs h).getD (coreOf s s.me)) xs gk h then body s.me (begun s xs h)
      else onFalse s.me (begun s xs h) := by
  have ht := takeToken_clear hc
  obtain ⟨-, hp, hh, -⟩ := hc
  unfold issueOn issuePre
  simp only [hp, hh, Option.isSome_none, Bool.false_and, Bool.false_eq_true, if_false]
  rw [ht]
  simp only [issueBody, coreOf_setCore_same]
  rfl

/-- A clear instruction of a stream that is not fused is carried out as its body says. -/
theorem cuvos_clear {s : State} {xs : Bool} {h : Hdr} (hc : Clear s xs h) (gk : GuardKind)
    (body onFalse : Nat → State → Eff) :
    cuvos xs h gk body onFalse s = .next (settleEff xs h s.me
      (if guardOk (begunCore s xs h) xs gk h then body s.me (begun s xs h)
        else onFalse s.me (begun s xs h))) := by
  have hi := issueOn_clear hc gk body onFalse
  obtain ⟨⟨r, hr, hl⟩, -⟩ := hc
  unfold cuvos
  simp only [hr, hl, if_true]
  unfold issueSolo
  rw [hi]
  simp only [begunCore, begun, coreOf_setCore_same]

/-- A clear instruction whose guard is true is carried out as its body says. -/
theorem clear_guarded {s : State} {xs : Bool} {h : Hdr} (hc : Clear s xs h) (hg : Guarded s xs h)
    (body onFalse : Nat → State → Eff) :
    cuvos xs h .inst body onFalse s = .next (settleEff xs h s.me (body s.me (begun s xs h))) := by
  rw [cuvos_clear hc]
  simp [guardOk, show qGet (begunCore s xs h) xs h.g = true from hg]

/-- A clear instruction that no guard suppresses is carried out as its body says. -/
theorem clear_whole {s : State} {xs : Bool} {h : Hdr} (hc : Clear s xs h) (body onFalse : Nat → State → Eff) :
    cuvos xs h .none body onFalse s = .next (settleEff xs h s.me (body s.me (begun s xs h))) := by
  rw [cuvos_clear hc]
  simp [guardOk]

/-- An instruction whose body changes its core only. -/
theorem clear_onCore {s : State} {xs : Bool} {h : Hdr} (hc : Clear s xs h) (hg : Guarded s xs h) (f : Core → Core)
    (onFalse : Nat → State → Eff) : cuvos xs h .inst (onCore f) onFalse s = .next (wrote s xs h f) :=
  clear_guarded hc hg _ _

/-- The core whose turn it is stays the same when its token is taken. -/
@[simp] theorem begun_me (s : State) (xs : Bool) (h : Hdr) : (begun s xs h).me = s.me := rfl

/-- The core an instruction acts on, by its name. -/
theorem coreOf_begun (s : State) (xs : Bool) (h : Hdr) : coreOf (begun s xs h) s.me = begunCore s xs h := rfl

end Sys2Proof.Machine
end

