-- ==== Sys2Proof/Laws/Forms.lean ====
section
/-!
SUPPORT. Every Cuvos instruction goes through one issue operation: its stream, header, guard and body.
-/
namespace Sys2Proof.Machine
open Sys2Proof

/-- How a guard form reads the guard field. -/
def GuardForm.kind : GuardForm → GuardKind
  | .inst => .inst
  | .whole => .none
  | .loop _ => .inst

/-- What a guard form does when its guard is false. -/
def GuardForm.onFalse (xs : Bool) : GuardForm → Nat → State → Eff
  | .inst => suppressed
  | .whole => suppressed
  | .loop len => skipBody xs len

/-- An instruction of a stream issues its body under its form. -/
theorem exec_form {i : Instr} {xs : Bool} {h : Hdr} {g : GuardForm} (hf : cuvosForm i = some (xs, h, g)) :
    ∃ (gk : GuardKind) (body : Nat → State → Eff), (∀ k, guardOk k xs gk h = guardOk k xs g.kind h) ∧
      ∀ s, exec i s = cuvos xs h gk body (g.onFalse xs) s := by
  cases i <;> cases hf <;> refine ⟨_, _, ?_, fun _ => rfl⟩ <;> exact fun _ => rfl

/-- A clear Cuvos instruction is carried out as its body says, or as a false guard says. -/
theorem exec_clear {i : Instr} {xs : Bool} {h : Hdr} {g : GuardForm} (hf : cuvosForm i = some (xs, h, g)) :
    ∃ body : Nat → State → Eff, ∀ s, Clear s xs h → exec i s = .next (settleEff xs h s.me
      (if guardOk (begunCore s xs h) xs g.kind h then body s.me (begun s xs h)
        else g.onFalse xs s.me (begun s xs h))) := by
  obtain ⟨gk, body, hk, hb⟩ := exec_form hf
  exact ⟨body, fun s hc => by rw [hb s, cuvos_clear hc, hk]⟩

end Sys2Proof.Machine
end

