-- ==== Sys2Proof/Laws/Memory.lean ====
section
/-!
SUPPORT. Sparse maps and memories: reading after writing, and the canonical form, which every operation that writes
memory keeps.
-/
namespace Sys2Proof.Machine
open Sys2Proof

/-! ## Sparse maps -/

/-- A key below every key of a map is not listed. -/
theorem mget_below {α : Type} {m : Map α} {a : Nat} (h : (m.all fun p => a < p.1) = true) : mget m a = none := by
  induction m with
  | nil => rfl
  | cons p m ih =>
    obtain ⟨k, v⟩ := p
    simp only [List.all_cons, Bool.and_eq_true, decide_eq_true_eq] at h
    simp [mget, Nat.ne_of_gt h.1, ih h.2]

theorem mget_merase_same {α : Type} {m : Map α} {a : Nat} (h : m.sorted = true) : mget (merase m a) a = none := by
  induction m with
  | nil => rfl
  | cons p m ih =>
    obtain ⟨k, v⟩ := p
    simp only [Map.sorted, Bool.and_eq_true] at h
    simp only [merase]
    split
    · next e => subst e; exact mget_below h.1
    · next e => simp [mget, e, ih h.2]

theorem mget_merase_other {α : Type} (m : Map α) (a b : Nat) (h : b ≠ a) : mget (merase m a) b = mget m b := by
  induction m with
  | nil => rfl
  | cons p m ih =>
    obtain ⟨k, v⟩ := p
    simp only [merase]
    split
    · next e => subst e; simp [mget, Ne.symm h]
    · simp [mget, ih]

theorem mset_all {α : Type} {m : Map α} {f : Nat × α → Bool} {a : Nat} {x : α} (h : m.all f = true)
    (hx : f (a, x) = true) : (mset m a x).all f = true := by
  induction m with
  | nil => simp [mset, hx]
  | cons p m ih =>
    obtain ⟨k, v⟩ := p
    simp only [List.all_cons, Bool.and_eq_true] at h
    simp only [mset]
    split
    · simp [hx, h.1, h.2]
    · split
      · simp [hx, h.2]
      · simp [h.1, ih h.2]

theorem merase_all {α : Type} {m : Map α} {f : Nat × α → Bool} {a : Nat} (h : m.all f = true) :
    (merase m a).all f = true := by
  induction m with
  | nil => rfl
  | cons p m ih =>
    obtain ⟨k, v⟩ := p
    simp only [List.all_cons, Bool.and_eq_true] at h
    simp only [merase]
    split
    · exact h.2
    · simp [h.1, ih h.2]

/-- Setting a key keeps the keys strictly rising. -/
theorem mset_sorted {α : Type} {m : Map α} (a : Nat) (x : α) (h : m.sorted = true) : (mset m a x).sorted = true := by
  induction m with
  | nil => rfl
  | cons p m ih =>
    obtain ⟨k, v⟩ := p
    have h0 := h
    simp only [Map.sorted, Bool.and_eq_true] at h
    simp only [mset]
    split
    · next l =>
      have hb : (m.all fun p => decide (a < p.1)) = true := by
        rw [List.all_eq_true] at *
        intro p hp
        have := h.1 p hp
        simp only [decide_eq_true_eq] at *
        omega
      simp only [Map.sorted, List.all_cons, Bool.and_eq_true, decide_eq_true_eq]
      exact ⟨⟨l, hb⟩, h⟩
    · split
      · next e => subst e; simpa [Map.sorted] using h
      · next l e =>
        simp only [Map.sorted, Bool.and_eq_true]
        exact ⟨mset_all h.1 (by simpa using by omega), ih h.2⟩

/-- Removing a key keeps the keys strictly rising. -/
theorem merase_sorted {α : Type} {m : Map α} (a : Nat) (h : m.sorted = true) : (merase m a).sorted = true := by
  induction m with
  | nil => rfl
  | cons p m ih =>
    obtain ⟨k, v⟩ := p
    simp only [Map.sorted, Bool.and_eq_true] at h
    simp only [merase]
    split
    · exact h.2
    · simp only [Map.sorted, Bool.and_eq_true]
      exact ⟨merase_all h.1, ih h.2⟩

/-- Keeping some keys keeps them strictly rising. -/
theorem filter_sorted {α : Type} {m : Map α} (f : Nat × α → Bool) (h : m.sorted = true) :
    Map.sorted (m.filter f) = true := by
  induction m with
  | nil => rfl
  | cons p m ih =>
    obtain ⟨k, v⟩ := p
    simp only [Map.sorted, Bool.and_eq_true] at h
    rw [List.filter_cons]
    split
    · simp only [Map.sorted, Bool.and_eq_true]
      refine ⟨?_, ih h.2⟩
      rw [List.all_eq_true] at *
      exact fun p hp => h.1 p (List.mem_filter.1 hp).1
    · exact ih h.2

/-! ## The canonical form of a memory (log 4) -/

theorem wf_iff (m : Memory) : m.wf = true ↔ Map.sorted m = true ∧ (m.all fun c => c.2 != 0#8) = true := by
  simp [Memory.wf]

theorem memSet_wf {m : Memory} (a : Nat) (b : Byte) (h : m.wf = true) : (memSet m a b).wf = true := by
  rw [wf_iff] at *
  unfold memSet
  split
  · exact ⟨merase_sorted a h.1, merase_all h.2⟩
  · next e => exact ⟨mset_sorted a b h.1, mset_all h.2 (by simpa using e)⟩

theorem memSetList_wf {m : Memory} (a : Nat) (bs : List Byte) (h : m.wf = true) : (memSetList m a bs).wf = true := by
  induction bs generalizing m a with
  | nil => exact h
  | cons b bs ih => exact ih _ (memSet_wf a b h)

theorem rawPutList_wf {m : Memory} (l : List (Nat × Byte)) (h : m.wf = true) : (rawPutList m l).wf = true := by
  induction l generalizing m with
  | nil => exact h
  | cons p l ih => exact ih (memSet_wf p.1 p.2 h)

theorem filter_wf {m : Memory} (f : Nat × Byte → Bool) (h : m.wf = true) : Memory.wf (m.filter f) = true := by
  rw [wf_iff] at *
  refine ⟨filter_sorted f h.1, ?_⟩
  rw [List.all_eq_true] at *
  exact fun p hp => h.2 p (List.mem_filter.1 hp).1

/-! ## Physical memory -/

/-- A count of a block's writes is no write. -/
theorem treeWrite_mem (p : Phys) (pa : Nat) : (treeWrite p pa).mem = p.mem := by
  unfold treeWrite
  split <;> rfl

/-- A fold of steps that keep a memory canonical keeps it so. -/
theorem foldl_wf {α : Type} (f : Phys → α → Phys) (hf : ∀ p a, p.mem.wf = true → (f p a).mem.wf = true) (l : List α)
    {p : Phys} (h : p.mem.wf = true) : (l.foldl f p).mem.wf = true := by
  induction l generalizing p with
  | nil => exact h
  | cons a l ih => exact ih (hf p a h)

theorem flushBlock_wf {p : Phys} (w : FormatWindow) (b : Nat) (h : p.mem.wf = true) :
    (flushBlock p w b).mem.wf = true := by
  refine foldl_wf _ (fun q a hq => ?_) _ (rawPutList_wf _ h)
  rw [treeWrite_mem]
  exact hq

theorem flushBlocks_wf {p : Phys} (l : List (FormatWindow × Nat)) (h : p.mem.wf = true) :
    (flushBlocks p l).mem.wf = true := by
  induction l generalizing p with
  | nil => exact h
  | cons x l ih => exact ih (flushBlock_wf x.1 x.2 h)

theorem physPut_wf {p : Phys} (pa : Nat) (b : Byte) (h : p.mem.wf = true) : (physPut p pa b).mem.wf = true := by
  unfold physPut
  split
  · split <;> exact h
  · exact memSet_wf _ _ (flushBlocks_wf _ h)

theorem physPuts_wf {p : Phys} (pa : Nat) (bs : List Byte) (h : p.mem.wf = true) :
    (physPuts p pa bs).mem.wf = true := by
  induction bs generalizing p pa with
  | nil => exact h
  | cons b bs ih => exact ih _ (physPut_wf pa b h)

theorem countWrites_wf {p : Phys} (pa n : Nat) (h : p.mem.wf = true) : (countWrites p pa n).mem.wf = true := by
  refine foldl_wf _ (fun q b hq => ?_) _ h
  repeat' split
  all_goals first | exact hq | rw [treeWrite_mem]; exact hq

theorem settleView_wf {p : Phys} (pa n : Nat) (h : p.mem.wf = true) : (settleView p pa n).mem.wf = true := by
  unfold settleView
  repeat' split
  all_goals first | exact h | exact flushBlocks_wf _ h

theorem physPutList_wf {p : Phys} (pa : Nat) (bs : List Byte) (h : p.mem.wf = true) :
    (physPutList p pa bs).mem.wf = true :=
  settleView_wf pa bs.length (countWrites_wf pa bs.length (physPuts_wf pa bs h))

theorem physStore_wf {p : Phys} (pa : Nat) (bs : List Byte) (h : p.mem.wf = true) :
    (physStore p pa bs).mem.wf = true := physPutList_wf pa bs h

theorem writeBackLine_wf {p : Phys} (line : Nat) (h : p.mem.wf = true) : (writeBackLine p line).mem.wf = true := by
  unfold writeBackLine
  refine foldl_wf _ (fun q b hq => ?_) _ (flushBlocks_wf (dirtyViews p (128 * line) 128) h)
  rw [treeWrite_mem]
  exact hq

theorem markAD_wf {p : Phys} (l : Leaf) (wr : Bool) (h : p.mem.wf = true) : (markAD p l wr).mem.wf = true := by
  cases wr <;> simp only [markAD] <;> repeat' split
  all_goals first | exact h | exact physPutList_wf _ _ h

theorem flushOver_wf {p : Phys} (pa n : Nat) (h : p.mem.wf = true) : (flushOver p pa n).mem.wf = true := by
  unfold flushOver
  split
  · exact h
  · refine foldl_wf _ (fun q i hq => ?_) _ h
    split
    · exact hq
    · exact flushBlocks_wf _ hq

/-! ## Operations on the package that write memory -/

/-- A fold of steps of the package that keep its memory canonical keeps it so. -/
theorem foldlS_wf {α : Type} (f : State → α → State)
    (hf : ∀ s a, s.phys.mem.wf = true → (f s a).phys.mem.wf = true) (l : List α) {s : State}
    (h : s.phys.mem.wf = true) : (l.foldl f s).phys.mem.wf = true := by
  induction l generalizing s with
  | nil => exact h
  | cons a l ih => exact ih (hf s a h)

theorem foldl_phys (l : List Nat) (f : State → Nat → State) (hf : ∀ s a, (f s a).phys = s.phys) (s : State) :
    (l.foldl f s).phys = s.phys := by
  induction l generalizing s with
  | nil => rfl
  | cons a l ih => exact (ih _).trans (hf s a)

theorem evictLine_wf {s : State} (line : Nat) (h : s.phys.mem.wf = true) : (evictLine s line).phys.mem.wf = true := by
  unfold evictLine
  split
  · exact h
  · simp only [setLine]
    refine writeBackLine_wf line ?_
    rw [foldl_phys _ _ (fun t a => ?_)]
    · exact h
    · split <;> rfl

theorem fillLine_wf {s : State} (p line : Nat) (b : BitVec 4) (h : s.phys.mem.wf = true) :
    (fillLine s p line b).phys.mem.wf = true := by
  simp only [fillLine]
  repeat' split
  all_goals first | exact h | exact evictLine_wf (s := { s with freeCtr := s.freeCtr + 1 }) _ h

theorem recallHalf_mem (s : State) (half : Nat) : (recallHalf s half).phys.mem = s.phys.mem := by
  unfold recallHalf
  split <;> rfl

theorem useHalf_wf {s : State} (u : LineUse) (half : Nat) (h : s.phys.mem.wf = true) :
    (useHalf u s half).phys.mem.wf = true := by
  simp only [useHalf, useHost, useDevice]
  repeat' split
  all_goals first
    | exact h
    | exact foldlS_wf _ (fun t a ht => by rw [recallHalf_mem]; exact ht) _ h

/-- An access that reaches its lines keeps the memory canonical. -/
theorem useLines_wf {s : State} (p pa n : Nat) (u : LineUse) (h : s.phys.mem.wf = true) :
    (useLines s p pa n u).phys.mem.wf = true :=
  foldlS_wf _ (fun _ a h => useHalf_wf u a h) _
    (foldlS_wf _ (fun _ a h => fillLine_wf p a _ h) _ (flushOver_wf (p := s.phys) pa n h))

theorem holdLeaf_phys (s : State) (u : Who) (p v : Nat) (l : Leaf) (es : List WalkEnt) :
    (holdLeaf s u p v l es).phys = s.phys := by
  unfold holdLeaf
  cases u <;> rfl

theorem walkLines_wf {s : State} (u : Who) (p root v : Nat) (h : s.phys.mem.wf = true) :
    (walkLines s u p root v).phys.mem.wf = true :=
  foldlS_wf _ (fun _ e h => useLines_wf p e.1 8 .read h) _ h

theorem markLeaf_wf {s : State} (p : Nat) (l : Leaf) (wr : Bool) (h : s.phys.mem.wf = true) :
    (markLeaf s p l wr).phys.mem.wf = true := by
  unfold markLeaf
  split
  · exact h
  · exact markAD_wf _ _ (useLines_wf _ _ _ _ h)

theorem walked_wf {s : State} (u : Who) (p root v : Nat) (l : Leaf) (wr : Bool) (h : s.phys.mem.wf = true) :
    (walked s u p root v l wr).phys.mem.wf = true := by
  have e := markLeaf_wf p l wr (walkLines_wf u p root v h)
  unfold walked
  simp only
  split
  · exact e
  · rw [holdLeaf_phys]; exact e

theorem settleRetry_phys (s : State) (u : Who) (va : Word) : (settleRetry s u va).phys = s.phys := by
  unfold settleRetry
  cases u <;> rfl

theorem reach_wf {s : State} (u : Who) (p : Nat) (va : Word) (l : Leaf) (pa : Nat) (wr : Bool)
    (h : s.phys.mem.wf = true) : (reach s u p va l pa wr).phys.mem.wf = true :=
  walked_wf u p _ _ l wr h

theorem touch_wf {s : State} (u : Who) (p : Nat) (va : Word) (l : Leaf) (pa n : Nat) (use : LineUse)
    (h : s.phys.mem.wf = true) : (touch s u p va l pa n use).phys.mem.wf = true :=
  useLines_wf p pa n use (reach_wf u p va l pa _ h)

/-- A read at a physical address that answers has used its lines and nothing more. -/
theorem readAt_ok {s t u : State} {p pa n : Nat} {bs : List Byte} (e : readAt s p pa n t = .ok u bs) :
    u = t ∧ bs = physBytes s.phys pa n := by
  unfold readAt at e
  repeat' split at e
  all_goals cases e
  exact ⟨rfl, rfl⟩

/-- A read for a parcel gives its bytes and keeps the memory canonical. -/
theorem readG_wf {s t : State} {u : Who} {p : Nat} {va : Word} {n : Nat} {k : AccKind} {bs : List Byte}
    (h : s.phys.mem.wf = true) (e : readG s u p va n k = .ok t bs) : t.phys.mem.wf = true := by
  unfold readG readX at e
  split at e
  · cases e
  · cases e
  · split at e
    · next q =>
      cases e
      rw [settleRetry_phys, (readAt_ok q).1]
      exact touch_wf _ _ _ _ _ _ _ h
    · next q => exact absurd e (q _ _)

theorem blockedBy_phys (s : State) (p : Nat) (va : Word) (wr : Bool) (b : Blocked) :
    (blockedBy s p va wr b).phys = s.phys := by
  unfold blockedBy
  repeat' split
  all_goals rfl

theorem devDone_phys (s : State) (p : Nat) (va : Word) : (devDone s p va).phys = s.phys := by
  unfold devDone
  split <;> rfl

theorem missWalk_wf {s : State} (u : Who) (p : Nat) (va : Word) (h : s.phys.mem.wf = true) :
    (missWalk s u p va).phys.mem.wf = true := by
  unfold missWalk
  split
  · exact walkLines_wf _ _ _ _ h
  · exact h

theorem countPoison_phys (s : State) (pa n : Nat) : (countPoison s pa n).phys = s.phys := by
  unfold countPoison
  generalize poisonBlocks s.phys pa n = l
  refine foldl_phys l _ (fun t a => ?_) s
  repeat' split
  all_goals rfl

theorem poisonRaw_mem (p : Phys) (pa : Nat) : (poisonRaw p pa).mem = p.mem := by
  unfold poisonRaw
  repeat' split
  all_goals rfl

theorem poisonAt_wf {p : Phys} (pa : Nat) (h : p.mem.wf = true) : (poisonAt p pa).mem.wf = true := by
  unfold poisonAt
  split
  · exact foldl_wf _ (fun q a hq => by rw [poisonRaw_mem]; exact hq) _ h
  · rw [poisonRaw_mem]; exact h

theorem poisonRange_wf {p : Phys} (pa n : Nat) (h : p.mem.wf = true) : (poisonRange p pa n).mem.wf = true :=
  foldl_wf _ (fun q a hq => poisonAt_wf _ hq) _ h

theorem storePoisoned_wf {s : State} (pa : Nat) (bs : List Byte) (h : s.phys.mem.wf = true) :
    (storePoisoned s pa bs).phys.mem.wf = true := by
  refine poisonRange_wf _ _ (physPutList_wf _ _ ?_)
  rw [countPoison_phys]
  exact h

/-- A write of a unit of the package keeps the memory canonical if what settles a dropped one does. -/
theorem unitWrite_wf {drop : State → Nat → Nat → State} {s : State} (p : Nat) (va : Word) (bs : List Byte)
    (hd : ∀ s pa o, s.phys.mem.wf = true → (drop s pa o).phys.mem.wf = true) (h : s.phys.mem.wf = true) :
    (unitWrite drop s p va bs).phys.mem.wf = true := by
  have reached (pa : Nat) (l : Leaf) :
      (touch (devDone s p va) .device p va l pa bs.length .write).phys.mem.wf = true :=
    touch_wf _ _ _ _ _ _ _ (by rw [devDone_phys]; exact h)
  unfold unitWrite
  repeat' split
  all_goals first
    | exact hd _ _ _ h
    | exact h
    | exact storePoisoned_wf _ _ (reached _ _)
    | exact physStore_wf _ _ (reached _ _)
    | (rw [blockedBy_phys]; exact missWalk_wf _ _ _ h)
    | exact missWalk_wf _ _ _ h

theorem entryWrite_wf {s : State} (p : Nat) (va : Word) (bs : List Byte) (h : s.phys.mem.wf = true) :
    (entryWrite s p va bs).phys.mem.wf = true := unitWrite_wf p va bs (fun _ _ _ h => h) h

theorem scrub_scratch_wf {k : Core} (base size : Nat) (h : k.scratch.wf = true) :
    (scrub k base size).scratch.wf = true := filter_wf _ h

/-- Memory at reset is canonical, and so is that of every core. -/
theorem reset_memory_wf : State.reset.phys.mem.wf = true ∧ Core.init.scratch.wf = true := by decide

end Sys2Proof.Machine
end

