-- ==== Sys2Proof/Laws/Ops.lean ====
section
/-!
SUPPORT. What the shared operations of the machine do: which parts of the package each changes, an add at a counter
home, and a terminating fault.
-/
namespace Sys2Proof.Machine
open Sys2Proof

/-! ## Counters (R352, R354, R410) -/

/-- A message-signalled interrupt changes nothing but the host interface. -/
theorem signal_frame (s : State) (f v : Nat) : { signal s f v with host := s.host } = s := by
  simp only [signal]
  split <;> rfl

/-- A counter interrupt changes nothing but the host interface. -/
theorem evalInt_frame (s : State) (f v : Nat) : { evalInt s f v with host := s.host } = s := by
  unfold evalInt
  split
  · rfl
  · split
    · exact (congrArg (fun t : State => { t with host := s.host }) (signal_frame ..)).trans rfl
    · rfl

/-- Operations of a fold that keep a part of the package keep it together. -/
theorem foldl_keeps {α β : Type} (g : State → β) (f : State → α → State) (h : ∀ s a, g (f s a) = g s) (l : List α)
    (s : State) : g (l.foldl f s) = g s := by
  induction l generalizing s with
  | nil => rfl
  | cons a l ih => exact (ih _).trans (h s a)

/-- The package without its host interface. -/
def noHost (s : State) : State := { s with host := HostIf.init }

theorem noHost_evalInt (s : State) (f v : Nat) : noHost (evalInt s f v) = noHost s := by
  have e := congrArg noHost (evalInt_frame s f v)
  exact e

theorem noHost_evalInts (s : State) (i : Nat) : noHost (evalInts s i) = noHost s := by
  refine foldl_keeps noHost _ (fun s kf => ?_) _ _
  refine foldl_keeps noHost _ (fun s kv => ?_) _ _
  split
  · exact noHost_evalInt ..
  · rfl

/-- The package without its counter homes, its host interface and the messages its endpoints have sent. -/
def noHomes (s : State) : State :=
  { s with homes := [], host := HostIf.init, mesh := { counts := [], fail := s.mesh.fail, last := none } }

theorem noHomes_of_noHost {s t : State} (h : noHost s = noHost t) : noHomes s = noHomes t := by
  have := congrArg (fun u : State => { u with homes := [], mesh := { counts := [], fail := u.mesh.fail, last := none } }) h
  exact this

/-- An add at a home changes nothing but the homes, the host interface and its message (R402). -/
theorem noHomes_homeAdd (s : State) (h x : Word) : noHomes (homeAdd s h x).2 = noHomes s := by
  unfold homeAdd
  simp only
  split
  · exact (noHomes_of_noHost (noHost_evalInts ..)).trans rfl
  · rfl

theorem noHomes_plainAdd (s : State) (p : Nat) (h x : Word) : noHomes (plainAdd s p h x).1 = noHomes s := by
  unfold plainAdd
  split
  · rfl
  · exact noHomes_homeAdd ..

theorem homes_of_noHost {s t : State} (h : noHost s = noHost t) : s.homes = t.homes := by
  have e := congrArg State.homes h
  exact e
theorem cores_of_noHomes {s t : State} (h : noHomes s = noHomes t) : s.cores = t.cores := by
  have e := congrArg State.cores h
  exact e
theorem phys_of_noHomes {s t : State} (h : noHomes s = noHomes t) : s.phys = t.phys := by
  have e := congrArg State.phys h
  exact e
theorem parcels_of_noHomes {s t : State} (h : noHomes s = noHomes t) : s.parcels = t.parcels := by
  have e := congrArg State.parcels h
  exact e
theorem sched_of_noHomes {s t : State} (h : noHomes s = noHomes t) : s.sched = t.sched := by
  have e := congrArg State.sched h
  exact e
theorem mgmt_of_noHomes {s t : State} (h : noHomes s = noHomes t) : s.mgmt = t.mgmt := by
  have e := congrArg State.mgmt h
  exact e

/-- A counter depends on the homes only. -/
theorem ctrOf_congr {s t : State} (e : s.homes = t.homes) (h : Word) : ctrOf s h = ctrOf t h := by
  simp [ctrOf, homeOf, e]

theorem ctrOf_setCtr_same (s : State) (h : Word) (c : Ctr) : ctrOf (setCtr s h c) h = c := by
  simp [ctrOf, setCtr, modHome, homeOf]

theorem ctrOf_setCtr_other (s : State) {h g : Word} (c : Ctr) (e : hKey g ≠ hKey h ∨ hIndex g ≠ hIndex h) :
    ctrOf (setCtr s h c) g = ctrOf s g := by
  simp only [ctrOf, setCtr, modHome, homeOf, mgetD_mset]
  split
  · next k =>
    rcases e with e | e
    · exact absurd k e
    · rw [k]; simp [mgetD_mset, e]
  · rfl

/-- Marking the waiters of a home leaves its counters. -/
theorem ctrOf_markHits (s : State) (h v g : Word) (n : Nat) : ctrOf (modHome s n (markHits h v)) g = ctrOf s g := by
  simp only [ctrOf, modHome, homeOf, mgetD_mset]
  split
  · next k => rw [k]; rfl
  · rfl

/-- The value that an add answers is the one before it (R354). -/
theorem homeAdd_value (s : State) (h x : Word) : (homeAdd s h x).1 = (ctrOf s h).value := rfl

/-- Every counter after an add. -/
theorem ctrOf_homeAdd (s : State) (h x g : Word) :
    ctrOf (homeAdd s h x).2 g =
      ctrOf (setCtr s h { ctrOf s h with value := (ctrOf s h).value + x }) g := by
  have key : ctrOf (modHome (setCtr s h { ctrOf s h with value := (ctrOf s h).value + x }) (hKey h)
      (markHits h ((ctrOf s h).value + x))) g =
      ctrOf (setCtr s h { ctrOf s h with value := (ctrOf s h).value + x }) g := ctrOf_markHits ..
  unfold homeAdd
  simp only
  split
  · exact (ctrOf_congr (homes_of_noHost (noHost_evalInts ..)) g).trans key
  · exact key

/-! ## Memory written for a parcel -/

/-- The package without physical memory and what an access of a unit of the package may touch beside it: the
translations held, the messages, the counts, counters and logs of a refused access, and what keeps an access from being
made. -/
def noMem (s : State) : State :=
  { s with phys := Phys.init, host := HostIf.init, freeCtr := 0, xl := Xlat.init, parcels := [], mgmt := Mgmt.init,
           homes := [], mesh := { counts := [], fail := none, last := none }, blocked := none, devMiss := [] }

theorem noMem_of_noHomes {s t : State} (h : noHomes s = noHomes t) : noMem s = noMem t := by
  have := congrArg noMem h
  exact this

theorem noMem_evictLine (s : State) (line : Nat) : noMem (evictLine s line) = noMem s := by
  have up (l : List Nat) : noMem (l.foldl (fun t h => match evictMsg s.phys h with
      | some u => sendUp t u
      | none => t) s) = noMem s := by
    refine foldl_keeps noMem _ (fun t h => ?_) _ _
    split <;> rfl
  unfold evictLine
  split
  · rfl
  · exact up _

theorem noMem_fillLine (s : State) (p line : Nat) (b : BitVec 4) : noMem (fillLine s p line b) = noMem s := by
  have put (t : State) (l w : Nat) : noMem (putLine t l w b) = noMem t := rfl
  simp only [fillLine]
  repeat' split
  all_goals first | rfl | exact put .. | exact (put ..).trans (noMem_evictLine ..)

theorem noMem_useHalf (u : LineUse) (s : State) (half : Nat) : noMem (useHalf u s half) = noMem s := by
  have recalled (l : List Nat) : noMem (l.foldl recallHalf s) = noMem s := by
    refine foldl_keeps noMem _ (fun t h => ?_) _ _
    unfold recallHalf
    split <;> rfl
  simp only [useHalf, useHost, useDevice]
  repeat' split
  all_goals first | rfl | exact recalled _

theorem noMem_useLines (s : State) (p pa n : Nat) (u : LineUse) : noMem (useLines s p pa n u) = noMem s :=
  (foldl_keeps noMem _ (fun s a => noMem_useHalf u s a) _ _).trans
    ((foldl_keeps noMem _ (fun s a => noMem_fillLine s p a _) _ _).trans rfl)

theorem noMem_walkLines (s : State) (u : Who) (p root v : Nat) : noMem (walkLines s u p root v) = noMem s := by
  unfold walkLines
  refine foldl_keeps noMem _ (fun t e => ?_) _ _
  exact noMem_useLines t p e.1 8 .read

theorem noMem_markLeaf (s : State) (p : Nat) (l : Leaf) (wr : Bool) : noMem (markLeaf s p l wr) = noMem s := by
  have mark (t u : State) (e : noMem t = noMem u) : noMem { t with phys := markAD t.phys l wr } = noMem u := e
  unfold markLeaf
  split
  · rfl
  · exact mark _ _ (noMem_useLines ..)

theorem noMem_walked (s : State) (p root v : Nat) (l : Leaf) (wr : Bool) :
    noMem (walked s .device p root v l wr) = noMem s := by
  simp only [walked, holdLeaf, ite_self]
  exact (noMem_markLeaf ..).trans (noMem_walkLines ..)

theorem noMem_missWalk (s : State) (p : Nat) (va : Word) : noMem (missWalk s .device p va) = noMem s := by
  unfold missWalk
  split
  · exact noMem_walkLines ..
  · rfl

theorem noMem_exchanged (s : State) (u : Who) (p h : Nat) : noMem (exchanged s u p h) = noMem s := rfl

/-- An access of a unit of the package leaves the streams, the counters, the schedule and the tables of the firmware. -/
theorem noMem_touch (s : State) (p : Nat) (va : Word) (l : Leaf) (pa n : Nat) (u : LineUse) :
    noMem (touch s .device p va l pa n u) = noMem s := by
  unfold touch reach
  rw [noMem_useLines, noMem_exchanged, noMem_walked]

theorem noMem_blockedBy (s : State) (p : Nat) (va : Word) (wr : Bool) (b : Blocked) :
    noMem (blockedBy s p va wr b) = noMem s := by
  unfold blockedBy
  repeat' split
  all_goals rfl

theorem noMem_devDone (s : State) (p : Nat) (va : Word) : noMem (devDone s p va) = noMem s := by
  unfold devDone
  split <;> rfl

theorem noMem_countPoison (s : State) (pa n : Nat) : noMem (countPoison s pa n) = noMem s := by
  unfold countPoison
  refine foldl_keeps noMem _ (fun t b => ?_) _ _
  repeat' split
  all_goals rfl

theorem noMem_storePoisoned (s : State) (pa : Nat) (bs : List Byte) : noMem (storePoisoned s pa bs) = noMem s :=
  (show noMem (storePoisoned s pa bs) = noMem (countPoison s pa bs.length) from rfl).trans (noMem_countPoison ..)

/-- A write of a unit of the package leaves the streams, the schedule and the tables, if what settles a dropped one does. -/
theorem noMem_unitWrite {drop : State → Nat → Nat → State} (hd : ∀ s pa o, noMem (drop s pa o) = noMem s) (s : State)
    (p : Nat) (va : Word) (bs : List Byte) : noMem (unitWrite drop s p va bs) = noMem s := by
  have put (t : State) (q : Phys) : noMem { t with phys := q } = noMem t := rfl
  have spent (t : State) : noMem (meshSpent t) = noMem t := rfl
  unfold unitWrite
  repeat' split
  all_goals first
    | exact hd ..
    | exact (hd ..).trans (spent s)
    | rfl
    | exact (noMem_storePoisoned ..).trans ((spent _).trans ((noMem_touch ..).trans (noMem_devDone ..)))
    | exact (put ..).trans ((noMem_touch ..).trans (noMem_devDone ..))
    | exact (noMem_blockedBy ..).trans (noMem_missWalk ..)
    | exact noMem_missWalk ..

theorem noMem_violation (s : State) (p o : Nat) : noMem (violation s p o) = noMem s := rfl

theorem noMem_entryWrite (s : State) (p : Nat) (va : Word) (bs : List Byte) : noMem (entryWrite s p va bs) = noMem s :=
  noMem_unitWrite (fun s _ o => noMem_violation s p o) ..

theorem noMem_plainAdd (s : State) (p : Nat) (h x : Word) : noMem (plainAdd s p h x).1 = noMem s :=
  noMem_of_noHomes (noHomes_plainAdd ..)

theorem noMem_putEntry (s : State) (p : Nat) (fa : FaultArea) (e : FaultEntry) : noMem (putEntry s p fa e) = noMem s :=
  (show noMem (putEntry s p fa e) = noMem (entryWrite s p _ _) from rfl).trans (noMem_entryWrite ..)

theorem noMem_entryAdd (s : State) (p : Nat) (e : FaultEntry) : noMem (entryAdd s p e) = noMem s := by
  unfold entryAdd
  split
  · rfl
  · exact (noMem_plainAdd ..).trans (noMem_putEntry ..)

/-- A fault-area entry leaves the streams, the schedule and the tables. -/
theorem noMem_faultEntry (s : State) (p : Nat) (e : FaultEntry) : noMem (faultEntry s p e) = noMem s := by
  unfold faultEntry
  split
  · rfl
  · split
    · exact (noMem_entryAdd ..).trans (noMem_putEntry ..)
    · exact noMem_entryAdd ..

theorem noMem_droppedWrite (s : State) (p core : Nat) (own : Owner) (va : Word) (pa o : Nat) :
    noMem (droppedWrite s p core own va pa o) = noMem s := (noMem_violation ..).trans (noMem_faultEntry ..)

/-- A write that a unit of the package makes leaves the streams, the schedule and the tables. -/
theorem noMem_devWrite (s : State) (p : Nat) (va : Word) (bs : List Byte) : noMem (devWrite s p va bs) = noMem s :=
  noMem_unitWrite (fun _ _ _ => noMem_droppedWrite ..) ..

theorem cores_of_noMem {s t : State} (h : noMem s = noMem t) : s.cores = t.cores := by
  have e := congrArg State.cores h
  exact e
theorem sched_of_noMem {s t : State} (h : noMem s = noMem t) : s.sched = t.sched := by
  have e := congrArg State.sched h
  exact e

theorem cores_devWrite (s : State) (p : Nat) (va : Word) (bs : List Byte) : (devWrite s p va bs).cores = s.cores :=
  cores_of_noMem (noMem_devWrite ..)

/-! ## The fault area and terminating faults (R31, R386, R387) -/

/-- The fault area after an entry: its number is used. -/
theorem putEntry_fault (s : State) (p : Nat) (fa : FaultArea) (e : FaultEntry) :
    (parcelOf (putEntry s p fa e) p).fault = some { fa with seq := fa.seq + 1 } := by
  simp [putEntry, parcelOf, modParcel]

/-- The entries written so far, after one whose add is made or needs none. -/
theorem entryAdd_fault (s : State) (p : Nat) (e : FaultEntry) :
    (parcelOf (entryAdd s p e) p).fault = (parcelOf s p).fault.map fun f => { f with seq := f.seq + 1 } := by
  unfold entryAdd
  split
  · next h => rw [h]; rfl
  · next fa h =>
    rw [h]
    simp only [parcelOf, parcels_of_noHomes (noHomes_plainAdd ..), Option.map_some]
    exact putEntry_fault ..

/-- The entries written so far, after one more: two, where the message of its add fails (R402). -/
theorem faultEntry_fault (s : State) (p : Nat) (e : FaultEntry) :
    (parcelOf (faultEntry s p e) p).fault = (parcelOf s p).fault.map fun f =>
      { f with seq := f.seq + (if f.cfg.handle ≠ 0 ∧ s.mesh.fail = some .add then 2 else 1) } := by
  unfold faultEntry
  split
  · next h => rw [h]; rfl
  · next fa h =>
    split
    · next c =>
      rw [staleEntry, entryAdd_fault, h]
      have e' : (parcelOf (meshSpent (putEntry s p fa e)) p).fault = some { fa with seq := fa.seq + 1 } :=
        putEntry_fault ..
      rw [e', Option.map_some, Option.map_some, if_pos c]
    · next c => rw [entryAdd_fault, h, Option.map_some, Option.map_some, if_neg c]

/-- An entry leaves the cores and the schedule as they were. -/
theorem faultEntry_cores (s : State) (p : Nat) (e : FaultEntry) : (faultEntry s p e).cores = s.cores :=
  cores_of_noMem (noMem_faultEntry ..)

theorem faultEntry_sched (s : State) (p : Nat) (e : FaultEntry) : (faultEntry s p e).sched = s.sched :=
  sched_of_noMem (noMem_faultEntry ..)

/-- A strand that is not fused is a gang of its own (R153). -/
theorem gangOf_single {s : State} {c : Nat} {r : Running} (h : (coreOf s c).run = some r) (l : r.logsz = 0#4) :
    gangOf s c = [c] := by
  unfold gangOf
  rw [h]
  simp [l]

/-- A terminating fault of a strand that is not fused ends that strand only. -/
theorem strandFault_single {s : State} {c : Nat} {r : Running} (h : (coreOf s c).run = some r) (l : r.logsz = 0#4)
    (xs : Bool) (f : FaultCode) (a : Word) :
    strandFault s c xs f a = faultOne s c xs f a (faultDetail (coreOf s c) xs) := by
  unfold strandFault
  simp [gangOf_single h l]

/-- A core without a strand takes no fault. -/
theorem faultOne_idle {s : State} {c : Nat} (h : (coreOf s c).run = none) (xs : Bool) (f : FaultCode) (a d : Word) :
    faultOne s c xs f a d = s := by
  simp only [faultOne]
  rw [h]

end Sys2Proof.Machine
end

