-- ==== Sys2Proof/Tests/Slice0.lean ====
section
/-!
SUPPORT. Tests: a word of every encoded instruction decoded, ill-formed terms refused, single steps on small states
with the spec's worked values, and for every statement with hypotheses a state that meets them.
-/
namespace Sys2Proof.Tests
open Sys2Proof Sys2Proof.Machine Sys2Proof.Claims

set_option Elab.async false

/-! ## Small states -/

/-- A header with no token and no guard. -/
abbrev h0 : Hdr := { w := false, t := false, g := 0 }
/-- A header of the P and S formats with no token. -/
abbrev p0 : HdrP := { w := false, t := false }

/-- A core that runs a strand in a window of 4,096 bytes. -/
def core0 : Core := { Core.init with run := some placeRun }
/-- Core 0 changed, its access stream to move. -/
def sa (f : Core → Core) : State := { State.reset with cores := [(0, f core0)] }
/-- Core 0 changed, its execute stream to move. -/
def sx (f : Core → Core) : State := { sa f with turn := .exe 0 }
/-- A state with one page table over the lowest memory, and frames 1 and 2 owned by parcel 0. -/
def mapped (s : State) : State := placeBase s 0

/-- The state after an outcome. -/
def after (o : Host.Outcome State Fault Refusal) : State :=
  match o with
  | .next t => t
  | _ => State.reset
/-- Core 0 after an outcome. -/
def coreAfter (o : Host.Outcome State Fault Refusal) : Core := coreOf (after o) 0

/-- A core that runs the placed strand, and whose stream holds for nothing, is clear. -/
theorem clear_s (s : State) (xs : Bool) (h : (coreOf s s.me).run = some placeRun := by rfl)
    (p : (strOf (coreOf s s.me) xs).pendT = none := by rfl) (q : (strOf (coreOf s s.me) xs).hold = none := by rfl) :
    Clear s xs h0 := ⟨⟨placeRun, h, rfl⟩, p, by rw [q]; rfl, fun w => nomatch w⟩
theorem guard0 (s : State) (xs : Bool) : Guarded s xs h0 := by
  cases xs <;> rfl
/-- A core with a shape, the FTRAPEN bit and an instruction or more in the vector queue. -/
def vecCore (shape : Word) (nve : Bool) (q : Nat) (k : Core) : Core :=
  { k with vec := { k.vec with shape := shape, nve := nve, vq := List.replicate q { tok := false } } }


/-! ## Decoding (R41 to R67, R236, R261): one word of every encoded row, its fields placed by hand -/

/-- A header with W set and guard `g`. -/
abbrev hd (g : BitVec 3) : Hdr := { w := true, t := false, g := g }
/-- A header of the P and S formats with W set. -/
abbrev hp : HdrP := { w := true, t := false }
/-- The words of a list decode to the instructions beside them, which encode to them. -/
noncomputable def reads (m : IsaMap) (l : List (BitVec 32 × Instr)) : Bool :=
  l.all fun p => decide (decode? m p.1 = some p.2) && decide (encode p.2 = some p.1)

theorem test_decode_access_1 : reads .access [
    (0xA8295B40, .aAdd (hd 5) 9 11 13),
    (0xA8295B41, .aSub (hd 5) 9 11 13),
    (0xA8295B42, .aAnd (hd 5) 9 11 13),
    (0xA8295B43, .aOr (hd 5) 9 11 13),
    (0xA8295B44, .aXor (hd 5) 9 11 13),
    (0xA8295B45, .aShl (hd 5) 9 11 13),
    (0xA8295B46, .aShr (hd 5) 9 11 13),
    (0xA8295B47, .aSra (hd 5) 9 11 13),
    (0xA8295B48, .aMul (hd 5) 9 11 13),
    (0xA8295B49, .aMulh (hd 5) 9 11 13),
    (0xA8295B4A, .aMulhu (hd 5) 9 11 13),
    (0xA8295B4B, .aMin (hd 5) 9 11 13),
    (0xA8295B4C, .aMax (hd 5) 9 11 13),
    (0xA8295B4D, .aMinu (hd 5) 9 11 13)] = true := by decide

theorem test_decode_access_2 : reads .access [
    (0xA8295B4E, .aMaxu (hd 5) 9 11 13),
    (0xA8295B4F, .aSlt (hd 5) 9 11 13),
    (0xA8295B50, .aSltu (hd 5) 9 11 13),
    (0xA8295B51, .aAndn (hd 5) 9 11 13),
    (0xA8295B52, .aOrn (hd 5) 9 11 13),
    (0xA8295B53, .aRotl (hd 5) 9 11 13),
    (0xA849580D, .aAddi (hd 5) 9 11 13),
    (0xA869580D, .aAndi (hd 5) 9 11 13),
    (0xA889580D, .aOri (hd 5) 9 11 13),
    (0xA8A9580D, .aXori (hd 5) 9 11 13),
    (0xA8C9580D, .aShli (hd 5) 9 11 13),
    (0xA8E9580D, .aShri (hd 5) 9 11 13),
    (0xA909580D, .aSrai (hd 5) 9 11 13),
    (0xA929580D, .aSlti (hd 5) 9 11 13)] = true := by decide

theorem test_decode_access_3 : reads .access [
    (0xA949000B, .aLi (hd 5) 9 11),
    (0xA969000B, .aLih (hd 5) 9 11),
    (0xA985B5E0, .cset (hd 5) 1 3 13 15),
    (0xA9A11940, .cand (hd 5) 1 3 5),
    (0xA9A11941, .cor (hd 5) 1 3 5),
    (0xA9A11942, .cxor (hd 5) 1 3 5),
    (0xA9A11804, .cnot (hd 5) 1 3),
    (0xA9A11805, .cmov (hd 5) 1 3),
    (0xA9C95800, .gaddrRl (hd 5) 9 11),
    (0xA9C95801, .gaddrOwn (hd 5) 9 11),
    (0xA9C95802, .gaddrOff (hd 5) 9 11),
    (0xA9E95B4F, .idx2 (hd 5) 9 11 13 15),
    (0xAA095B11, .ldl (hd 5) 9 11 1 1 17),
    (0xAA295B11, .stl (hd 5) 9 11 1 1 17)] = true := by decide

theorem test_decode_access_4 : reads .access [
    (0xAA415B11, .ldq (hd 5) 1 11 1 1 17),
    (0xAA604F0F, .stq (hd 5) 9 3 1 15),
    (0xAA895B11, .ldg (hd 5) 9 11 1 1 17),
    (0xAAA95B11, .stg (hd 5) 9 11 1 1 17),
    (0xAAC15B11, .ldgq (hd 5) 1 11 1 1 17),
    (0xAAE04F0F, .stgq (hd 5) 9 3 1 15),
    (0xAB130000, .vld (hd 5) 9 1),
    (0xAB320000, .vst (hd 5) 9),
    (0xAB536D03, .cpy (hd 5) 9 11 13 3),
    (0xAB736D03, .cpyg (hd 5) 9 11 13 3),
    (0xAB736D13, .cpys (hd 5) 9 11 13 3),
    (0xAB736D23, .cpyf (hd 5) 9 11 13 3),
    (0xAB736D3D, .cpyn (hd 5) 9 11 13 3 1),
    (0xAB895B43, .amoWAdd (hd 5) 9 11 13 3)] = true := by decide

theorem test_decode_access_5 : reads .access [
    (0xAB895B47, .amoWMin (hd 5) 9 11 13 3),
    (0xAB895B4B, .amoWMax (hd 5) 9 11 13 3),
    (0xAB895B4F, .amoWMinu (hd 5) 9 11 13 3),
    (0xAB895B53, .amoWMaxu (hd 5) 9 11 13 3),
    (0xAB895B57, .amoWAnd (hd 5) 9 11 13 3),
    (0xAB895B5B, .amoWOr (hd 5) 9 11 13 3),
    (0xAB895B5F, .amoWXor (hd 5) 9 11 13 3),
    (0xAB895B63, .amoWSwap (hd 5) 9 11 13 3),
    (0xAB895B67, .amoWCas (hd 5) 9 11 13 3),
    (0xABA95B43, .amoDAdd (hd 5) 9 11 13 3),
    (0xABA95B47, .amoDMin (hd 5) 9 11 13 3),
    (0xABA95B4B, .amoDMax (hd 5) 9 11 13 3),
    (0xABA95B4F, .amoDMinu (hd 5) 9 11 13 3),
    (0xABA95B53, .amoDMaxu (hd 5) 9 11 13 3)] = true := by decide

theorem test_decode_access_6 : reads .access [
    (0xABA95B57, .amoDAnd (hd 5) 9 11 13 3),
    (0xABA95B5B, .amoDOr (hd 5) 9 11 13 3),
    (0xABA95B5F, .amoDXor (hd 5) 9 11 13 3),
    (0xABA95B63, .amoDSwap (hd 5) 9 11 13 3),
    (0xABA95B67, .amoDCas (hd 5) 9 11 13 3),
    (0xABC04AC1, .redIaddW (hd 5) 9 11 1),
    (0xABC04AC5, .redIaddD (hd 5) 9 11 1),
    (0xABC04AC9, .redFaddF32 (hd 5) 9 11 1),
    (0xABC04ACD, .redFaddBf16x2 (hd 5) 9 11 1),
    (0xABC04AD1, .redFmaxF32 (hd 5) 9 11 1),
    (0xABC04AD5, .redImaxW (hd 5) 9 11 1),
    (0xABC04AD9, .redIminW (hd 5) 9 11 1),
    (0xABE95B70, .cadd (hd 5) 9 11 13 3),
    (0xABE95B71, .caddk (hd 5) 9 11 13 3)] = true := by decide

theorem test_decode_access_7 : reads .access [
    (0xABE95812, .cread (hd 5) 9 11 1),
    (0xABE15B53, .ctest (hd 5) 1 11 13 1),
    (0xABE04AD4, .cwait (hd 5) 9 11 1),
    (0xABE04AD5, .cwaitS (hd 5) 9 11 1),
    (0xABE95806, .calloc (hd 5) 9 11),
    (0xABE04807, .cfree (hd 5) 9),
    (0xABE04AC8, .carm (hd 5) 9 11),
    (0xABE04819, .cwany (hd 5) 9 1),
    (0xABE0481A, .cwall (hd 5) 9 1),
    (0xABE9580B, .cfirst (hd 5) 9 11),
    (0xAC000011, .fenceAcq (hd 5) 1),
    (0xAC000021, .fenceRel (hd 5) 1),
    (0xAC000031, .fenceAr (hd 5) 1),
    (0xAC29580D, .beq (hd 5) 9 11 13)] = true := by decide

theorem test_decode_access_8 : reads .access [
    (0xAC49580D, .bne (hd 5) 9 11 13),
    (0xAC69580D, .blt (hd 5) 9 11 13),
    (0xAC89580D, .bge (hd 5) 9 11 13),
    (0xACA9580D, .bltu (hd 5) 9 11 13),
    (0xACC9580D, .bgeu (hd 5) 9 11 13),
    (0x84FE000B, .bc hp 7 1 11),
    (0x85020009, .aBq hp 1 9),
    (0xAD200009, .aJ (hd 5) 9),
    (0xAD400009, .aJal (hd 5) 9),
    (0xAD604800, .aJr (hd 5) 9),
    (0x859F0000, .aSendb hp 7 1 1),
    (0xADA9000B, .aLoop (hd 5) 9 11),
    (0xADC0200B, .aLoops (hd 5) 2 11),
    (0xADE9300D, .loopr (hd 5) 9 3 13)] = true := by decide

theorem test_decode_access_9 : reads .access [
    (0xAE0900C1, .ftile (hd 5) 9 3 1),
    (0xAE200000, .suspS (hd 5)),
    (0xAE200001, .yieldS (hd 5)),
    (0xAE200002, .exitS (hd 5)),
    (0xAE200003, .commitS (hd 5)),
    (0xAE204804, .spawn (hd 5) 9),
    (0xAE2000C5, .aFuse (hd 5) 3),
    (0xAE200006, .aSplit (hd 5)),
    (0xAE49000B, .aCsrr (hd 5) 9 11),
    (0xAE495A0D, .aCsrw (hd 5) 9 11 13),
    (0xAE495C0D, .aCsrs (hd 5) 9 11 13),
    (0xAE495E0D, .aCsrc (hd 5) 9 11 13),
    (0xAE600009, .aTrap (hd 5) 9),
    (0xAE610009, .aBkpt (hd 5) 9)] = true := by decide

theorem test_decode_access_10 : reads .access [
    (0xAE804AC0, .fcall (hd 5) 9 11),
    (0xAE895B41, .fcallNb (hd 5) 9 11 13),
    (0xAEA12000, .dsc (hd 5) 9),
    (0xAEA12001, .pref (hd 5) 9),
    (0xAEC95800, .aTdefLo (hd 5) 9 11),
    (0xAEC95801, .aTdefHi (hd 5) 9 11),
    (0xAEC95802, .aTadv (hd 5) 9 11),
    (0xAEC95803, .aTrows (hd 5) 9 11)] = true := by decide

theorem test_decode_execute_1 : reads .execute [
    (0xA8295B40, .xAdd (hd 5) 9 11 13),
    (0xA8295B41, .xSub (hd 5) 9 11 13),
    (0xA8295B42, .xAnd (hd 5) 9 11 13),
    (0xA8295B43, .xOr (hd 5) 9 11 13),
    (0xA8295B44, .xXor (hd 5) 9 11 13),
    (0xA8295B45, .xShl (hd 5) 9 11 13),
    (0xA8295B46, .xShr (hd 5) 9 11 13),
    (0xA8295B47, .xSra (hd 5) 9 11 13),
    (0xA8295B48, .xMul (hd 5) 9 11 13),
    (0xA8295B49, .xMulh (hd 5) 9 11 13),
    (0xA8295B4A, .xMulhu (hd 5) 9 11 13),
    (0xA8295B4B, .xMin (hd 5) 9 11 13),
    (0xA8295B4C, .xMax (hd 5) 9 11 13),
    (0xA8295B4D, .xMinu (hd 5) 9 11 13)] = true := by decide

theorem test_decode_execute_2 : reads .execute [
    (0xA8295B4E, .xMaxu (hd 5) 9 11 13),
    (0xA8295B4F, .xSlt (hd 5) 9 11 13),
    (0xA8295B50, .xSltu (hd 5) 9 11 13),
    (0xA8295B51, .xAndn (hd 5) 9 11 13),
    (0xA8295B52, .xOrn (hd 5) 9 11 13),
    (0xA8295B53, .xRotl (hd 5) 9 11 13),
    (0xA8295B54, .xDiv (hd 5) 9 11 13),
    (0xA8295B55, .xDivu (hd 5) 9 11 13),
    (0xA8295B56, .xRem (hd 5) 9 11 13),
    (0xA8295B57, .xRemu (hd 5) 9 11 13),
    (0xA8295818, .xClz (hd 5) 9 11),
    (0xA8295819, .xPopc (hd 5) 9 11),
    (0xA829581A, .xSextW (hd 5) 9 11),
    (0xA829581B, .xZextW (hd 5) 9 11)] = true := by decide

theorem test_decode_execute_3 : reads .execute [
    (0xA8495B40, .wAdd (hd 5) 9 11 13),
    (0xA8495B41, .wSub (hd 5) 9 11 13),
    (0xA8495B42, .wAnd (hd 5) 9 11 13),
    (0xA8495B43, .wOr (hd 5) 9 11 13),
    (0xA8495B44, .wXor (hd 5) 9 11 13),
    (0xA8495B45, .wShl (hd 5) 9 11 13),
    (0xA8495B46, .wShr (hd 5) 9 11 13),
    (0xA8495B47, .wSra (hd 5) 9 11 13),
    (0xA8495B48, .wMul (hd 5) 9 11 13),
    (0xA8495B49, .wMulh (hd 5) 9 11 13),
    (0xA8495B4A, .wMulhu (hd 5) 9 11 13),
    (0xA8495B4B, .wMin (hd 5) 9 11 13),
    (0xA8495B4C, .wMax (hd 5) 9 11 13),
    (0xA8495B4D, .wMinu (hd 5) 9 11 13)] = true := by decide

theorem test_decode_execute_4 : reads .execute [
    (0xA8495B4E, .wMaxu (hd 5) 9 11 13),
    (0xA8495B4F, .wSlt (hd 5) 9 11 13),
    (0xA8495B50, .wSltu (hd 5) 9 11 13),
    (0xA8495B51, .wAndn (hd 5) 9 11 13),
    (0xA8495B52, .wOrn (hd 5) 9 11 13),
    (0xA8495B53, .wRotl (hd 5) 9 11 13),
    (0xA8495B54, .wDiv (hd 5) 9 11 13),
    (0xA8495B55, .wDivu (hd 5) 9 11 13),
    (0xA8495B56, .wRem (hd 5) 9 11 13),
    (0xA8495B57, .wRemu (hd 5) 9 11 13),
    (0xA8495818, .wClz (hd 5) 9 11),
    (0xA8495819, .wPopc (hd 5) 9 11),
    (0xA849581A, .wSextW (hd 5) 9 11),
    (0xA849581B, .wZextW (hd 5) 9 11)] = true := by decide

theorem test_decode_execute_5 : reads .execute [
    (0xA869580D, .xAddi (hd 5) 9 11 13),
    (0xA889580D, .xAndi (hd 5) 9 11 13),
    (0xA8A9580D, .xOri (hd 5) 9 11 13),
    (0xA8C9580D, .xXori (hd 5) 9 11 13),
    (0xA8E9580D, .xShli (hd 5) 9 11 13),
    (0xA909580D, .xShri (hd 5) 9 11 13),
    (0xA929580D, .xSrai (hd 5) 9 11 13),
    (0xA949580D, .xSlti (hd 5) 9 11 13),
    (0xA969000B, .xLi (hd 5) 9 11),
    (0xA989000B, .xLih (hd 5) 9 11),
    (0xA9A95B40, .fadd (hd 5) 9 11 13),
    (0xA9A95B41, .fsub (hd 5) 9 11 13),
    (0xA9A95B42, .fmul (hd 5) 9 11 13),
    (0xA9A95B43, .fdiv (hd 5) 9 11 13)] = true := by decide

theorem test_decode_execute_6 : reads .execute [
    (0xA9A95B44, .fmin (hd 5) 9 11 13),
    (0xA9A95B45, .fmax (hd 5) 9 11 13),
    (0xA9A95806, .fsqrt (hd 5) 9 11),
    (0xA9A95807, .frcp (hd 5) 9 11),
    (0xA9A95808, .frsq (hd 5) 9 11),
    (0xA9A95809, .fabs (hd 5) 9 11),
    (0xA9A9580A, .fneg (hd 5) 9 11),
    (0xA9A95B4B, .fsgnj (hd 5) 9 11 13),
    (0xA9A9580C, .fclass (hd 5) 9 11),
    (0xA9C95B40, .ffma (hd 5) 9 11 13),
    (0xA9C95B41, .ffms (hd 5) 9 11 13),
    (0xA9C95B42, .fnfma (hd 5) 9 11 13),
    (0xA9C95B43, .fnfms (hd 5) 9 11 13),
    (0xA9E5B5E0, .fcmp (hd 5) 1 3 13 15)] = true := by decide

theorem test_decode_execute_7 : reads .execute [
    (0xAA095810, .fcvtF32S64 (hd 5) 9 11 1),
    (0xAA095811, .fcvtF32U64 (hd 5) 9 11 1),
    (0xAA095812, .fcvtS64F32 (hd 5) 9 11 1),
    (0xAA095813, .fcvtU64F32 (hd 5) 9 11 1),
    (0xAA095814, .fcvtBf16F32 (hd 5) 9 11 1),
    (0xAA095815, .fcvtF32Bf16 (hd 5) 9 11 1),
    (0xAA095816, .fcvtF16F32 (hd 5) 9 11 1),
    (0xAA095817, .fcvtF32F16 (hd 5) 9 11 1),
    (0xAA095818, .fcvtE4m3F32 (hd 5) 9 11 1),
    (0xAA095819, .fcvtE5m2F32 (hd 5) 9 11 1),
    (0xAA09581A, .fcvtF32E4m3 (hd 5) 9 11 1),
    (0xAA09581B, .fcvtF32E5m2 (hd 5) 9 11 1),
    (0xAA25B5E0, .pset (hd 5) 1 3 13 15),
    (0xAA411940, .pand (hd 5) 1 3 5)] = true := by decide

theorem test_decode_execute_8 : reads .execute [
    (0xAA411941, .por (hd 5) 1 3 5),
    (0xAA411942, .pxor (hd 5) 1 3 5),
    (0xAA411943, .pandn (hd 5) 1 3 5),
    (0xAA411804, .pnot (hd 5) 1 3),
    (0xAA411805, .pmov (hd 5) 1 3),
    (0xAA490006, .ppack (hd 5) 9),
    (0xAA404807, .punpk (hd 5) 9),
    (0xAA690000, .peek (hd 5) 9),
    (0xAA604801, .pushe (hd 5) 9),
    (0xAA691802, .ppeek (hd 5) 9 3),
    (0xAA895B47, .sel (hd 5) 9 11 13 7),
    (0xAAA95800, .xaln (hd 5) 9 11),
    (0xAAC95B11, .ldf (hd 5) 9 11 1 1 17),
    (0xAAE95B11, .stf (hd 5) 9 11 1 1 17)] = true := by decide

theorem test_decode_execute_9 : reads .execute [
    (0x831E000B, .bp hp 7 1 11),
    (0x83220009, .xBq hp 1 9),
    (0x834F000B, .bst hp 7 1 11),
    (0xAB600009, .xJ (hd 5) 9),
    (0xAB800009, .xJal (hd 5) 9),
    (0xABA04800, .xJr (hd 5) 9),
    (0x83DF0000, .xSendb hp 7 1 1),
    (0xABE9000B, .xLoop (hd 5) 9 11),
    (0xAC00200B, .xLoops (hd 5) 2 11),
    (0xAC29500D, .loopv (hd 5) 9 5 13),
    (0xAC400090, .enter (hd 5) 9),
    (0xAC410090, .leave (hd 5) 9),
    (0xAC800000, .xcmt (hd 5)),
    (0xAC8000C1, .xFuse (hd 5) 3)] = true := by decide

theorem test_decode_execute_10 : reads .execute [
    (0xAC800002, .xSplit (hd 5)),
    (0xAC890003, .gidx (hd 5) 9),
    (0xAC890004, .gsize (hd 5) 9),
    (0xACA9000B, .xCsrr (hd 5) 9 11),
    (0xACA95A0D, .xCsrw (hd 5) 9 11 13),
    (0xACA95C0D, .xCsrs (hd 5) 9 11 13),
    (0xACA95E0D, .xCsrc (hd 5) 9 11 13),
    (0xACC00009, .xTrap (hd 5) 9),
    (0xACC10009, .xBkpt (hd 5) 9),
    (0xAEE95800, .xTdefLo (hd 5) 9 11),
    (0xAEE95801, .xTdefHi (hd 5) 9 11),
    (0xAEE95802, .xTadv (hd 5) 9 11),
    (0xAEE95803, .xTrows (hd 5) 9 11),
    (0xACE04800, .vshape (hd 5) 9)] = true := by decide

theorem test_decode_execute_11 : reads .execute [
    (0xACE90001, .vgetsh (hd 5) 9),
    (0xACE04802, .setvc (hd 5) 9),
    (0xAD090000, .vpop (hd 5) 9),
    (0xAD004801, .vpush (hd 5) 9),
    (0xAD004802, .vpushEos (hd 5) 9),
    (0xAD295B60, .vfadd (hd 5) 9 11 13 1),
    (0xAD295B61, .vfsub (hd 5) 9 11 13 1),
    (0xAD295B62, .vfmul (hd 5) 9 11 13 1),
    (0xAD295B63, .vfdiv (hd 5) 9 11 13 1),
    (0xAD295B64, .vfmin (hd 5) 9 11 13 1),
    (0xAD295B65, .vfmax (hd 5) 9 11 13 1),
    (0xAD295806, .vfabs (hd 5) 9 11),
    (0xAD295807, .vfneg (hd 5) 9 11),
    (0xAD295808, .vfsqrt (hd 5) 9 11)] = true := by decide

theorem test_decode_execute_12 : reads .execute [
    (0xAD295809, .vfrcp (hd 5) 9 11),
    (0xAD29580A, .vfrsq (hd 5) 9 11),
    (0xAD29580B, .vexp2 (hd 5) 9 11),
    (0xAD29580C, .vlog2 (hd 5) 9 11),
    (0xAD29580D, .vtanh (hd 5) 9 11),
    (0xAD495B60, .vffma (hd 5) 9 11 13 1),
    (0xAD495B61, .vffms (hd 5) 9 11 13 1),
    (0xAD495B62, .vfnfma (hd 5) 9 11 13 1),
    (0xAD495B63, .vfnfms (hd 5) 9 11 13 1),
    (0xAD695800, .vmov (hd 5) 9 11),
    (0xAD695801, .vbcast (hd 5) 9 11),
    (0xAD695B42, .vext (hd 5) 9 11 13),
    (0xAD695B43, .vins (hd 5) 9 11 13),
    (0xAD895B60, .viadd (hd 5) 9 11 13 1)] = true := by decide

theorem test_decode_execute_13 : reads .execute [
    (0xAD895B61, .visub (hd 5) 9 11 13 1),
    (0xAD895B62, .vimul (hd 5) 9 11 13 1),
    (0xAD895B63, .vimin (hd 5) 9 11 13 1),
    (0xAD895B64, .vimax (hd 5) 9 11 13 1),
    (0xAD895B65, .viand (hd 5) 9 11 13 1),
    (0xAD895B66, .vior (hd 5) 9 11 13 1),
    (0xAD895B67, .vixor (hd 5) 9 11 13 1),
    (0xAD895B68, .vishl (hd 5) 9 11 13 1),
    (0xAD895B69, .vishr (hd 5) 9 11 13 1),
    (0xAD895B6A, .visra (hd 5) 9 11 13 1),
    (0xAD895B6B, .viadds (hd 5) 9 11 13 1),
    (0xAD895B6C, .visubs (hd 5) 9 11 13 1),
    (0xADA15B61, .vfcmp (hd 5) 1 11 13 1 1),
    (0xADA15B69, .vicmp (hd 5) 1 11 13 1 1)] = true := by decide

theorem test_decode_execute_14 : reads .execute [
    (0xADC95B61, .vcvt (hd 5) 9 11 13 2 1),
    (0xADE95800, .vbscale (hd 5) 9 11),
    (0xADE95B41, .vquant (hd 5) 9 11 13),
    (0xADE95B42, .vdeq (hd 5) 9 11 13),
    (0xADE95B43, .vpackp (hd 5) 9 11 13),
    (0xADE95B44, .vunpkp (hd 5) 9 11 13),
    (0xAE095800, .vrsum (hd 5) 9 11),
    (0xAE095801, .vrmax (hd 5) 9 11),
    (0xAE095802, .vrmin (hd 5) 9 11),
    (0xAE095803, .vrargmax (hd 5) 9 11),
    (0xAE095810, .vcsum (hd 5) 9 11),
    (0xAE095811, .vcmax (hd 5) 9 11),
    (0xAE095812, .vcmin (hd 5) 9 11),
    (0xAE095813, .vcargmax (hd 5) 9 11)] = true := by decide

theorem test_decode_execute_15 : reads .execute [
    (0xAE295B40, .vperm (hd 5) 9 11 13),
    (0xAE295B41, .vgath (hd 5) 9 11 13),
    (0xAE295B42, .vrot (hd 5) 9 11 13),
    (0xAE295803, .vtrn (hd 5) 9 11),
    (0xAE411940, .mand (hd 5) 1 3 5),
    (0xAE411941, .mor (hd 5) 1 3 5),
    (0xAE411942, .mxor (hd 5) 1 3 5),
    (0xAE411943, .mandn (hd 5) 1 3 5),
    (0xAE411804, .mnot (hd 5) 1 3),
    (0xAE411805, .mmov (hd 5) 1 3),
    (0xAE491806, .mpopc (hd 5) 9 3),
    (0xAE491807, .mfirst (hd 5) 9 3),
    (0xAE6DEF20, .mmul (hd 5) 1 11 13 7 1),
    (0xAE6DEF21, .mmulBs (hd 5) 1 11 13 7 1)] = true := by decide

theorem test_decode_execute_16 : reads .execute [
    (0xAE8D8500, .mtrans (hd 5) 1 11 5),
    (0xAE8DEF01, .mperm (hd 5) 1 11 13 7),
    (0xAE8D8502, .mrsum (hd 5) 1 11 5),
    (0xAE8D8503, .mcsum (hd 5) 1 11 5),
    (0xAEA80000, .mclr (hd 5) 1),
    (0xAEAD8001, .mstF32 (hd 5) 1 11),
    (0xAEAD8005, .mstBf16 (hd 5) 1 11),
    (0xAEAD8009, .mstI32 (hd 5) 1 11),
    (0xAEAD800D, .mstMe (hd 5) 1 11),
    (0xAEAD8002, .mld (hd 5) 1 11),
    (0xAEAD8003, .mxaln (hd 5) 1 11),
    (0xAEC95B40, .sreg (hd 5) 9 11 13),
    (0xAEC04AC1, .sqdraft (hd 5) 9 11),
    (0xAEC04AC2, .srun (hd 5) 9 11)] = true := by decide

theorem test_decode_execute_17 : reads .execute [
    (0xAEC04AC3, .scommit (hd 5) 9 11)] = true := by decide

theorem test_decode_utgen_1 : reads .utgen [
    (0x09A80000, .lmov 3 5),
    (0x11800005, .lkc 3 5),
    (0x19AB8000, .ladd 3 5 7),
    (0x21AB8000, .lsub 3 5 7),
    (0x29AB8000, .lmul 3 5 7),
    (0x31AB8000, .lmin 3 5 7),
    (0x39AB8000, .lmax 3 5 7),
    (0x418B8000, .lscale 3 1 7),
    (0x498B8000, .lshift 3 1 7),
    (0x518B8000, .ltemp 3 1 7),
    (0x598B8000, .lcap 3 1 7),
    (0x61880000, .lbias 3 1),
    (0x698B8000, .lrep 3 1 7),
    (0x718B8009, .lfreq 3 1 7 9)] = true := by decide

theorem test_decode_utgen_2 : reads .utgen [
    (0x79880000, .lmask 3 1),
    (0x818B8000, .lban 3 1 7),
    (0x898B8000, .lminp 3 1 7),
    (0x90180005, .ltopk 3 5),
    (0x981A8007, .lbr 3 5 7),
    (0x989A8007, .lbrNz 3 5 7),
    (0x991A8007, .lbrZ 3 5 7),
    (0xA0180000, .lsync 3),
    (0xA8180000, .lendS 3),
    (0xB0180000, .lendG 3),
    (0xB8180000, .lendF 3)] = true := by decide

theorem test_decode_custom_1 : reads .custom [
    (0xF095868B, .dvCadd 1 1 3 9 11 13),
    (0xA003948B, .dvCread 1 2 7 9),
    (0xB074A58B, .dvCtest 1 3 7 9 11),
    (0xA074B58B, .dvCwait 1 2 7 9 11),
    (0x000182AB, .dvFnew 3 5),
    (0x003293AB, .dvFpost 3 5 7),
    (0x0032A3AB, .dvFfail 3 5 7),
    (0x0001B2AB, .dvLaunch 3 5)] = true := by decide


/-! ## Ill-formed terms are refused (R43, R44, R49, R55, R58 to R61, R64, R122, R261) -/

theorem test_wf_refuses : ([
    .cpy h0 1 2 3 0, .cpyg h0 1 15 0 1, .cpys h0 15 2 0 1, .cpyf h0 1 2 3 0, .cpyn h0 1 2 3 0 0,
    .cadd h0 1 2 3 1, .caddk h0 1 2 3 1, .cread h0 1 2 2, .ctest h0 1 2 3 3, .cwait h0 1 2 2, .cwaitS h0 1 2 3,
    .cwany h0 1 2, .cwall h0 1 3] : List Instr).all (fun i => !i.wf) = true := by decide
theorem test_wf_refuses_loops : ([.aLoop h0 1 0, .aLoops h0 3 1, .aLoops h0 0 0, .loopr h0 1 0 0, .xLoop h0 1 0,
    .xLoops h0 3 1, .loopv h0 1 0 1, .loopv h0 1 9 1, .loopv h0 1 1 0, .aFuse h0 0, .aFuse h0 5, .xFuse h0 5] :
    List Instr).all (fun i => !i.wf) = true := by decide
theorem test_wf_refuses_windows : ([.wAdd h0 26 1 2, .wAdd h0 1 25 2, .wAdd h0 1 2 27, .wClz h0 27 1, .wClz h0 1 26,
    .wRemu h0 1 2 25] : List Instr).all (fun i => !i.wf) = true := by decide
theorem test_wf_refuses_codes : ([.fcmp h0 1 6 2 3, .fcmp h0 1 7 2 3, .ppeek h0 1 4, .ltopk 1 0, .ltopk 1 65,
    .dvCadd 0 0 1 1 2 3, .dvCadd 1 0 2 1 2 3, .dvCread 0 1 1 2, .dvCtest 0 0 1 2 3, .dvCwait 0 1 1 2 3] :
    List Instr).all (fun i => !i.wf) = true := by decide
/-- A word with a reserved field decodes to nothing (R49). -/
theorem test_decode_refuses : ([(.access, 0x00000000), (.access, 0xFFFFFFFF), (.execute, 0),
    (.execute, 0xFFFFFFFF), (.utgen, 0), (.custom, 0x0000000B)] : List (IsaMap × BitVec 32)).all
    (fun p => (decode? p.1 p.2).isNone) = true := by decide

/-! ## Single steps (expected values from the spec's own examples) -/

/-- R110: a8 = 3, a9 = 5, shift 6. -/
theorem test_idx2 : aGet (coreAfter (exec (.idx2 h0 7 8 9 6) (sa fun k => aSet (aSet k 8 3) 9 5))) 7 = 197 := by decide
/-- R107: the third step of building the handle 0x8005_0225_03E8_0000. -/
theorem test_lih : aGet (coreAfter (exec (.aLih h0 8 0x225) (sa fun k => aSet k 8 0xFFFFFFFFFFFF8005))) 8 = 0xFFFFFFFF80050225 := by
  decide
/-- R107: `li` extends its sign. -/
theorem test_li : aGet (coreAfter (exec (.aLi h0 8 0x8005) (sa id))) 8 = 0xFFFFFFFFFFFF8005 := by decide
/-- R111's example table, with index (70, 100) in a10 and a11. -/
def distSt : State :=
  sa fun k =>
    let ds : Bank Word 3 := bset (bset (bset (bset (bfill 3 0) 0 0x0000100000022010) 1 0x200000020) 2 0x400000010) 5 64
    let k := aSet (aSet k 10 70) 11 100
    { k with a := { k.a with dists := ds } }
theorem test_gaddr_rl : aGet (coreAfter (exec (.gaddrRl h0 9 10) distSt)) 9 = 0x8000001200003650 := by decide
theorem test_gaddr_own : aGet (coreAfter (exec (.gaddrOwn h0 9 10) distSt)) 9 = 0x012 := by decide
theorem test_gaddr_off : aGet (coreAfter (exec (.gaddrOff h0 9 10) distSt)) 9 = 0x3650 := by decide
/-- R164: `shli s7, s7, #16` after `li s7, #0x4040`. -/
theorem test_shli : sGet (coreAfter (exec (.xShli h0 7 7 16) (sx fun k => sSet k 7 0x4040))) 7 = 0x40400000 := by decide
/-- R172: 0x3F80_4000 to BF16 toward zero raises NX; upward it is the next value; to nearest it is not. -/
theorem test_fcvt_rz :
    let k := coreAfter (exec (.fcvtBf16F32 h0 5 6 1) (sx fun k => sSet k 6 0x3F804000))
    sGet k 5 = 0x3F80 ∧ k.vec.fflags = fNX := by decide
theorem test_fcvt_rne : sGet (coreAfter (exec (.fcvtBf16F32 h0 5 6 0) (sx fun k => sSet k 6 0x3F804000))) 5 = 0x3F80 := by decide
theorem test_fcvt_ru : sGet (coreAfter (exec (.fcvtBf16F32 h0 5 6 3) (sx fun k => sSet k 6 0x3F804000))) 5 = 0x3F81 := by decide
/-- R173: (3, 0) and (5, 2) give (6, 2). -/
theorem test_xaln : sGet (coreAfter (exec (.xaln h0 5 6) (sx fun k => sSet (sSet k 5 0x30000) 6 0x50002))) 5 = 0x60002 := by decide
/-- R174, R55: signed less-than of −1 and 0. -/
theorem test_pset_lt : pGet (coreAfter (exec (.pset h0 2 2 5 6) (sx fun k => sSet k 5 0xFFFFFFFFFFFFFFFF))) 2 = true := by decide
/-- R175: `ppack` reads p0 as true. -/
theorem test_ppack : sGet (coreAfter (exec (.ppack h0 7) (sx fun k => pSet k 3 true))) 7 = 9 := by decide
/-- R179: `enter #64` lowers s2. -/
theorem test_enter : sGet (coreAfter (exec (.enter h0 4) (sx fun k => sSet k 2 4096))) 2 = 4032 := by decide
/-- R199: on I8, 100 + 100 gives 127. -/
theorem test_viadds :
    (vGet (coreAfter (exec (.viadds h0 4 5 6 0) (sx fun k => vSet (vSet (vecCore 0x0603F01F false 0 k) 5 100) 6 100))) 4).extractLsb' 0 8
      = 127 := by decide +kernel
/-- R208, R102: 2^24, 1, 1, 1 sum to 16,777,218. -/
theorem test_vrsum :
    (vGet (coreAfter (exec (.vrsum h0 3 4) (sx fun k => vSet (vecCore 0x01003000 false 0 k) 4
      0x3F8000003F8000003F8000004B800000))) 3).extractLsb' 0 32 = 0x4B800001 := by decide +kernel
/-- R209: [10, 20, 30, 40] rotated by 5 under I32 1 × 4. -/
theorem test_vrot :
    (vGet (coreAfter (exec (.vrot h0 6 7 8) (sx fun k => sSet (vSet (vecCore 0x04003000 false 0 k) 7
      0x000000280000001E000000140000000A) 8 5))) 6).extractLsb' 0 128 = 0x0000000A000000280000001E00000014 := by decide +kernel
/-- R179, R31: `leave #64` past LSIZE traps with STACK; the strand leaves the core. -/
theorem test_leave_traps :
    let t := after (exec (.leave h0 4) (sx fun k => sSet k 2 4090))
    (coreOf t 0).run = none := by decide +kernel

/-! ### What comes to run right after reset with a word placed -/

/-- One step from reset with a word placed, on core 0. -/
noncomputable def ran (w : Nat) : Core := coreAfter (step (State.reset.withFetchWord 32 w))
/-- `li a8, #5` and, on the execute stream, `ppack s7`, run from reset. -/
theorem test_first_step_access : aGet (ran 0x01480005) 8 = 5 := by decide +kernel
theorem test_first_step_execute : sGet (ran 0x02470006) 7 = 1 := by decide +kernel

/-! ## Witnesses: states that meet the hypotheses of the statements -/

/-- A small access-stream state is clear and guarded. -/
theorem ready_a (f : Core → Core) (h : (f core0).run = some placeRun := by rfl)
    (p : (f core0).a.str.pendT = none := by rfl) (q : (f core0).a.str.hold = none := by rfl) :
    Clear (sa f) false h0 ∧ Guarded (sa f) false h0 := ⟨clear_s _ _ h p q, guard0 ..⟩
/-- The same for the execute stream. -/
theorem ready_x (f : Core → Core) (h : (f core0).run = some placeRun := by rfl)
    (p : (f core0).x.str.pendT = none := by rfl) (q : (f core0).x.str.hold = none := by rfl) :
    Clear (sx f) true h0 ∧ Guarded (sx f) true h0 := ⟨clear_s _ _ h p q, guard0 ..⟩

theorem witness_AccessArithmeticResults : ∃ i h d v s, accessArith i = some (h, d, v) ∧ Clear s false h ∧
    Guarded s false h := ⟨.aAdd h0 1 2 3, h0, 1, _, sa id, rfl, (ready_a id).1, (ready_a id).2⟩
theorem witness_ExecuteArithmeticResults : ∃ i h d v s, executeArith i = some (h, d, v) ∧ Clear s true h ∧
    Guarded s true h := ⟨.xDiv h0 1 2 3, h0, 1, _, sx id, rfl, (ready_x id).1, (ready_x id).2⟩
/-- A windowed add of `s2` and `s3` into `s1`. -/
theorem witness_WindowedResults : ∃ i h d a b f s x y k₁ k₂, windowed i = some (h, d, a, b, f) ∧ Clear s true h ∧
    Guarded s true h ∧ portsOpen (begun s true h) d a b = true ∧
    dstRoom (begunCore s true h) (winDst d) = true ∧
    takeSrc (begun s true h) (begunCore s true h) (winSrc a) = some (x, k₁) ∧
    takeSrc (begun s true h) k₁ (winSrc b) = some (y, k₂) :=
  ⟨.wAdd h0 1 2 3, h0, 1, 2, 3, _, sx id, _, _, _, _, rfl, (ready_x id).1, (ready_x id).2, rfl, rfl, rfl, rfl⟩

/-! ### Issue, tokens and loops -/

/-- A header whose guard reads `c1` or `p1`, false in the small states. -/
abbrev h1 : Hdr := { w := false, t := false, g := 1 }
/-- A header that waits for a token and posts one. -/
abbrev hwt (g : BitVec 3) : Hdr := { w := true, t := true, g := g }
/-- Tokens of both streams. -/
def toks (a x : BitVec 4) (k : Core) : Core := { k with sh := { k.sh with tokA := a, tokX := x } }

theorem witness_FalseGuards : (∃ i xs h s, cuvosForm i = some (xs, h, .inst) ∧ Clear s xs h ∧ ¬Guarded s xs h) ∧
    (∃ i xs h len s, cuvosForm i = some (xs, h, .loop len) ∧ Clear s xs h ∧ ¬Guarded s xs h) :=
  ⟨⟨.aAdd h1 1 2 3, false, h1, sa id, rfl, (ready_a id).1, Bool.false_ne_true⟩,
   ⟨.xLoop h1 1 4, true, h1, 4, sx id, rfl, (ready_x id).1, Bool.false_ne_true⟩⟩
/-- A false guard with W and T; the partner's count 14 and 15; a W with no token; a post that waits. -/
theorem witness_TokenRules :
    (∃ i xs h s, cuvosForm i = some (xs, h, .inst) ∧ Clear s xs h ∧ ¬Guarded s xs h ∧ h.t = true ∧
      tokens (coreOf s s.me) (!xs) = 14#4 ∧ tokens (coreOf s s.me) xs = 1#4) ∧
    (∃ i xs h s, cuvosForm i = some (xs, h, .inst) ∧ Clear s xs h ∧ ¬Guarded s xs h ∧ h.t = true ∧
      tokens (coreOf s s.me) (!xs) = 15#4) ∧
    (∃ i xs h g s r, cuvosForm i = some (xs, h, g) ∧ (coreOf s s.me).run = some r ∧ r.logsz = 0#4 ∧
      (strOf (coreOf s s.me) xs).pendT = none ∧ (strOf (coreOf s s.me) xs).hold = none ∧ h.w = true ∧
      (strOf (coreOf s s.me) xs).wDone = false ∧ tokens (coreOf s s.me) xs = 0#4) ∧
    (∃ i xs h g s r pc, cuvosForm i = some (xs, h, g) ∧ (coreOf s s.me).run = some r ∧ r.logsz = 0#4 ∧
      (strOf (coreOf s s.me) xs).pendT = some pc ∧ tokens (coreOf s s.me) (!xs) = 15#4) :=
  ⟨⟨.aAdd (hwt 1) 1 2 3, false, hwt 1, sa (toks 1 14), rfl,
     ⟨⟨placeRun, rfl, rfl⟩, rfl, rfl, fun _ => .inr (by decide)⟩, Bool.false_ne_true, rfl, rfl, rfl⟩,
   ⟨.xAdd (hwt 1) 1 2 3, true, hwt 1, sx (toks 15 1), rfl,
     ⟨⟨placeRun, rfl, rfl⟩, rfl, rfl, fun _ => .inr (by decide)⟩, Bool.false_ne_true, rfl, rfl⟩,
   ⟨.aAdd (hwt 0) 1 2 3, false, hwt 0, .inst, sa id, placeRun, rfl, rfl, rfl, rfl, rfl, rfl, rfl, rfl⟩,
   ⟨.aAdd h0 1 2 3, false, h0, .inst, sa fun k => toks 0 15 (modStr k false fun t => { t with pendT := some 4 }),
     placeRun, 4, rfl, rfl, rfl, rfl, rfl⟩⟩

theorem mem_two {α : Type} {x a b : α} (h : x ∈ [a, b]) : x = a ∨ x = b := by simpa using h
theorem mem_three {α : Type} {x a b c : α} (h : x ∈ [a, b, c]) : x = a ∨ x = b ∨ x = c := by simpa using h
/-- A loop stack of the access stream with the PC on the body's last instruction. -/
def onLoop (xs : Bool) (ls : List LoopEnt) (k : Core) : Core := modStr k xs fun t => { t with loops := ls, pc := 16 }
/-- A loop over the words at 8 to 16. -/
def ent (l : LoopKind) : LoopEnt := { s := 8, e := 20, kind := l }

theorem witness_LoopEnds :
    (∃ t : State, ∃ xs, ∀ l ls, (strOf (coreOf t t.me) xs).loops = l :: ls →
      (strOf (coreOf t t.me) xs).pc + 4 ≠ l.e) ∧
    (∀ n ∈ [(2 : Word), 1], ∃ (t : State) (xs : Bool) (l : LoopEnt) (ls : List LoopEnt),
      (strOf (coreOf t t.me) xs).loops = l :: ls ∧ l.kind = .counted n ∧
      (strOf (coreOf t t.me) xs).pc + 4 = l.e ∧ ∀ m ms, ls = m :: ms → m.e ≠ l.e) ∧
    (∀ seen, ∃ (t : State) (xs : Bool) (l : LoopEnt) (ls : List LoopEnt) (q : _),
      (strOf (coreOf t t.me) xs).loops = l :: ls ∧ l.kind = .eos q seen ∧
      (strOf (coreOf t t.me) xs).pc + 4 = l.e ∧ ∀ m ms, ls = m :: ms → m.e ≠ l.e) ∧
    (∀ k ∈ [LoopKind.counted 1, .eos 1 true, .pipe 1 1 2 2], ∃ (t : State) (l : LoopEnt) (ls : List LoopEnt),
      (strOf (coreOf t t.me) true).loops = l :: ls ∧ (strOf (coreOf t t.me) true).pc + 4 = l.e ∧ l.kind = k ∧
      ((∃ n, l.kind = .counted n ∧ n.toNat ≤ 1) ∨ (∃ q, l.kind = .eos q true) ∨
        ∃ i n st T, l.kind = .pipe i n st T ∧ T ≤ i + 1) ∧ ∃ m ms, ls = m :: ms ∧ m.e = l.e) ∧
    (∀ i ∈ [0, 1], ∃ (t : State) (l : LoopEnt) (ls : List LoopEnt) (n st T : Nat),
      (coreOf t t.me).x.str.loops = l :: ls ∧ l.kind = .pipe i n st T ∧ (coreOf t t.me).x.str.pc + 4 = l.e ∧
      (∀ m ms, ls = m :: ms → m.e ≠ l.e) ∧ (i = 0 → i + 1 < T) ∧ (i = 1 → T ≤ i + 1)) := by
  refine ⟨⟨sa id, false, fun _ _ h => nomatch h⟩,
    fun n _ => ⟨sa (onLoop false [ent (.counted n)]), false, _, _, rfl, rfl, rfl, fun _ _ h => nomatch h⟩,
    fun b => ⟨sx (onLoop true [ent (.eos 1 b)]), true, _, _, 1, rfl, rfl, rfl, fun _ _ h => nomatch h⟩,
    fun k hk => ⟨sx (onLoop true [ent k, ent (.counted 2)]), ent k, [ent (.counted 2)], rfl, rfl, rfl, ?_, _, _, rfl, rfl⟩, ?_⟩
  · rcases mem_three hk with rfl | rfl | rfl
    · exact .inl ⟨_, rfl, by decide⟩
    · exact .inr (.inl ⟨_, rfl⟩)
    · exact .inr (.inr ⟨_, _, _, _, rfl, by decide⟩)
  exact fun i hi => ⟨sx (onLoop true [ent (.pipe i 1 2 2)]), _, [], 1, 2, 2, rfl, rfl, rfl, (fun _ _ h => nomatch h),
    by rintro rfl; decide, by rintro rfl; decide⟩

/-! ### Scalar floating point and memory -/

/-- `s2` holding a signalling not-a-number and `s3` one. -/
def nan2 (nve : Bool) (k : Core) : Core :=
  { sSet (sSet k 2 0x7FA00000) 3 0x3F800000 with vec := { k.vec with nve := nve } }

theorem witness_ScalarFpResults : (∃ i h d r s, scalarFp i = some (h, d, r) ∧ Clear s true h ∧ Guarded s true h ∧
      (begunCore s true h).vec.nve = false) ∧
    (∃ i h d r s, scalarFp i = some (h, d, r) ∧ Clear s true h ∧ Guarded s true h ∧
      (begunCore s true h).vec.nve = true ∧ (r (begunCore s true h)).2 &&& fNV = 0) ∧
    (∃ i h d r s, scalarFp i = some (h, d, r) ∧ Clear s true h ∧ Guarded s true h ∧
      (begunCore s true h).vec.nve = true ∧ (r (begunCore s true h)).2 &&& fNV ≠ 0) ∧
    (∃ s h, Clear s true h ∧ Guarded s true h ∧ (begunCore s true h).vec.nve = false) :=
  ⟨⟨.fadd h0 1 2 3, h0, 1, _, sx (nan2 false), rfl, (ready_x _).1, (ready_x _).2, rfl⟩,
   ⟨.fadd h0 1 3 3, h0, 1, _, sx (nan2 true), rfl, (ready_x _).1, (ready_x _).2, rfl, by decide⟩,
   ⟨.fadd h0 1 2 3, h0, 1, _, sx (nan2 true), rfl, (ready_x _).1, (ready_x _).2, rfl, by decide⟩,
   ⟨sx (nan2 false), h0, (ready_x _).1, (ready_x _).2, rfl⟩⟩

/-- `fcmp` with a signalling operand under the trap bit and with quiet ones. -/
theorem witness_ScalarFpResults_fcmp : (∃ s h, Clear s true h ∧ Guarded s true h ∧
      (begunCore s true h).vec.nve = true ∧
      (fpCmp .f32 false 0 (f32 (begunCore s true h) 2) (f32 (begunCore s true h) 3)).2 &&& fNV ≠ 0) ∧
    ∃ s h, Clear s true h ∧ Guarded s true h ∧ (begunCore s true h).vec.nve = true ∧
      (fpCmp .f32 false 0 (f32 (begunCore s true h) 3) (f32 (begunCore s true h) 3)).2 &&& fNV = 0 :=
  ⟨⟨sx (nan2 true), h0, (ready_x _).1, (ready_x _).2, rfl, by decide⟩,
    sx (nan2 true), h0, (ready_x _).1, (ready_x _).2, rfl, by decide⟩

/-- The last double word of the window in `a2` and `s2`. -/
def last8 (k : Core) : Core := sSet (aSet k 2 4088) 2 4088
theorem witness_LocalAccess : (∃ s h, Clear s false h ∧ Guarded s false h ∧
      let k := begunCore s false h
      let ea := effective (aGet k 2) 3 0 0
      localOk k ea 8 ∧ localClean k ea 8 ∧ boardMeets k (lbase k + ea.toNat) 8 = false) ∧
    (∃ s h, Clear s true h ∧ Guarded s true h ∧
      let k := begunCore s true h
      let ea := effective (sGet k 2) 3 0 0
      localOk k ea 8 ∧ localClean k ea 8 ∧ k.x.slim.toNat ≤ ea.toNat ∧
        boardMeets k (lbase k + ea.toNat) 8 = false) :=
  ⟨⟨sa last8, h0, (ready_a _).1, (ready_a _).2, ⟨by decide, by decide⟩, ⟨by decide, by decide⟩, by decide⟩,
   ⟨sx last8, h0, (ready_x _).1, (ready_x _).2, ⟨by decide, by decide⟩, ⟨by decide, by decide⟩, by decide,
     by decide⟩⟩
/-- A byte past the last aligned double word; the first one past the window; an address that is not canonical. -/
theorem witness_MemoryAccessFaults : ∃ s h, Clear s false h ∧ Guarded s false h ∧
    let k := begunCore s false h
    ((effective (aGet k 2) 3 0 0).toNat % 8 ≠ 0) ∧
    ((effective (aGet k 2) 0 0 8).toNat % 1 = 0 ∧ lsize k < (effective (aGet k 2) 0 0 8).toNat + 1) ∧
    ((effective (aGet k 3) 3 0 0).toNat % 8 = 0 ∧
      BitVec.ofInt 64 ((effective (aGet k 3) 3 0 0).extractLsb' 0 48).toInt ≠ effective (aGet k 3) 3 0 0) :=
  ⟨sa fun k => aSet (aSet k 2 4089) 3 0x0000800000000000, h0, (ready_a _).1, (ready_a _).2, by decide, by decide,
    by decide⟩
/-- `ldf` and `stf`: a byte off, below SLIM, past the window; `ldgq` with a free entry and `stgq` with a queued one. -/
theorem witness_MemoryAccessFaults_more :
    (∀ o ∈ [(0 : Word), 1, 2], ∃ s h, Clear s true h ∧ Guarded s true h ∧
      let k := begunCore s true h
      (o = 0 ∧ (effective (sGet k 2) 3 0 0).toNat % 8 ≠ 0) ∨
        (effective (sGet k 2) 3 0 0).toNat % 8 = 0 ∧
        ((o = 1 ∧ (effective (sGet k 2) 3 0 0).toNat < k.x.slim.toNat) ∨
          (o = 2 ∧ lsize k < (effective (sGet k 2) 3 0 0).toNat + 8))) ∧
    (∃ s h, Clear s false h ∧ Guarded s false h ∧ (begunCore s false h).sh.lq.length = 15) ∧
    (∃ s h, Clear s false h ∧ Guarded s false h ∧ (begunCore s false h).sh.sq ≠ []) := by
  refine ⟨fun o ho => ?_, ⟨sa fun k => { k with sh := { k.sh with lq := List.replicate 15 { data := 0, eos := false, filled := true, tok := false } } },
      h0, (ready_a _).1, (ready_a _).2, rfl⟩,
    ⟨sa fun k => { k with sh := { k.sh with sq := [{ data := 0, eos := false, filled := true, tok := false }] } }, h0,
      (ready_a _).1, (ready_a _).2, fun h => nomatch h⟩⟩
  rcases mem_three ho with rfl | rfl | rfl
  · exact ⟨sx fun k => sSet k 2 4, h0, (ready_x _).1, (ready_x _).2, .inl (by decide)⟩
  · exact ⟨sx fun k => { sSet k 2 8 with x := { (sSet k 2 8).x with slim := 16 } }, h0, (ready_x _).1, (ready_x _).2,
      .inr (by decide)⟩
  · exact ⟨sx fun k => sSet k 2 4096, h0, (ready_x _).1, (ready_x _).2, .inr (by decide)⟩
/-- The small states over one page table: address 0x2000 translates to itself. -/
theorem witness_GlobalAccess : ∃ s h pa l, Clear s false h ∧ Guarded s false h ∧
    let b := begun s false h
    let k := begunCore s false h
    globalOk b s.me (effective (aGet k 2) 3 0 0) 8 .read pa l ∧ anyPoison b.phys pa 8 = false ∧
      globalOk b s.me (effective (aGet k 2) 3 0 0) 8 .write pa l ∧ b.phys.mem.wf = true ∧ NoViews b.phys ∧
      ∀ i, i < 8 → region (pa + i) ≠ .view :=
  ⟨mapped (sa fun k => aSet k 2 0x2000), h0, _, _, clear_s _ _, guard0 ..,
    ⟨by decide, rfl, by decide, by decide, by decide, by decide⟩, by decide,
    ⟨by decide, rfl, by decide, by decide, by decide, by decide⟩, by decide, ⟨rfl, rfl⟩, by decide⟩
theorem witness_TileRegisterResults : (∃ i xs h d v s, tileOps i = some (xs, h, d, v) ∧ Clear s xs h ∧
      Guarded s xs h) ∧
    (∀ n ∈ [(0 : Word), 1, 4096, 4097], ∃ i xs h d v s, trowsOps i = some (xs, h, d, v) ∧ Clear s xs h ∧
      Guarded s xs h ∧ v (begunCore s xs h) = n) :=
  ⟨⟨.aTadv h0 1 2, false, h0, 1, _, sa id, rfl, (ready_a id).1, (ready_a id).2⟩,
   fun n _ => ⟨.aTrows h0 1 2, false, h0, 1, _, sa fun k => aSet k 2 n, rfl, (ready_a _).1, (ready_a _).2, rfl⟩⟩

/-- A work queue of 4 by 4 tiles of 2 by 2 in section 0, with all or none of its tiles taken. -/
def wq (launch : BitVec 28) (next : Nat) : WorkQ :=
  { launch := launch, ext_i := 4, ext_j := 4, ti := 2, tj := 2, pos := 0, ns := 1, next := next, returned := [],
    taken := [] }
/-- A small state with a work queue 0. -/
def withQ (q : WorkQ) : State := { sa id with sched := { (sa id).sched with queues := [(wqKey 0 0, q)] } }
theorem clear_q (q : WorkQ) : Clear (withQ q) false h0 ∧ Guarded (withQ q) false h0 :=
  ⟨clear_s _ _, guard0 ..⟩
theorem witness_FetchTile : (∃ s h Q i j Q', Clear s false h ∧ Guarded s false h ∧
      mget (begun s false h).sched.queues (wqKey (sectOf s.me) 0) = some Q ∧
      Q.launch = (runOwner (begunCore s false h)).launch ∧
      wqTake Q (runOwner (begunCore s false h)).rcd = some ((i, j), Q')) ∧
    (∃ s h Q, Clear s false h ∧ Guarded s false h ∧
      mget (begun s false h).sched.queues (wqKey (sectOf s.me) 0) = some Q ∧
      Q.launch ≠ (runOwner (begunCore s false h)).launch) ∧
    (∃ s h Q, Clear s false h ∧ Guarded s false h ∧
      mget (begun s false h).sched.queues (wqKey (sectOf s.me) 0) = some Q ∧
      wqTake Q (runOwner (begunCore s false h)).rcd = none) ∧
    (∃ s h, Clear s false h ∧ Guarded s false h ∧
      mget (begun s false h).sched.queues (wqKey (sectOf s.me) 0) = none) :=
  ⟨⟨withQ (wq 0 3), h0, _, 2, 2, _, (clear_q _).1, (clear_q _).2, rfl, rfl, rfl⟩,
   ⟨withQ (wq 5 0), h0, _, (clear_q _).1, (clear_q _).2, rfl, by decide⟩,
   ⟨withQ (wq 0 4), h0, _, (clear_q _).1, (clear_q _).2, rfl, rfl⟩,
   ⟨sa id, h0, (ready_a id).1, (ready_a id).2, rfl⟩⟩
theorem witness_InstructionFrames : (∃ i h d v s t, accessArith i = some (h, d, v) ∧ exec i s = .next t ∧
      NoPipe (coreOf s s.me) false) ∧
    (∃ i h d v s t, executeArith i = some (h, d, v) ∧ exec i s = .next t ∧ NoPipe (coreOf s s.me) true) ∧
    (∃ i xs h p v s t, predicateOps i = some (xs, h, p, v) ∧ exec i s = .next t ∧ NoPipe (coreOf s s.me) xs) ∧
    (∃ s h, Clear s false h ∧ Guarded s false h ∧ (coreOf s s.me).scratch.wf = true ∧
      localOk (begunCore s false h) (effective (aGet (begunCore s false h) 2) 3 0 0) 8 ∧
      boardMeets (begunCore s false h)
        (lbase (begunCore s false h) + (effective (aGet (begunCore s false h) 2) 3 0 0).toNat) 8 = false ∧
      NoPipe (coreOf s s.me) false) := by
  have np : ∀ xs, NoPipe (coreOf (sa id) (sa id).me) xs := fun xs l h => by cases xs <;> exact nomatch h
  exact ⟨⟨.aAdd h0 1 2 3, h0, 1, _, sa id, _, rfl, rfl, np _⟩, ⟨.xAdd h0 1 2 3, h0, 1, _, sx id, _, rfl, rfl, np _⟩,
    ⟨.cnot h0 1 2, false, h0, 1, _, sa id, _, rfl, rfl, np _⟩,
    ⟨sa last8, h0, (ready_a _).1, (ready_a _).2, rfl, ⟨by decide, by decide⟩, by decide, fun l h => nomatch h⟩⟩

/-! ### Queues, control transfers, CSRs -/

/-- A scalar queue entry. -/
def qe : QEnt := { data := 7, eos := false, filled := true, tok := false }
/-- A core with the queues that a `stq`, a `vst` and a `peek` read, and `a2` at a global address. -/
def queued (k : Core) : Core :=
  { aSet k 2 0x2000 with sh := { k.sh with sq := [qe], lq := [qe], vsq := [{ data := 7, eos := false, filled := true, tok := false }],
                                           bqa := [{ bit := true, eos := true }], bqx := [{ bit := false, eos := false }] } }

/-- Whether parts were read. -/
def partsOk : PartsRes → Bool
  | .ok _ _ => true
  | _ => false
theorem parts_ok (r : PartsRes) (h : partsOk r = true) : ∃ b bs, r = .ok b bs := by
  cases r with
  | ok b bs => exact ⟨b, bs, rfl⟩
  | _ => cases h
/-- Whether parts were written. -/
def partsWritten : PartsW → Bool
  | .ok _ _ _ => true
  | _ => false
theorem parts_written (r : PartsW) (h : partsWritten r = true) : ∃ b x y, r = .ok b x y := by
  cases r with
  | ok b x y => exact ⟨b, x, y, rfl⟩
  | _ => cases h

/-- The last double word of the window with 15 entries in LQ; a global double word; the region of a zero tile
register. -/
theorem witness_QueueAccess : (∃ s h, Clear s false h ∧ Guarded s false h ∧
      let k := begunCore s false h
      let ea := effective (aGet k 2) 3 0 0
      localOk k ea 8 ∧ localClean k ea 8 ∧ k.sh.lq.length < 16 ∧ k.sh.sq = [qe] ∧
        boardMeets k (lbase k + ea.toNat) 8 = false) ∧
    (∃ s h pa l, Clear s false h ∧ Guarded s false h ∧
      let b := begun s false h
      let k := begunCore s false h
      let ea := effective (aGet k 2) 3 0 0
      globalOk b s.me ea 8 .read pa l ∧ anyPoison b.phys pa 8 = false ∧ k.sh.lq.length < 16 ∧ k.sh.sq = [qe] ∧
        globalOk b s.me ea 8 .write pa l) ∧
    (∃ s h tt rows rowsW bs b' b'' scr phys e, Clear s false h ∧ Guarded s false h ∧
      let b := begun s false h
      let k := begunCore s false h
      let t := tGet k tt
      tileOk t (fun _ => true) = true ∧ (tRows t + 1) * tW t ≤ 2048 ∧
      checkRows b s.me t .read 0 (tRows t + 1) = .ok rows ∧ k.sh.vlq.length < 4 ∧
      readParts b s.me (runParcel k) (addrParts t 0 (rows.take (min (tRows t + 1) k.a.acnt.toNat))) = .ok b' bs ∧
      k.sh.vsq = [e] ∧ checkRows b s.me t .write 0 (tRows t + 1) = .ok rowsW ∧
      let parts := addrParts t 0 (rowsW.take (min (tRows t + 1) k.a.acnt.toNat))
      (parts.all fun p => partWritable b p.1) = true ∧
      writeParts b s.me (runOwner k)
        (parts.zip (pieces16 parts.length (leBytes (16 * parts.length) e.data.toNat))) = .ok b'' scr phys) :=
  ⟨⟨sa fun k => aSet { queued k with sh := { (queued k).sh with lq := List.replicate 15 qe } } 2 4088, h0,
      (ready_a _).1, (ready_a _).2, ⟨by decide, by decide⟩, ⟨by decide, by decide⟩, by decide, rfl, by decide⟩,
   ⟨mapped (sa queued), h0, _, _, clear_s _ _, guard0 .., ⟨by decide, rfl, by decide, by decide, by decide, by decide⟩,
      by decide, by decide, rfl, ⟨by decide, rfl, by decide, by decide, by decide, by decide⟩⟩,
   let ⟨b', bs, hr⟩ := parts_ok _ (show partsOk (readParts (begun (mapped (sa queued)) false h0) 0 0
        [(.scratch 0 0 0, 0)]) = true by decide)
   let ⟨b'', x, y, hw⟩ := parts_written _ (show partsWritten (writeParts (begun (mapped (sa queued)) false h0) 0 placedOwner
        [((.scratch 0 0 0, 0), (leBytes 16 (7 : VBits).toNat).take 16)]) = true from rfl)
   ⟨mapped (sa queued), h0, 0, _, _, bs, b', b'', x, y, _, clear_s _ _, guard0 .., rfl, by decide, rfl, by decide, hr,
      rfl, rfl, by decide, hw⟩⟩

theorem witness_BranchResults : (∃ i xs h c off s, branchOps i = some (xs, h, c, off) ∧ Clear s xs h ∧
      Guarded s xs h) ∧ (∃ s h, Clear s true h ∧ Guarded s true h ∧ (sGet (begunCore s true h) 2).toNat % 4 = 0) ∧
    (∀ a ∈ [(4 : Word), 6], ∃ s h, Clear s false h ∧ Guarded s false h ∧ aGet (begunCore s false h) 2 = a) ∧
    (∃ s h, Clear s true h ∧ Guarded s true h ∧ (sGet (begunCore s true h) 2).toNat % 4 ≠ 0) :=
  ⟨⟨.beq h0 1 2 4, false, h0, _, _, sa id, rfl, (ready_a id).1, (ready_a id).2⟩,
   ⟨sx id, h0, (ready_x id).1, (ready_x id).2, by decide⟩,
   fun a _ => ⟨sa fun k => aSet k 2 a, h0, (ready_a _).1, (ready_a _).2, rfl⟩,
   ⟨sx fun k => sSet k 2 6, h0, (ready_x _).1, (ready_x _).2, by decide⟩⟩

/-- A core of the small states with counts in `a2` and `s2`, `a3` at an address, and some loops on its stacks. -/
def loopy (n a : Word) (ls : List LoopEnt) (k : Core) : Core :=
  sSet (aSet (aSet { k with a := { k.a with str := { k.a.str with loops := ls } },
                            x := { k.x with str := { k.x.str with loops := ls } } } 2 n) 3 a) 2 n

/-- Three loops on the stack with a count of 0 and of 1; four loops; a shape record, and an address that is no record's;
a second `loopv`. -/
theorem witness_LoopEntryResults :
    (∀ n ∈ [(0 : Word), 1], ∃ i xs h len v s, countLoops i = some (xs, h, len, v) ∧ Clear s xs h ∧ Guarded s xs h ∧
      (strOf (begunCore s xs h) xs).loops.length < 4 ∧ v (begunCore s xs h) = n) ∧
    (∃ i xs h len v s, countLoops i = some (xs, h, len, v) ∧ Clear s xs h ∧ Guarded s xs h ∧
      4 ≤ (strOf (begunCore s xs h) xs).loops.length) ∧
    (∀ m ∈ [3, 4], ∃ i xs h q len s, eosLoops i = some (xs, h, q, len) ∧ Clear s xs h ∧ Guarded s xs h ∧
      (strOf (begunCore s xs h) xs).loops.length = m) ∧
    (∃ s h, Clear s false h ∧ Guarded s false h ∧ (aGet (begunCore s false h) 3).toNat % 64 ≠ 0) ∧
    (∀ m ∈ [3, 4], ∃ s h b₁ n b₂ v, Clear s false h ∧ Guarded s false h ∧
      let ea := aGet (begunCore s false h) 3
      ea.toNat % 64 = 0 ∧ globalRead (begun s false h) s.me (ea + BitVec.ofNat 64 (4 * 7)) 4 = .ok b₁ n ∧
      globalRead b₁ s.me (ea + 32) 4 = .ok b₂ v ∧ (begunCore s false h).a.str.loops.length = m) ∧
    (∀ n ∈ [(0 : Word), 1], ∃ s h, Clear s true h ∧ Guarded s true h ∧ sGet (begunCore s true h) 2 = n ∧
      (begunCore s true h).x.str.loops.length = 3 ∧ NoPipe (begunCore s true h) true) ∧
    (∃ s h, Clear s true h ∧ Guarded s true h ∧ (begunCore s true h).x.str.loops.length = 4) ∧
    (∃ s h, Clear s true h ∧ Guarded s true h ∧ ¬NoPipe (begunCore s true h) true) := by
  have np : ∀ n, NoPipe (begunCore (sx (loopy n 0 (List.replicate 3 (ent (.counted 1))))) true h0) true := by
    intro n l h i a b c
    have h : l ∈ List.replicate 3 (ent (.counted 1)) := h
    rw [List.eq_of_mem_replicate h]
    exact nofun
  exact ⟨fun n _ => ⟨.aLoop h0 2 4, false, h0, 4, _, sa (loopy n 0 (List.replicate 3 (ent (.counted 1)))), rfl,
      (ready_a _).1, (ready_a _).2, by show 3 < 4; decide, rfl⟩,
    ⟨.xLoop h0 2 4, true, h0, 4, _, sx (loopy 1 0 (List.replicate 4 (ent (.counted 1)))), rfl,
      (ready_x _).1, (ready_x _).2, by decide⟩,
    fun m hm => ⟨.aLoops h0 1 4, false, h0, 1, 4, sa (loopy 1 0 (List.replicate m (ent (.counted 1)))), rfl,
      (ready_a _).1, (ready_a _).2, List.length_replicate⟩,
    ⟨sa (loopy 0 0x2020 []), h0, (ready_a _).1, (ready_a _).2, by decide⟩,
    fun m hm => by
      rcases mem_two hm with rfl | rfl
      · exact ⟨mapped (sa (loopy 0 0x2000 (List.replicate 3 (ent (.counted 1))))), h0, _, _, _, _, clear_s _ _,
          guard0 .., by decide, rfl, rfl, rfl⟩
      · exact ⟨mapped (sa (loopy 0 0x2000 (List.replicate 4 (ent (.counted 1))))), h0, _, _, _, _, clear_s _ _,
          guard0 .., by decide, rfl, rfl, rfl⟩,
    fun n _ => ⟨sx (loopy n 0 (List.replicate 3 (ent (.counted 1)))), h0, (ready_x _).1, (ready_x _).2, rfl, rfl, np n⟩,
    ⟨sx (loopy 1 0 (List.replicate 4 (ent (.counted 1)))), h0, (ready_x _).1, (ready_x _).2, rfl⟩,
    ⟨sx (loopy 1 0 [ent (.pipe 0 1 1 1)]), h0, (ready_x _).1, (ready_x _).2,
      fun h => h _ (List.mem_cons_self ..) 0 1 1 1 rfl⟩⟩

/-- Frames that reach SLIM (16) and LSIZE exactly and one step past them; a valid and an invalid shape. -/
theorem witness_FrameAndShapeInstructions :
    (∀ sp ∈ [(32 : Word), 31, 15, 4080, 4081], ∃ s h, Clear s true h ∧ Guarded s true h ∧
      sGet (begunCore s true h) 2 = sp ∧ (begunCore s true h).x.slim = 16 ∧ lsize (begunCore s true h) = 4096) ∧
    (∀ v ∈ [(0x0100F01F : Word), 0x0900F01F], ∃ s h, Clear s true h ∧ Guarded s true h ∧
      sGet (begunCore s true h) 2 = v ∧ shapeOk v = decide (v = 0x0100F01F)) :=
  ⟨fun sp _ => ⟨sx fun k => { sSet k 2 sp with x := { (sSet k 2 sp).x with slim := 16 } }, h0, (ready_x _).1,
     (ready_x _).2, rfl, rfl, rfl⟩,
   fun v hv => ⟨sx fun k => sSet k 2 v, h0, (ready_x _).1, (ready_x _).2, rfl, by
     rcases mem_two hv with rfl | rfl <;> rfl⟩⟩

theorem witness_QueueInstructions : (∃ s h e q, Clear s true h ∧ Guarded s true h ∧
      (begunCore s true h).sh.lq = e :: q ∧ e.filled = true ∧ (begunCore s true h).sh.sq.length < 16) ∧
    (∃ s h v q, ∃ n : BitVec 2, Clear s true h ∧ Guarded s true h ∧
      portClosed (begun s true h) s.me n.toNat = false ∧ bget (begunCore s true h).inbox n = v :: q) ∧
    (∃ i xs h n off s e q, queueBranches i = some (xs, h, n, off) ∧ Clear s xs h ∧
      (if xs then (begunCore s xs h).sh.bqx else (begunCore s xs h).sh.bqa) = e :: q) ∧
    (∃ i xs h f s, outcomeSends i = some (xs, h, f) ∧ Clear s xs h ∧
      (if xs then (begunCore s xs h).sh.bqa else (begunCore s xs h).sh.bqx).length < 16) :=
  ⟨⟨sx queued, h0, _, _, (ready_x _).1, (ready_x _).2, rfl, rfl, by decide⟩,
   ⟨sx fun k => { k with inbox := bset k.inbox 1 [5] }, h0, _, _, 1, (ready_x _).1, (ready_x _).2, by decide, rfl⟩,
   ⟨.aBq p0 0 4, false, h0, _, _, sa queued, _, _, rfl, (ready_a _).1, rfl⟩,
   ⟨.xSendb p0 1 0 0, true, h0, _, sx queued, rfl, (ready_x _).1, by decide⟩⟩

/-- A read, a write with a valid and an invalid value, a CSR the stream does not have, and CYCLE. -/
theorem witness_CsrRules :
    (∃ i xs h d c f s old, csrOps i = some (xs, h, d, c, f) ∧ Clear s xs h ∧ Guarded s xs h ∧
      csrRead (begun s xs h) s.me xs c.toNat = some old ∧ c.toNat ≠ 9 ∧ (begunCore s xs h).vec.vq = [] ∧
      f (begunCore s xs h) old = none) ∧
    (∀ x ∈ [(4096 : Word), 4112], ∃ i xs h d c f s old v, csrOps i = some (xs, h, d, c, f) ∧ Clear s xs h ∧
      Guarded s xs h ∧ csrRead (begun s xs h) s.me xs c.toNat = some old ∧ c.toNat ≠ 9 ∧
      f (begunCore s xs h) old = some v ∧ v = x ∧
      (csrWrite (begunCore s xs h) c.toNat v).isSome = decide (x = 4096)) ∧
    (∃ i xs h d c f s, csrOps i = some (xs, h, d, c, f) ∧ Clear s xs h ∧ Guarded s xs h ∧
      csrRead (begun s xs h) s.me xs c.toNat = none) ∧
    (∃ s c r, (coreOf s c).run = some r) :=
  ⟨⟨.xCsrr h0 1 0x10, true, h0, 1, 0x10, _, sx id, _, rfl, (ready_x id).1, (ready_x id).2, rfl, by decide, rfl, rfl⟩,
   fun x hx => ⟨.xCsrw h0 1 2 5, true, h0, 1, 5, _, sx fun k => sSet k 2 x, _, x, rfl, (ready_x _).1, (ready_x _).2,
     rfl, by decide, rfl, rfl, by rcases mem_two hx with rfl | rfl <;> rfl⟩,
   ⟨.aCsrr h0 1 0x5, false, h0, 1, 5, _, sa id, rfl, (ready_a id).1, (ready_a id).2, rfl⟩,
   ⟨sa id, 0, placeRun, rfl⟩⟩

/-! ### Counters, fences, atomics and copies -/

/-- A system counter at index 0 with an owner, a generation and a value. -/
def ctr (v : Word) (gen : BitVec 14) (owner : Nat) (alloc : Bool) : Ctr :=
  { value := v, gen := gen, owner := owner, alloc := alloc, keep := false, launch := 0, fut := false }
/-- Its handle with generation 0. -/
abbrev sysH : Word := mkHandle 3 0 0 0
/-- A state with that counter. -/
def withCtr (c : Ctr) (s : State) : State := { s with homes := [(homeKey 3 0, { Home.init with entries := [(0, c)] })] }
/-- A small state whose `a2` and `a3` hold a handle and an amount or a threshold. -/
def ctrSt (c : Ctr) (h x : Word) : State := withCtr c (sa fun k => aSet (aSet k 2 h) 3 x)
theorem ready_c (c : Ctr) (h x : Word) : Clear (ctrSt c h x) false h0 ∧ Guarded (ctrSt c h x) false h0 :=
  ⟨clear_s _ _, guard0 ..⟩

/-- A handle for each clause: low bits set, no such home, another core's, this core's, freed, another parcel's, and
the parcel's own; the largest fields of a handle. -/
theorem witness_HandleChecks :
    (∃ h : Word, 64 ≤ h.toNat ∧ h.toNat % 2 ^ 16 ≠ 0) ∧
    (∃ h : Word, 64 ≤ h.toNat ∧ h.toNat % 2 ^ 16 = 0 ∧ homeExists h = false) ∧
    (∃ h : Word, 64 ≤ h.toNat ∧ h.toNat % 2 ^ 16 = 0 ∧ homeExists h = true ∧ hScope h = 0 ∧ hHome h ≠ 0) ∧
    (∃ h : Word, 64 ≤ h.toNat ∧ h.toNat % 2 ^ 16 = 0 ∧ homeExists h = true ∧ hScope h = 0 ∧ hHome h = 0) ∧
    (∃ s, homeExists sysH = true ∧ hScope sysH ≠ 0 ∧ (ctrOf s sysH).alloc = false) ∧
    (∃ s, (ctrOf s sysH).alloc = true ∧ (ctrOf s sysH).gen ≠ hGen sysH) ∧
    (∃ s, (ctrOf s sysH).alloc = true ∧ (ctrOf s sysH).gen = hGen sysH ∧ (ctrOf s sysH).owner ≠ 0 ∧
      granted s sysH (.parcel 0) .add = false) ∧
    (∃ s, (ctrOf s sysH).alloc = true ∧ (ctrOf s sysH).gen = hGen sysH ∧ (ctrOf s sysH).owner = 0) ∧
    (3 < 4 ∧ 2 ^ 16 - 1 < 2 ^ 16) :=
  ⟨⟨65, by decide⟩, ⟨0xC000000100000000, by decide⟩, ⟨0x100000000, by decide⟩, ⟨0x10000, by decide⟩,
   ⟨ctrSt (ctr 0 0 0 false) 0 0, by decide⟩, ⟨ctrSt (ctr 0 1 0 true) 0 0, by decide⟩,
   ⟨ctrSt (ctr 0 0 1 true) 0 0, by decide⟩, ⟨ctrSt (ctr 0 0 0 true) 0 0, by decide⟩, by decide⟩

/-- The quotas of parcel 0 let it have one system counter, or none. -/
def quota (n : Nat) (s : State) : State :=
  { s with parcels := mset s.parcels 0 { parcelOf s 0 with quotas := { noQuotas with system := some n } } }
theorem witness_CounterAllocation :
    (∀ w ∈ [(0 : Word), 8, 0x20000, 0x3007], ∃ s h, Clear s false h ∧ Guarded s false h ∧
      aGet (begunCore s false h) 2 = w ∧ (w.toNat / 2 ^ 17 ≠ 0 ∨ w.toNat / 8 % 2 = 1 ∨ w.toNat % 4 = 0 ∨
        (w.toNat / 4 % 2 = 1 ∧ coreExists (w.toNat / 16 % 4096) = false))) ∧
    (∃ s h q, Clear s false h ∧ Guarded s false h ∧ aGet (begunCore s false h) 2 = 3 ∧
      ctrQuota (begun s false h) 3 (runParcel (begunCore s false h)) = some q ∧
      q ≤ countOwned (begun s false h) 3 (runParcel (begunCore s false h))) ∧
    (∃ s h, Clear s false h ∧ Guarded s false h ∧ aGet (begunCore s false h) 2 = 3 ∧
      (∀ q, ctrQuota (begun s false h) 3 (runParcel (begunCore s false h)) = some q →
        ¬q ≤ countOwned (begun s false h) 3 (runParcel (begunCore s false h))) ∧
      (ctrOf (begun s false h) sysH).alloc = true ∧
      (mgetD (homeOf (begun s false h) (homeKey 3 0)).entries 1 Ctr.init).alloc = false) ∧
    (∀ c ∈ [ctr 0 0 0 true, ctr 0 0 1 true, ctr 0 1 0 false, ctr 0 1 0 true], ∃ s h, Clear s false h ∧
      Guarded s false h ∧ aGet (begunCore s false h) 2 = sysH ∧ 64 ≤ sysH.toNat ∧ sysH.toNat % 2 ^ 16 = 0 ∧
      homeExists sysH = true ∧ hScope sysH ≠ 0 ∧ ctrOf (begun s false h) sysH = c ∧
      runParcel (begunCore s false h) = 0) ∧
    (∃ b hd, ((homeOf b (hKey hd)).pool.filter fun w => w.handle == hd) = []) :=
  ⟨fun w hw => ⟨sa fun k => aSet k 2 w, h0, (ready_a _).1, (ready_a _).2, rfl, by
      simp only [List.mem_cons, List.not_mem_nil, or_false] at hw
      rcases hw with rfl | rfl | rfl | rfl <;> decide⟩,
   ⟨quota 0 (sa fun k => aSet k 2 3), h0, 0, clear_s _ _, guard0 .., rfl, rfl, Nat.zero_le _⟩,
   ⟨withCtr (ctr 0 0 0 true) (quota 2 (sa fun k => aSet k 2 3)), h0, clear_s _ _, guard0 .., rfl,
     (fun q h => by cases (show some 2 = some q from h); decide), by decide, by decide⟩,
   fun c _ => ⟨ctrSt c sysH 0, h0, (ready_c ..).1, (ready_c ..).2, rfl, by decide, by decide, by decide, by decide,
     rfl, rfl⟩,
   ⟨State.reset, sysH, rfl⟩⟩

/-- A message that fails; a local index, low bits, a home that is not there, a core-scope handle of this core and of
another; a free entry of the next generation and of another. -/
theorem witness_CounterAllocation_more :
    (∃ s h, Clear s false h ∧ Guarded s false h ∧ aGet (begunCore s false h) 2 = sysH ∧
      (begun s false h).mesh.fail = some .request) ∧
    (∀ v ∈ [(63 : Word), 65, 0xC000000100000000, 0x10000, 0x100010000], ∃ s h, Clear s false h ∧ Guarded s false h ∧
      aGet (begunCore s false h) 2 = v) ∧
    (∀ g ∈ [(0 : BitVec 14), 1, 2], ∃ s h, Clear s false h ∧ Guarded s false h ∧ aGet (begunCore s false h) 2 = sysH ∧
      (ctrOf (begun s false h) sysH).alloc = false ∧ (ctrOf (begun s false h) sysH).gen = g) ∧
    ((63 : Word).toNat < 64 ∧ (65 : Word).toNat % 2 ^ 16 ≠ 0 ∧ homeExists 0xC000000100000000 = false ∧
      homeExists 0x10000 = true ∧ hScope 0x10000 = 0 ∧ hHome 0x10000 = 0 ∧
      homeExists 0x100010000 = true ∧ hScope 0x100010000 = 0 ∧ hHome 0x100010000 = 1) :=
  ⟨⟨{ ctrSt (ctr 0 0 0 true) sysH 0 with mesh := { State.reset.mesh with fail := some .request } }, h0, clear_s _ _,
      guard0 .., rfl, rfl⟩,
   fun v _ => ⟨sa fun k => aSet k 2 v, h0, (ready_a _).1, (ready_a _).2, rfl⟩,
   fun g _ => ⟨ctrSt { ctr 0 0 0 false with gen := g } sysH 0, h0, (ready_c ..).1, (ready_c ..).2, rfl, rfl, rfl⟩,
   by decide⟩

/-- A copy that fills 16 bytes of core 0's scratchpad. -/
def cpyCmd : CopyCmd :=
  { parts := [{ row := 0, src := none, fill := 7, dst := .scratch 0 0 0 }], done := .none, own := placedOwner, seq := 0,
    dstLow := 0, hold := none, failed := false, covered := [] }
/-- A state whose `t0` and `t1` describe 16 window bytes each, and whose `t2` is not valid. -/
def tiles (k : Core) : Core := tSet (tSet k 1 16) 2 1
/-- Its `t2` is a table of one row and `t3` its index. -/
def gathers (k : Core) : Core := tSet (tSet k 2 48) 3 0x40000000000000000000000000000020
/-- A resident strand of the placed launch, of a round, and two neighbours that run it. -/
def ofRound (n : Nat) : Resident :=
  { own := placedOwner, base := 0, size := 16, any := false, urgent := false, once := false, round := some n,
    status := .running, retried := [] }
def besides (n : Option Nat) : State :=
  { sa id with cores := [(0, { tiles core0 with res := [(0, { ofRound 7 with round := n })] }),
                         (1, { tiles core0 with res := [(0, ofRound 7)] })] }
/-- Both of round 7. -/
abbrev beside : State := besides (some 7)
theorem witness_CopyIssueResults :
    (∃ s h dn srcs dsts, Clear s false h ∧ Guarded s false h ∧
      let b := begun s false h
      let k := begunCore s false h
      copyDone b s.me 0 0 = .ok dn ∧ k.eng.copyq.length = 15 ∧
      checkRows b s.me (tGet k 0) .write 0 (tRows (tGet k 0) + 1) = .ok dsts ∧
      checkRows b s.me (tGet k 1) .read 0 (tRows (tGet k 1) + 1) = .ok srcs ∧
      copyTilesOk k (.cpy h 0 1 0 0) = true ∧ copyTilesOk k (.cpyf h 0 0 0 0) = true) ∧
    (∃ s h dn srcs dsts xs rows, Clear s false h ∧ Guarded s false h ∧
      let b := begun s false h
      let k := begunCore s false h
      copyDone b s.me 0 0 = .ok dn ∧ k.eng.copyq.length < 16 ∧
      checkRows b s.me (tGet k 2) .read 0 (tRows (tGet k 2) + 1) = .ok srcs ∧
      checkRows b s.me (tGet k 0) .write 0 (tRows (tGet k 0) + 1) = .ok dsts ∧
      copyTilesOk k (.cpyg h 0 2 0 0) = true ∧ Indices k (tGet k 3) (tGet k 2) (actives k (tGet k 0)) xs ∧
      checkRows b s.me (tGet k 3) .read 0 (tRows (tGet k 3) + 1) = .ok rows) ∧
    (∃ s h dn srcs dsts xs rows, Clear s false h ∧ Guarded s false h ∧
      let b := begun s false h
      let k := begunCore s false h
      copyDone b s.me 0 0 = .ok dn ∧ k.eng.copyq.length < 16 ∧
      checkRows b s.me (tGet k 0) .read 0 (tRows (tGet k 0) + 1) = .ok srcs ∧
      checkRows b s.me (tGet k 2) .write 0 (tRows (tGet k 2) + 1) = .ok dsts ∧
      copyTilesOk k (.cpys h 2 0 0 0) = true ∧ Indices k (tGet k 3) (tGet k 2) (actives k (tGet k 0)) xs ∧
      checkRows b s.me (tGet k 3) .read 0 (tRows (tGet k 3) + 1) = .ok rows) ∧
    (∃ s h dn srcs dir n rd w, Clear s false h ∧ Guarded s false h ∧
      let b := begun s false h
      let k := begunCore s false h
      copyDone b s.me 0 0 = .ok dn ∧ k.eng.copyq.length < 16 ∧
      checkRows b s.me (tGet k 1) .read 0 (tRows (tGet k 1) + 1) = .ok srcs ∧
      copyTilesOk k (.cpyn h 0 1 0 dir 0) = true ∧ portClosed b s.me dir.toNat = false ∧
      neighbour s.me dir.toNat = some n ∧ runRound k = some rd ∧ roundSlot b n (runOwner k).launch rd = some w ∧
      (∀ i, i ≤ tRows (tGet k 0) → tAddr (tGet k 0) + i * tPitch (tGet k 0) + tW (tGet k 0) ≤ w.size)) ∧
    (∃ s h rows, Clear s false h ∧ Guarded s false h ∧
      tileOk (tGet (begunCore s false h) 0) (fun _ => true) = true ∧ tSpace (tGet (begunCore s false h) 0) = 1 ∧
      checkRows (begun s false h) s.me (tGet (begunCore s false h) 0) .write 0
        (tRows (tGet (begunCore s false h) 0) + 1) = .ok rows) ∧
    (∃ s h, Clear s false h ∧ Guarded s false h ∧
      tileOk (tGet (begunCore s false h) 2) (fun _ => true) = false) := by
  refine ⟨⟨sa fun k => { tiles k with eng := { k.eng with copyq := List.replicate 15 cpyCmd } }, h0, _, _, _,
      (ready_a _).1, (ready_a _).2, rfl, rfl, rfl, rfl, by decide, by decide⟩,
    ⟨sa gathers, h0, _, _, _, [0], _, (ready_a _).1, (ready_a _).2, rfl, by decide, rfl, rfl, by decide,
      ⟨rfl, fun i hi => ?_⟩, rfl⟩,
    ⟨sa gathers, h0, _, _, _, [0], _, (ready_a _).1, (ready_a _).2, rfl, by decide, rfl, rfl, by decide,
      ⟨rfl, fun i hi => ?_⟩, rfl⟩,
    ⟨beside, h0, _, _, 1, 1, 7, _, clear_s _ _, guard0 .., rfl, by decide, rfl, by decide, by decide, rfl, rfl, rfl,
      by decide⟩,
    ⟨mapped (sa fun k => tSet k 0 0x4000000000002000), h0, _, clear_s _ _,
     guard0 .., by decide, by decide, rfl⟩,
    ⟨sa tiles, h0, (ready_a _).1, (ready_a _).2, by decide⟩⟩
  all_goals
    obtain rfl : i = 0 := Nat.lt_one_iff.1 hi
    exact ⟨_, rfl, rfl, by decide⟩

/-- A global region and a local one for `pref`. -/
theorem witness_CopyIssueResults_pref : ∀ g ∈ [0, 1], ∃ s h, Clear s false h ∧ Guarded s false h ∧
    tileOk (tGet (begunCore s false h) 0) (fun _ => true) = true ∧ tSpace (tGet (begunCore s false h) 0) = g := by
  intro g hg
  rcases mem_two hg with rfl | rfl
  · exact ⟨sa tiles, h0, (ready_a _).1, (ready_a _).2, by decide, by decide⟩
  · exact ⟨sa fun k => tSet k 0 0x4000000000002000, h0, (ready_a _).1, (ready_a _).2, by decide, by decide⟩

/-- A launch that the running strand belongs to, under a policy. -/
def theLaunch (pol : Policy) : Launch :=
  { id := 0, parcel := 0, fn := none, policy := pol, order := 0,
    desc := { addr := 0, aentry := 0, xentry := 0, logitaddr := 0, logitcnt := 0, winsize := 0, args := 0,
              localaddr := 0, locallen := 0, flags := 0, starth := 0, startt := 0, doneh := 0, faulth := 0,
              recaddr := 0, callarea := 0, calldb := 0, loops := [], shapeaddr := 0 },
    st := .live, live := 1, count := 1, graph := none, levels := [], homes := [0], stored := [] }
/-- A state with that launch. -/
def under (pol : Policy) (s : State) : State := { s with sched := { s.sched with launches := [(0, theLaunch pol)] } }
/-- Amounts at the bound of `cadd`, under each policy; a threshold reached exactly, and one that is not; values 2^62 from
a threshold. -/
theorem witness_CounterOperations :
    (∀ pol, ∃ i h d a x o s r, counterAdds i = some (h, d, a, x, o) ∧ Clear s false h ∧ Guarded s false h ∧
      checkHandle (begun s false h) s.me (runParcel (begunCore s false h)) (aGet (begunCore s false h) a) .add = .ok r ∧
      (x (begunCore s false h)).toNat = 2 ^ 32 - 1 ∧
      handlePolicy (begun s false h) s.me (aGet (begunCore s false h) a) o = pol) ∧
    (∃ s h r, Clear s false h ∧ Guarded s false h ∧
      checkHandle (begun s false h) s.me (runParcel (begunCore s false h)) (aGet (begunCore s false h) 2) .add = .ok r ∧
      (aGet (begunCore s false h) 3).toNat = 2 ^ 32) ∧
    (∀ pol, ∃ i h a o f s r, counterReads i = some (h, a, o, f) ∧ Clear s false h ∧ Guarded s false h ∧
      checkHandle (begun s false h) s.me (runParcel (begunCore s false h)) (aGet (begunCore s false h) a) .read = .ok r ∧
      handlePolicy (begun s false h) s.me (aGet (begunCore s false h) a) o = pol) ∧
    (∀ pol, ∀ x ∈ [(5 : Word), 6], ∃ s h r, Clear s false h ∧ Guarded s false h ∧
      checkHandle (begun s false h) s.me (runParcel (begunCore s false h)) (aGet (begunCore s false h) 2) .read = .ok r ∧
      handlePolicy (begun s false h) s.me (aGet (begunCore s false h) 2) 1 = pol ∧
      reached (refValue (begun s false h) s.me r) (aGet (begunCore s false h) 3) = decide (x = 5)) ∧
    (∃ h : Word, 64 ≤ h.toNat ∧ hScope h = 3) ∧ (∃ h : Word, h.toNat < 64) ∧
    (∃ h : Word, 64 ≤ h.toNat ∧ hScope h ≠ 3) ∧
    (∃ g h : Word, hKey g ≠ hKey h) ∧ (∃ g h : Word, hIndex g ≠ hIndex h) ∧
    (∃ s : State, s.mesh.fail = some .add) ∧
    (∃ v t : Word, (v - t).toNat = 2 ^ 62) ∧ ∃ v t : Word, v ≠ t ∧ (t - v).toNat = 2 ^ 62 :=
  ⟨fun pol => ⟨.cadd h0 1 2 3 1, h0, 1, 2, _, 1, under pol (ctrSt (ctr 5 0 0 true) sysH 0xFFFFFFFF),
     .home sysH, rfl, clear_s _ _, guard0 .., by cases pol <;> rfl, by cases pol <;> decide,
     by cases pol <;> rfl⟩,
   ⟨ctrSt (ctr 5 0 0 true) sysH 0x100000000, h0, .home sysH, (ready_c ..).1, (ready_c ..).2, rfl, by decide⟩,
   fun pol => ⟨.cread h0 1 2 1, h0, 2, 1, _, under pol (ctrSt (ctr 5 0 0 true) sysH 5), .home sysH, rfl, clear_s _ _,
     guard0 .., by cases pol <;> rfl, by cases pol <;> rfl⟩,
   fun pol x hx => ⟨under pol (ctrSt (ctr 5 0 0 true) sysH x), h0, .home sysH, clear_s _ _, guard0 ..,
     by rcases mem_two hx with rfl | rfl <;> cases pol <;> rfl, by rcases mem_two hx with rfl | rfl <;> cases pol <;> rfl,
     by rcases mem_two hx with rfl | rfl <;> cases pol <;> decide⟩,
   ⟨sysH, by decide, by decide⟩, ⟨63, by decide⟩, ⟨64, by decide, by decide⟩,
   ⟨sysH, 0, by decide⟩, ⟨0x10000, 0, by decide⟩,
   ⟨{ State.reset with mesh := { State.reset.mesh with fail := some .add } }, rfl⟩,
   ⟨1 <<< 62, 0, by decide⟩, ⟨0, 1 <<< 62, by decide, by decide⟩⟩

/-- An operation whose message arrives and one whose message fails. -/
theorem witness_CounterOperations_asked : ∀ f ∈ [none, some MeshFail.request], ∃ s h r, Clear s false h ∧
    Guarded s false h ∧
    checkHandle (begun s false h) s.me (runParcel (begunCore s false h)) (aGet (begunCore s false h) 2) .read = .ok r ∧
    (begun s false h).mesh.fail = f ∧ r = .home sysH :=
  fun f hf => ⟨{ ctrSt (ctr 5 0 0 true) sysH 5 with mesh := { State.reset.mesh with fail := f } }, h0, .home sysH,
    clear_s _ _, guard0 .., by rcases mem_two hf with rfl | rfl <;> rfl, rfl, rfl⟩

/-- A core with local counter 63 armed and ready, and values in `a2`. -/
def armed (v : Word) (k : Core) : Core := aSet (lcSet k 63 { value := 5, thr := 5, armed := true }) 2 v
theorem witness_ReadinessAndFences :
    (∀ v ∈ [(63 : Word), 64], ∃ s h, Clear s false h ∧ Guarded s false h ∧ aGet (begunCore s false h) 2 = v) ∧
    (∃ s h, Clear s false h ∧ Guarded s false h ∧ (aGet (begunCore s false h) 2).getLsbD 63 = true ∧
      (lcOf (begunCore s false h) 63).armed = true ∧
      reached (lcOf (begunCore s false h) 63).value (lcOf (begunCore s false h) 63).thr = true) ∧
    (∃ i h sc s, fences i = some (h, sc, true) ∧ Clear s false h ∧ Guarded s false h ∧
      ¬LoadsDone (begunCore s false h)) ∧
    (∃ i h s, fences i = some (h, 0, true) ∧ Clear s false h ∧ Guarded s false h ∧
      LoadsDone (begunCore s false h)) ∧
    (∀ pol, ∃ i h sc s, fences i = some (h, sc, true) ∧ sc = 3#2 ∧ Clear s false h ∧ Guarded s false h ∧
      LoadsDone (begunCore s false h) ∧ policyOf (begun s false h) s.me = pol) := by
  exact ⟨fun v _ => ⟨sa (armed v), h0, (ready_a _).1, (ready_a _).2, rfl⟩,
   ⟨sa (armed (1 <<< 63)), h0, (ready_a _).1, (ready_a _).2, by decide, by decide, by decide⟩,
   ⟨.fenceAcq h0 0, h0, 0, sa fun k => { k with sh := { k.sh with lq := [{ qe with filled := false }] } }, rfl,
     (ready_a _).1, (ready_a _).2, fun l => Bool.false_ne_true (l.1 _ (List.mem_cons_self ..))⟩,
   ⟨.fenceAcq h0 0, h0, sa id, rfl, (ready_a _).1, (ready_a _).2, ⟨(fun _ h => nomatch h), (fun _ h => nomatch h), rfl⟩⟩,
   fun pol => ⟨.fenceAr h0 3, h0, 3, under pol (sa id), rfl, rfl, clear_s _ _, guard0 ..,
     ⟨(fun _ h => nomatch h), (fun _ h => nomatch h), rfl⟩, by cases pol <;> rfl⟩⟩

/-- The last word of the window and of the vault; a global word; one byte off the word. -/
theorem witness_AtomicRules :
    (∃ i h n op d a x sc s t old put, atomicOps i = some (h, n, op, d, a, x, sc) ∧ Clear s false h ∧
      Guarded s false h ∧ amoAt (begun s false h) s.me (aGet (begunCore s false h) a) n sc = .ok t old put) ∧
    (∃ i h n op d a x sc s, atomicOps i = some (h, n, op, d, a, x, sc) ∧ Clear s false h ∧ Guarded s false h ∧
      (aGet (begunCore s false h) a).toNat % n ≠ 0) ∧
    (∃ i h n a x sc f s t old put, reductions i = some (h, n, a, x, sc, f) ∧ Clear s false h ∧ Guarded s false h ∧
      old < 2 ^ (8 * n) ∧ amoAt (begun s false h) s.me (aGet (begunCore s false h) a) n sc = .ok t old put) ∧
    (∃ s c, ∃ ea : Word, ea.toNat % 4 = 0 ∧ ea.toNat + 4 = lsize (coreOf s c) ∧
      readBlocked (coreOf s c) (bankAt (coreOf s c) ea) 4 = false ∧
      scratchPoison (coreOf s c) (bankAt (coreOf s c) ea) 4 = false ∧
      boardMeets (coreOf s c) (bankAt (coreOf s c) ea) 4 = false) ∧
    (∃ s c, ∃ ea : Word, ea.toNat % 4 = 0 ∧ ea.toNat + 4 = 2 ^ 22 ∧
      partOwner s (sectOf c) ea.toNat = runParcel (coreOf s c) ∧
      s.mesh.fail ≠ some .request ∧ s.mesh.fail ≠ some .body ∧
      anyPoison s.phys (vaultPa (sectOf c) ea.toNat) 4 = false) ∧
    (∃ ea : Word, ea.toNat % 4 = 0 ∧ 2 ^ 22 < ea.toNat + 4) ∧
    (∃ s pa l, ∃ ea : Word, ea.toNat % 4 = 0 ∧ globalOk s 0 ea 4 .write pa l ∧
      anyPoison s.phys pa 4 = false) ∧
    (∀ pol, ∃ s, policyOf s 0 = pol) := by
  let v : State := { mapped (sa fun k => aSet k 2 4092) with phys := { State.reset.phys with vaultOwner := [(15, 0)] } }
  exact ⟨⟨.amoWAdd h0 1 2 3 0, h0, 4, .add, 1, 2, 3, 0, sa fun k => aSet k 2 4092, _, _, _, rfl, (ready_a _).1,
      (ready_a _).2, rfl⟩,
    ⟨.amoWAdd h0 1 2 3 0, h0, 4, .add, 1, 2, 3, 0, sa fun k => aSet k 2 4093, rfl, (ready_a _).1, (ready_a _).2,
      by decide⟩,
    ⟨.redIaddW h0 2 3 0, h0, 4, 2, 3, 0, _, sa fun k => aSet k 2 4092, _, 0, _, rfl, (ready_a _).1, (ready_a _).2,
      by decide, rfl⟩,
    ⟨sa id, 0, 4092, by decide, by decide, by decide, by decide, by decide⟩,
    ⟨v, 0, 0x3FFFFC, by decide, by decide, by decide, by decide, by decide, by decide⟩, ⟨0x400000, by decide, by decide⟩,
    ⟨mapped (sa id), _, _, 0x2000, by decide, ⟨by decide, rfl, by decide, by decide, by decide, by decide⟩, by decide⟩,
    fun pol => ⟨under pol (sa id), by cases pol <;> rfl⟩⟩

/-- What an atomic access gave: 0 it goes on, 1 it faults, 2 it waits. -/
def amoKind : AmoRes → Nat
  | .ok _ _ _ => 0
  | .fault _ _ => 1
  | .wait _ => 2
theorem amo_fault (r : AmoRes) (h : amoKind r = 1) : ∃ t f, r = .fault t f := by
  cases r with
  | fault t f => exact ⟨t, f, rfl⟩
  | _ => cases h
/-- A translation reaches an address. -/
def xAt (pa : Nat) : XRes → Bool
  | .ok q _ => q == pa
  | _ => false
theorem x_at (pa : Nat) (r : XRes) (h : xAt pa r = true) : ∃ l, r = .ok pa l := by
  cases r with
  | ok q l => exact ⟨l, by rw [beq_iff_eq.1 h]⟩
  | _ => cases h
/-- A translation faults. -/
def xFaults : XRes → Bool
  | .fault _ => true
  | _ => false
theorem x_fault (r : XRes) (h : xFaults r = true) : ∃ f, r = .fault f := by
  cases r with
  | fault f => exact ⟨f, rfl⟩
  | _ => cases h
/-- An atomic past the window, one in a vault that is another parcel's, a global one of a missing page, of a frame that is
another parcel's, and of poisoned bytes. -/
theorem witness_AtomicRules_faults :
    (∃ i h n op d a x sc s t f, atomicOps i = some (h, n, op, d, a, x, sc) ∧ Clear s false h ∧ Guarded s false h ∧
      amoAt (begun s false h) s.me (aGet (begunCore s false h) a) n sc = .fault t f) ∧
    (∃ i h n a x sc g s t f, reductions i = some (h, n, a, x, sc, g) ∧ Clear s false h ∧ Guarded s false h ∧
      amoAt (begun s false h) s.me (aGet (begunCore s false h) a) n sc = .fault t f) ∧
    (∃ s c, ∃ ea : Word, ea.toNat % 4 = 0 ∧ lsize (coreOf s c) < ea.toNat + 4) ∧
    (∃ s c, ∃ ea : Word, ea.toNat % 4 = 0 ∧ ea.toNat + 4 ≤ 2 ^ 22 ∧
      partOwner s (sectOf c) ea.toNat ≠ runParcel (coreOf s c)) ∧
    (∃ s c f, ∃ ea : Word, ea.toNat % 4 = 0 ∧ translate s (.core c) (runParcel (coreOf s c)) ea .write = .fault f) ∧
    (∃ s c pa l, ∃ ea : Word, ea.toNat % 4 = 0 ∧ translate s (.core c) (runParcel (coreOf s c)) ea .write = .ok pa l ∧
      endpointOk s (runParcel (coreOf s c)) pa = false) ∧
    (∃ s pa l, ∃ ea : Word, ea.toNat % 4 = 0 ∧ globalOk s 0 ea 4 .write pa l ∧ anyPoison s.phys pa 4 = true) := by
  obtain ⟨t, f, e⟩ := amo_fault (amoAt (begun (sa fun k => aSet k 2 4096) false h0) 0 4096 4 0) (by decide)
  let m : State := mapped (sa id)
  let q : State := { m with phys := { m.phys with poison := [0x80] } }
  let f1 : State := { m with phys := { m.phys with frames := mset m.phys.frames 2 1 } }
  obtain ⟨l, el⟩ := x_at 0x2000 (translate q (.core 0) 0 0x2000 .write) (by decide)
  obtain ⟨g, eg⟩ := x_fault (translate m (.core 0) 0 0x8000000000 .write) (by decide)
  obtain ⟨l₁, el₁⟩ := x_at 0x2000 (translate f1 (.core 0) 0 0x2000 .write) (by decide)
  exact ⟨⟨.amoWAdd h0 1 2 3 0, h0, 4, .add, 1, 2, 3, 0, sa fun k => aSet k 2 4096, t, f, rfl, (ready_a _).1,
      (ready_a _).2, e⟩,
    ⟨.redIaddW h0 2 3 0, h0, 4, 2, 3, 0, _, sa fun k => aSet k 2 4096, t, f, rfl, (ready_a _).1, (ready_a _).2, e⟩,
    ⟨sa id, 0, 4096, by decide, by decide⟩, ⟨sa id, 0, 0, by decide, by decide, by decide⟩,
    ⟨m, 0, g, 0x8000000000, by decide, eg⟩,
    ⟨f1, 0, 0x2000, l₁, 0x2000, by decide, el₁, by decide⟩,
    ⟨q, 0x2000, l, 0x2000, by decide, ⟨by decide, el, by decide, by decide, by decide, by decide⟩, by decide⟩⟩

/-- A state whose copy engine has one command, and a command whose source page is missing. -/
def cq (cmd : CopyCmd) : State :=
  { sa fun k => { k with eng := { k.eng with copyq := [cmd] } } with cad := (mapped (sa id)).cad }
def away : CopyCmd :=
  { cpyCmd with parts := [{ row := 0, src := some (.global 0 0x8000000000), fill := 0, dst := .scratch 0 0 0 }] }
theorem away_holds : (moveParts (mapped (cq away)) 0 away away.parts).2.2 = some 0x8000000000 := by rfl
theorem witness_CopyCommandRules :
    (∃ i h d e r m s, copyOps i = some (h, d, e, r, m) ∧ Clear s false h ∧ Guarded s false h ∧
      copyTilesOk (begunCore s false h) i = false) ∧
    (∃ i h d x r m s f a, copyOps i = some (h, d, some x, r, m) ∧ Clear s false h ∧ Guarded s false h ∧
      copyTilesOk (begunCore s false h) i = true ∧
      checkRows (begun s false h) s.me (tGet (begunCore s false h) x) .read 0
        (tRows (tGet (begunCore s false h) x) + 1) = .error (some f, a)) ∧
    (∃ i h d r m s f a, copyOps i = some (h, d, none, r, m) ∧ Clear s false h ∧ Guarded s false h ∧
      copyTilesOk (begunCore s false h) i = true ∧
      checkRows (begun s false h) s.me (tGet (begunCore s false h) d) .write 0
        (tRows (tGet (begunCore s false h) d) + 1) = .error (some f, a)) ∧
    (∃ i h d r m s f hd dsts, copyOps i = some (h, d, none, r, m) ∧ Clear s false h ∧ Guarded s false h ∧
      copyTilesOk (begunCore s false h) i = true ∧
      checkRows (begun s false h) s.me (tGet (begunCore s false h) d) .write 0
        (tRows (tGet (begunCore s false h) d) + 1) = .ok dsts ∧
      copyDone (begun s false h) s.me r m = .error (f, hd)) ∧
    (∃ i h d r m s dn dsts, copyOps i = some (h, d, none, r, m) ∧ Clear s false h ∧ Guarded s false h ∧
      copyTilesOk (begunCore s false h) i = true ∧
      checkRows (begun s false h) s.me (tGet (begunCore s false h) d) .write 0
        (tRows (tGet (begunCore s false h) d) + 1) = .ok dsts ∧
      copyDone (begun s false h) s.me r m = .ok dn ∧ (begunCore s false h).eng.copyq.length = 16) ∧
    (∃ s h srcs dsts is bs dn, Clear s false h ∧ Guarded s false h ∧
      let b := begun s false h
      let k := begunCore s false h
      copyTilesOk k (.cpyg h 0 2 0 0) = true ∧ checkRows b s.me (tGet k 2) .read 0 (tRows (tGet k 2) + 1) = .ok srcs ∧
      checkRows b s.me (tGet k 0) .write 0 (tRows (tGet k 0) + 1) = .ok dsts ∧
      checkRows b s.me (tGet k 3) .read 0 (tRows (tGet k 3) + 1) = .ok is ∧ copyDone b s.me 0 0 = .ok dn ∧
      k.eng.copyq.length < 16 ∧ 0 < actives k (tGet k 0) ∧ Indices k (tGet k 3) (tGet k 2) 0 [] ∧
      localLoad k (indexAt (tGet k 3) 0) 4 = .ok bs ∧ tRows (tGet k 2) < leNat bs) ∧
    (∃ s h srcs, Clear s false h ∧ Guarded s false h ∧
      copyTilesOk (begunCore s false h) (.cpyn h 0 1 0 0 0) = true ∧
      checkRows (begun s false h) s.me (tGet (begunCore s false h) 1) .read 0
        (tRows (tGet (begunCore s false h) 1) + 1) = .ok srcs ∧
      portClosed (begun s false h) s.me 0 = true) ∧
    (∀ w ∈ [some (some 7), some (some 8), none], ∃ s h srcs n, Clear s false h ∧ Guarded s false h ∧
      let b := begun s false h
      let k := begunCore s false h
      copyTilesOk k (.cpyn h 1 1 0 1 0) = true ∧
      checkRows b s.me (tGet k 1) .read 0 (tRows (tGet k 1) + 1) = .ok srcs ∧ portClosed b s.me 1 = false ∧
      neighbour s.me 1 = some n ∧
      (w ≠ some (some 7) → ∀ rd, runRound k = some rd → roundSlot b n (runOwner k).launch rd = none) ∧
      (w = some (some 7) → ∃ rd v, runRound k = some rd ∧ roundSlot b n (runOwner k).launch rd = some v ∧
        v.size < tAddr (tGet k 1) + tW (tGet k 1))) ∧
    (∃ s c f r, checkHandle s c (runParcel (coreOf s c)) (aGet (coreOf s c) r) .add = .error f) ∧
    (∃ s c i r, checkHandle s c (runParcel (coreOf s c)) (aGet (coreOf s c) r) .add = .ok (.lc i)) ∧
    (∃ s c g r, checkHandle s c (runParcel (coreOf s c)) (aGet (coreOf s c) r) .add = .ok (.home g)) ∧
    (∃ s cmd q t, (coreOf s 0).eng.copyq = cmd :: q ∧ cmd.hold = some t ∧ ticketReached s t = false) ∧
    (∃ s cmd q b cmd', (coreOf s 0).eng.copyq = cmd :: q ∧ (∀ t, cmd.hold = some t → ticketReached s t = true) ∧
      moveParts s 0 { cmd with hold := none } cmd.parts = (b, cmd', none) ∧ cmd'.parts = [] ∧ cmd'.failed = false) ∧
    (∃ s cmd q b cmd' va, (coreOf s 0).eng.copyq = cmd :: q ∧ (∀ t, cmd.hold = some t → ticketReached s t = true) ∧
      moveParts s 0 { cmd with hold := none } cmd.parts = (b, cmd', some va)) ∧
    (∃ s cmd q x y, (coreOf s 0).eng.copyq = cmd :: q ∧ cmd.parts[1]? = some x ∧ cmd.parts.head? = some y ∧
      x.row ≠ y.row) := by
  let two : CopyCmd := { cpyCmd with parts := cpyCmd.parts ++ [{ row := 1, src := none, fill := 7, dst := .scratch 0 16 16 }] }
  refine ⟨⟨.cpyf h0 2 0 0 0, h0, 2, none, 0, 0, sa tiles, rfl, (ready_a _).1, (ready_a _).2, by decide⟩,
    ⟨.cpy h0 0 1 0 0, h0, 0, 1, 0, 0, sa fun k => tSet k 1 8192, _, _, rfl, (ready_a _).1, (ready_a _).2, by decide, rfl⟩,
    ⟨.cpyf h0 1 0 0 0, h0, 1, 0, 0, sa fun k => tSet k 1 8192, _, _, rfl, (ready_a _).1, (ready_a _).2, by decide, rfl⟩,
    ⟨.cpyf h0 1 0 2 1, h0, 1, 2, 1, sa fun k => aSet (tiles k) 2 65, _, _, _, rfl, (ready_a _).1, (ready_a _).2,
      by decide, rfl, rfl⟩,
    ⟨.cpyf h0 1 0 0 0, h0, 1, 0, 0, sa fun k => { tiles k with eng := { k.eng with copyq := List.replicate 16 cpyCmd } },
      _, _, rfl, (ready_a _).1, (ready_a _).2, by decide, rfl, rfl, rfl⟩,
    ⟨sa fun k => { gathers k with scratch := [(32, 1)] }, h0, _, _, _, _, _, (ready_a _).1, (ready_a _).2, by decide, rfl,
      rfl, rfl, rfl, by decide, by decide, ⟨rfl, fun i h => nomatch h⟩, rfl, by decide⟩,
    ⟨sa tiles, h0, _, (ready_a _).1, (ready_a _).2, by decide, rfl, by decide⟩,
    fun w hw => ?_,
    ⟨sa fun k => aSet k 2 65, 0, _, 2, rfl⟩, ⟨sa fun k => aSet k 2 5, 0, _, 2, rfl⟩,
    ⟨withCtr (ctr 0 0 0 true) (sa fun k => aSet k 2 sysH), 0, sysH, 2, rfl⟩,
    ⟨cq { cpyCmd with hold := some { handle := sysH, value := 1 } }, _, _, _, rfl, rfl, by decide⟩,
    ⟨cq cpyCmd, _, _, _, _, rfl, (fun _ h => nomatch h), rfl, rfl, rfl⟩,
    ⟨mapped (cq away), away, [], _, _, 0x8000000000, rfl, (fun _ h => nomatch h), Prod.ext rfl (Prod.ext rfl away_holds)⟩,
    ⟨cq two, _, _, _, _, rfl, rfl, rfl, by decide⟩⟩
  rcases mem_three hw with rfl | rfl | rfl
  · exact ⟨beside, h0, _, 1, clear_s _ _, guard0 .., by decide, rfl, by decide, rfl, fun h => absurd rfl h,
      fun _ => ⟨7, _, rfl, rfl, by decide⟩⟩
  · exact ⟨besides (some 8), h0, _, 1, clear_s _ _, guard0 .., by decide, rfl, by decide, rfl,
      fun _ rd h => by cases (show some 8 = some rd from h); rfl, nofun⟩
  · exact ⟨besides none, h0, _, 1, clear_s _ _, guard0 .., by decide, rfl, by decide, rfl,
      (fun _ rd h => nomatch (show none = some rd from h)), nofun⟩

/-! ### Commit points, gangs and calls -/

/-- Memory with little-endian values at places, over the page table of `mapped`. -/
def withMem (vs : List (Nat × Nat × Nat)) (s : State) : State :=
  { s with phys := { s.phys with mem := vs.foldl (fun m v => memSetList m v.1 (leBytes v.2.1 v.2.2)) s.phys.mem } }
/-- A mapped small state with memory and a change of core 0. -/
def memSt (vs : List (Nat × Nat × Nat)) (f : Core → Core) : State := withMem vs (mapped (sa f))

/-- What was read meets a condition. -/
def readMeets (P : State → List Byte → Bool) : GRes → Bool
  | .ok b bs => P b bs
  | _ => false
theorem read_meets (P : State → List Byte → Bool) (r : GRes) (h : readMeets P r = true) :
    ∃ b bs, r = .ok b bs ∧ P b bs = true := by
  cases r with
  | ok b bs => exact ⟨b, bs, rfl, h⟩
  | _ => cases h
/-- A post succeeded. -/
def postOk : PostRes → Bool
  | .ok _ _ _ => true
  | _ => false
theorem post_ok (r : PostRes) (h : postOk r = true) : ∃ t q hd, r = .ok t q hd := by
  cases r with
  | ok t q hd => exact ⟨t, q, hd, rfl⟩
  | _ => cases h

/-- A translation succeeded. -/
def xOk : XRes → Bool
  | .ok _ _ => true
  | _ => false
theorem x_ok (r : XRes) (h : xOk r = true) : ∃ pa l, r = .ok pa l := by
  cases r with
  | ok pa l => exact ⟨pa, l, rfl⟩
  | _ => cases h
/-- The bytes of a READY ANY record whose launch is parcel 0's. -/
def spawnable (b : State) (bs : List Byte) : Bool :=
  let w := BitVec.ofNat 64 (leNat ((bs.drop 16).take 8))
  leNat (bs.take 1) % 2 == 1 && swState w == 0 && swAny w && (launchOf b (swLaunch w)).any fun L => L.parcel == 0
/-- The bytes of a READY HOME record of a core that is not parcel 0's. -/
def homeless (b : State) (bs : List Byte) : Bool :=
  let w := BitVec.ofNat 64 (leNat ((bs.drop 16).take 8))
  leNat (bs.take 1) % 2 == 1 && swState w == 0 && !swAny w && !inCoreList b 0 (swHome w) &&
    (launchOf b (swLaunch w)).any fun L => L.parcel == 0
/-- The bytes of a record that is not READY. -/
def unready (_ : State) (bs : List Byte) : Bool :=
  swState (BitVec.ofNat 64 (leNat ((bs.drop 16).take 8))) != 0
/-- A slot that is DONE, one that is POSTED, and one whose counter fails its check. -/
def openSlot (b : State) (bs : List Byte) : Bool :=
  leNat (bs.take 8) % 16 == 3 && match checkHandle b 0 0 (slotCounter bs) .wait with
    | .ok _ => true
    | .error _ => false
def busySlot (b : State) (bs : List Byte) : Bool :=
  leNat (bs.take 8) % 16 == 1 && match checkHandle b 0 0 (slotCounter bs) .wait with
    | .ok _ => true
    | .error _ => false
def lostSlot (b : State) (bs : List Byte) : Bool :=
  match checkHandle b 0 0 (slotCounter bs) .wait with
    | .ok _ => false
    | .error _ => true

/-- A record of an ANY strand, misaligned and READY; a call slot that is free. -/
theorem witness_SpawnAndPost :
    (∃ s h, Clear s false h ∧ Guarded s false h ∧ (aGet (begunCore s false h) 2).toNat % 64 ≠ 0) ∧
    (∃ s h, Clear s false h ∧ Guarded s false h ∧ (aGet (begunCore s false h) 2).toNat % 64 = 0 ∧
      ∃ b' f, readG (begun s false h) (.core s.me) 0 (aGet (begunCore s false h) 2) 64 .read = .fault b' f) ∧
    (∀ P ∈ [spawnable, homeless, unready], ∃ s h, Clear s false h ∧ Guarded s false h ∧
      (aGet (begunCore s false h) 2).toNat % 64 = 0 ∧ runParcel (begunCore s false h) = 0 ∧
      ∃ b' bs, readG (begun s false h) (.core s.me) 0 (aGet (begunCore s false h) 2) 64 .read = .ok b' bs ∧
        P b' bs = true) ∧
    (∃ s h r, Clear s false h ∧ Guarded s false h ∧ (begunCore s false h).run = some r ∧
      launchOf (begun s false h) r.own.launch = none) ∧
    (∃ s h r L, Clear s false h ∧ Guarded s false h ∧ (begunCore s false h).run = some r ∧
      launchOf (begun s false h) r.own.launch = some L ∧ noSlot L r) ∧
    (∀ P ∈ [openSlot, busySlot, lostSlot], ∃ s h r L b' bs, Clear s false h ∧ Guarded s false h ∧
      SlotRead (begun s false h) s.me r L b' bs ∧ P b' bs = true) := by
  let rec_ : Nat → State := fun w =>
    under .system (memSt [(0x2000, 1, 1), (0x2010, 8, w)] fun k => aSet k 2 0x2000)
  let post : Nat → Nat → State := fun w c =>
    let c := withCtr (ctr 0 0 0 true) (memSt [(0x2000, 8, w), (0x2030, 8, c)] id)
    { c with sched := { c.sched with launches :=
      [(0, { theLaunch .system with desc := { (theLaunch .system).desc with recaddr := 0x3000, callarea := 0x2000 } })] } }
  have slot0 : ¬noSlot { theLaunch .system with
      desc := { (theLaunch .system).desc with recaddr := 0x3000, callarea := 0x2000 } } placeRun := by
    unfold noSlot
    decide
  have got : ∀ w c (P : State → List Byte → Bool), readMeets (fun b bs => P b bs && xOk (translate b (.core 0) 0 0x2000 .write))
      (readG (begun (post w c) false h0) (.core 0) 0 0x2000 64 .read) = true →
      ∃ s h r L b' bs, Clear s false h ∧ Guarded s false h ∧ SlotRead (begun s false h) s.me r L b' bs ∧
        P b' bs = true := by
    intro w c P h
    obtain ⟨b', bs, e, p⟩ := read_meets _ _ h
    have p := Bool.and_eq_true_iff.1 p
    exact ⟨post w c, h0, placeRun, _, b', bs, clear_s _ _, guard0 .., ⟨rfl, rfl, slot0, e, x_ok _ p.2⟩, p.1⟩
  refine ⟨⟨sa fun k => aSet k 2 0x2020, h0, (ready_a _).1, (ready_a _).2, by decide⟩,
    ⟨mapped (sa fun k => aSet k 2 0x8000000000), h0, clear_s _ _, guard0 .., by decide, _, _, rfl⟩,
    fun P hP => ?_,
    ⟨sa id, h0, placeRun, (ready_a _).1, (ready_a _).2, rfl, rfl⟩,
    ⟨under .system (sa id), h0, placeRun, _, clear_s _ _, guard0 .., rfl, rfl, .inl rfl⟩, fun P hP => ?_⟩
  · rcases mem_three hP with rfl | rfl | rfl
    · exact ⟨rec_ 0x1000, h0, clear_s _ _, guard0 .., by decide, rfl, read_meets spawnable _ (by decide)⟩
    · exact ⟨rec_ 0x500000, h0, clear_s _ _, guard0 .., by decide, rfl, read_meets homeless _ (by decide)⟩
    · exact ⟨rec_ 0x1100, h0, clear_s _ _, guard0 .., by decide, rfl, read_meets unready _ (by decide)⟩
  · rcases mem_three hP with rfl | rfl | rfl
    · exact got 3 0xC000000000000000 _ (by decide)
    · exact got 1 0xC000000000000000 _ (by decide)
    · exact got 0 0xC000000100000000 _ (by decide)

/-- A member of a gang of two that core 0 leads. -/
def gangRun (m : BitVec 4) : Running := { placeRun with logsz := 1, member := m }
/-- Cores 0 and 1 as one gang, changed alike. -/
def gang (me : Nat) (f : Core → Core) : State :=
  { State.reset with cores := [(0, f { Core.init with run := some (gangRun 0) }),
                               (1, f { Core.init with run := some (gangRun 1) })], turn := .acc me }
/-- Cores 0 and 1 running strands of one launch, their arrivals at `fuse` as given. -/
def pair (a0 x0 a1 x1 : Option FuseAt) : State :=
  { sa id with cores := [(0, { core0 with a := { core0.a with fuse := a0 }, x := { core0.x with fuse := x0 } }),
                         (1, { core0 with a := { core0.a with fuse := a1 }, x := { core0.x with fuse := x1 } })] }
/-- An arrival at `fuse #n`. -/
def arr (n since : Nat) : Option FuseAt := some { n := n, since := since, tok := false }

/-- A member, a leader, a full block of two, a disagreement, a split, and a wait of 65,535 and of 65,536 cycles. -/
theorem witness_GangRules :
    (∃ i xs h g s r, cuvosForm i = some (xs, h, g) ∧ (coreOf s s.me).run = some r ∧ r.logsz ≠ 0#4 ∧
      r.member ≠ 0#4) ∧
    (∃ i h d v s r, accessArith i = some (h, d, v) ∧ (coreOf s s.me).run = some r ∧ r.logsz ≠ 0#4 ∧
      r.member = 0#4 ∧ gangOf s s.me = [0, 1] ∧ h.w = false ∧
      ∀ m ∈ gangOf s s.me, (coreOf s m).a.str.pendT = none ∧ (coreOf s m).a.str.hold = none) ∧
    (∃ i xs h n s, fuseOps i = some (xs, h, n) ∧ Clear s xs h ∧ Guarded s xs h ∧
      fuseBad (atFuse s xs h n) s.me n (fuseParty (atFuse s xs h n) s.me n) = true) ∧
    (∃ i xs h n s, fuseOps i = some (xs, h, n) ∧ Clear s xs h ∧ Guarded s xs h ∧
      fuseBad (atFuse s xs h n) s.me n (fuseParty (atFuse s xs h n) s.me n) = false ∧
      (∀ m ∈ blockOf s.me n, (coreOf (atFuse s xs h n) m).a.fuse.isSome = true ∧
        (coreOf (atFuse s xs h n) m).x.fuse.isSome = true) ∧ s.me ∈ blockOf s.me n) ∧
    (∃ i xs h n s r, fuseOps i = some (xs, h, n) ∧ (coreOf s s.me).run = some r ∧ r.logsz ≠ 0#4 ∧ r.member = 0#4 ∧
      qGet (coreOf s s.me) xs h.g = true ∧ h.w = false ∧
      ∀ m ∈ gangOf s s.me, (strOf (coreOf s m) xs).pendT = none ∧ (strOf (coreOf s m) xs).hold = none) ∧
    (∃ i xs h s, splitOps i = some (xs, h) ∧ Clear s xs h ∧ Guarded s xs h) ∧
    (∃ i xs h s r tok, splitOps i = some (xs, h) ∧ (coreOf s s.me).run = some r ∧ r.logsz ≠ 0#4 ∧
      r.member = 0#4 ∧ qGet (coreOf s s.me) xs h.g = true ∧ partnerSplit (coreOf s s.me) xs = some tok ∧ h.w = false ∧
      ∀ m ∈ gangOf s s.me, (strOf (coreOf s m) xs).pendT = none ∧ (strOf (coreOf s m) xs).hold = none) ∧
    (∃ s f fs, arrivals (coreOf s 0) = f :: fs ∧
      (∀ m ∈ fuseParty s 0 f.n, ∀ g ∈ arrivals (coreOf s m), s.cycle < g.since + 65536) ∧ s.cycle = f.since + 65535) ∧
    (∃ s f fs, arrivals (coreOf s 0) = f :: fs ∧ s.cycle = f.since + 65536) :=
  ⟨⟨.aAdd h0 1 2 3, false, h0, .inst, gang 1 id, gangRun 1, rfl, rfl, by decide, by decide⟩,
   ⟨.aAdd h0 1 2 3, h0, 1, _, gang 0 id, gangRun 0, rfl, rfl, by decide, rfl, rfl, rfl, by decide⟩,
   ⟨.aFuse h0 1, false, h0, 1, pair none none (arr 2 0) none, rfl, ⟨⟨placeRun, rfl, rfl⟩, rfl, rfl, fun w => nomatch w⟩,
     guard0 .., by decide⟩,
   ⟨.aFuse h0 1, false, h0, 1, pair none (arr 1 0) (arr 1 0) (arr 1 0), rfl,
     ⟨⟨placeRun, rfl, rfl⟩, rfl, rfl, fun w => nomatch w⟩, guard0 .., by decide, by decide, by decide⟩,
   ⟨.aFuse h0 1, false, h0, 1, gang 0 id, gangRun 0, rfl, rfl, by decide, rfl, rfl, rfl, by decide⟩,
   ⟨.aSplit h0, false, h0, sa id, rfl, (ready_a id).1, (ready_a id).2⟩,
   ⟨.aSplit h0, false, h0, gang 0 fun k => { k with x := { k.x with splitAt := some false } }, gangRun 0, false, rfl, rfl,
     by decide, rfl, rfl, rfl, rfl, by decide⟩,
   ⟨{ pair (arr 1 1) none none none with cycle := 65536 }, _, _, rfl, by decide, rfl⟩,
   ⟨{ pair (arr 1 0) none none none with cycle := 65536 }, _, _, rfl, rfl⟩⟩

/-- A core whose streams have arrived at commit points as given. -/
def atPoint (a : Option (CommitKind × Bool)) (x : Option Bool) (spin : Option Nat) (k : Core) : Core :=
  { k with a := { k.a with at_ := a, spin := spin }, x := { k.x with at_ := x } }
/-- A mapped state with a system counter whose handle is in `a2`. -/
def waitSt (spin : Option Nat) (cyc : Nat) (a : Option (CommitKind × Bool)) : State :=
  { ctrSt (ctr 5 0 0 true) sysH 5 with cycle := cyc, cores :=
      [(0, atPoint a (some false) spin (aSet (aSet core0 2 sysH) 3 5))] }

/-- A parcel with a share of the system home's pool, and with an overflow list of one entry or none. -/
def noRoom (share : Nat) (o : Option Nat) (s : State) : State :=
  { s with parcels := mset s.parcels 0 { parcelOf s 0 with
      quotas := { noQuotas with pools := [(homeKey 3 0, share)] },
      overflow := o.map fun a =>
        { cfg := { base := BitVec.ofNat 64 a, entries := 1, handle := 0 }, head := 0, tail := 0 } } }

/-- What a suspension meets: a reached threshold, room in the pool, no room and no list, a full list, a free entry. -/
theorem witness_Suspension :
    (∃ s : State, reached (ctrOf s sysH).value 5 = true) ∧
    (∃ s : State, reached (ctrOf s sysH).value 6 = false ∧
      ((homeOf s (hKey sysH)).pool.filter fun w => w.parcel == 0).length <
        min (poolShare s (hKey sysH) 0) (poolSize (hScope sysH)) ∧
      (homeOf s (hKey sysH)).pool.length < poolSize (hScope sysH)) ∧
    (∃ s : State, reached (ctrOf s sysH).value 6 = false ∧ poolShare s (hKey sysH) 0 = 0 ∧
      (parcelOf s 0).overflow = none) ∧
    (∀ a ∈ [0x2000, 0x2040], ∃ s o, reached (ctrOf s sysH).value 6 = false ∧ poolShare s (hKey sysH) 0 = 0 ∧
      (parcelOf s 0).overflow = some o ∧ o.cfg.entries = 1 ∧
      decide (devNat s 0 (o.cfg.base + BitVec.ofNat 64 24) 8 % 2 = 0) = decide (a = 0x2040)) ∧
    (∃ u : State, checkRemote u sysH 0 .wait = none ∧ reached (ctrOf u sysH).value 5 = true ∧
      reached (ctrOf u sysH).value 6 = false) := by
  refine ⟨⟨ctrSt (ctr 5 0 0 true) 0 0, by decide⟩, ⟨noRoom 1 none (ctrSt (ctr 5 0 0 true) 0 0), by decide⟩,
    ⟨noRoom 0 none (ctrSt (ctr 5 0 0 true) 0 0), by decide⟩, fun a ha => ?_,
    ⟨ctrSt (ctr 5 0 0 true) 0 0, by decide⟩⟩
  rcases mem_two ha with rfl | rfl
  · exact ⟨noRoom 0 (some 0x2000) (withCtr (ctr 5 0 0 true) (memSt [(0x2018, 8, 1)] id)), _, by decide, by decide, rfl, rfl,
      by decide⟩
  · exact ⟨noRoom 0 (some 0x2040) (withCtr (ctr 5 0 0 true) (memSt [(0x2018, 8, 1)] id)), _, by decide, by decide, rfl, rfl,
      by decide⟩

theorem witness_CommitAndSuspend :
    (∃ i h f s, commitOps i = some (h, f) ∧ Clear s false h ∧ Guarded s false h ∧
      let k := begunCore s false h
      k.a.at_ = none ∧ k.a.spin = none ∧ k.x.at_ = none) ∧
    (∀ n ∈ [0, 1], ∃ i h f s r tx, commitOps i = some (h, f) ∧ Clear s false h ∧ Guarded s false h ∧
      let k := begunCore s false h
      k.a.at_ = none ∧ k.a.spin = none ∧ k.run = some r ∧ k.x.at_ = some tx ∧ k.eng.matq = [] ∧
        drained k = decide (n = 0)) ∧
    (∃ s h, Clear s true h ∧ Guarded s true h ∧
      let k := begunCore s true h
      k.vec.vq = [] ∧ k.x.at_ = none ∧ k.a.at_ = none) ∧
    (∃ s h r kind ta, Clear s true h ∧ Guarded s true h ∧
      let k := begunCore s true h
      k.vec.vq = [] ∧ k.x.at_ = none ∧ k.run = some r ∧ k.a.at_ = some (kind, ta) ∧ k.a.spin = none ∧
        k.a.str.hold = none ∧ k.eng.matq = [] ∧ drained k = true) ∧
    (∃ s h, Clear s false h ∧ Guarded s false h ∧ debugOn (begun s false h) s.me = false) ∧
    (∃ s h r tx, Clear s false h ∧ Guarded s false h ∧ debugOn (begun s false h) s.me = true ∧
      let k := begunCore s false h
      k.run = some r ∧ k.a.at_ = none ∧ k.a.spin = none ∧ k.x.at_ = some tx ∧ k.eng.matq = [] ∧ drained k = true) ∧
    (∃ b c r L, (coreOf b c).run = some r ∧ r.logsz = 0#4 ∧ launchOf b r.own.launch = some L ∧
      (coreOf b c).a.str.loops = [] ∧ (coreOf b c).x.str.loops = []) ∧
    (∀ v ∈ [(5 : Word), 0x10000], ∃ s h, Clear s false h ∧ Guarded s false h ∧
      aGet (begunCore s false h) 2 = v ∧ (v.toNat < 64 ∨ (hLow v = 0 ∧ homeExists v = true ∧ hScope v = 0))) ∧
    (∃ s h, Clear s false h ∧ Guarded s false h ∧
      let hd := aGet (begunCore s false h) 2
      64 ≤ hd.toNat ∧ hScope hd ≠ 0 ∧ checkRemote (begun s false h) hd (runParcel (begunCore s false h)) .wait = none ∧
      handlePolicy (begun s false h) s.me hd 1 = .trap) ∧
    (∀ p ∈ [(none, none, 0), (some (CommitKind.cwaitS sysH 5 false, false), some 1, 0),
        (some (CommitKind.cwaitS sysH 5 false, false), some 1, 1)],
      ∃ s h r tx, Clear s false h ∧ Guarded s false h ∧
        let b := begun s false h
        let k := begunCore s false h
        let hd := aGet k 2
        64 ≤ hd.toNat ∧ hScope hd ≠ 0 ∧ checkRemote b hd (runParcel k) .wait = none ∧
        handlePolicy b s.me hd 0 ≠ .trap ∧ k.run = some r ∧ r.own.parcel = runParcel k ∧ k.x.at_ = some tx ∧
        k.a.at_ = p.1 ∧ k.a.spin = p.2.1 ∧ s.cycle = p.2.2 ∧ reached (ctrOf b hd).value 5 = true ∧
        k.eng.matq = [] ∧ drained k = true) := by
  let dbg : State := { sa (atPoint none (some false) none) with sched := { State.reset.sched with launches :=
    [(0, { theLaunch .system with desc := { (theLaunch .system).desc with flags := 16 } })] } }
  exact ⟨⟨.suspS h0, h0, _, sa id, rfl, (ready_a id).1, (ready_a id).2, rfl, rfl, rfl⟩,
    fun n hn => ⟨.commitS h0, h0, _, sa fun k => toks (if n = 0 then 0 else 1) 0 (atPoint none (some false) none k),
      placeRun, false, rfl, (ready_a _).1, (ready_a _).2, rfl, rfl, rfl, rfl, rfl, by
        rcases mem_two hn with rfl | rfl <;> rfl⟩,
    ⟨sx id, h0, (ready_x id).1, (ready_x id).2, rfl, rfl, rfl⟩,
    ⟨sx (atPoint (some (.susp, false)) none none), h0, placeRun, .susp, false, (ready_x _).1, (ready_x _).2, rfl, rfl,
      rfl, rfl, rfl, rfl, rfl, rfl⟩,
    ⟨sa id, h0, (ready_a id).1, (ready_a id).2, rfl⟩,
    ⟨dbg, h0, placeRun, false, clear_s _ _, guard0 .., rfl, rfl, rfl, rfl, rfl,
      rfl, rfl⟩,
    ⟨under .system (sa id), 0, placeRun, theLaunch .system, rfl, rfl, rfl, rfl, rfl⟩,
    fun v hv => ⟨sa fun k => aSet k 2 v, h0, (ready_a _).1, (ready_a _).2, rfl, by
      rcases mem_two hv with rfl | rfl <;> decide⟩,
    ⟨under .trap (ctrSt (ctr 5 0 0 true) sysH 5), h0, clear_s _ _, guard0 .., by decide, by decide, rfl, rfl⟩,
    fun p hp => by rcases mem_three hp with rfl | rfl | rfl <;> exact ⟨waitSt _ _ _, h0, placeRun, false, ⟨⟨placeRun, rfl, rfl⟩, rfl, rfl, fun w => nomatch w⟩,
      guard0 .., by decide, by decide, rfl, by decide, rfl, rfl, rfl, rfl, rfl, rfl, by decide, rfl, rfl⟩⟩

/-- A gang whose leader comes to a commit point when the other stream is there, with a handle that a wait accepts. -/
theorem witness_CommitAndSuspend_gang : ∀ w ∈ [false, true], ∃ i h, ∃ f : Core → CommitKind,
    (if w then ∃ a c o, i = .cwaitS h a c o ∧ f = fun k => CommitKind.cwaitS (aGet k a) (aGet k c) (o != 0#2)
      else commitOps i = some (h, f)) ∧
    ∃ s r tx, (coreOf s s.me).run = some r ∧ r.logsz ≠ 0#4 ∧ r.member = 0#4 ∧ h.w = false ∧
      (∀ m, m = s.me ∨ m ∈ gangOf s s.me → (coreOf s m).a.str.pendT = none ∧ (coreOf s m).a.str.hold = none) ∧
      cGet (coreOf s s.me) h.g = true ∧ (coreOf s s.me).x.at_ = some tx ∧ (coreOf s s.me).a.at_ = none ∧
      (coreOf s s.me).a.spin = none ∧ (coreOf s s.me).eng.matq = [] ∧ f (coreOf s s.me) ≠ .commit ∧
      ∀ hd v acq, f (coreOf s s.me) = .cwaitS hd v acq →
        64 ≤ hd.toNat ∧ hScope hd ≠ 0 ∧ checkRemote s hd r.own.parcel .wait = none := by
  let g : State := withCtr (ctr 5 0 0 true) (gang 0 fun k => atPoint none (some false) none (aSet k 2 sysH))
  have arrived : ∀ m, m = g.me ∨ m ∈ gangOf g g.me → (coreOf g m).a.str.pendT = none ∧ (coreOf g m).a.str.hold = none := by
    intro m h
    have h : m = 0 ∨ m ∈ [0, 1] := h
    rcases h with rfl | h
    · exact ⟨rfl, rfl⟩
    · rcases mem_two h with rfl | rfl <;> exact ⟨rfl, rfl⟩
  intro w hw
  rcases mem_two hw with rfl | rfl
  · exact ⟨.suspS h0, h0, _, rfl, g, gangRun 0, false, rfl, by decide, rfl, rfl, arrived, rfl, rfl, rfl, rfl, rfl,
      by decide, fun _ _ _ h => nomatch h⟩
  · refine ⟨.cwaitS h0 2 3 0, h0, _, ⟨2, 3, 0, rfl, rfl⟩, g, gangRun 0, false, rfl, by decide, rfl, rfl, arrived, rfl, rfl,
      rfl, rfl, rfl, by decide, fun hd v acq h => ?_⟩
    injection h with h
    subst h
    exact ⟨by decide, by decide, by decide⟩

/-- A `cwait.s`: on a handle of another core, on one of a free entry, before the other stream has arrived, with a token
left, and within its spin before its threshold. -/
theorem witness_CommitAndSuspend_wait :
    (∃ s h, Clear s false h ∧ Guarded s false h ∧
      let hd := aGet (begunCore s false h) 2
      64 ≤ hd.toNat ∧ hLow hd = 0 ∧ homeExists hd = true ∧ hScope hd = 0 ∧ hHome hd ≠ s.me) ∧
    (∃ s h f, Clear s false h ∧ Guarded s false h ∧
      let hd := aGet (begunCore s false h) 2
      64 ≤ hd.toNat ∧ hScope hd ≠ 0 ∧ checkRemote (begun s false h) hd (runParcel (begunCore s false h)) .wait = some f) ∧
    (∃ s h, Clear s false h ∧ Guarded s false h ∧
      let k := begunCore s false h
      64 ≤ (aGet k 2).toNat ∧ hScope (aGet k 2) ≠ 0 ∧ checkRemote (begun s false h) (aGet k 2) (runParcel k) .wait = none ∧
      k.a.at_ = none ∧ k.x.at_ = none) ∧
    (∃ s h r tx, Clear s false h ∧ Guarded s false h ∧
      let k := begunCore s false h
      64 ≤ (aGet k 2).toNat ∧ hScope (aGet k 2) ≠ 0 ∧ checkRemote (begun s false h) (aGet k 2) (runParcel k) .wait = none ∧
      k.run = some r ∧ k.x.at_ = some tx ∧ k.a.at_ = none ∧ k.a.spin = none ∧ k.eng.matq = [] ∧ drained k = false) ∧
    (∀ p ∈ [((5 : Word), 0), (6, 0), (5, 1)], ∃ s h r tx acq ta u, Clear s false h ∧ Guarded s false h ∧
      let b := begun s false h
      let k := begunCore s false h
      64 ≤ (aGet k 2).toNat ∧ hScope (aGet k 2) ≠ 0 ∧ checkRemote b (aGet k 2) (runParcel k) .wait = none ∧
      k.run = some r ∧ k.x.at_ = some tx ∧ k.a.at_ = some (.cwaitS (aGet k 2) p.1 acq, ta) ∧ k.a.spin = some 1 ∧
      s.cycle = p.2 ∧ reached (ctrOf b (aGet k 2)).value p.1 = decide (p.1 = 5) ∧
      refAsk b s.me r.own.parcel (.home (aGet k 2)) = .ok u) ∧
    (∀ f ∈ [none, some MeshFail.request], ∃ s : State, checkRemote s sysH 0 .wait = none ∧ s.mesh.fail = f) ∧
    (∀ pol, ∃ s : State, handlePolicy s 0 sysH 2 = pol) := by
  let p : State := withCtr (ctr 5 0 0 true) (sa fun k => toks 1 0 (atPoint none (some false) none (aSet k 2 sysH)))
  exact ⟨⟨sa fun k => aSet k 2 0x100010000, h0, (ready_a _).1, (ready_a _).2, by decide, by decide, by decide, by decide,
      by decide⟩,
    ⟨ctrSt (ctr 5 1 0 true) sysH 5, h0, .stale, (ready_c ..).1, (ready_c ..).2, by decide, by decide, rfl⟩,
    ⟨ctrSt (ctr 5 0 0 true) sysH 5, h0, (ready_c ..).1, (ready_c ..).2, by decide, by decide, rfl, rfl, rfl⟩,
    ⟨p, h0, placeRun, false, clear_s _ _, guard0 .., by decide, by decide, by decide, rfl, rfl, rfl, rfl, rfl, rfl⟩,
    fun q hq => by
      rcases mem_three hq with rfl | rfl | rfl <;>
        exact ⟨waitSt (some 1) _ (some (.cwaitS sysH _ false, false)), h0, placeRun, false, false, false, _,
          ⟨⟨placeRun, rfl, rfl⟩, rfl, rfl, fun w => nomatch w⟩, guard0 .., by decide, by decide, rfl, rfl, rfl, rfl, rfl, rfl,
          by decide, rfl⟩,
    fun f _ => ⟨{ ctrSt (ctr 5 0 0 true) 0 0 with mesh := { State.reset.mesh with fail := f } }, rfl, rfl⟩,
    fun pol => ⟨under pol (ctrSt (ctr 5 0 0 true) sysH 5), by cases pol <;> decide⟩⟩

/-! ### The vector and matrix units -/

/-- A signalling not-a-number in the first element of `v1`. -/
def vnan (k : Core) : Core := vSet k 1 0x7FA00000#16384

/-- An FP32 shape with the vector queue one short of full; an invalid operation with its trap enabled, on a shape of one
element; a shape that an FP32 instruction does not accept. -/
theorem witness_VectorResults :
    (∃ i v s, vectorOps i = some v ∧ Clear s true v.hdr ∧
      let k := begunCore s true v.hdr
      v.ok k (shapeOf k) = true ∧ k.vec.nve = false ∧ k.vec.vq.length = 7) ∧
    (∃ i v s, vectorOps i = some v ∧ Clear s true v.hdr ∧
      let k := begunCore s true v.hdr
      let sh := shapeOf k
      v.ok k sh = true ∧ k.vec.nve = true ∧ flagsOver (v.n k sh) (v.on k sh) (v.val s.me k sh) &&& fNV ≠ 0) ∧
    (∃ i v s, vectorOps i = some v ∧ Clear s true v.hdr ∧
      v.ok (begunCore s true v.hdr) (shapeOf (begunCore s true v.hdr)) = false) :=
  ⟨⟨.vfadd h0 1 2 3 0, _, sx (vecCore 0x0100F01F false 7), rfl, (ready_x _).1, by decide, rfl, rfl⟩,
   ⟨.vfadd h0 1 1 1 0, _, sx fun k => vecCore 0x01000000 true 0 (vnan k), rfl, (ready_x _).1, by decide, rfl,
     by decide +kernel⟩,
   ⟨.vfadd h0 1 2 3 0, _, sx (vecCore 0x04000000 false 0), rfl, (ready_x _).1, by decide⟩⟩

/-- A matrix command that clears accumulator 1. -/
def clr : MatCmd :=
  { op := .mclr, acc := 1, ta := 0, tb := 0, sa := 0, sb := 0, vcnt := 0, base := 0, own := placedOwner, seq := 0 }
/-- One that stores a row of it. -/
def store : MatCmd := { clr with op := .mst 0, ta := 1#4 ++ 0#124, vcnt := 1 }
/-- Tiles that are no operands; an accumulator read into an FP32 region of one element row, with the queue one short
of full; a command at the head of the queue. -/
theorem witness_MatrixCommands :
    (∃ i h op acc x y s, matrixOps i = some (h, op, acc, x, y) ∧ Clear s true h ∧ Guarded s true h ∧
      let k := begunCore s true h
      matOk op (tGet k x) (tGet k y) (tGet k (x + 1)) (tGet k (y + 1)) = false) ∧
    (∃ i h op acc x y s rs ws, matrixOps i = some (h, op, acc, x, y) ∧ Clear s true h ∧ Guarded s true h ∧
      let k := begunCore s true h
      matOk op (tGet k x) (tGet k y) (tGet k (x + 1)) (tGet k (y + 1)) = true ∧
      checkRegions (begun s true h) s.me .read
        (matReads op (tGet k x) (tGet k y) (tGet k (x + 1)) (tGet k (y + 1))) = .ok rs ∧
      checkRegions (begun s true h) s.me .write (matWrites op (tGet k x)) = .ok ws ∧ k.eng.matq.length = 15) ∧
    (∃ s c q, (coreOf s 0).eng.matq = c :: q ∧ cmdBlocked (coreOf s 0) c.seq = false ∧
      matOk c.op c.ta c.tb c.sa c.sb = true ∧ ∀ a, Map.sorted (bget (coreOf s 0).accs a) = true) ∧
    (∃ s c q, (coreOf s 0).eng.matq = c :: q ∧ c.op = .mst 0 ∧ cmdBlocked (coreOf s 0) c.seq = false ∧
      matOk c.op c.ta c.tb c.sa c.sb = true ∧ (coreOf s 0).scratch.wf = true ∧ 0 < portRows c ∧ 0 < portCols c ∧
      ∀ i', 0 < i' → i' < portRows c → False) ∧
    (∃ k c, granulePoisoned k c (rowAddr c.ta 0) = true ∧
      (∃ o ∈ blockGrans c true 1 1 0 0 0, granulePoisoned k c o = true) ∧
      ∃ x ∈ [0], ∃ o ∈ planeGrans c.ta 1 0 x, granulePoisoned k c o = true) :=
  ⟨⟨.mmul h0 0 0 1 0 0, h0, _, _, _, _, sx id, rfl, (ready_x id).1, (ready_x id).2, by decide⟩,
   ⟨.mstF32 h0 0 0, h0, _, _, _, _,
     sx fun k => { tSet k 0 (1#4 ++ 0#124) with eng := { k.eng with matq := List.replicate 15 clr } }, _, _, rfl,
     (ready_x _).1, (ready_x _).2, by decide, rfl, rfl, by decide⟩,
   ⟨sx fun k => { k with eng := { k.eng with matq := [clr] } }, _, _, rfl, rfl, rfl, by decide⟩,
   ⟨sx fun k => { k with eng := { k.eng with matq := [store] } }, store, [], rfl, rfl, rfl, rfl, rfl, by decide, by decide,
     fun i h h' => by have e : portRows store = 1 := rfl; omega⟩,
   ⟨{ core0 with poison := [0] }, clr, by decide, by decide, by decide⟩⟩

/-- Vector queues with room, entries to pop, and completions with and without a token to post. -/
theorem witness_PredicateAndMaskResults :
    (∃ i xs h p v s, predicateOps i = some (xs, h, p, v) ∧ Clear s xs h ∧ Guarded s xs h) ∧
    (∃ i h d ok f s, compareOps i = some (h, d, ok, f) ∧ Clear s true h ∧
      ok (shapeOf (begunCore s true h)) = true ∧ (begunCore s true h).vec.nve = false ∧
      (begunCore s true h).vec.vq.length = 7) ∧
    (∃ i h f s, maskOps i = some (h, f) ∧ Clear s true h ∧ Guarded s true h ∧
      (begunCore s true h).vec.vq.length = 7) ∧
    (∃ s h, Clear s true h ∧ (shapeOf (begunCore s true h)).kind ≤ 8 ∧ (begunCore s true h).vec.vq.length = 7) ∧
    (∃ s h e, Clear s true h ∧ Guarded s true h ∧ (begunCore s true h).vec.vq.length = 7 ∧
      vlqHead (begunCore s true h) = some e ∧ (begunCore s true h).sh.vsq.length = 3) ∧
    (∀ tok ∈ [false, true], ∃ s v q, (coreOf s 0).vec.vq = v :: q ∧ v.tok = tok ∧ (coreOf s 0).sh.tokA = 14#4) := by
  let e : VEnt := { data := 5, eos := false, filled := true, tok := false }
  exact ⟨⟨.pset h0 1 2 3 4, true, h0, 1, _, sx id, rfl, (ready_x id).1, (ready_x id).2⟩,
    ⟨.vfcmp h0 1 2 3 0 2, h0, 1, _, _, sx (vecCore 0x0100F01F false 7), rfl, (ready_x _).1, by decide, rfl, rfl⟩,
    ⟨.mand h0 1 2 3, h0, _, sx (vecCore 0x0100F01F false 7), rfl, (ready_x _).1, (ready_x _).2, rfl⟩,
    ⟨sx (vecCore 0x0100F01F false 7), h0, (ready_x _).1, by decide, rfl⟩,
    ⟨sx fun k => vecCore 0x0100F01F false 7 { k with sh := { k.sh with vlq := [e], vsq := [e, e, e] } }, h0, e,
      (ready_x _).1, (ready_x _).2, rfl, rfl, rfl⟩,
    fun tok _ => ⟨sx fun k => { toks 14 0 k with vec := { k.vec with vq := [{ tok := tok }] } }, _, _, rfl, rfl, rfl⟩⟩

/-! ### The sampler on a core -/

/-- A state in which `sreg` reads a descriptor of `voc` tokens and a slice record for slice `sl`. -/
def regSt (voc sl : Nat) (slots : Map Slot) : State :=
  let s := memSt [(0x2008, 4, voc), (0x200C, 4, 16), (0x2040, 8, 0x20), (0x2048, 8, 0xC000000000000000)] fun k =>
    { sSet k 2 0x2000 with scratch := memSetList [] 0 (leBytes 4 sl), eng := { k.eng with slots := slots } }
  let s := under .system (withCtr (ctr 0 0 0 true) s)
  { s with turn := .exe 0, phys := { s.phys with vaultOwner := [(0, 0)] }, sched := { s.sched with launches :=
    [(0, { theLaunch .system with desc := { (theLaunch .system).desc with logitcnt := 1 } })] } }
/-- The slot that `placeBase` uses, bound to a descriptor. -/
def boundTo (va : Word) : Slot := { placeSlot with addr := va }
/-- What was read meets a condition. -/
def spanMeets (P : State → List Byte → Bool) : SpanRes → Bool
  | .ok b bs => P b bs
  | _ => false
theorem span_meets (P : State → List Byte → Bool) (r : SpanRes) (h : spanMeets P r = true) :
    ∃ b bs, r = .ok b bs ∧ P b bs = true := by
  cases r with
  | ok b bs => exact ⟨b, bs, rfl, h⟩
  | _ => cases h
/-- The premises of `sreg` on the records it has read, and the case it is in: a bad descriptor, a bad slice, a slot bound
before, no slot free, a free slot. -/
def sregCase (k : Core) (n : Nat) (b : State) (ds : List Byte) : Bool :=
  match localLoad k 0 32 with
  | .ok rs =>
    (isLocalShort (smpDesc ds).resctr || hScope (smpDesc ds).resctr == 0 ||
      checkRemote b (smpDesc ds).resctr 0 .add == none) &&
      (launchOf b (runOwner k).launch).any fun L =>
        let ok := (smpDesc ds).ok L.desc.logitcnt ds
        let sl := sliceOk b k (smpDesc ds) rs
        match n with
        | 0 => !ok
        | 1 => ok && !sl
        | 2 => ok && sl && (sameSlot k 0x2000 0).isSome
        | 3 => ok && sl && (sameSlot k 0x2000 0).isNone && (freeSlot k).isNone
        | _ => ok && sl && (sameSlot k 0x2000 0).isNone && freeSlot k == some 0
  | _ => false
/-- The state of each case. -/
def sregSt : Nat → State
  | 0 => regSt 0 0 []
  | 1 => regSt 16 1 []
  | 2 => regSt 16 0 [(3, boundTo 0x2000)]
  | 3 => regSt 16 0 ((List.range 16).map fun i => (i, boundTo 0x4000))
  | _ => regSt 16 0 []
theorem witness_SamplerCommands_sreg : ∀ n ∈ List.range 5, ∃ s h, s = sregSt n ∧ Clear s true h ∧ Guarded s true h ∧
    (sGet (begunCore s true h) 2).toNat % 64 = 0 ∧ (sGet (begunCore s true h) 0).toNat % 16 = 0 ∧
    inWindow (begunCore s true h) 0 32 = true ∧
    ∃ b ds, readUnits (begun s true h) (.core s.me) 0 (sGet (begunCore s true h) 2) 16 = .ok b ds ∧
      sregCase (begunCore s true h) n b ds = true := by
  intro n hn
  refine ⟨sregSt n, h0, rfl, ?_, guard0 .., ?_⟩
  · have : n = 0 ∨ n = 1 ∨ n = 2 ∨ n = 3 ∨ n = 4 := by simp at hn; omega
    rcases this with rfl | rfl | rfl | rfl | rfl <;> exact ⟨⟨placeRun, rfl, rfl⟩, rfl, rfl, fun w => nomatch w⟩
  · have : n = 0 ∨ n = 1 ∨ n = 2 ∨ n = 3 ∨ n = 4 := by simp at hn; omega
    rcases this with rfl | rfl | rfl | rfl | rfl <;>
      exact ⟨by decide, by decide, by decide, span_meets _ _ (by decide +kernel)⟩

/-- A slot with two drafts, and a core with it and the given sampler queue and runs. -/
def drafty : Slot :=
  { boundTo 0x2000 with desc := { (boundTo 0x2000).desc with vocab := 16, slen := 16 }, w0 := 256, ws := 512,
                        drafts := [{ tok := 1, q := 0, qoff := 0, qvalid := false }] }
/-- A run of that slot. -/
def aRun (slot seq : Nat) (st : RunPhase) : Run := { placeSmpRun with slot := slot, bind := drafty, seq := seq, st := st, phase := 2 }
/-- A core with them. -/
def smpCore (q : List SmpCmd) (rs : List Run) (k : Core) : Core :=
  { k with eng := { k.eng with slots := [(0, drafty)], smpq := q, runs := rs } }
/-- A draft record whose words R234 refuses. -/
def draftsBad (_ : State) (bs : List Byte) : Bool :=
  recNat bs 0 4 == 0 || decide (8 < recNat bs 0 4) || recNat bs 4 4 != 0 ||
    (List.range 8).any fun j => decide (2 ≤ recNat bs (0x14 + 16 * j) 4)
/-- The draft record's premises: 8 drafts at most, each with a q slice in the window. -/
def draftsOk (_ : State) (bs : List Byte) : Bool :=
  recNat bs 0 4 == 8 && recNat bs 4 4 == 0 && (List.range 8).all fun j =>
    (recNat bs (0x14 + 16 * j) 4 == 0 || recNat bs (0x14 + 16 * j) 4 == 1) &&
      decide (recNat bs (0x10 + 16 * j) 4 + 4 * drafty.desc.sliceLen drafty.slice ≤ 4096)

/-- A state with a draft record of 8 drafts, a word of it changed. -/
def dst (at_ n v : Nat) : State :=
  { memSt [(0x2000, 4, 8), (at_, n, v)] fun k => smpCore [] [] (sSet k 3 0x2000) with turn := .exe 0 }
theorem witness_SamplerCommands :
    (∃ s h, Clear s true h ∧ Guarded s true h ∧ (sGet (begunCore s true h) 2).toNat % 64 ≠ 0) ∧
    (∃ s h, Clear s true h ∧ Guarded s true h ∧ slotOf (begunCore s true h) (sGet (begunCore s true h) 2) = none) ∧
    (∃ s h, Clear s true h ∧ Guarded s true h ∧ slotOf (begunCore s true h) (sGet (begunCore s true h) 2) = some drafty ∧
      (sGet (begunCore s true h) 3).toNat % 8 = 0 ∧
      ∃ b bs, readUnits (begun s true h) (.core s.me) 0 (sGet (begunCore s true h) 3) 17 = .ok b bs ∧
        draftsOk b bs = true) ∧
    (∀ v ∈ [(0x2000, 4, 0), (0x2000, 4, 9), (0x2084, 4, 2)], ∃ s h, Clear s true h ∧ Guarded s true h ∧
      slotOf (begunCore s true h) (sGet (begunCore s true h) 2) = some drafty ∧
      (sGet (begunCore s true h) 3).toNat % 8 = 0 ∧ s = dst v.1 v.2.1 v.2.2 ∧
      ∃ b bs, readUnits (begun s true h) (.core s.me) 0 (sGet (begunCore s true h) 3) 17 = .ok b bs ∧
        draftsBad b bs = true) ∧
    (∃ s h x, Clear s true h ∧ Guarded s true h ∧ slotOf (begunCore s true h) (sGet (begunCore s true h) 2) = some x ∧
      (sGet (begunCore s true h) 3).toNat = (2 ^ 32 - 1) + 2 ^ 32 * 1 ∧ 1 = x.drafts.length ∧
      (begunCore s true h).eng.smpq.length = 7) ∧
    (∃ s x, (coreOf s 0).eng.smpq = [.run 0 x 0 0 placedOwner 9] ∧ (coreOf s 0).eng.runs.length = 4) ∧
    (∃ s x r, (coreOf s 0).eng.smpq = [.run 0 x 0 0 placedOwner 9] ∧ r ∈ (coreOf s 0).eng.runs ∧ r.slot = 0) ∧
    (∃ s x, (coreOf s 0).eng.smpq = [.run 0 x 0 0 placedOwner 9] ∧ (coreOf s 0).eng.runs.length = 3 ∧
      (∀ r ∈ (coreOf s 0).eng.runs, r.slot ≠ 0) ∧ cmdBlocked (coreOf s 0) 9 = false) ∧
    (∃ s x, (coreOf s 0).eng.smpq = [.commit 0 x 5 true placedOwner] ∧
      ∀ r ∈ (coreOf s 0).eng.runs, r.slot ≠ 0) ∧
    (∃ s, ∃ r : Run, ∃ b bs, r.bind.desc.paramaddr ≠ 0 ∧
      readUnits s (.core 0) r.own.parcel r.bind.desc.paramaddr 8 = .ok b bs) ∧
    (∀ tok ∈ [15, 16], ∃ s : State, decide (tok < drafty.slice * drafty.desc.slen + drafty.desc.sliceLen drafty.slice) =
      decide (tok = 15) ∧ drafty.desc.tag ∉ s.commit.revoked) := by
  let run9 : SmpCmd := .run 0 drafty 0 0 placedOwner 9
  exact ⟨⟨sx fun k => sSet k 2 0x2020, h0, (ready_x _).1, (ready_x _).2, by decide⟩,
    ⟨sx fun k => sSet k 2 16, h0, (ready_x _).1, (ready_x _).2, rfl⟩,
    ⟨dst 0x2000 4 8, h0, ⟨⟨placeRun, rfl, rfl⟩, rfl, rfl, fun w => nomatch w⟩, guard0 .., rfl, by decide,
      span_meets draftsOk _ (by decide +kernel)⟩,
    fun v hv => by
      rcases mem_three hv with rfl | rfl | rfl
      · exact ⟨dst 0x2000 4 0, h0, ⟨⟨placeRun, rfl, rfl⟩, rfl, rfl, fun w => nomatch w⟩, guard0 .., rfl, by decide, rfl,
          span_meets draftsBad _ (by decide +kernel)⟩
      · exact ⟨dst 0x2000 4 9, h0, ⟨⟨placeRun, rfl, rfl⟩, rfl, rfl, fun w => nomatch w⟩, guard0 .., rfl, by decide, rfl,
          span_meets draftsBad _ (by decide +kernel)⟩
      · exact ⟨dst 0x2084 4 2, h0, ⟨⟨placeRun, rfl, rfl⟩, rfl, rfl, fun w => nomatch w⟩, guard0 .., rfl, by decide, rfl,
          span_meets draftsBad _ (by decide +kernel)⟩,
    ⟨sx fun k => smpCore (List.replicate 7 run9) [] (sSet k 3 0x1FFFFFFFF), h0, drafty, (ready_x _).1, (ready_x _).2, rfl,
      by decide, rfl, by decide⟩,
    ⟨sa (smpCore [run9] (List.replicate 4 (aRun 1 1 .running))), drafty, rfl, rfl⟩,
    ⟨sa (smpCore [run9] [aRun 0 1 .running]), drafty, aRun 0 1 .running, rfl, List.mem_singleton.mpr rfl, rfl⟩,
    ⟨sa (smpCore [run9] (List.replicate 3 (aRun 1 1 .running))), drafty, rfl, rfl, by decide, by decide⟩,
    ⟨sa (smpCore [.commit 0 drafty 5 true placedOwner] [aRun 1 1 .running]), drafty, rfl, by decide⟩,
    (by
      obtain ⟨b, bs, e, _⟩ := span_meets (fun _ _ => true) (readUnits (mapped (sa id)) (.core 0) 0 0x2000 8) (by decide +kernel)
      exact ⟨mapped (sa id), { placeSmpRun with bind := { placeSlot with
        desc := { placeSlot.desc with paramaddr := 0x2000 } } }, b, bs, by decide, e⟩),
    fun tok ht => ⟨State.reset, by rcases mem_two ht with rfl | rfl <;> decide, List.not_mem_nil⟩⟩

/-- A slice that joins no set of a descriptor. -/
theorem witness_SamplerCommands_set : ∃ s : State,
    nextSet (s.tree.drafts.filter fun x => x.isOf 0 0x2000) 0 = none := ⟨State.reset, rfl⟩

/-- A core 0 with one run in progress, in a phase, with a charge, at the fetched word. -/
def runSt (phase charged : Nat) (words : List (Nat × Nat × Nat)) : State :=
  { memSt words (smpCore [] [{ aRun 0 1 .running with phase := phase, charged := charged }]) with turn := .smp 0 }
/-- A word of an undefined operation, and one of operation 10 (cost 4). -/
abbrev undefinedWord : Nat := 0xF8000000

/-- Whether a table was walked, and a word fetched. -/
def tableOk : TableRes → Bool
  | .ok _ _ => true
  | _ => false
theorem table_ok (r : TableRes) (h : tableOk r = true) : ∃ b ys, r = .ok b ys := by
  cases r with
  | ok b ys => exact ⟨b, ys, rfl⟩
  | _ => cases h
/-- The fetched word meets a condition. -/
def fetchMeets (P : BitVec 32 → Bool) : UtFetch → Bool
  | .word _ w => P w
  | _ => false
theorem fetch_meets (P : BitVec 32 → Bool) (r : UtFetch) (h : fetchMeets P r = true) : ∃ b w, r = .word b w ∧ P w = true := by
  cases r with
  | word b w => exact ⟨b, w, rfl, h⟩
  | _ => cases h

/-- A charge that reaches the budget exactly and one that passes it; both phases; operands read and poisoned. -/
theorem witness_UtgenResults :
    (∃ s r, curRun s s.me = some r ∧ r.charged + 1 = r.budget) ∧
    (∃ s r, curRun s s.me = some r ∧ r.charged + 1 ≤ r.budget ∧ ∃ b bs, readG s (.core s.me) r.own.parcel
      (r.bind.logitAddr + BitVec.ofNat 64 (1024 + 4 * 15)) 4 .read = .ok b bs ∧ (fun _ _ => true) b bs = true) ∧
    (∀ p ∈ [1, 2], ∃ s r xs, curRun s s.me = some r ∧ r.phase = p ∧ r.charged + 4 * r.c ≤ r.budget ∧
      wGet (coreOf s s.me) r 0 = some xs ∧ qList (coreOf s s.me) r = some []) ∧
    (∃ s r, curRun s s.me = some r ∧ r.charged + 4 * r.c ≤ r.budget ∧ wGet (coreOf s s.me) r 0 = none) ∧
    (∃ i cost d a f s r xs, utgenSlices i = some (cost, d, a, f) ∧ curRun s s.me = some r ∧
      r.charged + cost r ≤ r.budget ∧ d ≠ 0 ∧ wGet (coreOf s s.me) r a = some xs ∧ f s r xs = none) ∧
    (∃ i cost d a f s r xs, utgenTables i = some (cost, d, a, f) ∧ curRun s s.me = some r ∧
      r.charged + cost r ≤ r.budget ∧ d ≠ 0 ∧ wGet (coreOf s s.me) r a = some xs ∧
      ∃ b ys, f s r xs = .ok b ys) ∧
    (∃ i cost d a f s r, utgenSlices i = some (cost, d, a, f) ∧ curRun s s.me = some r ∧
      r.budget < r.charged + cost r) ∧
    (∃ s q, (coreOf s 0).eng.runs[0]? = some q ∧ q.st = .running ∧ q.free s = true ∧
      ∃ b w, utFetch s 0 q = .word b w ∧ (!utLegal w) = true) ∧
    (∃ s q, (coreOf s 0).eng.runs[0]? = some q ∧ q.st = .running ∧ q.free s = true ∧
      ∃ b w, utFetch s 0 q = .word b w ∧ (utLegal w && decide (q.budget < q.charged + utCost q w)) = true) := by
  let poisoned : State := { memSt [] fun k => { smpCore [] [aRun 0 1 .running] k with poison := [16] } with turn := .smp 0 }
  refine ⟨⟨runSt 2 65535 [], _, rfl, by decide⟩,
    ⟨runSt 2 0 [], _, rfl, by decide, read_meets _ _ (by decide +kernel)⟩,
    fun p hp => by
      rcases mem_two hp with rfl | rfl
      · exact ⟨runSt 1 65532 [], _, _, rfl, rfl, by decide, rfl, rfl⟩
      · exact ⟨runSt 2 65532 [], _, _, rfl, rfl, by decide, rfl, rfl⟩,
    ⟨poisoned, _, rfl, by decide, by decide⟩,
    ⟨.ltemp 1 0 0, _, 1, 0, _, runSt 2 0 [], _, _, rfl, rfl, by decide, by decide, rfl, rfl⟩,
    ⟨.lmask 1 0, _, 1, 0, _, runSt 2 0 [], _, _, rfl, rfl, by decide, by decide, rfl, table_ok _ rfl⟩,
    ⟨.ltemp 1 0 0, _, 1, 0, _, runSt 2 65533 [], _, rfl, rfl, by decide⟩,
    ⟨runSt 2 0 [(0x2000, 4, undefinedWord)], _, rfl, rfl, rfl, fetch_meets (fun w => !utLegal w) _ (by decide +kernel)⟩,
    ⟨runSt 2 65536 [(0x2000, 4, 0x08000000)], _, rfl, rfl, rfl, fetch_meets _ _ (by decide +kernel)⟩⟩

/-! ### Application cores -/

/-- A state over the small memory whose hart 0 moves. -/
def hs (H : Hart) (vs : List (Nat × Nat × Nat)) : State :=
  { withMem vs (mapped State.reset) with harts := [(0, H)], turn := .hart 0 }
/-- A machine-mode hart of parcel 0 with values in `x1`, `x2` and `x3`. -/
def hart0 (m : Mode) (a b : Word) : Hart :=
  { Hart.init with x := bset (bset (bfill 5 0) 1 a) 2 b, mode := m, owner := 0 }

/-- What a hart read meets a condition. -/
def hartMeets (P : State → List Byte → Bool) : HRes → Bool
  | .ok b bs => P b bs
  | _ => false
theorem hart_meets (P : State → List Byte → Bool) (r : HRes) (h : hartMeets P r = true) :
    ∃ b bs, r = .ok b bs ∧ P b bs = true := by
  cases r with
  | ok b bs => exact ⟨b, bs, rfl, h⟩
  | _ => cases h
theorem dev_csrs : ∀ c ∈ [0x800#12, 0x5D0#12, 0x5D1#12, 0x5C8#12, 0x5CF#12], isDevCsr c = true ∧ c ≠ 0xDC0#12 := by
  intro c hc
  simp at hc
  rcases hc with rfl | rfl | rfl | rfl | rfl <;> exact ⟨rfl, by decide⟩

/-- Both reasons for a trap; a refused custom word; the writable device CSRs in each mode; an access no capability
covers, and a load of two bytes that is not checked. -/
theorem witness_HartTrapsAndChecks :
    (∃ i bit w a s, customOps i = some (bit, w, a) ∧ (hartOf s s.hartMe).mode = .u ∧
      (hartOf s s.hartMe).dvctl.getLsbD bit = false) ∧
    (∃ i bit w a s, customOps i = some (bit, w, a) ∧ (hartOf s s.hartMe).mode ≠ .u ∧
      (hartOf s s.hartMe).owner = Config.freeId) ∧
    (∃ w, isCustom w = true ∧ customLegal w = false) ∧
    (∀ m, ∃ s, ∀ c ∈ [0x800#12, 0x5D0#12, 0x5D1#12, 0x5C8#12, 0x5CF#12], isDevCsr c = true ∧ c ≠ 0xDC0#12 ∧
      (hartOf s 0).mode = m) ∧
    (∃ s acc a, (hartOf s 0).mode = .u ∧ capFail (hartOf s 0) acc = some a) ∧
    (∃ s acc t bs, (hartOf s 0).mode = .u ∧ (hartOf s 0).waitSince = none ∧ capFail (hartOf s 0) acc = none ∧
      performAccess s 0 acc = .ok t bs ∧ acc.elems.length ≠ 1) ∧
    (∃ s acc t bs, (hartOf s 0).mode = .u ∧ (hartOf s 0).waitSince = none ∧ capFail (hartOf s 0) acc = none ∧
      performAccess s 0 acc = .ok t bs ∧ acc.elems.length = 1 ∧ bs ≠ []) ∧
    (∃ s, (hartOf s 0).mode = .u ∧ (hartOf s 0).waitSince.isSome = true) ∧
    (∃ H : Hart, H.mode = .u ∧ H.dvctl.getLsbD 0 = true) :=
  ⟨⟨.dvFnew 1 2, 2, _, 1, hs (hart0 .u 0 0) [], rfl, rfl, by decide⟩,
   ⟨.dvCadd 0 0 0 1 2 3, 1, _, 2, hs { hart0 .s 0 0 with owner := Config.freeId } [], rfl, by decide, rfl⟩,
   ⟨0x0000705B, by decide, by decide⟩,
   fun m => ⟨hs (hart0 m 0 0) [], fun c hc => ⟨(dev_csrs c hc).1, (dev_csrs c hc).2, rfl⟩⟩,
   ⟨hs { hart0 .u 0 0 with dvctl := 1 } [], { kind := .load, elems := [0x2000], size := 1, data := [], rd := 1 }, 0x2000,
     rfl, by decide⟩,
   ⟨hs (hart0 .u 0 0) [], { kind := .fetch, elems := [], size := 4, data := [], rd := 0 }, _, _, rfl, rfl, rfl, rfl,
     by decide⟩,
   (by
     obtain ⟨b, bs, e, h⟩ := hart_meets (fun _ bs => decide (bs ≠ [])) (performAccess (hs (hart0 .u 0 0) []) 0
       { kind := .load, elems := [0x2000], size := 1, data := [], rd := 1 }) (by decide +kernel)
     exact ⟨_, _, b, bs, rfl, rfl, rfl, e, rfl, of_decide_eq_true h⟩),
   ⟨hs { hart0 .u 0 0 with waitSince := some (0, 4) } [], rfl, rfl⟩,
   ⟨{ hart0 .u 0 0 with dvctl := 1 }, rfl, by decide⟩⟩

/-- A hart whose `x1` holds the handle of an allocated counter and `x2` an amount or a threshold. -/
def hartCtr (pol : Policy) (x : Word) (wait : Option (Nat × BitVec 5)) (cyc : Nat) : State :=
  { withCtr (ctr 5 0 0 true) (hs { hart0 .m sysH x with policy := pol, waitSince := wait, dvcwto := 1, sie := true } [])
    with cycle := cyc }
theorem enabled_hs (H : Hart) (vs : List (Nat × Nat × Nat)) (bit : Nat) (m : H.mode ≠ .u) (o : H.owner = 0) :
    Enabled (hs H vs) bit := ⟨.inl m, by show H.owner ≠ 63; rw [o]; decide⟩

/-- Amounts at the bound; a threshold reached exactly and one past it; a wait at its timeout and a cycle before it. -/
theorem witness_HartInstructions_counters :
    (∀ pol, ∀ x ∈ [(0xFFFFFFFF : Word), 0x100000000], ∃ s, Enabled s 1 ∧
      hxGet (hartOf s s.hartMe) 2 = x ∧ (hartOf s s.hartMe).policy = pol ∧
      let H := hartOf s s.hartMe
      64 ≤ (hxGet H 1).toNat ∧ hScope (hxGet H 1) ≠ 0 ∧ checkRemote s (hxGet H 1) H.owner .add = none) ∧
    (∀ x ∈ [(5 : Word), 6], ∃ s, Enabled s 1 ∧ hxGet (hartOf s s.hartMe) 2 = x ∧
      let H := hartOf s s.hartMe
      H.policy = .system ∧ 64 ≤ (hxGet H 1).toNat ∧ hScope (hxGet H 1) ≠ 0 ∧
      checkRemote s (hxGet H 1) H.owner .read = none ∧ (ctrOf s (hxGet H 1)).value = 5) ∧
    (∀ c ∈ [1099, 1100], ∃ s d, (hartOf s 0).waitSince = some (0, d) ∧ (hartOf s 0).dvcwto.toNat % 2 ^ 32 = 1 ∧
      s.cycle = c ∧ (hartOf s 0).sie = true) ∧
    (∃ s d, (hartOf s 0).waitSince = some (0, d) ∧ (hartOf s 0).dvcwto.toNat % 2 ^ 32 = 0) := by
  refine ⟨fun pol x _ => ⟨hartCtr pol x none 0, ⟨.inl (show Mode.m ≠ .u by decide), show (0 : Nat) ≠ 63 by decide⟩, rfl,
      rfl, ?_, ?_, ?_⟩,
    fun x _ => ⟨hartCtr .system x none 0, ⟨.inl (show Mode.m ≠ .u by decide), show (0 : Nat) ≠ 63 by decide⟩, rfl, rfl,
      ?_, ?_, ?_, ?_⟩,
    fun c _ => ⟨hartCtr .system 0 (some (0, 4)) c, 4, rfl, rfl, rfl, rfl⟩,
    ⟨hs { hart0 .m 0 0 with waitSince := some (0, 4) } [], 4, rfl, rfl⟩⟩
  · show 64 ≤ sysH.toNat; decide
  · show hScope sysH ≠ 0; decide
  · show checkRemote (withCtr (ctr 5 0 0 true) State.reset) sysH 0 .add = none; rfl
  · show 64 ≤ sysH.toNat; decide
  · show hScope sysH ≠ 0; decide
  · show checkRemote (withCtr (ctr 5 0 0 true) State.reset) sysH 0 .read = none; rfl
  · show (ctrOf (withCtr (ctr 5 0 0 true) State.reset) sysH).value = 5; rfl

/-- A counter operation under each policy, its message sent and failed; a waiting hart to which an interrupt for machine
mode, the supervisor or a guest is due, and one with none. -/
theorem witness_HartInstructions_more :
    (∀ pol, ∀ f ∈ [none, some MeshFail.request], ∃ s, Enabled s 1 ∧
      let H := hartOf s s.hartMe
      H.policy = pol ∧ s.mesh.fail = f ∧ 64 ≤ (hxGet H 1).toNat ∧ hScope (hxGet H 1) ≠ 0 ∧
      checkRemote s (hxGet H 1) H.owner .read = none) ∧
    (∀ t, ∃ s i d, (hartOf s 0).waitSince = some (0, d) ∧ dueInt s (hartOf s 0) = some i ∧ intTo (hartOf s 0) i = t) ∧
    (∃ s d, (hartOf s 0).waitSince = some (0, d) ∧ dueInt s (hartOf s 0) = none) := by
  let w (m : Mode) (i : Nat) (dir : Bool) : State := hs { hart0 m 0 0 with
    waitSince := some (0, 4), sie := true,
    csr := mset (mset (mset (mset resetCsrs 0x304 (1 <<< i)) 0x344 (1 <<< i)) 0x645 (1 <<< i)) 0x603
      (if dir then 1 <<< i else 0) } []
  refine ⟨fun pol f _ => ⟨{ hartCtr pol 5 none 0 with mesh := { State.reset.mesh with fail := f } },
      ⟨.inl (show Mode.m ≠ .u by decide), show (0 : Nat) ≠ 63 by decide⟩, rfl, rfl, ?_, ?_, ?_⟩, fun t => ?_,
    ⟨hs { hart0 .m 0 0 with waitSince := some (0, 4) } [], 4, rfl, by decide +kernel⟩⟩
  · show 64 ≤ sysH.toNat; decide
  · show hScope sysH ≠ 0; decide
  · show checkRemote (withCtr (ctr 5 0 0 true) State.reset) sysH 0 .read = none; rfl
  · cases t
    · exact ⟨w .u 3 false, 3, 4, rfl, by decide +kernel, by decide +kernel⟩
    · exact ⟨w .u 9 false, 9, 4, rfl, by decide +kernel, by decide +kernel⟩
    · exact ⟨w .vu 2 true, 2, 4, rfl, by decide +kernel, by decide +kernel⟩

/-- A request block of `dv.fnew` with a tag, as read: of a revoked sequence, without a system counter, made, and made but
not answered. -/
def fnewCase (n : Nat) (b : State) (bs : List Byte) : Bool :=
  let r := fnewReq bs
  r.zero == 0 && r.reply.toNat % 4 == 0 && r.len % 4 == 0 && decide (4 ≤ r.len) &&
    (match n with
     | 0 => r.tag != noSeq && b.commit.revoked.contains r.tag
     | _ => r.tag == noSeq && (match fnewReply (needTable b (hartOf b 0).owner) (hartOf b 0).owner r with
       | some (b₁, reply, len) =>
         let req : FutReq :=
           { parcel := (hartOf b 0).owner, tag := r.tag, tool := r.tool, origin := 0, replyAddr := reply,
             replyLen := len, tmo := r.tmo, argAddr := 0, argLen := 0, conn := 0, st := .running }
         let made := createFuture b₁ req
         let stop := hartStoreStop (needTable b (hartOf b 0).owner) 0 0x2018 8
         if n = 1 then made.isNone
         else made.isSome && if n = 2 then stop.isNone else stop.any fun x => match x with
           | .fault _ _ _ _ => true
           | _ => false
       | none => false))
/-- The states of those cases; in the last PMP lets the block be read and not written. -/
def fnewSt (n : Nat) : State :=
  let csr := if n = 3 then mset resetCsrs 0x3A0 0x99 else resetCsrs
  let s := hs { hart0 .m 0x2000 0 with csr := csr } [(0x2000, 4, if n = 0 then 7 else 0xFFFFFFFF), (0x2014, 4, 64)]
  { s with commit := { s.commit with revoked := [7] },
           parcels := mset s.parcels 0 { parcelOf s 0 with quotas := { noQuotas with futures := some (n - 1) } } }
/-- A pending future 0 of parcel 0 with nonce 3 and a reply buffer of 8 bytes. -/
def fut0 : Future := { Future.init with st := .running, nonce := 3, owner := 0, tag := noSeq, replyLen := 8, replyAddr := 0x2100 }
/-- A hart at a token list of `n` tokens, `x2` the id and a nonce, with that future. -/
def futSt (n va nonce : Nat) : State :=
  let s := hs (hart0 .m (BitVec.ofNat 64 (nonce * 2 ^ 32)) (BitVec.ofNat 64 va)) [(0x2000, 4, n)]
  { s with futures := [(0, fut0)] }

theorem witness_HartInstructions_futures :
    (∀ n ∈ [0, 1, 2, 3], ∃ s, s = fnewSt n ∧ Enabled s 2 ∧ (hxGet (hartOf s s.hartMe) 1).toNat % 8 = 0 ∧
      ∃ b bs, hartRead s s.hartMe (hxGet (hartOf s s.hartMe) 1) 32 .read = .ok b bs ∧ fnewCase n b bs = true) ∧
    (∀ nonce ∈ [3, 4], ∀ va ∈ [0xFFFF, 0x10000], ∃ s, s = futSt 1 va nonce ∧ Enabled s 2 ∧
      refusesCompletion (futOf s 0) (hartOf s s.hartMe).owner (BitVec.ofNat 32 nonce) = decide (nonce = 4) ∧
      (hxGet (hartOf s s.hartMe) 2).toNat = va) ∧
    (∀ n ∈ [0, 1, 2], ∃ s, s = futSt n 0x2000 3 ∧ Enabled s 2 ∧ (hxGet (hartOf s s.hartMe) 2).toNat % 4 = 0 ∧
      refusesCompletion (futOf s 0) (hartOf s s.hartMe).owner 3 = false ∧
      ∃ b cnt, hartRead s s.hartMe (hxGet (hartOf s s.hartMe) 2) 4 .read = .ok b cnt ∧
        (leNat cnt == n && hartMeets (fun _ _ => true) (hartRead b s.hartMe 0x2004 (4 * n) .read) &&
          decide ((futOf s 0).replyLen < 4 + 4 * n) == decide (n = 2)) = true) := by
  refine ⟨fun n hn => ?_, fun k hk va hv => ?_, fun n hn => ?_⟩
  · have : n = 0 ∨ n = 1 ∨ n = 2 ∨ n = 3 := by simpa using hn
    rcases this with rfl | rfl | rfl | rfl <;>
      exact ⟨_, rfl, ⟨.inl (by decide), by decide⟩, by decide, hart_meets _ _ (by decide +kernel)⟩
  · rcases mem_two hk with rfl | rfl <;> rcases mem_two hv with rfl | rfl <;>
      exact ⟨_, rfl, ⟨.inl (by decide), by decide⟩, by decide, by decide⟩
  · rcases mem_three hn with rfl | rfl | rfl <;>
      exact ⟨_, rfl, ⟨.inl (by decide), by decide⟩, by decide, by decide, hart_meets _ _ (by decide +kernel)⟩

/-- Which outcome a submission has. -/
def submitKind : SubmitRes → Nat
  | .ok _ _ => 0
  | .full _ => 1
  | .refused _ _ => 2
  | .unread _ _ _ => 3
  | .cap _ => 4
  | .transit => 5
theorem submit_ok (r : SubmitRes) (h : submitKind r = 0) : ∃ t id, r = .ok t id := by
  cases r with
  | ok t id => exact ⟨t, id, rfl⟩
  | _ => cases h
theorem submit_full (r : SubmitRes) (h : submitKind r = 1) : ∃ t, r = .full t := by
  cases r with
  | full t => exact ⟨t, rfl⟩
  | _ => cases h
theorem submit_unread (r : SubmitRes) (h : submitKind r = 3) : ∃ t f va, r = .unread t f va := by
  cases r with
  | unread t f va => exact ⟨t, f, va, rfl⟩
  | _ => cases h
theorem submit_cap (r : SubmitRes) (h : submitKind r = 4) : ∃ va, r = .cap va := by
  cases r with
  | cap va => exact ⟨va, rfl⟩
  | _ => cases h
theorem submit_transit (r : SubmitRes) (h : submitKind r = 5) : r = .transit := by
  cases r with
  | transit => rfl
  | _ => cases h
theorem submit_refused (r : SubmitRes) (h : submitKind r = 2) : ∃ t f, r = .refused t f := by
  cases r with
  | refused t f => exact ⟨t, f, rfl⟩
  | _ => cases h
/-- A hart at a descriptor with a window size, its parcel's quota of launches given. -/
def submitSt (win quota : Nat) : State :=
  let s := hs (hart0 .m 0x2000 0) [(0x201C, 4, win), (0x2070, 8, 0x2080)]
  { s with parcels := mset s.parcels 0 { parcelOf s 0 with quotas := { noQuotas with launches := some quota } } }
/-- The submission of its `dv.launch`. -/
def submitOf (s : State) : SubmitRes := submitLaunch s (hartSubmitter (hartOf s s.hartMe) s.hartMe) (hxGet (hartOf s s.hartMe) 1)
theorem witness_HartInstructions_launch :
    (∃ s, Enabled s 3 ∧ (hxGet (hartOf s s.hartMe) 1).toNat % 64 = 0 ∧ ∃ t id, submitOf s = .ok t id) ∧
    (∃ s, Enabled s 3 ∧ (hxGet (hartOf s s.hartMe) 1).toNat % 64 = 0 ∧ ∃ t, submitOf s = .full t) ∧
    (∃ s, Enabled s 3 ∧ (hxGet (hartOf s s.hartMe) 1).toNat % 64 = 0 ∧ ∃ t f, submitOf s = .refused t f) ∧
    (∃ s, Enabled s 3 ∧ (hxGet (hartOf s s.hartMe) 1).toNat % 64 = 0 ∧ ∃ t f va, submitOf s = .unread t f va) ∧
    (∃ s, Enabled s 3 ∧ (hxGet (hartOf s s.hartMe) 1).toNat % 64 = 0 ∧ ∃ va, submitOf s = .cap va) ∧
    (∃ s, Enabled s 3 ∧ (hxGet (hartOf s s.hartMe) 1).toNat % 64 = 0 ∧ submitOf s = .transit) :=
  ⟨⟨submitSt 4096 1, ⟨.inl (by decide), by decide⟩, by decide, submit_ok _ (by decide +kernel)⟩,
   ⟨submitSt 4096 0, ⟨.inl (by decide), by decide⟩, by decide, submit_full _ (by decide +kernel)⟩,
   ⟨submitSt 1 1, ⟨.inl (by decide), by decide⟩, by decide, submit_refused _ (by decide +kernel)⟩,
   ⟨hs (hart0 .m 0x8000000000 0) [], ⟨.inl (by decide), by decide⟩, by decide, submit_unread _ (by decide +kernel)⟩,
   ⟨hs { hart0 .u 0x2000 0 with dvctl := 9 } [], ⟨.inr (by decide), by decide⟩, by decide,
     submit_cap _ (by decide +kernel)⟩,
   ⟨hs { hart0 .u 0x2000 0 with dvctl := 8 } [(placeRoot, 8, placePte + 0x100)], ⟨.inr (by decide), by decide⟩, by decide,
     submit_transit _ (by decide +kernel)⟩⟩

/-! ### Launches, dispatch, homes and waits -/

/-- A cadastre row in which parcel 0 has section 0. -/
def row0 : CadRow := { len := 1, drain := 1024, ways := [], link := [], mem := [], sects := [0] }
/-- A state with one launch entry, its start counter as given, and that row. -/
def launchSt (L : Launch) (c : Ctr) : State :=
  let s := withCtr c (mapped State.reset)
  { s with sched := { s.sched with launches := [(0, L)] }, cad := { s.cad with table := { s.cad.table with rows := [row0] } } }
/-- A launch that waits for the counter to reach 5, or for nothing, or that has been started with strands live. -/
def waitL (h : Word) (st : LaunchSt) (live : Nat) : Launch :=
  { theLaunch .system with st := st, live := live, desc := { (theLaunch .system).desc with starth := h, startt := 5, recaddr := 0x2000, winsize := 4096 } }
/-- One with more strands over dies than there are dies. -/
def homeless0 : Launch :=
  { waitL sysH .waiting 0 with desc := { (waitL sysH .waiting 0).desc with loops := [0x300000005] } }
/-- A replay of parcel 0. -/
def rep (started : Bool) : Replay :=
  { parcel := 0, fn := none, policy := .system, hdr := 0x2000, ver := 0x2040, replayh := sysH, excl := true, nodes := 0,
    prio := 0, order := 9, ids := [], started := started }
/-- A version read. -/
def verOk : Except ReadErr (State × Version) → Bool
  | .ok _ => true
  | _ => false
theorem ver_ok (r : Except ReadErr (State × Version)) (h : verOk r = true) : ∃ b v, r = .ok (b, v) := by
  cases r with
  | ok p => exact ⟨p.1, p.2, rfl⟩
  | _ => cases h
/-- A version that R326 refuses. -/
def verBad : Except ReadErr (State × Version) → Bool
  | .error .illegal => true
  | _ => false
theorem ver_bad (r : Except ReadErr (State × Version)) (h : verBad r = true) : r = .error .illegal := by
  cases r with
  | error e => cases e <;> first | rfl | cases h
  | _ => cases h
theorem some_of {α : Type} (P : α → Bool) (r : Option α) (h : r.any P = true) : ∃ x, r = some x ∧ P x = true := by
  cases r with
  | some x => exact ⟨x, rfl, h⟩
  | none => cases h

/-- A record at 0x3000's page 2, READY and ANY, for a strand of launch 0. -/
def readyRec : List (Nat × Nat × Nat) := [(0x2000, 1, 1), (0x2010, 8, 0x1000)]
/-- A free core 0 of parcel 0 with the strand resident in slot 0, with its window or without, or on a list, or nothing to
run. -/
def dispSt (n : Nat) : State :=
  let own : Owner := { parcel := 0, launch := 0, rcd := 0x2000 }
  let s := withMem readyRec (launchSt (waitL 0 .live 1) (ctr 0 0 0 true))
  let r : Resident := { own := own, base := 0, size := 4096, any := true, urgent := false, once := false, round := none,
                        status := .ready, retried := [] }
  match n with
  | 0 => s
  | 1 => { s with cores := [(0, { Core.init with res := [(0, r)] })] }
  | 3 => { s with cores := [(0, { Core.init with res := [(0, { r with size := 0 })] })] }
  | _ => { s with sched := { s.sched with lists :=
            [{ own := own, home := 0, any := true, urgent := false, once := false, prio := 0, seq := 0 }] } }
/-- Which candidate is chosen. -/
def chosen (s : State) : Nat :=
  let b := askPages s (wantedPages s 0)
  match choose b 0 with
  | none => 0
  | some (.res sl r, _, _) =>
    match launchOf b r.own.launch with
    | some L => if (regainWindow b 0 sl L r).isSome then (if r.windowless then 3 else 1) else 9
    | none => 9
  | some (.list e, _, _) =>
    match launchOf b e.own.launch with
    | some L => if (makeResident b 0 L e).isSome then 2 else 9
    | none => 9

/-- Below its threshold, at it, freed; started at once; done and not done; a replay ended and one that may start; a
core with nothing, a resident strand and a listed strand to run. -/
theorem witness_LaunchAndDispatch :
    (∃ s L, mget s.sched.launches 0 = some L ∧ startCond s L = .wait ∧ launchDone s L = false) ∧
    (∃ s L, mget s.sched.launches 0 = some L ∧ startCond s L = .stale) ∧
    (∀ bad, ∃ s L, mget s.sched.launches 0 = some L ∧ startCond s L = .go ∧
      let b := shapeRead s L
      b.host.quiesced = false ∧ startable b L = true ∧ startsLater b L.prio L.order = false ∧
      ∃ P : Placement, placement b L = some P ∧ (startIllegal b L P.sp P.lists == bad) = true) ∧
    (∃ s L, mget s.sched.launches 0 = some L ∧ launchDone s L = true) ∧
    (∃ s R, mget s.sched.replays 0 = some R ∧ R.started = true ∧ ∀ id ∈ R.ids, launchOf s id = none) ∧
    (∃ s R, mget s.sched.replays 0 = some R ∧ R.started = false ∧ s.host.quiesced = false ∧
      earlierReplay s R.parcel R.hdr 0 = false ∧ startsLater s R.prio R.order = false ∧
      ∃ b V, readVersion s (deviceSubmitter R.parcel R.fn R.policy) R.hdr R.nodes = .ok (b, V)) ∧
    (∃ s R, mget s.sched.replays 0 = some R ∧ R.started = false ∧ s.host.quiesced = false ∧
      earlierReplay s R.parcel R.hdr 0 = false ∧ startsLater s R.prio R.order = false ∧
      readVersion s (deviceSubmitter R.parcel R.fn R.policy) R.hdr R.nodes = .error .illegal) ∧
    (∃ s, mayDispatch s 0 = false) ∧
    (∀ n ∈ [0, 1, 2, 3], ∃ s, s = dispSt n ∧ mayDispatch s 0 = true ∧ chosen s = n) := by
  let r (b : Bool) (s : State) : State := { s with sched := { s.sched with replays := [(0, rep b)] } }
  refine ⟨⟨launchSt (waitL sysH .waiting 0) (ctr 4 0 0 true), _, rfl, by decide +kernel, by decide +kernel⟩,
    ⟨launchSt (waitL sysH .waiting 0) (ctr 4 1 0 true), _, rfl, by decide +kernel⟩,
    fun bad => ?_,
    ⟨launchSt (waitL 0 .live 0) (ctr 0 0 0 true), _, rfl, by decide +kernel⟩,
    ⟨r true (launchSt (waitL 0 .live 0) (ctr 0 0 0 true)), _, rfl, rfl, fun _ h => nomatch h⟩,
    ⟨r false (withMem [(0x2008, 8, 0x2040)] (launchSt (waitL 0 .live 0) (ctr 0 0 0 true))), _, rfl, rfl, rfl, rfl,
      by decide +kernel, ver_ok _ (by decide +kernel)⟩,
    ⟨r false (withMem [(0x2008, 8, 0x2041)] (launchSt (waitL 0 .live 0) (ctr 0 0 0 true))), _, rfl, rfl, rfl, rfl,
      by decide +kernel, ver_bad _ (by decide +kernel)⟩,
    ⟨State.reset, by decide +kernel⟩,
    fun n hn => ⟨dispSt n, rfl, ?_⟩⟩
  · cases bad
    · exact ⟨launchSt (waitL sysH .waiting 0) (ctr 5 0 0 true), waitL sysH .waiting 0, rfl, by decide +kernel, rfl,
        by decide +kernel, by decide +kernel, some_of (fun (P : Placement) =>
          startIllegal (shapeRead (launchSt (waitL sysH .waiting 0) (ctr 5 0 0 true)) (waitL sysH .waiting 0))
            (waitL sysH .waiting 0) P.sp P.lists == false) _ (by decide +kernel)⟩
    · exact ⟨launchSt homeless0 (ctr 5 0 0 true), homeless0, rfl, by decide +kernel, rfl,
        by decide +kernel, by decide +kernel, some_of (fun (P : Placement) =>
          startIllegal (shapeRead (launchSt homeless0 (ctr 5 0 0 true)) homeless0) homeless0 P.sp P.lists == true) _
            (by decide +kernel)⟩
  · have : n = 0 ∨ n = 1 ∨ n = 2 ∨ n = 3 := by simpa using hn
    rcases this with rfl | rfl | rfl | rfl <;> exact ⟨by decide +kernel, by decide +kernel⟩

/-- A waiter in a home's pool. -/
def waiter (q : Nat) (hit : Bool) : Waiter := { handle := sysH, thr := 5, rcd := 0x3000, parcel := 0, seq := q, hit := hit }
/-- A state with waiters, with a parcel's rings and areas on that counter, and with a site of core 0 that waits. -/
def homeSt (v : Word) (ws : List Waiter) (f : Core → Core) : State :=
  let s := mapped (sa f)
  let ring : DevRing := { cfg := { base := 0x2000, entries := 1, handle := sysH }, head := 0, tail := 0 }
  let area : FaultArea := { cfg := { base := 0x2000, entries := 64, handle := sysH, repair := true, repairHandle := sysH },
                            seq := 0, repairBase := 0, repairs := 0 }
  { s with homes := [(homeKey 3 0, { entries := [(0, ctr v 0 0 true)], pool := ws, nextSeq := 9, spilled := [0] })],
           parcels := mset s.parcels 0 { parcelOf s 0 with overflow := some ring, pager := some ring, fault := some area,
                                                           shootdown := some ring } }
/-- A stream held for the counter to reach 5. -/
def heldStream (k : Core) : Core := modStr k false fun t => { t with hold := some { handle := sysH, value := 5 } }

/-- A waiter not reached, one behind another, and the first; a ticket reached and one short of it; the rest of the
waits of a parcel; a format window that was disabled. -/
theorem witness_HomeAndCoreEvents_homes :
    (∃ s w, ((homeOf s (homeKey 3 0)).pool.find? fun w => w.seq == 2) = some w ∧ w.hit = false) ∧
    (∃ s w, ((homeOf s (homeKey 3 0)).pool.find? fun w => w.seq == 2) = some w ∧
      ∃ v ∈ (homeOf s (homeKey 3 0)).pool, v.hit = true ∧ v.handle = w.handle ∧ v.seq < 2) ∧
    (∃ s w, ((homeOf s (homeKey 3 0)).pool.find? fun w => w.seq == 2) = some w ∧ w.hit = true ∧
      ∀ v ∈ (homeOf s (homeKey 3 0)).pool, v.hit = true → v.handle = w.handle → 2 ≤ v.seq) ∧
    (∃ s r, (parcelOf s 0).overflow = some r ∧ (homeOf s (homeKey 3 0)).spilled.contains 0 = true) ∧
    (∃ s t r f, heldAt (coreOf s 0) (.stream false) = some (t, 0) ∧ ticketReached s t = true ∧
      (parcelOf s 0).pager = some r ∧ r.cfg.handle = t.handle ∧ (parcelOf s 0).fault = some f ∧
      f.cfg.repairHandle = t.handle) ∧
    (∃ s t, heldAt (coreOf s 0) (.stream false) = some (t, 0) ∧ ticketReached s t = false) ∧
    (∃ s, (strOf (coreOf s 0) false).stall = some .other ∧ (strOf (coreOf s 0) false).hold = none) ∧
    (∃ s r, (parcelOf s 0).shootdown = some r ∧ r.cfg.entries ≠ 0 ∧ shootdownWaits s r = true) ∧
    (∃ (s : State) (w : FormatWindow), mget s.phys.windows (windowKey 0 0) = some w ∧ w.en = false ∧ w.ctl.getLsbD 62 = true) :=
  ⟨⟨homeSt 0 [waiter 2 false] id, _, rfl, rfl⟩,
   ⟨homeSt 5 [waiter 1 true, waiter 2 true] id, _, rfl, waiter 1 true, List.mem_cons_self, rfl, rfl, by decide⟩,
   ⟨homeSt 5 [waiter 2 true] id, _, rfl, rfl, fun v hv _ _ => by cases List.mem_singleton.mp hv; decide⟩,
   ⟨homeSt 0 [] id, _, rfl, rfl⟩, ⟨homeSt 5 [] heldStream, _, _, _, rfl, by decide, rfl, rfl, rfl, rfl⟩,
   ⟨homeSt 4 [] heldStream, _, rfl, by decide⟩,
   ⟨sa fun k => modStr k false fun t => { t with stall := some .other }, rfl, rfl⟩, ⟨homeSt 1 [] id, _, rfl, by decide, by decide⟩,
   ⟨{ State.reset with phys := { State.reset.phys with windows := [(windowKey 0 0,
      { src := 0, scl := 0, view := 0, ctl := 0x4000000000000000 })] } }, _, rfl, rfl, by decide⟩⟩

/-- The state of a home's overflow list with one entry: its valid word, counter, threshold and record. -/
def scanSt (valid h v : Nat) : State :=
  withMem [(0x2000, 8, h), (0x2008, 8, v), (0x2010, 8, 0x3000), (0x2018, 8, valid)] (homeSt 5 [] id)
/-- Which clause of a scan an entry falls under: 0 not valid, 1 gone, 2 reached, 3 still waiting. -/
def scanClause (s : State) (i : Nat) : Nat :=
  let a : Word := 0x2000 + BitVec.ofNat 64 (32 * i)
  let b := needRead s 0 a 32
  let h : Word := BitVec.ofNat 64 (devNat b 0 a 8)
  let v : Word := BitVec.ofNat 64 (devNat b 0 (a + 8) 8)
  if devNat b 0 (a + 0x18) 8 % 2 = 1 ∧ hKey h = homeKey 3 0 then
    if (ctrOf b h).alloc = true ∧ (ctrOf b h).gen = hGen h then if reached (ctrOf b h).value v then 2 else 3 else 1
  else 0
/-- An entry that is not valid; one whose counter's generation has passed; a threshold at the counter's value and one
past it. -/
theorem witness_HomeAndCoreEvents_scan :
    (∃ s, scanClause s 0 = 0) ∧ (∃ s, scanClause s 0 = 1) ∧ (∃ s, scanClause s 0 = 2) ∧ ∃ s, scanClause s 0 = 3 :=
  ⟨⟨scanSt 0 sysH.toNat 5, by decide +kernel⟩, ⟨scanSt 1 (sysH.toNat + 2 ^ 48) 5, by decide +kernel⟩,
   ⟨scanSt 1 sysH.toNat 5, by decide +kernel⟩, ⟨scanSt 1 sysH.toNat 6, by decide +kernel⟩⟩
/-- Both streams of a core stalled since the start, its queues with an entry to fill and to move. -/
def stalled (k : Core) : Core :=
  let k := modStr (modStr k false fun t => { t with stall := some .queue }) true fun t => { t with stall := some .token }
  { k with sh := { k.sh with lq := [{ qe with filled := false, tok := true }], tokX := 14,
                             vlq := [{ data := 0, eos := false, filled := false, tok := true }] },
           outbox := bset k.outbox 1 [7] }
/-- A load's entry with a token while the count is 14, and while it is 15; a port with room; 2^20 cycles and one cycle less. -/
theorem witness_HomeAndCoreEvents_core :
    (∃ s e, (coreOf s 0).sh.lq[0]? = some e ∧ e.filled = false ∧ (coreOf s 0).sh.tokX ≠ 15#4) ∧
    (∃ s e, (coreOf s 0).sh.vlq[0]? = some e ∧ e.filled = false ∧ (coreOf s 0).sh.tokX ≠ 15#4) ∧
    (∃ s e e', (coreOf s 0).sh.lq[0]? = some e ∧ e.filled = false ∧ e.tok = true ∧ (coreOf s 0).sh.vlq[0]? = some e' ∧
      e'.filled = false ∧ e'.tok = true ∧ (coreOf s 0).sh.tokX = 15#4) ∧
    (∃ s v q n, ∃ d : BitVec 2, bget (coreOf s 0).outbox d = v :: q ∧ neighbour 0 d.toNat = some n ∧ n ≠ 0 ∧
      portClosed s 0 d.toNat = false ∧ (bget (coreOf s n).inbox (d + 2)).length < 4) ∧
    (∃ s r, (coreOf s 0).run = some r ∧ r.logsz = 0#4 ∧ counted25 (coreOf s 0).a.str.stall ∧
      counted25 (coreOf s 0).x.str.stall ∧ (coreOf s 0).a.str.since + 2 ^ 20 ≤ s.cycle ∧
      (coreOf s 0).x.str.since + 2 ^ 20 ≤ s.cycle ∧ (coreOf s 0).sh.lastMove + 2 ^ 20 ≤ s.cycle) ∧
    (∃ s r, (coreOf s 0).run = some r ∧ r.logsz = 0#4 ∧ s.cycle < (coreOf s 0).sh.lastMove + 2 ^ 20) :=
  ⟨⟨sa stalled, _, rfl, rfl, by decide⟩, ⟨sa stalled, _, rfl, rfl, by decide⟩,
   ⟨sa fun k => { stalled k with sh := { (stalled k).sh with tokX := 15 } }, _, _, rfl, rfl, rfl, rfl, rfl, rfl, rfl⟩,
   ⟨sa stalled, 7, [], 1, 1, rfl, rfl, by decide, by decide, by decide⟩,
   ⟨{ sa stalled with cycle := 1048576 }, placeRun, rfl, rfl, .inl rfl, .inr (.inl rfl), by decide, by decide, by decide⟩,
   ⟨{ sa stalled with cycle := 1048575 }, placeRun, rfl, rfl, by decide⟩⟩

/-! ### The sampler root, edges, futures and the generation loop -/

/-- A run of two slices at the tree with the given contributions. -/
def treeSt (sync : List SyncPart) (syncAt : Option Nat) (ends : List EndPart) (dup cancelled : Bool) (cyc : Nat) : State :=
  let b : Slot := { drafty with desc := { drafty.desc with vocab := 32, slen := 16 } }
  let t : TreeRun :=
    { key := placeSmpRun.key, bind := b, sync := sync, syncAt := syncAt, released := false, ends := ends, endAt := none,
      dup := dup, cancelled := cancelled }
  { State.reset with cycle := cyc, tree := { runs := [t], drafts := [] } }
/-- A maximum and an end action of a slice. -/
def maxOf (i : Nat) : SyncPart := { slice := i, max := 0x3F800000, fault := false, w0 := [] }
/-- An end action of a slice. -/
def endOf (i : Nat) : EndPart := { slice := i, act := .greedy, fault := false, xs := [], w0 := [], draft := none, qs := [] }

/-- Both maxima in, one missing; a cancelled and a doubled run; both end actions in, one missing; 2^20 cycles after
the first contribution and one cycle less. -/
theorem witness_SamplerRootEvents :
    (∃ (s : State) (t : TreeRun), treeOf s placeSmpRun.key = some t ∧ t.dup = false ∧ t.cancelled = false ∧ t.released = false ∧
      allIn t (t.sync.map fun e => e.slice) = true ∧ ∀ e ∈ t.sync, e.fault = false) ∧
    (∃ (s : State) (t : TreeRun), treeOf s placeSmpRun.key = some t ∧ allIn t (t.sync.map fun e => e.slice) = false) ∧
    (∃ (s : State) (t : TreeRun), treeOf s placeSmpRun.key = some t ∧ t.cancelled = true) ∧
    (∃ (s : State) (t : TreeRun), treeOf s placeSmpRun.key = some t ∧ t.cancelled = false ∧ t.dup = true) ∧
    (∀ n ∈ [1, 2], ∃ (s : State) (t : TreeRun), treeOf s placeSmpRun.key = some t ∧ t.cancelled = false ∧ t.dup = false ∧
      allIn t (t.ends.map fun e => e.slice) = decide (n = 2) ∧ t.key.pass = 0) ∧
    (∃ (s : State) (t : TreeRun), treeOf s placeSmpRun.key = some t ∧ t.syncAt = some 1 ∧ t.released = false ∧
      allIn t (t.sync.map fun e => e.slice) = false ∧ s.cycle = 1 + 2 ^ 20) ∧
    (∃ (s : State) (t : TreeRun), treeOf s placeSmpRun.key = some t ∧ t.syncAt = some 1 ∧ t.endAt = none ∧ s.cycle < 1 + 2 ^ 20) := by
  refine ⟨⟨treeSt [maxOf 1, maxOf 0] (some 0) [] false false 9, _, rfl, rfl, rfl, rfl, by decide, by decide⟩,
    ⟨treeSt [maxOf 1] (some 0) [] false false 9, _, rfl, by decide⟩, ⟨treeSt [] none [] false true 0, _, rfl, rfl⟩,
    ⟨treeSt [] none [] true false 0, _, rfl, rfl, rfl⟩, fun n hn => ?_,
    ⟨treeSt [maxOf 1] (some 1) [] false false 1048577, _, rfl, rfl, rfl, by decide, rfl⟩,
    ⟨treeSt [maxOf 1] (some 1) [] false false 1048576, _, rfl, rfl, rfl, by decide⟩⟩
  rcases mem_two hn with rfl | rfl
  · exact ⟨treeSt [] none [endOf 0] false false 9, _, rfl, rfl, rfl, by decide, rfl⟩
  · exact ⟨treeSt [] none [endOf 0, endOf 1] false false 9, _, rfl, rfl, rfl, by decide, rfl⟩

/-- A run of two slices changed, with the progress of its draft set, at a cycle. -/
def treeSt' (f : TreeRun → TreeRun) (ds : List DraftRoot) (cyc : Nat) : State :=
  let s := treeSt [] none [endOf 0, endOf 1] false false cyc
  { s with tree := { runs := s.tree.runs.map f, drafts := ds } }
/-- The run of a check pass. -/
def passOf (k : Nat) (t : TreeRun) : TreeRun := { t with key := { t.key with pass := k } }
/-- The progress of that run's draft set. -/
def progress (decided : List Nat) (refused : Option Nat) (closed : Bool) : DraftRoot :=
  { parcel := placeSmpRun.key.parcel, desc := placeSmpRun.key.desc, set := drafty.draftSet, joined := [], used := [],
    decided := decided, refused := refused, closed := closed }
/-- What the root does with a run whose end actions are all in: 0 it waits, 1 it is drained, 2 it decides. -/
def rootClause (s : State) (t : TreeRun) : Nat :=
  let x := draftRoot s t
  let k := t.key.pass
  let n := t.bind.drafts.length
  let missing (m : Nat) : Bool := (List.range m).any fun j => !x.decided.contains (j + 1)
  if n ≠ 0 ∧ (k ≠ 0 ∧ missing (k - 1) = true ∨ k = 0 ∧ x.closed = false ∧ x.refused = none ∧ missing n = true) then 0
  else if n ≠ 0 ∧ (x.refused.any fun j => (k ≠ 0 && j < k) || (k = 0 && !x.closed)) = true then 1 else 2
/-- Two end actions of one element each, with a draft and its probability. -/
def endsOf (act : EndAct) (x y : BitVec 32) (tok q : BitVec 32) : List EndPart :=
  [{ endOf 0 with act := act, xs := [x], draft := some (tok, q), qs := [q] }, { endOf 1 with act := act, xs := [y], qs := [0] }]
/-- A run with end actions and a pass. -/
def decided0 (pass : Nat) (es : List EndPart) : TreeRun :=
  { key := { placeSmpRun.key with pass := pass }, bind := { drafty with desc := { drafty.desc with vocab := 32, slen := 16 } },
    sync := [], syncAt := none, released := false, ends := es, endAt := none, dup := false, cancelled := false }
/-- Which clause a check pass's decision falls under: 0 no distribution, 1 a probability out of range, 2 accepted,
3 resampled. -/
def passClause (t : TreeRun) : Nat :=
  match formed t, draftOf t with
  | some f, some (tok, q) =>
    let i := tok.toNat % t.bind.desc.slen
    let p := vDiv ((f.ws.getD (tok.toNat / t.bind.desc.slen) []).getD i 0) f.z
    if badQ q.toNat = true then 1 else if accepts (drawBits t.bind.desc t.key.pos 1) q.toNat p = true then 2 else 3
  | _, _ => 0

/-- A fault among the maxima; an ordinary run that waits for its set's check pass, one drained by a refusal, one that
decides; a check pass two behind, one past a refusal, one whose turn it is; 2^20 cycles after the first end action. The
cases of a decision: a slice faulted, the actions differ, a forced token inside the vocabulary and at its end, greedy, no
distribution, and the four outcomes of a check pass; the three fallbacks. -/
theorem witness_SamplerRootEvents_decisions :
    (∃ (s : State) (t : TreeRun), treeOf s placeSmpRun.key = some t ∧ t.dup = false ∧ t.cancelled = false ∧
      t.released = false ∧ allIn t (t.sync.map fun e => e.slice) = true ∧ ∃ e ∈ t.sync, e.fault = true) ∧
    (∀ n ∈ [0, 1, 2], ∃ (s : State) (t : TreeRun), treeOf s placeSmpRun.key = some t ∧ t.dup = false ∧
      t.cancelled = false ∧ allIn t (t.ends.map fun e => e.slice) = true ∧ t.key.pass = 0 ∧ rootClause s t = n) ∧
    (∀ n ∈ [0, 1, 2], ∃ (s : State) (t : TreeRun), treeOf s { placeSmpRun.key with pass := 3 } = some t ∧ t.dup = false ∧
      t.cancelled = false ∧ allIn t (t.ends.map fun e => e.slice) = true ∧ t.key.pass ≠ 0 ∧ rootClause s t = n) ∧
    (∃ (s : State) (t : TreeRun), treeOf s placeSmpRun.key = some t ∧ t.endAt = some 1 ∧
      allIn t (t.ends.map fun e => e.slice) = false ∧ s.cycle = 1 + 2 ^ 20) ∧
    (∃ t : TreeRun, t.ends = [{ endOf 0 with fault := true }, endOf 1]) ∧
    (∃ t : TreeRun, ∃ x ∈ t.ends, t.ends = [endOf 0, { endOf 1 with act := .sample }] ∧ x.act ≠ (endOf 0).act) ∧
    (∀ tok ∈ [31, 32], ∃ t : TreeRun, t.ends = endsOf (.force (BitVec.ofNat 32 tok)) 0 0 0 0 ∧ t.bind.desc.vocab = 32) ∧
    (formed (decided0 0 (endsOf .greedy 0 0 0 0))).isSome = true ∧
    formed (decided0 0 (endsOf (.topk 1) 0x7F800000 0 0 0)) = none ∧
    passClause (decided0 1 (endsOf .sample 0 0 0 0x3F800001)) = 1 ∧
    passClause (decided0 1 (endsOf .sample 0 0 0 0)) = 2 ∧
    passClause (decided0 1 (endsOf .sample 0xC3000000 0 0 0x3F800000)) = 3 ∧
    (∀ n ∈ [0, 1, 2], ∃ d : SmpDesc, d.fallback = n) := by
  refine ⟨⟨treeSt [maxOf 1, { maxOf 0 with fault := true }] (some 0) [] false false 9, _, rfl, rfl, rfl, rfl, by decide,
      { maxOf 0 with fault := true }, by decide, rfl⟩, fun n hn => ?_, fun n hn => ?_,
    ⟨treeSt' (fun t => { t with endAt := some 1, ends := [endOf 1] }) [] (1 + 2 ^ 20), _, rfl, rfl, by decide, rfl⟩,
    ⟨decided0 0 _, rfl⟩, ⟨decided0 0 [endOf 0, { endOf 1 with act := .sample }], { endOf 1 with act := .sample }, by decide, rfl, by decide⟩,
    fun tok _ => ⟨decided0 0 _, rfl, rfl⟩, by decide +kernel, by decide +kernel, by decide +kernel, by decide +kernel,
    by decide +kernel, fun n _ => ⟨{ drafty.desc with fallback := n }, rfl⟩⟩
  · rcases mem_three hn with rfl | rfl | rfl
    · exact ⟨treeSt' id [progress [] none false] 9, _, rfl, rfl, rfl, by decide, rfl, by decide⟩
    · exact ⟨treeSt' id [progress [1] (some 1) false] 9, _, rfl, rfl, rfl, by decide, rfl, by decide⟩
    · exact ⟨treeSt' id [progress [1] none false] 9, _, rfl, rfl, rfl, by decide, rfl, by decide⟩
  · rcases mem_three hn with rfl | rfl | rfl
    · exact ⟨treeSt' (passOf 3) [progress [1] none false] 9, _, rfl, rfl, rfl, by decide, by decide, by decide⟩
    · exact ⟨treeSt' (passOf 3) [progress [2, 1] (some 2) false] 9, _, rfl, rfl, rfl, by decide, by decide, by decide⟩
    · exact ⟨treeSt' (passOf 3) [progress [2, 1] none false] 9, _, rfl, rfl, rfl, by decide, by decide, by decide⟩
/-- A run of a pass with a fault among its maxima. -/
def faultedRun (k : Nat) : TreeRun := { decided0 k [] with sync := [maxOf 1, { maxOf 0 with fault := true }] }
/-- The tree with that run and the progress of its draft set. -/
def faultedSt (k : Nat) (d : DraftRoot) : State := { State.reset with tree := { runs := [faultedRun k], drafts := [d] } }
/-- A fault among the maxima of an ordinary run and of a check pass, in each clause. -/
theorem witness_SamplerRootEvents_fault :
    (∀ k, ∀ d, treeOf (faultedSt k d) { placeSmpRun.key with pass := k } = some (faultedRun k)) ∧
    (∀ k ∈ [0, 3], (faultedRun k).dup = false ∧ (faultedRun k).cancelled = false ∧ (faultedRun k).released = false ∧
      allIn (faultedRun k) ((faultedRun k).sync.map fun e => e.slice) = true ∧
      (faultedRun k).sync.any (fun e => e.fault) = true) ∧
    (∀ n ∈ [0, 1, 2], ∃ d, rootClause (faultedSt 0 d) (faultedRun 0) = n) ∧
    (∀ n ∈ [0, 1, 2], ∃ d, rootClause (faultedSt 3 d) (faultedRun 3) = n) := by
  refine ⟨fun k d => by simp [treeOf, faultedSt, faultedRun, decided0], by decide, fun n hn => ?_, fun n hn => ?_⟩
  · rcases mem_three hn with rfl | rfl | rfl
    · exact ⟨progress [] none false, by decide⟩
    · exact ⟨progress [1] (some 1) false, by decide⟩
    · exact ⟨progress [1] none false, by decide⟩
  · rcases mem_three hn with rfl | rfl | rfl
    · exact ⟨progress [1] none false, by decide⟩
    · exact ⟨progress [2, 1] (some 2) false, by decide⟩
    · exact ⟨progress [2, 1] none false, by decide⟩
/-- A frame of one time slice in which section 0 and link phase 0 go from parcel 0 to FREE, at a cycle. -/
def edgeSt (cyc : Nat) : State :=
  let r : CadRow := { len := 1, drain := 1024, ways := List.replicate 16 63, link := 0 :: List.replicate 15 63,
                      mem := List.replicate 16 63, sects := 0 :: List.replicate 191 63 }
  let t : CadTable := { CadTable.default_ with rows := [r, rowOf CadTable.default_ 0] }
  { sa id with cycle := cyc, cad := { Cadastre.init with table := t, lateWays := [(0, 1)] } }
/-- A lent core that runs a strand while its owner has one for it. -/
def lentSt : State :=
  let s := dispSt 1
  { s with cores := s.cores.map fun x => (x.1, { x.2 with run := some placeRun, easement := some 1, lent := true }) }

/-- The first cycle of the drain and the one before it; 256 cycles before the edge and 257; the edge and the cycle
before; a core to wipe; a late way group; a core to reclaim. -/
theorem witness_EdgeEvents :
    (∃ s : State, s.cycle + 1 + (curRow s).drain = edgeAt s) ∧
    (∃ s : State, edgeAt s = s.cycle + (curRow s).drain ∧ (changingCores s).contains 0 = true) ∧
    (∃ s : State, changing 16 (curRow s).link (nextRow s).link ≠ [] ∧ s.cycle + 257 = edgeAt s) ∧
    (∃ s : State, changing 16 (curRow s).link (nextRow s).link ≠ [] ∧ s.cycle + 256 = edgeAt s) ∧
    (∃ s : State, s.cycle + 1 = edgeAt s) ∧ (∃ s : State, s.cycle = edgeAt s) ∧
    (∃ (s : State) (k : Core), mget s.cores 0 = some k ∧ k.wipe = true) ∧
    (∃ s : State, s.cad.lateWays.contains (0, 0) = false ∧ s.cad.lateWays.contains (0, 1) = true ∧
      4 * 0 + 1 < s.cad.wayOwner.length) ∧
    (∃ s : State, ∃ x, (coreOf s 0).lent = true ∧ (coreOf s 0).edge = none ∧
      pickCand (coreOf s 0) (ownCands s 0) = some x ∧ (fun _ => true) x = true) :=
  ⟨⟨edgeSt 3071, rfl⟩, ⟨edgeSt 3072, rfl, by decide⟩, ⟨edgeSt 3839, by decide, rfl⟩, ⟨edgeSt 3840, by decide, rfl⟩,
   ⟨edgeSt 4095, rfl⟩, ⟨edgeSt 4096, rfl⟩, ⟨sa fun k => { k with wipe := true }, _, rfl, rfl⟩,
   ⟨edgeSt 0, by decide, by decide, by decide⟩,
   let ⟨x, h, h'⟩ := some_of (fun _ => true) (pickCand (coreOf lentSt 0) (ownCands lentSt 0)) (by decide +kernel)
   ⟨lentSt, x, rfl, rfl, h, h'⟩⟩

/-- A state at a row of a table of two, with images pending. -/
def rowsSt (row : Nat) (ps : List (CadTable × Nat)) : State :=
  let s := edgeSt 4096
  { s with cad := { s.cad with row := row, pending := ps } }
/-- A line of the L2 that has a dirty byte, or none. -/
def lineSt0 (dirty : Bool) : State :=
  { State.reset with
    cad := { Cadastre.init with lateWays := [(0, 1)] }
    phys := { State.reset.phys with l2 := [(32, { way := 4, valid := 15, wt := false })],
                                    backing := if dirty then [(4096, 0)] else [] } }
/-- The work queue of a launch at a section. -/
def wq0 : WorkQ :=
  { launch := entryId State.reset 0, ext_i := 1, ext_j := 1, ti := 0, tj := 0, pos := 0, ns := 1, next := 0,
    returned := [], taken := [] }
/-- A live launch, with stored queues, and queues in force. -/
def queueSt (qs st : Map WorkQ) : State :=
  let s := launchSt { waitL sysH .live 1 with stored := st } (ctr 0 0 0 true)
  { s with sched := { s.sched with queues := qs } }
/-- A gang of two whose second member has IRV set or not. -/
def irvGang (irv : Bool) : State :=
  { State.reset with cores := [(0, { Core.init with run := some (gangRun 0) }),
                               (1, { Core.init with run := some { gangRun 1 with irv := irv } })] }
/-- A record whose state word is given, and its strand noted by an edge. -/
def recSt (w : Nat) : State := mapped (withMem [(0x2010, 8, w)] State.reset)
/-- A strand noted by an edge. -/
def acted0 (ready : Bool) : Acted :=
  { own := { parcel := 0, launch := 0, rcd := 0x2000 }, rolls := 1, ready := ready, once := false }

/-- A line brought in; the last row of the frame and the one before; an image accepted 4,096 cycles and the drain before
the edge and one cycle less; a core with nothing, one spinning in `cwait.s`, a gang with IRV in a member and without, a
strand with IRV and without; a copy with a part into a changing core and one with none; a faulted record and others; a
wiped core and one not; a queue in force and one stored; a clean and a dirty way group, late or not. -/
theorem witness_EdgeEvents_cases :
    (∃ (s : State) (L : L2Line), mget s.phys.l2 32 = none ∧ mget (fillLine s 0 32 5).phys.l2 32 = some L) ∧
    (∃ s : State, s.cad.row + 1 < s.cad.table.rows.length) ∧
    (∃ s : State, s.cad.table.rows.length ≤ s.cad.row + 1 ∧ ∃ x ∈ s.cad.pending, edgeAt s + 1 = x.2 + 4096 + (curRow s).drain) ∧
    (∃ (s : State) (x y : CadTable × Nat), s.cad.table.rows.length ≤ s.cad.row + 1 ∧ s.cad.pending = [] ++ x :: [y] ∧
      x.2 + 4096 + (curRow s).drain = edgeAt s ∧ edgeAt s < y.2 + 4096 + (curRow s).drain) ∧
    (∃ s : State, (coreOf s 0).run = none) ∧
    (∃ s r h t acq w e, (coreOf s 0).run = some r ∧ (coreOf s 0).a.at_ = some (.cwaitS h t acq, w) ∧
      (coreOf s 0).a.spin = some e ∧ checkRemote s h r.own.parcel .wait = none ∧
      ∃ u, refAsk s 0 r.own.parcel (.home h) = .ok u) ∧
    (∀ b, ∃ s r, (coreOf s 0).run = some r ∧ (coreOf s 0).a.spin = none ∧ r.logsz ≠ 0#4 ∧
      (gangOf s 0).any (fun m => Claims.irvOf s m) = b) ∧
    (∀ b, ∃ s r, (coreOf s 0).run = some r ∧ (coreOf s 0).a.spin = none ∧ r.logsz = 0#4 ∧ r.irv = b) ∧
    (∃ s, (coreOf s 0).eng.copyq = [cpyCmd] ∧ cpyCmd.parts.any (partInto [0]) = true ∧
      ∀ x ∈ (coreOf s 0).eng.copyq, x.parts.any (partInto [1]) = false) ∧
    (∀ n ∈ [0, 5], ∃ s : State, swState (recWord (needRead s 0 0x2010 8) 0 0x2000) = n) ∧
    (∀ b, ∃ s, (coreOf s 0).wipe = b ∧ (coreOf s 0).acted = [] ∧
      ((coreOf s 0).acted.foldl writeActed s).blocked = none) ∧
    (∃ s, (coreOf s 0).wipe = false ∧ (coreOf s 0).acted ≠ [] ∧ ((coreOf s 0).acted.foldl writeActed s).blocked = none) ∧
    (∃ s L, Map.sorted s.sched.queues = true ∧ mget s.sched.queues 0 = some wq0 ∧ launchOf s wq0.launch = some L ∧
      ∀ x ∈ s.sched.launches, x.2.parcel = 1 → x.2.id ≠ wq0.launch ∧ mget x.2.stored 0 = none) ∧
    (∃ (s : State) (x : Nat × Launch), mget s.sched.queues 0 = none ∧
      s.sched.launches.find? (fun x => x.2.parcel == 0 && (mget x.2.stored 0).isSome) = some x ∧
      mget x.2.stored 0 = some wq0) ∧
    (∀ d, ∃ s : State, 1 < s.cad.wayOwner.length ∧ groupLines s.phys 1 = [32] ∧ Map.sorted s.phys.l2 = true ∧
      groupClean s.phys 1 = !d ∧ s.cad.lateWays.contains (0, 1) = true) := by
  have run0 : ∀ b, (coreOf (sa fun k => { k with run := some { placeRun with irv := b } }) 0).run =
      some { placeRun with irv := b } := fun _ => rfl
  refine ⟨?_, ⟨rowsSt 0 [], by decide⟩, ⟨rowsSt 1 [(CadTable.default_, edgeAt (rowsSt 1 []) + 1 - 4096 - (curRow (rowsSt 1 [])).drain)],
      by decide, _, List.mem_singleton.mpr rfl, by decide +kernel⟩,
    ⟨rowsSt 1 [(CadTable.default_, edgeAt (rowsSt 1 []) - 4096 - (curRow (rowsSt 1 [])).drain), (CadTable.default_, edgeAt (rowsSt 1 []))],
      _, _, by decide, rfl, by decide +kernel, by decide +kernel⟩,
    ⟨State.reset, rfl⟩,
    ⟨waitSt (some 9) 0 (some (.cwaitS sysH 6 false, false)), placeRun, sysH, 6, false, false, 9, rfl, rfl, rfl, by decide, _, rfl⟩,
    fun b => ⟨irvGang b, gangRun 0, rfl, rfl, by decide, by cases b <;> decide⟩,
    fun b => ⟨_, _, run0 b, rfl, rfl, rfl⟩, ⟨cq cpyCmd, rfl, by decide, by decide⟩, fun n hn => ?_,
    fun b => ⟨sa fun k => { k with wipe := b }, rfl, rfl, rfl⟩,
    ⟨{ recSt 0 with cores := [(0, { core0 with acted := [acted0 false] })] }, rfl, by decide, by decide +kernel⟩,
    ⟨queueSt [(0, wq0)] [], _, by decide, rfl, rfl, by decide⟩, ⟨queueSt [] [(0, wq0)], _, rfl, rfl, rfl⟩,
    fun d => ⟨lineSt0 d, by cases d <;> decide, by cases d <;> decide +kernel, by cases d <;> decide, by cases d <;> decide +kernel,
      by cases d <;> decide⟩⟩
  · obtain ⟨L, h, -⟩ := some_of (fun _ => true) (mget (fillLine State.reset 0 32 5).phys.l2 32) (by decide +kernel)
    exact ⟨State.reset, L, rfl, h⟩
  · rcases mem_two hn with rfl | rfl
    · exact ⟨recSt 0, by decide +kernel⟩
    · exact ⟨recSt 0x500, by decide +kernel⟩
/-- A device counter's handle, and a state with it. -/
abbrev devH : Word := mkHandle 2 0 0 0
/-- A generation descriptor of one sequence on that counter. -/
def gen0 : Gen :=
  { seqtab := 0x2000, nseq := 1, crsize := 64, cring := 0x2000, cdoor := devH, cdone := devH, reltab := 0, rel := [], next := 0,
    written := [], discards := [] }
/-- A mapped state with that counter at a value, memory and registered descriptors. -/
def genSt (v : Word) (gs : Map Gen) (vs : List (Nat × Nat × Nat)) : State :=
  let s := withMem vs (mapped State.reset)
  { s with homes := [(homeKey 2 0, { Home.init with entries := [(0, ctr v 0 0 true)] })], commit := { s.commit with gens := gs } }
/-- A descriptor in memory that meets the rules; its release table is on a page that is not there and reads as zeros. -/
def genMem : List (Nat × Nat × Nat) :=
  [(0x2000, 8, 0x2000), (0x2008, 4, 1), (0x200C, 4, 64), (0x2010, 8, 0x2000), (0x2018, 8, 0x8000000000000000),
   (0x2020, 8, 0x8000000000000000), (0x2028, 8, 0x8000000000)]
/-- What an area held meets a condition. -/
def areaMeets (P : State → List Byte → Bool) : Except ReadErr (State × List Byte) → Bool
  | .ok (b, bs) => P b bs
  | _ => false
theorem area_meets (P : State → List Byte → Bool) (r : Except ReadErr (State × List Byte)) (h : areaMeets P r = true) :
    ∃ b bs, r = .ok (b, bs) ∧ P b bs = true := by
  rcases r with e | ⟨b, bs⟩
  · cases h
  · exact ⟨b, bs, rfl, h⟩
/-- The case a registration is in: refused, the first, with an entry waiting, with none. -/
def genCase (n : Nat) (b : State) (bs : List Byte) : Bool :=
  let tab : Word := BitVec.ofNat 64 (fieldAt bs 0x28 8)
  let u := needRange b 0 tab (32 * 129)
  match parseGen u 0 bs (devArea u 0 tab (32 * 129)), mget u.commit.gens 0 with
  | none, _ => n == 0
  | some _, none => n == 1
  | some _, some old => n == if commitWaits u old then 2 else 3
/-- A state of each case. -/
def genCaseSt : Nat → State
  | 0 => genSt 0 [] []
  | 1 => genSt 0 [] genMem
  | 2 => genSt 1 [(0, gen0)] genMem
  | _ => genSt 0 [(0, gen0)] genMem
theorem gen_cases (n : Nat) (h : areaMeets (genCase n) (readArea (unitRead 0) (genCaseSt n) 0x2000 1) = true) :
    ∃ b bs, readArea (unitRead 0) (genCaseSt n) 0x2000 1 = .ok (b, bs) ∧ genCase n b bs = true :=
  area_meets (genCase n) (readArea (unitRead 0) (genCaseSt n) 0x2000 1) h
theorem gen_case3_meets : areaMeets (genCase 3) (readArea (unitRead 0) (genCaseSt 3) 0x2000 1) = true := by decide +kernel
theorem gen_case3 : ∃ b bs, readArea (unitRead 0) (genCaseSt 3) 0x2000 1 = .ok (b, bs) ∧ genCase 3 b bs = true :=
  gen_cases 3 gen_case3_meets
/-- A state with one future. -/
def oneFut (f : Future) (cyc : Nat) : State :=
  { State.reset with futures := [(0, f)], cycle := cyc, host := { State.reset.host with conns := [(4, { parcel := 0, applied := [], waits := [] })] } }

/-- A deadline at the tick and one later; a completion 2^24 cycles ago and one cycle less; a reply to its future and to
none; the four cases of a registration; a commit entry that waits and none; a function in reset and not. -/
theorem witness_FutureAndGenerationEvents :
    (∀ d ∈ [2200, 2201], ∃ (s : State) (f : Future), Map.sorted s.futures = true ∧ mget s.futures 0 = some f ∧ f.pending = true ∧
      f.deadline = BitVec.ofNat 64 d ∧ s.cycle / 1100 * 1100 = 2200) ∧
    (∀ c ∈ [2 ^ 24 - 1, 2 ^ 24], ∃ s : State, (futOf s 0).complete = true ∧ (futOf s 0).tag = noSeq ∧ (futOf s 0).doneAt = 0 ∧
      s.cycle = c) ∧
    (∀ n ∈ [(3 : BitVec 32), 4], ∃ (s : State) (C : Conn), mget s.host.conns 4 = some C ∧
      refusesCompletion (futOf s 0) C.parcel n = decide (n = 4) ∧ (futOf s 0).origin = 2#2 ∧ (futOf s 0).conn = 4) ∧
    (∀ n ∈ List.range 4, ∃ s : State, ∃ b bs, readArea (unitRead 0) s 0x2000 1 = .ok (b, bs) ∧ genCase n b bs = true) ∧
    (∀ v ∈ [(0 : Word), 1], ∃ (s : State) (g : Gen), mget s.commit.gens 0 = some g ∧ s.host.quiesced = false ∧
      commitWaits s g = decide (v = 1)) ∧
    (∃ (s : State) (g : Gen), mget s.commit.gens 0 = some g ∧ commitWaits s g = true ∧
      (readCommit s 0 g g.next).seq ≠ 0xFFFFFFFF ∧ g.nseq ≤ (readCommit s 0 g g.next).seq) ∧
    (∀ b, ∃ s : State, (fnOf s 1).inreset = b) := by
  refine ⟨fun d hd => ?_, fun c hc => ?_, fun n hn => ?_, fun n hn => ?_, fun v hv => ?_,
    ⟨genSt 1 [(0, gen0)] [(0x2008, 4, 5)], gen0, rfl, by decide +kernel, by decide +kernel, by decide +kernel⟩,
    fun b => ⟨{ State.reset with host := { State.reset.host with fns := [(1, { Fn.init 1 with inreset := b })] } }, rfl⟩⟩
  · exact ⟨oneFut { fut0 with deadline := BitVec.ofNat 64 d } 2200, _, rfl, rfl, rfl, rfl, by show 2200 / 1100 * 1100 = 2200; decide⟩
  · exact ⟨oneFut { fut0 with st := .replied } c, rfl, rfl, rfl, rfl⟩
  · rcases mem_two hn with rfl | rfl <;>
      exact ⟨oneFut { fut0 with origin := 2, conn := 4 } 0, _, rfl, by decide, rfl, rfl⟩
  · have : n = 0 ∨ n = 1 ∨ n = 2 ∨ n = 3 := by simp at hn; omega
    rcases this with rfl | rfl | rfl | rfl
    · exact ⟨genCaseSt 0, gen_cases 0 (by decide +kernel)⟩
    · exact ⟨genCaseSt 1, gen_cases 1 (by decide +kernel)⟩
    · exact ⟨genCaseSt 2, gen_cases 2 (by decide +kernel)⟩
    · exact ⟨genCaseSt 3, gen_case3⟩
  · rcases mem_two hv with rfl | rfl
    · exact ⟨genSt 0 [(0, gen0)] [], gen0, rfl, rfl, by decide +kernel⟩
    · exact ⟨genSt 1 [(0, gen0)] [], gen0, rfl, rfl, by decide +kernel⟩

/-- A descriptor whose one sequence stands beside its ring, with a release ring of function 0. -/
def gen1 (n : Nat) : Gen := { gen0 with seqtab := 0x2100, rel := [{ base := 0x2400, n := n, handle := sysH }] }
/-- A sequence ACTIVE of tag 7 and function 0 with one tool, under that descriptor, and more memory. -/
def seqSt (n : Nat) (vs : List (Nat × Nat × Nat)) : State :=
  genSt 1 [(0, gen1 n)] ([(0x2100, 4, 7), (0x2106, 1, 1), (0x2118, 8, 0x2300), (0x2120, 8, 0x2800), (0x2300, 4, 0x11),
    (0x2304, 4, 0x22), (0x2310, 4, 0xFFFFFFFF)] ++ vs)
/-- That sequence. -/
def seq0 : SeqRef := { p := 0, e := 0x2100, fn := 0, n := 0 }
/-- The entry that a state's descriptor is at meets a condition. -/
def CommitAt (s : State) (g : Gen) (P : State → SeqRef → CommitEnt → Prop) : Prop :=
  let b := needRead s 0 (g.cring + BitVec.ofNat 64 (64 * (g.next % g.crsize))) 64
  let x := readCommit b 0 g g.next
  let e := g.seqtab + BitVec.ofNat 64 (192 * x.seq)
  let n := if x.seq < g.nseq then needRange b 0 e 192 else b
  P n { p := 0, e := e, fn := devNat n 0 (e + 4) 2, n := 0 } x
/-- Which clause a committed token falls under: 0 the call closes, 1 the arguments are full, 2 kept, 3 plain, 4 no slot,
5 a call opens. -/
def tokenClause (s : State) (q : SeqRef) (t : Nat) : Nat :=
  let len := sqGet s q 8 4
  let r := relRecord s q t len 0 0
  let c := Claims.putLen r.1 r.2 (len + 1)
  let b := needTools r.2 c 16 0
  let capt := sqGet c r.2 0x0E 1
  if 128 ≤ capt then
    if t = (toolAt b r.2 (capt % 16)).close then 0 else if sqGet b r.2 0x10 2 = 1024 then 1 else 2
  else match (toolTable b r.2).findIdx? fun e => e.open_ == t with
    | none => 3
    | some _ => if seqSlots b r.2.p r.2.e = 0xFFFF#16 then 4
                else if (seqSlots b r.2.p r.2.e).getLsbD 15 = false ∧
                  (List.range 15).all (fun j => (seqSlots b r.2.p r.2.e).getLsbD j) = true then 5
                else 6

/-- The end record; an iteration at the sequence's next one and one behind; every clause of a committed token; a release
ring and none; a future that can be made and one that cannot; the last prefill entry and a full one; a sequence of the
function and not, free and not; a future of the tag and not. -/
theorem witness_FutureAndGenerationEvents_commit :
    (∃ s : State, mget s.commit.gens 0 = some (gen1 0) ∧ CommitAt s (gen1 0) fun _ _ x => x.seq = 0xFFFFFFFF) ∧
    (∃ s : State, mget s.commit.gens 0 = some (gen1 0) ∧
      CommitAt s (gen1 0) fun n q x => x.seq ≠ 0xFFFFFFFF ∧ Claims.Discarded n (gen1 0) q x) ∧
    (∃ s : State, mget s.commit.gens 0 = some (gen1 0) ∧
      CommitAt s (gen1 0) fun n q x => x.seq ≠ 0xFFFFFFFF ∧ ¬Claims.Discarded n (gen1 0) q x) ∧
    (∃ s t, tokenClause s seq0 t = 0) ∧ (∃ s t, tokenClause s seq0 t = 1) ∧ (∃ s t, tokenClause s seq0 t = 2) ∧
    (∃ s t, tokenClause s seq0 t = 3) ∧ (∃ s t, tokenClause s seq0 t = 4) ∧ (∃ s t, tokenClause s seq0 t = 5) ∧
    ((relRing (seqSt 0 []) 0 0).n = 0 ∧ (relRing (seqSt 256 []) 0 0).n ≠ 0) ∧
    (∃ e, seqOf (seqSt 0 [(0x2113, 1, 15)]) 0 7 = some e ∧ devNat (seqSt 0 [(0x2113, 1, 15)]) 0 (e + 0x13) 1 = 15) ∧
    (∃ e, seqOf (seqSt 0 [(0x2113, 1, 16)]) 0 7 = some e ∧ devNat (seqSt 0 [(0x2113, 1, 16)]) 0 (e + 0x13) 1 = 16) ∧
    seqOf (seqSt 0 []) 0 8 = none ∧
    (devNat (seqSt 0 []) 0 (0x2100 + 4) 2 = 0 ∧ devNat (seqSt 0 []) 0 (0x2100 + 6) 1 ≠ 0) ∧
    ((fut0.st = .armed ∨ fut0.st = .running) ∧ Map.sorted (oneFut fut0 0).futures = true) :=
  ⟨⟨seqSt 0 [(0x2008, 4, 0xFFFFFFFF)], rfl, by unfold CommitAt; decide +kernel⟩,
   ⟨seqSt 0 [(0x200C, 4, 7), (0x2148, 8, 1)], rfl, by unfold CommitAt Claims.Discarded; decide +kernel⟩,
   ⟨seqSt 0 [(0x200C, 4, 7)], rfl, by unfold CommitAt Claims.Discarded; decide +kernel⟩,
   ⟨seqSt 0 [(0x210E, 1, 128)], 0x22, by decide +kernel⟩,
   ⟨seqSt 0 [(0x210E, 1, 128), (0x2110, 2, 1024)], 0x23, by decide +kernel⟩,
   ⟨seqSt 0 [(0x210E, 1, 128), (0x2110, 2, 1023)], 0x23, by decide +kernel⟩,
   ⟨seqSt 0 [], 0x22, by decide +kernel⟩, ⟨seqSt 256 [(0x210C, 2, 0xFFFF)], 0x11, by decide +kernel⟩,
   ⟨seqSt 256 [(0x210C, 2, 0x7FFF)], 0x11, by decide +kernel⟩, by decide +kernel, ⟨0x2100, by decide +kernel⟩,
   ⟨0x2100, by decide +kernel⟩, by decide +kernel, by decide +kernel, by decide⟩

/-! ### Integrity and the monitor -/

/-- A hit at a place. -/
def hit (p : ScrubPlace) (cor cl2 : Bool) : ScrubHit := { place := p, correctable := cor, cleanL2 := cl2 }

/-- A core with and without a strand; hits out of reach, correctable with an owner and without, in a clean line, and
not correctable; a node that exists and one that does not. -/
theorem witness_IntegrityEvents :
    (∃ s : State, (coreOf s 0).run = none) ∧ (∃ s : State, ∃ r, (coreOf s 0).run = some r ∧ r.logsz = 0#4) ∧
    (∃ h : ScrubHit, scrubs.reaches true h = false) ∧
    (∃ s : State, ∃ h : ScrubHit, ∃ p, scrubs.reaches true h = true ∧ h.correctable = true ∧ placeOwner s h.place = some p ∧ p < 40) ∧
    (∃ (s : State) (h : ScrubHit), scrubs.reaches true h = true ∧ h.correctable = true ∧ ∀ p, placeOwner s h.place = some p → 40 ≤ p) ∧
    (∃ h : ScrubHit, scrubs.reaches false h = true ∧ h.correctable = false ∧ h.cleanL2 = true) ∧
    (∃ h : ScrubHit, scrubs.reaches true h = true ∧ h.correctable = false ∧ h.cleanL2 = false) ∧
    (∃ (s : State), nodeOk 0 0 = true ∧ nodeOk 1 0 = false ∧ (∀ p, (parcelOf s p).fault = none) ∧
      nodeBlocks s 0 0 0 ≠ 0) :=
  ⟨⟨State.reset, rfl⟩, ⟨sa id, placeRun, rfl, rfl⟩, ⟨hit (.scratchpad 0 0) true false, rfl⟩,
   ⟨mapped State.reset, hit (.physical 0x1000) true false, 0, by decide, rfl, rfl, by decide⟩,
   ⟨State.reset, hit (.physical 0x1000) true false, by decide, rfl, fun p h => by cases h; decide⟩,
   ⟨hit (.scratchpad 0 0) false true, by decide, rfl, rfl⟩,
   ⟨hit (.physical 0x1000) false false, by decide, rfl, rfl⟩,
   ⟨{ State.reset with phys := { State.reset.phys with frames := [(0, 0)] } }, by decide, by decide, fun _ => rfl,
     by decide⟩⟩

/-- A host line in the L2 with its first byte dirty or clean. -/
def scrubSt (dirty : Bool) : State :=
  { mapped State.reset with phys := { (mapped State.reset).phys with
      l2 := [(32, { way := 4, valid := 15, wt := false })], backing := if dirty then [(4096, 0)] else [] } }
/-- A clean line of the L2 hit, a dirty one, none; a block of a parcel's frame; the root of a controller group's tree and
the level above; a copy under a failing node. -/
theorem witness_IntegrityEvents_lines :
    (∃ (s : State) (l : Nat), cleanLine s (.physical 0x1000) = some l) ∧
    (∃ s : State, cleanLine s (.physical 0x1000) = none ∧ (heldLine s.phys 0x1000).isSome = true) ∧
    (∃ s : State, ∃ pa, isDram pa = true ∧ poisoned s.phys pa = false ∧ frameOwner s pa = 0) ∧
    (∃ lo size top, treeOfPa 0x1000 = some (lo, size, top) ∧ nodeOk lo top = true ∧ nodeOk lo (top + 1) = false ∧
      nodeOk (lo + 1) 0 = false ∧ size ≤ 512 * 8 ^ top) ∧
    (∃ s : State, ∃ x, x ∈ (coreOf s 0).eng.copyq ∧ x.covered = [(0x1000, 64)]) := by
  refine ⟨⟨scrubSt false, 32, by decide +kernel⟩, ⟨scrubSt true, by decide +kernel, by decide +kernel⟩,
    ⟨mapped State.reset, 0x1000, by decide, by decide, by decide⟩, ?_,
    ⟨cq { cpyCmd with covered := [(0x1000, 64)] }, _, List.mem_singleton.mpr rfl, rfl⟩⟩
  obtain ⟨⟨lo, size, top⟩, h, h'⟩ := some_of (fun (x : Nat × Nat × Nat) => nodeOk x.1 x.2.2 && !nodeOk x.1 (x.2.2 + 1) &&
    !nodeOk (x.1 + 1) 0 && decide (x.2.1 ≤ 512 * 8 ^ x.2.2)) (treeOfPa 0x1000) (by decide +kernel)
  simp only [Bool.and_eq_true, Bool.not_eq_true', decide_eq_true_eq] at h'
  exact ⟨lo, size, top, h, h'.1.1.1, h'.1.1.2, h'.1.2, h'.2⟩
/-- A cadastre image with a serial and one row of one time slice and a drain of 1,024 cycles; every owner FREE. -/
def imagePre (serial : Nat) : List Byte :=
  leBytes 4 1 ++ List.replicate 4 0 ++ leBytes 8 serial ++ List.replicate 48 0 ++
    (List.replicate 40 (List.replicate 8 0 ++ List.replicate 8 0xFF)).flatten ++ List.replicate 64 0 ++
    leBytes 2 1 ++ List.replicate 2 0 ++ leBytes 4 1024 ++ List.replicate 8 0
/-- The whole image. -/
def image (serial : Nat) : List Byte := imagePre serial ++ List.replicate 240 63
theorem field_fill (pre : List Byte) (x : Byte) (n k j : Nat) (hp : pre.length = k) (hj : j < n) :
    fieldAt (pre ++ List.replicate n x) (k + j) 1 = x.toNat := by
  subst hp
  have : (pre ++ List.replicate n x).drop (pre.length + j) = List.replicate (n - j) x := by simp [List.drop_append]
  unfold fieldAt
  rw [this, show n - j = (n - j - 1) + 1 by omega, List.replicate_succ]
  simp [leNat]
theorem owners_free (off n : Nat) (h : 16 ≤ off) (h' : off + n ≤ 256) :
    ((List.range n).map fun i => fieldAt (image 1) (0x300 + 256 * 0 + off + i) 1) = List.replicate n 63 := by
  rw [List.eq_replicate_iff]
  refine ⟨by simp, fun b hb => ?_⟩
  obtain ⟨i, hi, rfl⟩ := List.mem_map.mp hb
  rw [show 0x300 + 256 * 0 + off + i = 784 + (off - 16 + i) by omega]
  exact field_fill (imagePre 1) 63 240 784 (off - 16 + i) (by decide +kernel) (by have := List.mem_range.mp hi; omega)
theorem image_row : parseRow (image 1) 0 = rowOf { CadTable.default_ with rows :=
    [{ len := 1, drain := 1024, ways := List.replicate 16 63, link := List.replicate 16 63, mem := List.replicate 16 63,
       sects := List.replicate 192 63 }] } 0 := by
  unfold parseRow
  simp only [owners_free 0x10 16 (by decide) (by decide), owners_free 0x20 16 (by decide) (by decide),
    owners_free 0x30 16 (by decide) (by decide), owners_free 0x40 192 (by decide) (by decide)]
  rw [show fieldAt (image 1) (0x300 + 256 * 0) 2 = 1 by decide +kernel,
    show fieldAt (image 1) (0x300 + 256 * 0 + 4) 4 = 1024 by decide +kernel]
  rfl
theorem image_rows : (parseTable (image 1)).rows = [parseRow (image 1) 0] := by
  show (List.range (fieldAt (image 1) 0 4)).map (parseRow (image 1)) = _
  rw [show fieldAt (image 1) 0 4 = 1 by decide +kernel]
  rfl
theorem image_ok : imageOk State.reset (image 1) (parseTable (image 1)) = true := by
  unfold imageOk
  simp only [rowOf, image_rows, image_row]
  simp only [Bool.and_eq_true]
  refine ⟨⟨⟨⟨⟨⟨⟨⟨⟨?_, ?_⟩, ?_⟩, ?_⟩, ?_⟩, ?_⟩, ?_⟩, ?_⟩, ?_⟩, ?_⟩
  all_goals decide +kernel

/-- A grant of the system counter to a connection. -/
def grant0 (asked : Bool) : Grant :=
  { handle := sysH, who := .connection 4, add := true, read := true, wait := true, asked := asked }
/-- A state with a parcel 0 that owns nothing, or one frame. -/
def parcelSt (owns : Bool) : State :=
  { State.reset with parcels := [(0, { Parcel.init with exists_ := true })],
                     phys := { State.reset.phys with frames := if owns then [(1, 0)] else [] } }

/-- An image too short, one that meets the rules, one with a serial that does not rise; a parcel that exists or not, that owns something or not; the
greatest and the first refused numbers; a grant asked for, present, absent; a check entry that fits and one that does
not. `Config.quotaOk` has no value in the model: for every request one of the two cases holds. -/
theorem witness_MonitorTableServices :
    (([] : List Byte).length < 0x400 ∧ (image 1).length = 0x400 ∧ fieldAt (image 1) 0 4 = 1 ∧ imageOk State.reset (image 1) (parseTable (image 1)) = true ∧
      imageOk State.reset (image 0) (parseTable (image 0)) = false) ∧
    (∃ s : State, 39 < 40 ∧ (parcelOf s 39).exists_ = false ∧ (parcelOf s 0).exists_ = true) ∧
    (∃ s : State, (parcelOf s 0).exists_ = true ∧ ownsAnything s 0 = true ∧ ∃ k, mget s.phys.frames k = some 0) ∧
    (∃ s : State, (parcelOf s 0).exists_ = true ∧ ownsAnything s 0 = false ∧ Map.sorted s.parcels = true) ∧
    (∃ s : State, ¬OwnerId s 39 ∧ OwnerId s 62 ∧ OwnerId s 63 ∧ OwnerId s 0 ∧ Map.sorted s.phys.vaultOwner = true ∧
      Map.sorted s.phys.frames = true ∧ sectExists 0 = true ∧ isDram (4096 * 1) = true ∧ s.phys.windows = [] ∧
      s.phys.mem.wf = true) ∧
    (∃ s : State, (grant0 false).asked = false ∧ (grant0 true).asked = true ∧ s.grants.length = 1023) ∧
    (∃ s : State, ∃ x ∈ s.grants, x.handle = (grant0 true).handle ∧ x.who = (grant0 true).who) ∧
    (∃ s : State, ∀ x ∈ s.grants, x.handle ≠ (grant0 true).handle ∨ x.who ≠ (grant0 true).who) ∧
    (∀ q, (∀ n ∈ quotaNumbers q, Config.quotaOk n = true) ∨ ∃ n ∈ quotaNumbers q, Config.quotaOk n = false) ∧
    (∃ s : State, ∃ e : CheckEntry, OwnerId s e.parcel.toNat ∧ e.policy ≠ 3#2 ∧ e.policy = 0#2 ∧
      e.policy = (fnOf s 0).check.policy) ∧ (∃ e : CheckEntry, e.policy = 3#2) := by
  have n39 : ¬OwnerId (parcelSt false) 39 := by rintro (h | h | ⟨-, h⟩) <;> revert h <;> decide
  refine ⟨⟨by decide, by decide +kernel, by decide +kernel, image_ok, by decide +kernel⟩, ⟨parcelSt false, by decide, rfl, rfl⟩,
    ⟨parcelSt true, rfl, by decide, 1, rfl⟩, ⟨parcelSt false, rfl, by decide, rfl⟩,
    ⟨parcelSt false, n39, .inl rfl, .inr (.inl rfl), .inr (.inr ⟨by decide, rfl⟩), rfl, rfl, by decide, by decide, rfl, rfl⟩,
    ⟨{ State.reset with grants := List.replicate 1023 (grant0 true) }, rfl, rfl, List.length_replicate⟩,
    ⟨{ State.reset with grants := [grant0 true] }, grant0 true, List.mem_singleton.mpr rfl, rfl, rfl⟩,
    ⟨State.reset, fun _ h => nomatch h⟩, fun q => ?_,
    ⟨parcelSt false, { parcel := 0, opMask := 0, bar2 := false, policy := 0 }, .inr (.inr ⟨by decide, rfl⟩), by decide, rfl,
      rfl⟩, ⟨{ parcel := 0, opMask := 0, bar2 := false, policy := 3 }, rfl⟩⟩
  by_cases h : ∀ n ∈ quotaNumbers q, Config.quotaOk n = true
  · exact .inl h
  · exact .inr (by simpa using h)

/-- An image of the service firmware with its magic and version. -/
def fw (magic : BitVec 32) (svn : Nat) : FwImage :=
  { magic := magic, svn := BitVec.ofNat 32 svn, code := [], digest := 0, sig := [] }
/-- Firmware. -/
def fw0 : FwImage := fw 0 0
/-- The security core up and service firmware running. -/
def opened (s : State) : State := { s with mgmt := { s.mgmt with running := some fw0, secUp := true } }
/-- The mailbox open and closed; a request block short, of service 0, 15 and 16; an image of no row, of 33 rows and with a
byte missing; a quota used up and with a page left. -/
theorem witness_MonitorTableServices_mailbox :
    (∃ s, mailboxOpen s = true ∧ (parcelOf s 0).exists_ = true) ∧ (∃ s, mailboxOpen s = false) ∧
    (∀ n ∈ [0, 16], (leBytes 4 n ++ List.replicate 60 (0 : Byte)).length = 64 ∧
      (fieldAt (leBytes 4 n ++ List.replicate 60 (0 : Byte)) 0 4 = 0 ∨
        15 < fieldAt (leBytes 4 n ++ List.replicate 60 (0 : Byte)) 0 4)) ∧
    (fieldAt (leBytes 4 15 ++ List.replicate 60 (0 : Byte)) 0 4 = 15) ∧
    (∀ n ∈ [0, 33], (leBytes 4 n ++ List.replicate 764 (0 : Byte)).length = 0x300 ∧
      fieldAt (leBytes 4 n ++ List.replicate 764 (0 : Byte)) 0 4 = n) ∧
    ((image 1).dropLast.length = 0x3FF ∧ fieldAt (image 1).dropLast 0 4 = 1) ∧
    (∃ s : State, Claims.TierRoom s 0 (tierOf 0x3000) 1 ∧ frameOwner s 0x3000 ≠ 0) ∧
    (∃ s : State, ¬Claims.TierRoom s 0 (tierOf 0x3000) 1 ∧ frameOwner s 0x3000 ≠ 0) := by
  let q (n : Nat) : State := { opened (parcelSt true) with parcels :=
    [(0, { Parcel.init with exists_ := true, quotas := { noQuotas with tiers := List.replicate 8 n } })] }
  have room : ∀ n, (parcelOf (q n) 0).quotas.tiers[tierOf 0x3000]? = some n := fun _ => rfl
  have used2 : tierPages (q 2) 0 (tierOf 0x3000) = 1 := by decide +kernel
  have used1 : tierPages (q 1) 0 (tierOf 0x3000) = 1 := by decide +kernel
  refine ⟨⟨opened (parcelSt false), by decide, rfl⟩, ⟨State.reset, by decide⟩, by decide, by decide, by decide +kernel,
    by decide +kernel, ⟨q 2, fun x h => ?_, by decide⟩, ⟨q 1, fun h => ?_, by decide⟩⟩
  · rw [room 2] at h
    cases h
    exact Nat.le_of_eq (congrArg (· + 1) used2)
  · have := h 1 (room 1)
    rw [used1] at this
    omega
/-- A format window of group 0 with a control word. -/
def win (ctl : Word) : FormatWindow := { src := 0, scl := 0, view := 0, ctl := ctl }
/-- A state with that window. -/
def winSt (ctl : Word) : State := putWindow State.reset 0 0 (win ctl)
/-- A parcel with a device counter, one frame of memory, and its services' areas. -/
def unitSt : State := { genSt 0 [] [] with host := { State.reset.host with
  conns := [(4, { parcel := 0, applied := [], waits := [] })], cxl := [{ base := 0x1000, frames := 1, write := true, parcel := 0 }] } }
/-- A range of the frames that it owns. -/
def range0 : CxlRange := { base := 0x1000, frames := 2, write := false, parcel := 0 }

/-- A window busy, enabled, disabled, and the first numbers refused; an area and a ring that meet their rules and that do
not; the firmware's magic; routes and connections; a range that may be exposed, one that may not, one exposed. -/
theorem witness_MonitorUnitServices :
    ((mgetD (winSt 0x4000000000000000).phys.windows (windowKey 0 0) (win 0)).ctl.getLsbD 62 = true) ∧
    (∃ ctl, ctl.getLsbD 62 = false ∧ (win ctl).en = true ∧ cleanWindow (win ctl) = win ctl) ∧
    (∃ ctl, ctl.getLsbD 62 = false ∧ (win ctl).en = false ∧ cleanWindow (win ctl) = win ctl ∧
      windowOk State.reset 0 0 { win ctl with ctl := 0x8000000000000000 } = false) ∧
    (∃ c : FaultAreaCfg, c.base.toNat % 64 = 0 ∧ c.entries = 2 ^ 6 ∧ ownsCounter unitSt 0 2 c.handle = true ∧
      (c.repair = true → ownsCounter unitSt 0 2 c.repairHandle = true)) ∧
    (∃ c : FaultAreaCfg, ownsCounter unitSt 0 2 c.handle = false) ∧
    (∃ c : RingCfg, areaOwned unitSt 0 c.base (ringEntryBytes .pager * c.entries) = true ∧ 0 < c.entries ∧
      c.handle ≠ 0 ∧ ownsCounter unitSt 0 2 c.handle = true ∧ ringEmpty unitSt 0 .pager = true) ∧
    ((parcelOf unitSt 0).exists_ = true ∧ (parcelOf unitSt 1).exists_ = false) ∧
    (∃ C, mget unitSt.host.conns 4 = some C ∧ C.parcel = 0 ∧ mget unitSt.host.conns 4095 = none ∧
      Map.sorted unitSt.host.conns = true) ∧
    (rangeOk unitSt range0 = true ∧ rangeOk unitSt { range0 with frames := 3 } = false ∧ unitSt.host.cxl.length = 1 ∧
      range0 ∉ unitSt.host.cxl) :=
  ⟨by decide, ⟨0x8000000000000000, by decide, by decide, by decide⟩, ⟨0, by decide, by decide, by decide, by decide⟩,
   ⟨{ base := 0x2000, entries := 64, handle := devH, repair := false, repairHandle := 0 }, by decide, rfl, by decide,
     fun h => nomatch h⟩,
   ⟨{ base := 0x2000, entries := 64, handle := 0, repair := false, repairHandle := 0 }, by decide⟩,
   ⟨{ base := 0x2000, entries := 1, handle := devH }, by decide +kernel, by decide, by decide, by decide, by decide⟩,
   ⟨by decide, by decide⟩, ⟨_, rfl, rfl, rfl, rfl⟩, by decide +kernel, by decide +kernel, rfl, by decide⟩

/-! ### The host, peers and management -/

/-- A window's registers that are taken while it is not enabled, and ones that are not; an overflow ring and its area in a
package whose mailbox is open; firmware with its magic and without. -/
theorem witness_MonitorUnitServices_more :
    (∃ (s : State) (w : FormatWindow), cleanWindow w = w ∧ w.en = false ∧ Claims.WindowTakes s 8 63 w) ∧
    (∃ (s : State) (w : FormatWindow), cleanWindow w = w ∧ w.en = false ∧ ¬Claims.WindowTakes s 8 63 w) ∧
    (∃ (s : State) (c : RingCfg), mailboxOpen s = true ∧ c.entries = 1 ∧ ownsCounter s 0 2 c.handle = true ∧
      (awaitArea s 0 c.base 32).blocked = none ∧ areaOwned (awaitArea s 0 c.base 32) 0 c.base 32 = true) ∧
    ((fw 0xD4F05F01 0).magic = 0xD4F05F01#32 ∧ (fw 0 0).magic ≠ 0xD4F05F01#32) :=
  ⟨⟨State.reset, win 0x200, by decide, by decide, by decide, by decide, fun h => absurd h (by decide)⟩,
   ⟨State.reset, win 0xF, by decide, by decide, fun h => absurd h.1 (by decide)⟩,
   ⟨opened unitSt, { base := 0x2000, entries := 1, handle := devH }, by decide, rfl, by decide, by decide +kernel,
     by decide +kernel⟩, rfl, by decide⟩
/-- A function 1 of parcel 0 with every ring operation allowed, bus mastering, and ring 0 enabled with 64 entries. -/
def fn1 (R : Ring) (pol : BitVec 2) : Fn :=
  { Fn.init 1 with check := { parcel := 0, opMask := 0xFF, bar2 := true, policy := pol }, bme := true, rings := [(0, R)],
                   ints := [(0, { cien := true, cidx := 0, cithr := 5 })] }
/-- A ring of 64 entries with a doorbell count. -/
def ring0 (en : Bool) (tail : BitVec 32) (b : List Begun) : Ring :=
  { rbase := 0, rsize := 64, en := en, rhead := 0, rtail := tail, begun := b }
/-- A package that answers the host, with that function and a system counter of the parcel at a value. -/
def hostOn (base : State) (R : Ring) (pol : BitVec 2) (v : Word) : State :=
  let s := withCtr (ctr v 0 0 true) base
  { s with mgmt := { s.mgmt with running := some fw0, secUp := true },
           host := { s.host with answering := true, pcieUp := true, cxlUp := true,
                                 fns := [(0, { fn1 (ring0 false 0 []) 0 with check := { parcel := 0, opMask := 0, bar2 := true, policy := 0 } }),
                                         (1, fn1 R pol)] } }
/-- That package over a descriptor that may be submitted. -/
def hostSt (R : Ring) (pol : BitVec 2) (v : Word) : State := hostOn (submitSt 4096 1) R pol v
/-- A ring entry with an operation and two operands. -/
def rent (op : BitVec 8) (a b c : Word) : RingEntry :=
  { opc := op, efl := 0, zero2 := 0, etag := 0, arg0 := a, arg1 := b, arg2 := c, doneh := 0, zero28 := 0 }

/-- The window of a function reaches counter 0 and not counter 1; amounts at the bound; a ring off and on; a doorbell a
full ring ahead and one further; an interrupt that fires and one that does not. -/
theorem witness_HostPortAccesses :
    (∀ en, ∃ s, fnLive s 1 = true ∧ (fnRing (fnOf s 1) 0).en = en) ∧
    (∃ s, fnLive s 1 = true ∧ ringSize (fnRing (fnOf s 1) 0) = ((64 : BitVec 32) - (fnRing (fnOf s 1) 0).rhead).toNat ∧
      ringSize (fnRing (fnOf s 1) 0) < ((65 : BitVec 32) - (fnRing (fnOf s 1) 0).rhead).toNat) ∧
    (∃ s, fnLive s 1 = true ∧ (fnOf s 1).inreset = false ∧ WindowReaches s 1 0 .add ∧ ¬WindowReaches s 1 1 .add ∧
      WindowReaches s 1 0 .read ∧ ¬WindowReaches s 1 1 .read ∧ (0xFFFFFFFF : Word).toNat < 2 ^ 32) ∧
    (∃ s c, Fires s 1 c) ∧ (∃ s c, ¬Fires s 1 c) ∧
    (∃ s, portUp s = true ∧ fnLive s 1 = false) ∧
    (∃ s : State, s.host.cxlUp = true ∧ WindowReaches s 0 0 .add ∧ ¬WindowReaches s 0 1 .add) := by
  have no : ∀ f r, ¬WindowReaches (hostSt (ring0 true 0 []) 1 5) f 1 r := fun f r h => absurd h.2.1 (by decide)
  refine ⟨fun en => ⟨hostSt (ring0 en 0 []) 1 5, by cases en <;> decide, by cases en <;> rfl⟩, ⟨hostSt (ring0 true 0 []) 1 5, by decide, by decide, by decide⟩,
    ⟨hostSt (ring0 true 0 []) 1 5, by decide, rfl, ⟨rfl, rfl, .inl rfl⟩, no _ _, ⟨rfl, rfl, .inl rfl⟩, no _ _, by decide⟩,
    ⟨hostSt (ring0 true 0 []) 1 5, { cien := true, cidx := 0, cithr := 5 }, rfl, rfl, rfl, .inl rfl, by decide⟩,
    ⟨hostSt (ring0 true 0 []) 1 5, { cien := false, cidx := 0, cithr := 5 }, fun h => absurd h.1 (by decide)⟩,
    ⟨{ hostSt (ring0 true 0 []) 1 5 with host := { (hostSt (ring0 true 0 []) 1 5).host with
        fns := [(1, { Fn.init 1 with lost := true })] } }, by decide, by decide⟩,
    ⟨hostSt (ring0 true 0 []) 1 5, rfl, ⟨rfl, rfl, .inl rfl⟩, no _ _⟩⟩

/-- That package with the function's first MSI-X entry masked or not, its vector waiting or not. -/
def msixSt (b w : Bool) : State :=
  { hostSt (ring0 true 0 []) 1 5 with host := { (hostSt (ring0 true 0 []) 1 5).host with
    fns := [(1, { fn1 (ring0 true 0 []) 1 with msix := [(0, { MsixEnt.init with masked := b })],
                                               msixWaits := if w then [0] else [] })] } }
/-- A counter interrupt that fires while its MSI-X entry is masked and while it is not; an entry written masked and not,
with its vector waiting and not. -/
theorem witness_HostPortAccesses_msix :
    (∀ b, ∃ s c, Fires s 1 c ∧ (mgetD (fnOf s 1).msix 0 MsixEnt.init).masked = b) ∧
    (∀ b w, ∃ (s : State) (e : MsixEnt), fnLive s 1 = true ∧ e.masked = b ∧ decide (0 ∈ (fnOf s 1).msixWaits) = w) :=
  ⟨fun b => ⟨msixSt b false, { cien := true, cidx := 0, cithr := 5 }, ⟨rfl, rfl, rfl, .inl rfl, by cases b <;> decide⟩, rfl⟩,
   fun b w => ⟨msixSt b w, { MsixEnt.init with masked := b }, by cases b <;> cases w <;> decide, rfl,
     by cases b <;> cases w <;> decide⟩⟩
/-- A function not ready, in its reset and out of it; an access to each register; firmware that does not run; a port
ready for configuration and one that is not. -/
theorem witness_HostPortAccesses_reads :
    (∀ b, ∃ s : State, portUp s = true ∧ (fnOf s 1).ready = false ∧ (fnOf s 1).inreset = b) ∧
    (∃ s : State, s.mgmt.running = none) ∧ (∀ b, ∃ s : State, portUp s = true ∧ s.host.portReady = b) := by
  refine ⟨fun b => ⟨{ hostSt (ring0 true 0 []) 1 5 with host := { (hostSt (ring0 true 0 []) 1 5).host with
      fns := [(1, { Fn.init 1 with ready := false, inreset := b })] } }, rfl, rfl, rfl⟩, ⟨State.reset, rfl⟩,
    fun b => ⟨{ hostSt (ring0 true 0 []) 1 5 with host := { (hostSt (ring0 true 0 []) 1 5).host with portReady := b } }, rfl, rfl⟩⟩
/-- An entry begun with its copy done, and one that waits. -/
def begun0 (op : BitVec 8) (a b : Word) : Begun :=
  { idx := 0, ent := rent op a b 0, result := 0, status := 0, data := [], left := [] }
/-- A ring that takes an entry, one that does not, a refused one; each operation with each outcome; an entry that is
done. -/
theorem witness_RingEntries :
    (∃ s, ringTakes s 1 0 = false) ∧
    (∃ s, ringTakes s 1 0 = true ∧ mayBegin (fnRing (fnOf s 1) 0) (rent 6 0 0 0) = true ∧
      entryRefusal s 1 (rent 6 0 0 0) = some .illegal) ∧
    (∃ s, (fnOf s 0).check.opMask.getLsbD (rent 5 0 0 0).opc.toNat = false) ∧
    (∃ s, Begins s 1 0 (rent 1 0x2020 0 0) ∧ (rent 1 0x2020 0 0).arg0.toNat % 64 ≠ 0) ∧
    (∃ s, Begins s 1 0 (rent 1 0x2000 0 0) ∧ (0x2000 : Word).toNat % 64 = 0 ∧
      ∃ t id, submitLaunch s (deviceSubmitter (fnParcel s 1) (some 1) (fnPolicy s 1)) 0x2000 = .ok t id) ∧
    (∃ s, Begins s 1 0 (rent 1 0x2000 0 0) ∧
      ∃ t, submitLaunch s (deviceSubmitter (fnParcel s 1) (some 1) (fnPolicy s 1)) 0x2000 = .full t) ∧
    (∃ s, Begins s 1 0 (rent 1 0x2000 0 0) ∧
      ∃ t c, submitLaunch s (deviceSubmitter (fnParcel s 1) (some 1) (fnPolicy s 1)) 0x2000 = .refused t c) ∧
    (∃ s, Begins s 1 0 (rent 1 0x0000800000000000 0 0) ∧ (submitLaunch s
      (deviceSubmitter (fnParcel s 1) (some 1) (fnPolicy s 1)) 0x0000800000000000 matches .unread _ .perm _) = true) ∧
    (∃ s, Begins s 1 0 (rent 2 0x2000 0 16) ∧ copyOut (rent 2 0x2000 0 16) = false ∧
      copyLen (rent 2 0x2000 0 16) = (List.replicate 16 (0 : Byte)).length) ∧
    (∃ s, Begins s 1 0 (rent 3 5 1 0) ∧ hartHandle s (fnParcel s 1) 5 .add = some .foreign) ∧
    (∃ s, Begins s 1 0 (rent 3 sysH 0xFFFFFFFF 0) ∧ hartHandle s (fnParcel s 1) sysH .add = none ∧
      hScope sysH = 3 ∧ (0xFFFFFFFF : Word).toNat < 2 ^ 32 ∧ Begins s 1 0 (rent 3 sysH 0x100000000 0)) ∧
    (∃ s, Begins s 1 0 (rent 4 5 1 0) ∧ hartHandle s (fnParcel s 1) 5 .wait = some .foreign) ∧
    (∃ s, Begins s 1 0 (rent 4 sysH 5 0) ∧ hartHandle s (fnParcel s 1) sysH .wait = none ∧ hScope sysH = 3) ∧
    (fnPolicy (hostSt (ring0 true 1 []) 0 5) 1 = .system ∧ fnPolicy (hostSt (ring0 true 1 []) 1 5) 1 = .trap ∧
      fnPolicy (hostSt (ring0 true 1 []) 2 5) 1 = .clamp) ∧
    (∃ s, Begins s 1 0 (rent 5 0 0 0)) ∧
    (∃ s b, fnLive s 1 = true ∧ (fnOf s 1).bme = true ∧
      firstDone s 1 (fnRing (fnOf s 1) 0).begun = some (b, 0) ∧ b.ent.opc = 3#8) ∧
    (∃ s, fnLive s 1 = true ∧ (fnOf s 1).bme = true ∧ firstDone s 1 (fnRing (fnOf s 1) 0).begun = none) ∧
    (∃ s b b', entryDone s 1 b = none ∧ firstDone s 1 [b, b'] = none ∧ entryDone s 1 b' = some 0) ∧
    (∃ (s : State) (b : Begun), b.ent.opc = 4#8 ∧ b.status = FaultCode.scope.code ∧ hartHandle s (fnParcel s 1) b.ent.arg0 .wait = none ∧
      reached (ctrOf s b.ent.arg0).value b.ent.arg1 = true) ∧
    (∃ (s : State) (b : Begun), b.ent.opc = 4#8 ∧ b.status = 0#8 ∧ hartHandle s (fnParcel s 1) b.ent.arg0 .wait = none ∧
      reached (ctrOf s b.ent.arg0).value b.ent.arg1 = false) := by
  have bg : ∀ e, entryRefusal (hostSt (ring0 true 1 []) 0 5) 1 e = none →
      mayBegin (fnRing (fnOf (hostSt (ring0 true 1 []) 0 5) 1) 0) e = true → Begins (hostSt (ring0 true 1 []) 0 5) 1 0 e :=
    fun e h h' => ⟨by decide, h', h⟩
  exact ⟨⟨hostSt (ring0 false 1 []) 0 5, by decide⟩, ⟨hostSt (ring0 true 1 []) 0 5, by decide, by decide, by decide⟩,
    ⟨hostSt (ring0 true 1 []) 0 5, by decide⟩, ⟨_, bg _ (by decide) (by decide), by decide⟩,
    ⟨_, bg _ (by decide) (by decide), by decide, submit_ok _ (by decide +kernel)⟩,
    ⟨hostOn (submitSt 4096 0) (ring0 true 1 []) 0 5, ⟨by decide, by decide, by decide⟩, submit_full _ (by decide +kernel)⟩,
    ⟨hostOn (submitSt 4095 1) (ring0 true 1 []) 0 5, ⟨by decide, by decide, by decide⟩, submit_refused _ (by decide +kernel)⟩,
    ⟨_, bg _ (by decide) (by decide), by decide +kernel⟩,
    ⟨_, bg _ (by decide) (by decide), by decide, by decide⟩, ⟨_, bg _ (by decide) (by decide), by decide⟩,
    ⟨_, bg _ (by decide) (by decide), by decide, by decide, by decide, bg _ (by decide) (by decide)⟩,
    ⟨_, bg _ (by decide) (by decide), by decide⟩,
    ⟨_, bg _ (by decide) (by decide), by decide, by decide⟩, by decide, ⟨_, bg _ (by decide) (by decide)⟩,
    ⟨hostSt (ring0 true 1 [begun0 3 sysH 5]) 0 5, begun0 3 sysH 5, by decide, rfl, by decide, rfl⟩,
    ⟨hostSt (ring0 true 1 [begun0 4 sysH 6]) 0 5, by decide, rfl, by decide⟩,
    ⟨hostSt (ring0 true 1 []) 0 5, begun0 4 sysH 6, begun0 5 0 0, by decide, by decide, rfl⟩,
    ⟨hostSt (ring0 true 1 []) 0 5, { begun0 4 sysH 5 with status := FaultCode.scope.code }, rfl, rfl, by decide, by decide⟩,
    ⟨hostSt (ring0 true 1 []) 0 5, begun0 4 sysH 6, rfl, rfl, by decide, by decide⟩⟩

/-- The last bytes of an exposed range, the first past it; ranges that take writes and that do not; a host line in M. -/
theorem witness_HostMemoryEvents :
    (∃ s r, cxlPort s = true ∧ rangeAt s 0x1FF8 8 = some r ∧ rangeAt s 0x1FF9 8 = none ∧ r.write = true) ∧
    (∃ s : State, cxlPort s = true ∧ ∀ r, rangeAt s 0x1000 8 = some r → r.write = false) ∧
    (∀ st, ∃ s : State, cxlPort s = true ∧ region 0x10000000000 = .host ∧ Map.sorted s.phys.lines = true ∧
      lineSt s.phys 0x10000000000 = st) ∧ (∃ s : State, s.host.cxlUp = false) ∧ (∃ s : State, s.mgmt.running = none) := by
  let s (w : Bool) : State := { opened (mapped State.reset) with host := { State.reset.host with cxlUp := true, cxl :=
    [{ base := 0x1000, frames := 1, write := w, parcel := 0 }] } }
  exact ⟨⟨s true, _, rfl, rfl, by decide, rfl⟩, ⟨s false, rfl, fun r h => by cases h; rfl⟩,
    fun st => ⟨{ s true with phys := { State.reset.phys with lines := [(0x10000000000 / 64, st)] } }, rfl, by decide, rfl, rfl⟩,
    ⟨{ State.reset with host := { State.reset.host with cxlUp := false } }, rfl⟩, ⟨State.reset, rfl⟩⟩

/-- A state with a connection of parcel 0 to its memory and, where asked, a grant. -/
def peerSt (applied : List (BitVec 32)) (waits : List (BitVec 32 × Word × Word)) (gr : Bool) : State :=
  let s := withCtr (ctr 5 0 0 true) (mapped State.reset)
  { s with grants := if gr then [grant0 true] else [],
           host := { s.host with conns := [(4, { parcel := 0, applied := applied, waits := waits })] } }
/-- That state with its page in transit. -/
def inTransit : State := withMem [(placeRoot, 8, placePte + 0x100)] (peerSt [] [] true)
/-- Memory was written, and what it then holds meets a condition. -/
def putOk (P : State → Bool) : WRes → Bool
  | .ok t => P t
  | _ => false
theorem put_ok (P : State → Bool) (r : WRes) (h : putOk P r = true) : ∃ t, r = .ok t ∧ P t = true := by
  cases r with
  | ok t => exact ⟨t, rfl, h⟩
  | _ => cases h
/-- A counter message. -/
def pmsg (op : PeerOp) (x : Word) : PeerMsg := { op := op, handle := sysH, amount := x, req := 7 }

/-- A copy that ends at the page's end, with a grant for its counter and without; one that no table maps; a duplicate, a
refused and a granted message; an add of 2^32; a wait reached. -/
theorem witness_PeerEvents :
    (∃ s : State, ∃ C : Conn, ∃ pa l, mget s.host.conns 4 = some C ∧ s.blocked = none ∧ (0x2FF8 : Word).toNat % 4096 + [1, 2, 3, 4, 5, 6, 7, (8 : Byte)].length = 4096 ∧
      translate s .device C.parcel 0x2FF8 .write = .ok pa l ∧ endpointOk s C.parcel pa = true ∧ linkLost s pa = false ∧
      ∃ t, writeG s .device C.parcel (noOwner C.parcel) 0x2FF8 [1, 2, 3, 4, 5, 6, 7, 8] = .ok t ∧
        decide (peerCheck t 4 sysH .add = none) = true) ∧
    (∃ s : State, ∃ C : Conn, mget s.host.conns 4 = some C ∧ s.blocked = none ∧
      translate s .device C.parcel 0x800000000000 .write = .fault .perm) ∧
    (∃ s : State, ∃ C : Conn, mget s.host.conns 4 = some C ∧ s.blocked = none ∧
      translate s .device C.parcel 0x2000 .write = .transit) ∧
    (∃ s : State, ∃ C : Conn, mget s.host.conns 4 = some C ∧ (pmsg .add 1).req ∈ C.applied) ∧
    (∃ s : State, ∃ C : Conn, mget s.host.conns 4 = some C ∧ (pmsg .add 1).req ∉ C.applied ∧ peerRefusal s 4 (pmsg .add 1) = some .foreign) ∧
    (∀ op, ∃ s : State, ∃ C : Conn, mget s.host.conns 4 = some C ∧ (pmsg op 1).req ∉ C.applied ∧ peerRefusal s 4 (pmsg op 1) = none) ∧
    (2 ^ 32 ≤ (pmsg .add 0x100000000).amount.toNat) ∧
    (∃ s : State, ∃ C : Conn, ∃ w, mget s.host.conns 4 = some C ∧ (C.waits.find? fun x => x.1 == 7) = some w ∧
      peerCheck s 4 w.2.1 .wait = none ∧ reached (ctrOf s w.2.1).value w.2.2 = true) ∧
    (∃ s : State, Map.sorted s.host.conns = true) :=
  ⟨⟨peerSt [] [] true, _, _, _, rfl, rfl, by decide, rfl, by decide, by decide,
     put_ok (fun t => decide (peerCheck t 4 sysH .add = none)) _ (by decide +kernel)⟩,
   ⟨peerSt [] [] true, _, rfl, rfl, by decide⟩, ⟨inTransit, _, rfl, rfl, by decide +kernel⟩, ⟨peerSt [7] [] true, _, rfl, List.mem_singleton.mpr rfl⟩,
   ⟨peerSt [] [] false, _, rfl, List.not_mem_nil, by decide⟩,
   fun op => ⟨peerSt [] [] true, _, rfl, List.not_mem_nil, by cases op <;> decide⟩, by decide,
   ⟨peerSt [] [(7, sysH, 5)] true, _, (7, sysH, 5), rfl, rfl, by decide, by decide⟩, ⟨peerSt [] [] true, rfl⟩⟩

/-- A state with that connection whose next message fails. -/
def lostSt (f : MeshFail) : State := { peerSt [] [] true with mesh := { State.reset.mesh with fail := some f } }
/-- A copy whose write fails, and messages whose requests fail: an add, a read and a wait. -/
theorem witness_PeerEvents_lost :
    (∃ s : State, ∃ C : Conn, ∃ pa l, mget s.host.conns 4 = some C ∧ s.blocked = none ∧
      translate s .device C.parcel 0x2FF8 .write = .ok pa l ∧ endpointOk s C.parcel pa = true ∧ linkLost s pa = false ∧
      s.mesh.fail = some .request ∧
      ∃ t, writeG s .device C.parcel (noOwner C.parcel) 0x2FF8 [1] = .ok t ∧ (fun _ => true) t = true) ∧
    (∀ op, ∃ s : State, ∃ C : Conn, mget s.host.conns 4 = some C ∧ (pmsg op 1).req ∉ C.applied ∧
      s.mesh.fail = some (if op = .add then .add else .request) ∧
      ((peerRefusal s 4 (pmsg op 1)).isSome = true ↔ op ≠ .add)) := by
  let C : Conn := { parcel := 0, applied := [], waits := [] }
  obtain ⟨l, el⟩ := x_at 0x2FF8 (translate (lostSt .request) .device 0 0x2FF8 .write) (by decide)
  exact ⟨⟨lostSt .request, C, 0x2FF8, l, rfl, rfl, el, by decide, by decide, rfl, put_ok (fun _ => true) _ (by decide +kernel)⟩,
    fun op => ⟨lostSt (if op = .add then .add else .request), C, rfl, List.not_mem_nil, rfl, by cases op <;> decide⟩⟩

/-- Both algorithm selections; a slot with a chain and without; a pending slot, at its timeout and a cycle before;
a controller that has started. -/
theorem witness_ManagementEvents :
    (∀ e, ∃ s : State, s.mgmt.extAsym = e) ∧ (∃ (s : State) (c : _), chainOf s.mgmt 1 = some c) ∧ (∃ s : State, chainOf s.mgmt 1 = none) ∧
    (∃ s : State, s.cycle = 2199999999 ∧ slotPending s.mgmt s.cycle 7 = true) ∧
    (∃ s : State, s.cycle = 2200000000 ∧ slotPending s.mgmt s.cycle 7 = false) ∧
    (∀ b, ∃ s : State, s.mgmt.secUp = b ∧ s.mgmt.up = true) ∧ (∃ s : State, s.mgmt.up = false) ∧
    (∃ s : State, ∀ a ∈ s.mgmt.asked, a.slot = 7 → a.since + 2 * 1100000000 ≤ s.cycle) ∧
    (∃ s : State, ∃ a ∈ s.mgmt.asked, a.slot = 7 ∧ a.live = true ∧ s.cycle < a.since + 2 * 1100000000) ∧
    (∃ s : State, s.mgmt.up = true) := by
  let ask : SpdmReq := { slot := 7, meas := false, since := 0, live := true }
  let m : Mgmt := { State.reset.mgmt with up := true, certs := [(1, [])], asked := [ask] }
  let s (c : Nat) : State := { State.reset with cycle := c, mgmt := m }
  exact ⟨fun e => ⟨{ s 0 with mgmt := { State.reset.mgmt with extAsym := e } }, rfl⟩, ⟨s 0, [], rfl⟩, ⟨State.reset, rfl⟩,
    ⟨s 2199999999, rfl, by decide⟩, ⟨s 2200000000, rfl, by decide⟩, fun b => ⟨{ s 0 with mgmt := { m with secUp := b } }, rfl, rfl⟩,
    ⟨{ s 0 with mgmt := { m with up := false } }, rfl⟩, ⟨s 2200000000, fun a h _ => by cases List.mem_singleton.mp h; decide⟩,
    ⟨s 2199999999, _, List.mem_singleton.mpr rfl, rfl, rfl, by decide⟩, ⟨s 0, rfl⟩⟩

/-- A function in reset and not, with a replay of its own; the link up, lost, at the end of the grace period and a cycle
before; a strand of a live launch; a slot with an image. `Config.signatureOk` has no value in the model. -/
theorem witness_ResetEvents :
    (∀ b, ∃ s : State, (fnOf s 1).inreset = b ∧ ∃ x ∈ s.sched.replays, x.2.fn = some 1) ∧
    (∀ b, ∃ s : State, s.host.pcieUp = b) ∧ (∃ s : State, s.host.cxlUp = true) ∧
    (∀ c ∈ [1099, 1100], ∃ s : State, s.host.lossAt = some 0 ∧ s.host.quiesced = false ∧ s.host.grace = 1 ∧ s.cycle = c ∧
      ∃ r L, (coreOf s 0).run = some r ∧ (0, L) ∈ s.sched.launches ∧ L.st = .live ∧ r.own.launch = L.id) ∧
    (∃ (m : Mgmt) (i : FwImage), mget m.slots m.active = some i ∧
      (Config.signatureOk (imageHeader i) i.sig = true → MayBoot m i) ∧
      (Config.signatureOk (imageHeader i) i.sig = false → ¬MayBoot m i)) := by
  let sc : Sched := { State.reset.sched with replays := [(0, { rep false with fn := some 1 })] }
  let ho (b : Bool) : HostIf := { State.reset.host with fns := [(1, { Fn.init 1 with inreset := b })] }
  refine ⟨fun b => ⟨{ State.reset with host := ho b, sched := sc }, rfl, _, List.mem_singleton.mpr rfl, rfl⟩,
    fun b => ⟨{ State.reset with host := { State.reset.host with pcieUp := b } }, rfl⟩,
    ⟨{ State.reset with host := { State.reset.host with cxlUp := true } }, rfl⟩, fun c _ => ?_,
    ⟨{ State.reset.mgmt with slots := [(0, fw 0 1)], active := 0, fuse := 1 }, fw 0 1, rfl, fun h => ⟨h, by decide⟩,
      fun h h' => by rw [h'.1] at h; cases h⟩⟩
  exact ⟨{ under .system (sa id) with cycle := c, host := { State.reset.host with lossAt := some 0, grace := 1 } }, rfl, rfl, rfl,
    rfl, placeRun, theLaunch .system, rfl, List.mem_singleton.mpr rfl, rfl, rfl⟩

/-! ### Faults, decoding, the step and memory -/

/-- A grace period at its greatest, firmware running and not, a controller started and not. -/
theorem witness_ResetEvents_more :
    (∃ s : State, (∃ i, s.mgmt.running = some i) ∧ 2 ^ 32 ≤ 2 ^ 32) ∧ (∃ s : State, s.mgmt.running = none) ∧
    (∀ b, ∃ s : State, s.mgmt.up = b) ∧ (∃ s : State, ∃ t₀, s.host.lossAt = some t₀ ∧ s.host.quiesced = false) :=
  ⟨⟨opened State.reset, ⟨_, rfl⟩, Nat.le_refl _⟩, ⟨State.reset, rfl⟩,
   fun b => ⟨{ State.reset with mgmt := { State.reset.mgmt with up := b } }, rfl⟩,
   ⟨{ State.reset with host := { State.reset.host with lossAt := some 0 } }, 0, rfl, rfl⟩⟩
/-- A function in reset whose revocation waits, and one whose does not. -/
theorem witness_ResetEvents_revocation : ∀ b, ∃ s : State, (fnOf s 1).inreset = true ∧ decide (1 ∈ s.commit.awaited) = b := by
  intro b
  exact ⟨{ State.reset with
      host := { State.reset.host with fns := [(1, { Fn.init 1 with inreset := true })] }
      commit := { State.reset.commit with awaited := if b then [1] else [] } }, rfl, by cases b <;> decide⟩
/-- What a fetch gave. -/
def fetchedKind : Fetched → Nat
  | .word _ _ => 0
  | .fault _ _ => 1
  | .transit _ => 2
theorem fetched_word (r : Fetched) (h : fetchedKind r = 0) : ∃ b w, r = .word b w := by
  cases r with
  | word b w => exact ⟨b, w, rfl⟩
  | _ => cases h
theorem fetched_fault (r : Fetched) (h : fetchedKind r = 1) : ∃ b f, r = .fault b f := by
  cases r with
  | fault b f => exact ⟨b, f, rfl⟩
  | _ => cases h
/-- A fetch gave a word with a property. -/
def cuvosFetchMeets (P : BitVec 32 → Bool) (r : Fetched) : Bool :=
  match r with
  | .word _ w => P w
  | _ => false
theorem fetch_gives (P : BitVec 32 → Bool) (r : Fetched) (h : cuvosFetchMeets P r = true) :
    ∃ b w, r = .word b w ∧ P w = true := by
  cases r with
  | word b w => exact ⟨b, w, rfl, h⟩
  | _ => cases h
/-- A core at an address over a mapped memory. -/
def atPc (pc : Word) (s : State) : State := { s with cores := [(0, modStr core0 false fun t => { t with pc := pc })] }

theorem witness_TerminatingFaults :
    (∃ i xs h s, trapOps i = some (xs, h) ∧ Clear s xs h ∧ Guarded s xs h) ∧
    (∃ s r L, (coreOf s 0).run = some r ∧ r.logsz = 0#4 ∧ launchOf s r.own.launch = some L) ∧
    (∃ s r, (coreOf s 0).run = some r ∧ ∃ b f, fetchWord s 0 r.own.parcel (strOf (coreOf s 0) false).pc = .fault b f) ∧
    (∃ s r, (coreOf s 0).run = some r ∧ ∃ t w, fetchWord s 0 r.own.parcel (strOf (coreOf s 0) false).pc = .word t w) :=
  ⟨⟨.aTrap h0 1, false, h0, sa id, rfl, (ready_a id).1, (ready_a id).2⟩, ⟨under .system (sa id), placeRun, _, rfl, rfl, rfl⟩,
   ⟨atPc 0x8000000000 (mapped State.reset), placeRun, rfl, fetched_fault _ (by decide)⟩,
   ⟨atPc 0x2000 (mapped State.reset), placeRun, rfl, fetched_word _ (by decide)⟩⟩

/-- What a record gives as the other stream's PC: nothing pending, a vector instruction queued, a queue load unfilled. A
fault area with a counter and with none, and a gang that faults. -/
theorem witness_TerminatingFaults_records :
    (∃ k : Core, k.vec.vq = [] ∧ openLoads k = []) ∧ (∃ (k : Core) (v : VPend), k.vec.vq = [v]) ∧
    (∃ k : Core, openLoads k ≠ []) ∧
    (∃ s r, (coreOf s 0).run = some r ∧ r.logsz ≠ 0#4 ∧ gangOf s 0 = [0, 1]) ∧
    (∃ s A, (parcelOf s 0).fault = some A ∧ A.cfg.handle ≠ 0 ∧
      s.mesh.fail ≠ some .add ∧ checkRemote (entryWrite s 0
        (A.cfg.base + BitVec.ofNat 64 (64 * (A.seq % A.cfg.entries))) (List.replicate 64 0)) A.cfg.handle 0 .add = none) ∧
    (∃ s A, (parcelOf s 0).fault = some A ∧ A.cfg.handle ≠ 0 ∧ s.mesh.fail = some .add) ∧
    (∃ s A, (parcelOf s 0).fault = some A ∧ (checkRemote s A.cfg.handle 0 .add).isSome = true) ∧
    (∃ s, (parcelOf s 0).fault = none) := by
  refine ⟨⟨core0, rfl, rfl⟩, ⟨{ core0 with vec := { core0.vec with vq := [{ tok := false }] } }, _, rfl⟩,
    ⟨{ core0 with sh := { core0.sh with lq := [{ qe with filled := false }] } }, by decide⟩,
    ⟨gang 0 id, gangRun 0, rfl, by decide, rfl⟩, ⟨homeSt 0 [] id, _, rfl, by decide, by decide, by decide +kernel⟩,
    ⟨{ homeSt 0 [] id with mesh := { State.reset.mesh with fail := some .add } }, _, rfl, by decide, rfl⟩, ?_, ⟨State.reset, rfl⟩⟩
  let s := homeSt 0 [] id
  exact ⟨{ s with homes := [] }, _, rfl, by decide +kernel⟩
/-- A hart in machine mode at a word of the device extension. -/
def customSt (w : Nat) : State := hs (hart0 .m 0 0 |> fun H => { H with pc := 0x2000 }) [(0x2000, 4, w)]

/-- That state with the line of address 0x2000 in a fetch cache. -/
def cachedSt : State :=
  { mapped State.reset with
    xl := { Xlat.init with code := [(0, [{ parcel := 0, line := 128, vpn := 2, bytes := List.replicate 64 0 }])] } }
/-- The two halves of a word at 0x2000 read, and the word's meeting a condition. -/
theorem two_reads (p : BitVec 32 → Bool) (P : BitVec 32 → Prop) (hp : ∀ w, p w = true → P w) (w : Nat)
    (h : hartMeets (fun b lo => decide (leNat lo % 4 = 3) &&
      hartMeets (fun _ hi => p (BitVec.ofNat 32 (leNat (lo ++ hi)))) (hartRead b 0 0x2002 2 .fetch))
        (hartRead (customSt w) 0 0x2000 2 .fetch) = true) :
    ∃ b lo, hartRead (customSt w) 0 0x2000 2 .fetch = .ok b lo ∧ leNat lo % 4 = 3 ∧
      ∃ b' hi, hartRead b 0 0x2002 2 .fetch = .ok b' hi ∧ P (BitVec.ofNat 32 (leNat (lo ++ hi))) := by
  obtain ⟨b, lo, e, h⟩ := hart_meets _ _ h
  have h := Bool.and_eq_true_iff.1 h
  obtain ⟨b', hi, e', h'⟩ := hart_meets _ _ h.2
  exact ⟨b, lo, e, of_decide_eq_true h.1, b', hi, e', hp _ h'⟩
/-- The word at address 0x2000, an instruction and none, in a fetch cache's line and in memory; what a unit waits for; a
hart's custom word that is an instruction, that is none, and a RISC-V word; an event. -/
theorem witness_StepRunsDecodedInstruction :
    (∃ s : State, ∃ r : Running, s.agenda = [] ∧ s.turn = .acc 0 ∧ coreExists 0 = true ∧ (coreOf s 0).run = some r ∧ r.logsz = 0#4 ∧
      (strOf (coreOf s 0) false).pendT = none ∧ (strOf (coreOf s 0) false).hold = none ∧
      ∃ b w, fetchWord s 0 r.own.parcel (strOf (coreOf s 0) false).pc = .word b w ∧ decode? .access w = none) ∧
    (∃ s : State, ∃ r : Running, ∃ i : Instr, s.agenda = [] ∧ s.turn = .acc 0 ∧ (coreOf s 0).run = some r ∧
      ∃ b w, fetchWord s 0 r.own.parcel (strOf (coreOf s 0) false).pc = .word b w ∧ decode? .access w = some i) ∧
    (∃ s : State, ∃ pa l, translate s (.core 0) 0 0x2000 .fetch = .ok pa l ∧ codeFind s.xl (sectOf 0) 0 (pa / 64) = none ∧
      endpointOk s 0 pa = true ∧ linkLost s pa = false ∧ anyPoison s.phys pa 4 = false ∧ s.mesh.fail = none) ∧
    (∃ s : State, ∃ pa l bs, translate s (.core 0) 0 0x2000 .fetch = .ok pa l ∧
      codeFind s.xl (sectOf 0) 0 (pa / 64) = some bs) ∧
    (∃ t : State, t.blocked = none) ∧ (∃ t : State, t.blocked = some .transit) ∧
    (∃ t : State, t.blocked = some (.miss 0 0x2000 false)) ∧
    (∃ s : State, (hartOf s 0).mode = .m ∧ (0x2000 : Word).toNat % 4096 + 4 ≤ 4096 ∧ region 0x2000 ≠ .hole ∧
      pmpOk (hartOf s 0) .m 0x2000 4 .fetch = true ∧ endpointOk s (hartOf s 0).owner 0x2000 = true ∧
      linkLost s 0x2000 = false ∧ anyPoison s.phys 0x2000 4 = false ∧ s.mesh.fail = none) ∧
    (∀ d, ∃ s : State, s.agenda = [] ∧ s.turn = .hart 0 ∧ (hartOf s 0).waitSince = none ∧ dueInt s (hartOf s 0) = none ∧
      ∃ b lo, hartRead s 0 (hartOf s 0).pc 2 .fetch = .ok b lo ∧ leNat lo % 4 = 3 ∧
        ∃ b' hi, hartRead b 0 ((hartOf s 0).pc + 2) 2 .fetch = .ok b' hi ∧
          isCustom (BitVec.ofNat 32 (leNat (lo ++ hi))) = true ∧
          (decode? .custom (BitVec.ofNat 32 (leNat (lo ++ hi)))).isSome = d) ∧
    (∃ s : State, s.agenda = [] ∧ s.turn = .hart 0 ∧ (hartOf s 0).waitSince = none ∧ dueInt s (hartOf s 0) = none ∧
      ∃ b lo, hartRead s 0 (hartOf s 0).pc 2 .fetch = .ok b lo ∧ leNat lo % 4 = 3 ∧
        ∃ b' hi, hartRead b 0 ((hartOf s 0).pc + 2) 2 .fetch = .ok b' hi ∧
          isCustom (BitVec.ofNat 32 (leNat (lo ++ hi))) = false) ∧
    (∃ s : State, ∃ i : Instr, ∃ ms : List Move, s.agenda = .event i :: ms ∧ i.map? = none ∧ ∀ c xs w, i ≠ .illegalInstruction c xs w) := by
  let s0 := atPc 0x2000 (mapped State.reset)
  let s1 := atPc 0x2000 (withMem [(0x2000, 4, 0x00295B40)] (mapped State.reset))
  obtain ⟨b, w, e, hw⟩ := fetch_gives (fun w => decide (decode? .access w = none)) (fetchWord s0 0 0 0x2000) (by decide)
  obtain ⟨b', w', e', hw'⟩ := fetch_gives (fun w => decide (decode? .access w = some (.aAdd h0 9 11 13))) (fetchWord s1 0 0 0x2000)
    (by decide)
  refine ⟨⟨s0, placeRun, rfl, rfl, by decide, rfl, rfl, rfl, rfl, b, w, e, of_decide_eq_true hw⟩,
    ⟨s1, placeRun, .aAdd h0 9 11 13, rfl, rfl, rfl, b', w', e', of_decide_eq_true hw'⟩,
    ⟨mapped State.reset, 0x2000, _, rfl, by decide, by decide, by decide, by decide, rfl⟩,
    ⟨cachedSt, 0x2000, _, _, rfl, rfl⟩,
    ⟨State.reset, rfl⟩, ⟨{ State.reset with blocked := some .transit }, rfl⟩,
    ⟨{ State.reset with blocked := some (.miss 0 0x2000 false) }, rfl⟩,
    ⟨customSt 0, rfl, by decide, by decide, by decide +kernel, by decide, by decide, by decide, rfl⟩,
    fun d => ?_, ?_,
    ⟨{ State.reset with agenda := [.event .edge] }, .edge, [], rfl, rfl, (fun _ _ _ h => nomatch h)⟩⟩
  · cases d
    · exact ⟨customSt 0xFFFFFFAB, rfl, rfl, rfl, rfl, two_reads (fun w => isCustom w && (decode? .custom w).isNone == true)
        (fun w => isCustom w = true ∧ (decode? .custom w).isSome = false) (fun w h => by simpa using h) _ (by decide +kernel)⟩
    · exact ⟨customSt 0x0006012B, rfl, rfl, rfl, rfl, two_reads (fun w => isCustom w && (decode? .custom w).isSome)
        (fun w => isCustom w = true ∧ (decode? .custom w).isSome = true) (fun w h => by simpa using h) _ (by decide +kernel)⟩
  · exact ⟨customSt 0x13, rfl, rfl, rfl, rfl, two_reads (fun w => !isCustom w) (fun w => isCustom w = false)
      (fun w h => by simpa using h) _ (by decide +kernel)⟩

/-- A device write inside the page, one whose frame is another's, and one whose page is in transit. -/
theorem witness_MemoryLaws_device :
    (∃ (s : State) (pa : Nat) (l : Leaf), translate s .device 0 0x2000 .write = .ok pa l ∧ endpointOk s 0 pa = true ∧
      linkLost s pa = false ∧ s.mesh.fail = none ∧ Claims.NoViews s.phys ∧ region pa ≠ .view ∧ s.phys.mem.wf = true ∧
      ∀ i, i < 2 → region (pa + i) ≠ .view) ∧
    (∃ (s : State) (pa : Nat) (l : Leaf), translate s .device 0 0x3000 .write = .ok pa l ∧ endpointOk s 0 pa = false ∧
      (parcelOf s 0).fault = none) ∧
    (∃ s : State, translate s .device 0 0x2000 .write = .transit ∧ s.blocked = none) :=
  ⟨⟨mapped State.reset, 0x2000, _, rfl, by decide, by decide, rfl, ⟨rfl, rfl⟩, by decide, by decide +kernel, by decide⟩,
   ⟨mapped State.reset, 0x3000, _, rfl, by decide, rfl⟩, ⟨inTransit, by decide +kernel, rfl⟩⟩
theorem witness_MemoryLaws : (∃ m : Memory, m.wf = true ∧ m ≠ []) ∧ (∃ m m' : Memory, m.wf = true ∧ m'.wf = true ∧
    ∀ x, memGet m x = memGet m' x) ∧ (255 < 256 ^ 1) :=
  ⟨⟨[(1, 2)], by decide, by decide⟩, ⟨[(1, 2)], [(1, 2)], by decide, by decide, fun _ => rfl⟩, by decide⟩

/-! ### The rest -/

/-- An outcome is a next state. -/
def isNext (o : Host.Outcome State Fault Refusal) : Bool :=
  match o with
  | .next _ => true
  | _ => false
theorem is_next (o : Host.Outcome State Fault Refusal) (h : isNext o = true) : ∃ t, o = .next t := by
  cases o with
  | next t => exact ⟨t, rfl⟩
  | _ => cases h
/-- A step from a package with memory and a scratchpad listed and the canonical accumulators of a core; a step with a
fuse blown. -/
theorem witness_StepKeepsMemoriesCanonical : ∃ s t, MemoriesOk s ∧ s.phys.mem ≠ [] ∧ s.cores ≠ [] ∧ step s = .next t := by
  let s := mapped (sa fun k => { k with scratch := [(4, 1)] })
  obtain ⟨t, h⟩ := is_next (step s) (by decide +kernel)
  refine ⟨s, t, ⟨by decide, fun x hx => ?_⟩, by decide, by decide, h⟩
  rcases List.mem_singleton.mp hx with rfl
  exact ⟨by decide, fun a => by revert a; decide⟩
theorem witness_StepKeepsFuses : ∃ s t, FusesOk 1 s ∧ step s = .next t := by
  let m : Mgmt := { State.reset.mgmt with fuse := 1 }
  obtain ⟨t, h⟩ := is_next (step { State.reset with mgmt := m }) (by decide +kernel)
  exact ⟨_, t, ⟨by decide, by decide⟩, h⟩
theorem witness_DecodeInvertsEncode :
    (∃ i w m, Instr.wf i = true ∧ encode i = some w ∧ i.map? = some m) ∧ (∃ m w i, decode? m w = some i) :=
  ⟨⟨.aAdd h0 9 11 13, 0x00295B40, .access, by decide, by decide, rfl⟩, ⟨.access, 0x00295B40, .aAdd h0 9 11 13, by decide⟩⟩

end Sys2Proof.Tests
end

section
/-!
SUPPORT. Scalar floating point (R84, R168 to R172): the instructions that raise flags have one body, whose two
outcomes are proved once; each instruction of `scalarFp` is then shown to be that body at its result.
-/
namespace Sys2Proof.ScalarFp
open Sys2Proof Sys2Proof.Machine Sys2Proof.Claims

/-! ## Operands, modes and integer results -/

theorem f32Of_eq_f32 (k : Core) (r : BitVec 5) : f32Of k r = f32 k r := by
  simp [f32Of, f32]

theorem f32_lt (k : Core) (r : BitVec 5) : f32 k r < 2 ^ 32 := Nat.mod_lt _ (by decide)

theorem fcvtMode_eq_modeOf (r : BitVec 2) : fcvtMode r = modeOf r := by
  revert r; decide

/-- Inverting bit 31 of an FP32 pattern, by the sign it has. -/
theorem fpNeg_f32 {x : Nat} (hx : x < 2 ^ 32) : fpNeg .f32 x = x ^^^ 2 ^ 31 := by
  have hd : (x ^^^ 2 ^ 31) / 2 ^ 31 = x / 2 ^ 31 ^^^ 1 := Nat.xor_div_two_pow
  have hm : (x ^^^ 2 ^ 31) % 2 ^ 31 = x % 2 ^ 31 := by
    rw [Nat.xor_mod_two_pow, Nat.mod_self, Nat.xor_zero]
  obtain h0 | h1 : x / 2 ^ 31 = 0 ∨ x / 2 ^ 31 = 1 := by omega
  · rw [fpNeg, show Fmt.f32.width - 1 = 31 from rfl, h0, if_neg (by decide)]
    rw [h0, Nat.zero_xor] at hd
    omega
  · rw [fpNeg, show Fmt.f32.width - 1 = 31 from rfl, h1, if_pos (by decide)]
    rw [h1, Nat.xor_self] at hd
    omega

theorem withSign_zero (x : Nat) : Claims.withSign x 0 = x % 2 ^ 31 := by
  simp [Claims.withSign]

/-- A conversion to an integer answers a value of the target's range: 0 for a NaN, an end for an infinity, and the
rounded value or an end otherwise (R87). -/
theorem fpToInt_mem_range {lo hi : Int} (hlo : lo ≤ 0) (hhi : 0 ≤ hi) (src : Fmt) (fl : Bool) (mode : RMode)
    (x : Nat) :
    lo ≤ (fpToInt src fl mode lo hi x).1 ∧ (fpToInt src fl mode lo hi x).1 ≤ hi := by
  unfold fpToInt
  split
  case h_1 => exact ⟨hlo, hhi⟩
  case h_2 => dsimp only; split <;> omega
  case h_3 =>
    dsimp only
    split
    · dsimp only; omega
    · split <;> dsimp only <;> omega

/-- A value between −2^64 and 2^64 has the same 64 bits either way they are taken. -/
theorem intRes_eq_bitsOfInt {r : Int × Flags} (hlo : -2 ^ 64 ≤ r.1) (hhi : r.1 < 2 ^ 64) :
    intRes r = bitsOfInt r := by
  unfold intRes bitsOfInt
  rw [BitVec.toNat_ofInt]
  congr 1
  split <;> omega

theorem intRes_fpToInt_eq_bitsOfInt {lo hi : Int} (hlo : lo ≤ 0) (hhi : 0 ≤ hi) (hlo' : -2 ^ 64 ≤ lo)
    (hhi' : hi < 2 ^ 64) (mode : RMode) (x : Nat) :
    intRes (fpToInt .f32 false mode lo hi x) = bitsOfInt (fpToInt .f32 false mode lo hi x) := by
  obtain ⟨hl, hh⟩ := fpToInt_mem_range hlo hhi .f32 false mode x
  exact intRes_eq_bitsOfInt (Int.le_trans hlo' hl) (Int.lt_of_le_of_lt hh hhi')

/-! ## The body of an instruction that raises flags (R84) -/

/-- FPINV where the flags hold NV under FTRAPEN.NVE, else a change of the core with the flags ORed into FFLAGS. -/
def flagBody (w : Core → Core) (fl : Core → Flags) (c : Nat) (s : State) : Eff :=
  if fpInv (coreOf s c) (fl (coreOf s c)) then .trap s c .fpinv 0 .read
  else .ok (modCore s c fun k => orFlags (w k) (fl k))

theorem fpInv_eq_false {k : Core} {f : Flags} (h : k.vec.nve = false ∨ f &&& fNV = 0) : fpInv k f = false := by
  rcases h with h | h <;> simp [fpInv, h]

theorem fpInv_eq_true {k : Core} {f : Flags} (hn : k.vec.nve = true) (hf : f &&& fNV ≠ 0) : fpInv k f = true := by
  rw [fpInv, hn, Bool.true_and]
  exact bne_iff_ne.mpr hf

section
variable {s : State} {h : Hdr} {w : Core → Core} {fl : Core → Flags}

theorem xInst_flagBody_of_not_fpInv (hc : Clear s true h) (hg : Guarded s true h)
    (hq : (begunCore s true h).vec.nve = false ∨ fl (begunCore s true h) &&& fNV = 0) :
    xInst h (flagBody w fl) s = .next (wrote s true h fun k => orFlags (w k) (fl k)) := by
  unfold xInst
  rw [clear_guarded hc hg, flagBody, coreOf_begun, fpInv_eq_false hq]
  rfl

theorem xInst_flagBody_of_fpInv (hc : Clear s true h) (hg : Guarded s true h)
    (hn : (begunCore s true h).vec.nve = true) (hf : fl (begunCore s true h) &&& fNV ≠ 0) :
    xInst h (flagBody w fl) s = .next (strandFault (begun s true h) s.me true .fpinv 0) := by
  unfold xInst
  rw [clear_guarded hc hg, flagBody, coreOf_begun, fpInv_eq_true hn hf]
  rfl

end

/-! ## Every scalar floating-point instruction has that body -/

/-- An instruction with a result for `d` and flags, both read from the core. -/
def fpInst (h : Hdr) (d : BitVec 5) (r : Core → FpRes) (s : State) : Host.Outcome State Fault Refusal :=
  xInst h (flagBody (fun k => sSet k d (BitVec.ofNat 64 (r k).1)) fun k => (r k).2) s

section
variable {h : Hdr} {d a b : BitVec 5} {s : State} {r : Core → FpRes}

theorem xInst_fpDone_eq_fpInst {g : Nat → State → FpRes} (e : ∀ c s, g c s = r (coreOf s c)) :
    xInst h (fun c s => fpDone c d (g c s) s) s = fpInst h d r s := by
  simp only [e]
  rfl

theorem fOp1_eq_fpInst {f : Nat → FpRes} (e : ∀ k, f (f32 k a) = r k) : fOp1 f h d a s = fpInst h d r s :=
  xInst_fpDone_eq_fpInst fun _ _ => by rw [f32Of_eq_f32, e]

theorem fOp2_eq_fpInst {f : Nat → Nat → FpRes} (e : ∀ k, f (f32 k a) (f32 k b) = r k) :
    fOp2 f h d a b s = fpInst h d r s :=
  xInst_fpDone_eq_fpInst fun _ _ => by rw [f32Of_eq_f32, f32Of_eq_f32, e]

theorem fOp3_eq_fpInst {np nc : Bool} (e : ∀ k, fpFma .f32 false np nc (f32 k a) (f32 k b) (f32 k d) = r k) :
    fOp3 np nc h d a b s = fpInst h d r s :=
  xInst_fpDone_eq_fpInst fun _ _ => by rw [f32Of_eq_f32, f32Of_eq_f32, f32Of_eq_f32, e]

theorem cvtOp_eq_fpInst {f : RMode → Word → FpRes} {m : BitVec 2} (e : ∀ k, f (modeOf m) (sGet k a) = r k) :
    cvtOp f h d a m s = fpInst h d r s :=
  xInst_fpDone_eq_fpInst fun _ _ => by rw [fcvtMode_eq_modeOf, e]

end

/-- Every instruction of `scalarFp` is carried out as `fpInst` at its result (R168 to R172): the two sides name the
operands and the results alike but for the sign operations and the conversions to integers. `exec` is unfolded once for
all cases, so that each case meets its own instruction's definition. -/
theorem exec_scalarFp {i : Instr} {h : Hdr} {d : BitVec 5} {r : Core → FpRes} (hi : scalarFp i = some (h, d, r))
    (s : State) : exec i s = fpInst h d r s := by
  cases i <;> cases hi <;> delta exec <;> dsimp only
  case fadd | fsub | fmul | fdiv | fmin | fmax | fsgnj => exact fOp2_eq_fpInst fun _ => rfl
  case fsqrt | frcp | frsq | fclass => exact fOp1_eq_fpInst fun _ => rfl
  case fabs => exact fOp1_eq_fpInst fun k => by rw [withSign_zero]
  case fneg => exact fOp1_eq_fpInst fun k => by rw [fpNeg_f32 (f32_lt k _)]
  case ffma | ffms | fnfma | fnfms => exact fOp3_eq_fpInst fun _ => rfl
  case fcvtS64F32 | fcvtU64F32 =>
    exact cvtOp_eq_fpInst fun _ => intRes_fpToInt_eq_bitsOfInt (by decide) (by decide) (by decide) (by decide) ..
  all_goals exact cvtOp_eq_fpInst fun _ => rfl

theorem fcmpBody_eq_flagBody (p q : BitVec 3) (a b : BitVec 5) :
    fcmpBody p q a b = flagBody (fun k => pSet k p (fpCmp .f32 false q (f32 k a) (f32 k b)).1)
      fun k => (fpCmp .f32 false q (f32 k a) (f32 k b)).2 := by
  funext c s
  simp only [fcmpBody, f32Of_eq_f32]
  rfl

/-- `fcmp` has the same body, with a predicate for its destination (R171). -/
theorem exec_fcmp (h : Hdr) (p q : BitVec 3) (a b : BitVec 5) (s : State) :
    exec (.fcmp h p q a b) s =
      xInst h (flagBody (fun k => pSet k p (fpCmp .f32 false q (f32 k a) (f32 k b)).1)
        fun k => (fpCmp .f32 false q (f32 k a) (f32 k b)).2) s :=
  congrArg (xInst h · s) (fcmpBody_eq_flagBody p q a b)

/-- Settles O9: a scalar floating-point instruction has the body `flagBody` at its result, so it either writes and ORs
its flags or faults with FPINV, and `fcmp` has that body with a predicate for the destination. -/
theorem scalarFpResults : Obligations.ScalarFpResults := by
  refine ⟨fun i h d r hi s hc hg hq => ?_, fun i h d r hi s hc hg hn hf => ?_,
    fun s h p q a b hc hg => ⟨fun hq => ?_, fun hn hf => ?_⟩⟩
  · exact (exec_scalarFp hi s).trans (xInst_flagBody_of_not_fpInv hc hg hq)
  · exact (exec_scalarFp hi s).trans (xInst_flagBody_of_fpInv hc hg hn hf)
  · exact (exec_fcmp h p q a b s).trans (xInst_flagBody_of_not_fpInv hc hg hq)
  · exact (exec_fcmp h p q a b s).trans (xInst_flagBody_of_fpInv hc hg hn hf)

end Sys2Proof.ScalarFp
end
